-- ==== Sys2Proof/Word.lean ====
section
/-! DEFINITION. The word types of the KF960: what the manual treats as bits (R3, R142). -/

namespace Sys2Proof

/-- A 32-bit register lane (R142). -/
abbrev Word := BitVec 32

/-- A scalar, a pair or an address while it is computed (R142, R72). -/
abbrev DWord := BitVec 64

/-- A byte of memory (R3). -/
abbrev Byte := BitVec 8

/-- A lane mask or predicate: bit L stands for lane L (R142, R222). -/
abbrev Mask := BitVec 32

end Sys2Proof
end

