-- ==== Sys2Proof/Config.lean ====
section
/-! DEFINITION. Free values: what the manual leaves open and no proof may lean on.
Each is a constant with no body, applied to a counter of State or to operands (log 7). -/

namespace Sys2Proof.Config

/-- The byte that the host answers to the n-th read request of host bus address `addr` (R444: host memory
is no part of the device). -/
opaque hostByte : Nat → Nat → Byte

/-- The byte that the host answers to a recipe's load of host bus address `addr` in a SEALED page: one value while the launch `lnum` that
reads it is outstanding (R24, R156, log 94). -/
opaque hostSealed : Nat → Nat → Byte

/-- The old value that the host's AtomicOp completion carries (R278, R438). -/
opaque hostAtomOld : Nat → Nat → DWord

/-- What a read of the HKC mailbox returns (R439 does not give its content). -/
opaque bar0Foreign : Nat → Nat → DWord

/-- The set of a level-two slice in which a line is kept: the manual gives level two no associativity (R240). -/
opaque l2Set : Nat → Nat

/-- A value that a register holds where the manual states none. -/
opaque freeValue : Nat → DWord

end Sys2Proof.Config
end

