-- ==== Sys2Proof/Syntax.lean ====
section
/-! DEFINITION. The whole instruction table as data: one constructor per row of spec/opcode_table.json.
A word carries the fields of its layout (R63, R69, R71, R73); a step of the device or of its host carries
what the outside supplies to it. Meaning stands in Machine alone. -/

namespace Sys2Proof

/-- A guard (R65): none, or a predicate p0 to p6, perhaps negated. -/
inductive Guard where
  | always
  | pred (n : Fin 7) (neg : Bool)
  deriving DecidableEq, Repr

/-- The register layout (R63). -/
structure RForm where
  g : Guard := .always
  d : BitVec 10 := 0
  a : BitVec 10 := 0
  b : BitVec 10 := 0
  c : BitVec 10 := 0
  u : Bool := false
  bs : Bool := false
  x : Bool := false
  mod : Byte := 0
  deriving DecidableEq, Repr

/-- The immediate layout (R69). -/
structure IForm where
  g : Guard := .always
  d : BitVec 10 := 0
  a : BitVec 10 := 0
  imm : BitVec 31 := 0
  deriving DecidableEq, Repr

/-- The memory layout (R71); its reserved bit [6] must be 0 and is not a field. -/
structure MForm where
  g : Guard := .always
  d : BitVec 10 := 0
  a : BitVec 10 := 0
  ix : BitVec 10 := 0x3FF
  ofs : BitVec 13 := 0
  x : Bool := false
  sx : Bool := false
  cp : BitVec 2 := 0
  wd : BitVec 3 := 0
  deriving DecidableEq, Repr

/-- One slot of a paired word (R73). -/
structure Slot where
  sop : BitVec 6 := 0
  g : Guard := .always
  d : Byte := 0
  b : Byte := 0
  imm5 : BitVec 5 := 0
  deriving DecidableEq, Repr

/-- The paired word (R73). -/
structure PForm where
  x : Slot
  y : Slot
  deriving DecidableEq, Repr

/-- A unit that holds atomic locations (R285): a core's L1 atomic unit or a cluster's atomic store. -/
inductive AtomUnitId where
  | l1 (core : Nat)
  | cluster (k : Nat)
  deriving DecidableEq, Repr

/-- The host AtomicOps that the port completes (R437). -/
inductive HostAtom where
  | fetchAdd | swap | cas
  deriving DecidableEq, Repr

/-- A request to the host that fails (R444): a posted write, a read (of one lane, where a load reads by lanes), or one lane of an ATOM. -/
inductive HostRequest where
  | posted
  | read (core slot op lane : Nat)
  | atomLane (core slot op lane : Nat)
  deriving DecidableEq, Repr

/-- Where an uncorrectable error is found (R416). A frame of a compressed superblock holds data of the sectors whose bits are set
in `held`: bit 4k + i is sector i of the superblock's line k (R237). -/
inductive ErrSite where
  | l2 (slice sector : Nat)
  | l2Frame (slice block held : Nat)
  | l1 (core sector : Nat)
  | icache (core : Nat)
  | ccache (core : Nat)
  | tlb (core : Nat)
  | tlb2 (cluster : Nat)
  | logEntry (core entry : Nat)
  | scratch (lnum felt word : Nat)
  | accumulator (core slot bank word : Nat)
  | atomUnit (unit : AtomUnitId) (loc : Nat)
  | vector (core slot reg lane : Nat)
  | scalar (core slot reg : Nat)
  | sluice (sector : Nat)
  | peat (cluster entry : Nat)
  | control (core : Nat)
  | controlCluster (cluster : Nat)
  | controlDevice
  | memory (sector : Nat)
  deriving DecidableEq, Repr

/-- What the HKC sets up for a control program (R19, R442): the root of the control address space, the entry and parameter addresses,
the register quota, and the bytes it writes into device memory. For a program that it loads from a file, `entry` and `addr` are the virtual
and the physical address of the page from which the file's sections lie, `table` is the level-3 table that maps them, and `bytes` what else
it writes. -/
structure CtlImage where
  addr : Nat := 0
  table : Nat := 0
  root : Nat := 0
  entry : DWord := 0
  params : DWord := 0
  regs : Nat := 8
  bytes : List (Nat × Byte) := []
  deriving DecidableEq, Repr

/-- The instruction table. -/
inductive Instr where
  /-- NOP (R116). -/
  | nop (f : RForm)
  /-- YIELD (R117). -/
  | yield (f : RForm)
  /-- EXIT (R229). -/
  | exit (f : RForm)
  /-- LAUNCH (R112). -/
  | launch (f : RForm)
  /-- GETSR (R159). -/
  | getsr (f : RForm)
  /-- SETSR (R159). -/
  | setsr (f : RForm)
  /-- TRAP (R424). -/
  | trap (f : RForm)
  /-- BRK (R424). -/
  | brk (f : RForm)
  /-- CONTO (R425). -/
  | conto (f : RForm)
  /-- CONTC (R425). -/
  | contc (f : RForm)
  /-- CONTS (R425). -/
  | conts (f : RForm)
  /-- IADD (R172). -/
  | iadd (f : RForm)
  /-- IADDI (R176). -/
  | iaddi (f : IForm)
  /-- ISUB (R172). -/
  | isub (f : RForm)
  /-- IMUL (R172). -/
  | imul (f : RForm)
  /-- IMULHI (R173). -/
  | imulhi (f : RForm)
  /-- IMAD (R172). -/
  | imad (f : RForm)
  /-- IMADW (R172). -/
  | imadw (f : RForm)
  /-- IDIV (R174). -/
  | idiv (f : RForm)
  /-- IREM (R174). -/
  | irem (f : RForm)
  /-- IMIN (R175). -/
  | imin (f : RForm)
  /-- IMAX (R175). -/
  | imax (f : RForm)
  /-- IABS (R175). -/
  | iabs (f : RForm)
  /-- INEG (R175). -/
  | ineg (f : RForm)
  /-- IADD64 (R172). -/
  | iadd64 (f : RForm)
  /-- ISUB64 (R172). -/
  | isub64 (f : RForm)
  /-- IMUL64 (R172). -/
  | imul64 (f : RForm)
  /-- AND (R177). -/
  | and (f : RForm)
  /-- OR (R177). -/
  | or (f : RForm)
  /-- XOR (R177). -/
  | xor (f : RForm)
  /-- ANDN (R177). -/
  | andn (f : RForm)
  /-- LOGI (R176). -/
  | logi (f : IForm)
  /-- SHL (R178). -/
  | shl (f : RForm)
  /-- SHR (R178). -/
  | shr (f : RForm)
  /-- SAR (R178). -/
  | sar (f : RForm)
  /-- ROTL (R178). -/
  | rotl (f : RForm)
  /-- POPC (R179). -/
  | popc (f : RForm)
  /-- CLZ (R179). -/
  | clz (f : RForm)
  /-- BREV (R179). -/
  | brev (f : RForm)
  /-- BFE (R180). -/
  | bfe (f : RForm)
  /-- BFI (R180). -/
  | bfi (f : RForm)
  /-- LEA (R182). -/
  | lea (f : RForm)
  /-- BSEL (R181). -/
  | bsel (f : RForm)
  /-- ICMP (R183). -/
  | icmp (f : RForm)
  /-- SEL (R184). -/
  | sel (f : RForm)
  /-- MOV (R160). -/
  | mov (f : RForm)
  /-- MOVI (R160). -/
  | movi (f : IForm)
  /-- MOVHI (R160). -/
  | movhi (f : IForm)
  /-- PLOP (R161). -/
  | plop (f : RForm)
  /-- PMOV (R161). -/
  | pmov (f : RForm)
  /-- LXCH (R162). -/
  | lxch (f : RForm)
  /-- PFOLD (R163). -/
  | pfold (f : RForm)
  /-- PEER (R164). -/
  | peer (f : RForm)
  /-- LGET (R165). -/
  | lget (f : RForm)
  /-- LSET (R165). -/
  | lset (f : RForm)
  /-- RTAG (R151). -/
  | rtag (f : RForm)
  /-- RUNTAG (R166). -/
  | runtag (f : RForm)
  /-- RFREE (R166). -/
  | rfree (f : RForm)
  /-- FADD (R190). -/
  | fadd (f : RForm)
  /-- FSUB (R190). -/
  | fsub (f : RForm)
  /-- FMUL (R190). -/
  | fmul (f : RForm)
  /-- FFMA (R190). -/
  | ffma (f : RForm)
  /-- FMIN (R192). -/
  | fmin (f : RForm)
  /-- FMAX (R192). -/
  | fmax (f : RForm)
  /-- FDIV (R190). -/
  | fdiv (f : RForm)
  /-- FSQRT (R190). -/
  | fsqrt (f : RForm)
  /-- FCMP (R193). -/
  | fcmp (f : RForm)
  /-- FCLASS (R194). -/
  | fclass (f : RForm)
  /-- FSCALE (R190). -/
  | fscale (f : RForm)
  /-- HFMA2 (R195). -/
  | hfma2 (f : RForm)
  /-- FRCPA (R196). -/
  | frcpa (f : RForm)
  /-- FRSQA (R196). -/
  | frsqa (f : RForm)
  /-- FEX2A (R196). -/
  | fex2a (f : RForm)
  /-- FLG2A (R196). -/
  | flg2a (f : RForm)
  /-- DADD (R190). -/
  | dadd (f : RForm)
  /-- DSUB (R190). -/
  | dsub (f : RForm)
  /-- DMUL (R190). -/
  | dmul (f : RForm)
  /-- DFMA (R190). -/
  | dfma (f : RForm)
  /-- DMIN (R192). -/
  | dmin (f : RForm)
  /-- DMAX (R192). -/
  | dmax (f : RForm)
  /-- DDIV (R190). -/
  | ddiv (f : RForm)
  /-- DSQRT (R190). -/
  | dsqrt (f : RForm)
  /-- DCMP (R193). -/
  | dcmp (f : RForm)
  /-- DCLASS (R194). -/
  | dclass (f : RForm)
  /-- DSCALE (R190). -/
  | dscale (f : RForm)
  /-- FSINA (R196). -/
  | fsina (f : RForm)
  /-- FCOSA (R196). -/
  | fcosa (f : RForm)
  /-- CVT (R202). -/
  | cvt (f : RForm)
  /-- QMX (R206). -/
  | qmx (f : RForm)
  /-- DQMX (R207). -/
  | dqmx (f : RForm)
  /-- XACC (R210). -/
  | xacc (f : RForm)
  /-- XRND (R211). -/
  | xrnd (f : RForm)
  /-- XCLR (R212). -/
  | xclr (f : RForm)
  /-- LRED (R213). -/
  | lred (f : RForm)
  /-- BRA (R218). -/
  | bra (f : IForm)
  /-- BRX (R218). -/
  | brx (f : IForm)
  /-- CALL (R219). -/
  | call (f : IForm)
  /-- CALLX (R220). -/
  | callx (f : RForm)
  /-- RET (R221). -/
  | ret (f : RForm)
  /-- RJSET (R223). -/
  | rjset (f : RForm)
  /-- RJOIN (R224). -/
  | rjoin (f : RForm)
  /-- RJDROP (R225). -/
  | rjdrop (f : RForm)
  /-- LD (R265). -/
  | ld (f : MForm)
  /-- ST (R265). -/
  | st (f : MForm)
  /-- LDS (R265). -/
  | lds (f : MForm)
  /-- STS (R265). -/
  | sts (f : MForm)
  /-- LDC (R269). -/
  | ldc (f : MForm)
  /-- PREF (R270). -/
  | pref (f : MForm)
  /-- ACQ (R273). -/
  | acq (f : RForm)
  /-- REL (R273). -/
  | rel (f : RForm)
  /-- ACQR (R274). -/
  | acqr (f : RForm)
  /-- FENCE (R275). -/
  | fence (f : RForm)
  /-- FENCEO (R256). -/
  | fenceo (f : RForm)
  /-- FULL (R275). -/
  | full (f : RForm)
  /-- FLUSHH (R275). -/
  | flushh (f : RForm)
  /-- HBIND (R277). -/
  | hbind (f : RForm)
  /-- HPRIO (R277). -/
  | hprio (f : RForm)
  /-- HDROP (R277). -/
  | hdrop (f : RForm)
  /-- ATOM (R282). -/
  | atom (f : RForm)
  /-- RED (R282). -/
  | red (f : RForm)
  /-- WAITA (R290). -/
  | waita (f : RForm)
  /-- PUTS (R292). -/
  | puts (f : RForm)
  /-- BARV (R302). -/
  | barv (f : RForm)
  /-- BARW (R304). -/
  | barw (f : RForm)
  /-- BARS (R302). -/
  | bars (f : RForm)
  /-- BART (R303). -/
  | bart (f : RForm)
  /-- BARQ (R305). -/
  | barq (f : RForm)
  /-- SYNCB (R308). -/
  | syncb (f : RForm)
  /-- ABALLOC (R312). -/
  | aballoc (f : RForm)
  /-- ABFREE (R314). -/
  | abfree (f : RForm)
  /-- ABFREE_ALL (R314). -/
  | abfreeAll (f : RForm)
  /-- ALD (R315). -/
  | ald (f : RForm)
  /-- ALD_SP (R316). -/
  | aldSp (f : RForm)
  /-- AST (R315). -/
  | ast (f : RForm)
  /-- AST_SP (R316). -/
  | astSp (f : RForm)
  /-- AZERO (R316). -/
  | azero (f : RForm)
  /-- AZERO_ALL (R316). -/
  | azeroAll (f : RForm)
  /-- MXI (R318). -/
  | mxi (f : RForm)
  /-- MXQ (R332). -/
  | mxq (f : RForm)
  /-- CPY (R337). -/
  | cpy (f : RForm)
  /-- CPY2D (R337). -/
  | cpy2d (f : RForm)
  /-- GATH (R337). -/
  | gath (f : RForm)
  /-- SCAT (R337). -/
  | scat (f : RForm)
  /-- SIGI (R345). -/
  | sigi (f : RForm)
  /-- SIGA (R345). -/
  | siga (f : RForm)
  /-- SIGQ (R346). -/
  | sigq (f : RForm)
  /-- SIGF (R345). -/
  | sigf (f : RForm)
  /-- MLOOK (R358). -/
  | mlook (f : RForm)
  /-- MFILL (R359). -/
  | mfill (f : RForm)
  /-- MINV_KEY (R361). -/
  | minvKey (f : RForm)
  /-- MINV_REGION (R361). -/
  | minvRegion (f : RForm)
  /-- MINV_CTX (R361). -/
  | minvCtx (f : RForm)
  /-- TXSIG (R369). -/
  | txsig (f : RForm)
  /-- DRAW (R375). -/
  | draw (f : RForm)
  /-- VOUT (R382). -/
  | vout (f : RForm)
  /-- IPA (R394). -/
  | ipa (f : RForm)
  /-- TEX (R396). -/
  | tex (f : RForm)
  /-- TLD (R396). -/
  | tld (f : RForm)
  /-- FOUT (R392). -/
  | fout (f : RForm)
  /-- MLRES (R400). -/
  | mlres (f : RForm)
  /-- MLRES_LAYER (R400). -/
  | mlresLayer (f : RForm)
  /-- MLCLR (R400). -/
  | mlclr (f : RForm)
  /-- MLRD (R400). -/
  | mlrd (f : RForm)
  /-- PAIRED_WORD (R74). -/
  | pairedWord (f : PForm)
  /-- LAUNCH_ENQUEUE (R112). -/
  | launchEnqueue (core slot : Nat)
  /-- ACTIVE_POSITION_FILL (R121). -/
  | activePositionFill (core quarter : Nat)
  /-- DEPENDENCE_RESOLVED (R121). -/
  | dependenceResolved (core slot : Nat)
  /-- LAUNCH_RETIREMENT (R114). -/
  | launchRetirement (lnum : Nat)
  /-- LOAD_RETURN (R403). -/
  | loadReturn (core slot op : Nat)
  /-- FAULT_RECORD_WRITE (R414). -/
  | faultRecordWrite (cluster : Nat)
  /-- PAGE_WALK (R411). -/
  | pageWalk (core : Nat) (space : Nat) (va : DWord)
  /-- LOG_FULL_RELEASE (R257). -/
  | logFullRelease (core slot : Nat)
  /-- LOG_PINNED_RELIEF (R257). -/
  | logPinnedRelief (core : Nat)
  /-- PROMOTION_REQUEST (R247). -/
  | promotionRequest (core slot target : Nat)
  /-- PUBLICATION_GRANT (R245). -/
  | publicationGrant (core : Nat)
  /-- EARLY_PUBLICATION (R253). -/
  | earlyPublication (core entry : Nat)
  /-- FULLING (R253). -/
  | fulling (core : Nat)
  /-- ENTRY_APPLY (R254). -/
  | entryApply (core entry : Nat)
  /-- ACQUIRE_WAIT_END (R249). -/
  | acquireWaitEnd (core slot : Nat)
  /-- L1_EVICTION (R238). -/
  | l1Eviction (core sector : Nat)
  /-- L1_PARTITION_CHANGE (R17). -/
  | l1PartitionChange (core : Nat)
  /-- L2_EVICTION (R240). -/
  | l2Eviction (slice line : Nat)
  /-- SUPERBLOCK_COMPRESSION (R237). -/
  | superblockCompression (slice block frames : Nat)
  /-- ATOMIC_AT_HOME (R282). -/
  | atomicAtHome (core slot op : Nat)
  /-- ATOMIC_UNIT_WRITEBACK (R285). -/
  | atomicUnitWriteback (unit : AtomUnitId) (space : Nat)
  /-- ATOM_RETURN (R282). -/
  | atomReturn (core slot op : Nat)
  /-- WAIT_MONITOR_NOTICE (R291). -/
  | waitMonitorNotice (cluster entry : Nat)
  /-- WAITA_TIMED_RECHECK (R291). -/
  | waitaTimedRecheck (core slot : Nat)
  /-- PUTS_PAYLOAD_READ (R293). -/
  | putsPayloadRead (core slot op : Nat)
  /-- PUTS_LANDING (R294). -/
  | putsLanding (bar off : Nat) (payload : List Byte) (flag : DWord)
  /-- RED_ARRIVAL (R306). -/
  | redArrival (core slot op : Nat)
  /-- ABALLOC_GRANT (R312). -/
  | aballocGrant (core : Nat)
  /-- MATRIX_PASS (R328). -/
  | matrixPass (core : Nat) (badCol : Option Nat)
  /-- TFU_FETCH (R325). -/
  | tfuFetch (core : Nat)
  /-- MXI_COMPLETION (R322). -/
  | mxiCompletion (core : Nat)
  /-- COPY_COMPLETION (R339). -/
  | copyCompletion (core : Nat)
  /-- PEAT_PARTITION_CHANGE (R352). -/
  | peatPartitionChange (cluster : Nat)
  /-- BATT_SAVE (R130). -/
  | battSave (core slot : Nat)
  /-- PREEMPT_COMPLETE (R128). -/
  | preemptComplete (ctx : Nat)
  /-- DRAW_START (R381). -/
  | drawStart (lnum : Nat)
  /-- VERTEX_CACHE_VALIDATE (R381). -/
  | vertexCacheValidate (lnum : Nat)
  /-- TRIANGLE_BIN (R385). -/
  | triangleBin (lnum : Nat)
  /-- TILE_RENDER (R387). -/
  | tileRender (lnum tile : Nat)
  /-- FRAGMENT_COMMIT (R391). -/
  | fragmentCommit (lnum : Nat)
  /-- PASS_RETIREMENT (R377). -/
  | passRetirement (lnum : Nat)
  /-- SETROOT (R442). -/
  | setroot (tgt : Nat)
  /-- TLBINV (R413). -/
  | tlbinv (tgt : Nat)
  /-- SETSAVE (R442). -/
  | setsave (tgt : Nat)
  /-- PREEMPT (R128). -/
  | preempt (tgt : Nat)
  /-- RESTORE (R140). -/
  | restore (tgt : Nat)
  /-- KILL (R442). -/
  | kill (tgt : Nat)
  /-- PEATSIZE (R352). -/
  | peatsize (tgt : Nat)
  /-- RETIRE (R330). -/
  | retire (tgt : Nat)
  /-- ENGSTAT (R442). -/
  | engstat (tgt : Nat)
  /-- CTLLOAD (R442). -/
  | ctlload (image : CtlImage)
  /-- TRAP_RELEASE (R410). -/
  | trapRelease (window slot : Nat)
  /-- RESUME_AT_WORD (R410). -/
  | resumeAtWord (window slot : Nat)
  /-- RESUME_PAST_WORD (R410). -/
  | resumePastWord (window slot : Nat)
  /-- TRAP_KILL (R410). -/
  | trapKill (window : Nat)
  /-- TWNEW_CLEAR (R408). -/
  | twnewClear (window : Nat) (bits : DWord)
  /-- FAULT_RETRY (R415). -/
  | faultRetry (cluster slot : Nat)
  /-- FAULT_TO_TRAP (R415). -/
  | faultToTrap (cluster slot : Nat)
  /-- FBNEW_CLEAR (R415). -/
  | fbnewClear (cluster : Nat) (bits : DWord)
  /-- STEPMAX_WRITE (R436). -/
  | stepmaxWrite (cluster value : Nat)
  /-- REGISTER_WRITE (R6). -/
  | registerWrite (off size : Nat) (value : DWord)
  /-- BAR2_HOST_READ (R438). -/
  | bar2HostRead (off len : Nat)
  /-- BAR2_HOST_WRITE (R252). -/
  | bar2HostWrite (off : Nat) (bytes : List Byte) (ep : Bool)
  /-- BAR4_HOST_READ (R438). -/
  | bar4HostRead (off len : Nat)
  /-- BAR4_HOST_WRITE (R438). -/
  | bar4HostWrite (off : Nat) (bytes : List Byte) (ep : Bool)
  /-- HOST_ATOMICOP (R438). -/
  | hostAtomicop (bar off : Nat) (op : HostAtom) (wide : Bool) (value compare : DWord)
  /-- HOST_REQUEST_ERROR (R444). -/
  | hostRequestError (req : HostRequest)
  /-- VBLANK_LATCH (R446). -/
  | vblankLatch (head : Nat)
  /-- DISPLAY_HOTPLUG (R446). -/
  | displayHotplug (head vec linkRate : Nat)
  /-- GOVERNOR_PERIOD (R430). -/
  | governorPeriod (cluster used slackUp : Nat)
  /-- STEP_TAKES_EFFECT (R427). -/
  | stepTakesEffect (cluster : Nat)
  /-- DROOP_ONSET (R428). -/
  | droopOnset (cluster : Nat)
  /-- DROOP_RECOVERY (R428). -/
  | droopRecovery (cluster : Nat)
  /-- CURRENT_LIMIT (R432). -/
  | currentLimit (cluster : Nat)
  /-- TEMPERATURE_BAND_CHANGE (R431). -/
  | temperatureBandChange (cluster temp : Nat)
  /-- RAIL_TRIM (R433). -/
  | railTrim (slacks : List Nat)
  /-- LOAD_WINDOW (R434). -/
  | loadWindow (cluster real : Nat)
  /-- UNCORRECTABLE_ERROR (R416). -/
  | uncorrectableError (site : ErrSite)
  /-- BRING_UP (R448). -/
  | bringUp (imageOk : Bool) (failed : Word) (image : CtlImage)
  /-- MINV_STORE_APPLY (R361). -/
  | minvStoreApply (cluster : Nat)
  /-- SCANOUT_FRAME_START (R446). -/
  | scanoutFrameStart (head : Nat)
  /-- DISPATCH_CYCLE (R118). -/
  | dispatchCycle
  /-- TRAP_RECORD_WRITE (R409). -/
  | trapRecordWrite
  /-- UNKNOWN_OP (R441). -/
  | unknownOp
  /-- COMMAND_COMPLETE (R441). -/
  | commandComplete
  /-- LOST_CLEAR (R441). -/
  | lostClear
  /-- WDKICK (R435). -/
  | wdkick
  /-- BAR0_BAD_ACCESS (R438). -/
  | bar0BadAccess
  /-- FABRIC_STEP_EVAL (R12). -/
  | fabricStepEval
  /-- THERMAL_TRIP (R431). -/
  | thermalTrip
  /-- WATCHDOG_LAPSE (R435). -/
  | watchdogLapse
  /-- CORRECTABLE_ERROR (R416). -/
  | correctableError
  /-- WARM_RESET (R447). -/
  | warmReset
  /-- COLD_RESET (R447). -/
  | coldReset
  /-- SMBUS_PARTNO (R450). -/
  | smbusPartno
  /-- SMBUS_TEMPERATURE (R450). -/
  | smbusTemperature
  /-- SMBUS_BOARD_POWER (R450). -/
  | smbusBoardPower
  /-- SMBUS_STAT (R450). -/
  | smbusStat
  /-- SMBUS_UNKNOWN_COMMAND (R450). -/
  | smbusUnknownCommand
  /-- HKC_FIRMWARE_UPDATE (R435). -/
  | hkcFirmwareUpdate
  deriving DecidableEq, Repr

end Sys2Proof
end

