-- ==== Sys2Proof/Machine/Bits.lean ====
section
/-! DEFINITION. Bit fields, sign extension, byte order and small list helpers used by the whole machine (R3, R4, R168). -/

namespace Sys2Proof.Machine

/-- Field [hi:lo] of x as a number, R3. -/
def fld {n : Nat} (x : BitVec n) (hi lo : Nat) : Nat := x.toNat / 2 ^ lo % 2 ^ (hi + 1 - lo)

/-- Bit n of x, R3. -/
def bit1 {n : Nat} (x : BitVec n) (k : Nat) : Bool := x.getLsbD k

/-- Val(sgn, n, x) of R168. -/
def valOf (sgn : Bool) (n x : Nat) : Int :=
  if sgn ∧ 2 ^ (n - 1) ≤ x then (x : Int) - 2 ^ n else x

/-- The value of an n-bit field read as two's complement. -/
def sval (n : Nat) (x : Nat) : Int := valOf true n x

/-- y mod 2^n as a number. -/
def modPow (y : Int) (n : Nat) : Nat := (y % (2 ^ n : Nat)).toNat

/-- The n little-endian bytes of a number, R3. -/
def bytesOf : Nat → Nat → List Byte
  | 0, _ => []
  | n + 1, x => BitVec.ofNat 8 x :: bytesOf n (x / 256)

/-- The number that little-endian bytes hold, R3. -/
def numOf : List Byte → Nat
  | [] => 0
  | b :: bs => b.toNat + 256 * numOf bs

/-- The lanes 0 to 31. -/
def laneIds : List Nat := List.range 32

/-- Lane L's bit of a mask. -/
def inMask (m : Mask) (l : Nat) : Bool := m.getLsbD l

/-- The mask of the lanes for which p holds. -/
def maskOf (p : Nat → Bool) : Mask :=
  BitVec.ofNat 32 (laneIds.foldl (fun acc l => if p l then acc + 2 ^ l else acc) 0)

/-- The lanes of a mask, ascending. -/
def lanesOf (m : Mask) : List Nat := laneIds.filter (inMask m)

/-- The lowest lane of a mask. -/
def lowLane (m : Mask) : Option Nat := laneIds.find? (inMask m)

/-- A mask of one lane. -/
def lane1 (l : Nat) : Mask := BitVec.ofNat 32 (2 ^ l)

/-- The number of lanes of a mask. -/
def popMask (m : Mask) : Nat := (lanesOf m).length

/-- Replace entry i of a list. -/
def setAt {α : Type} (l : List α) (i : Nat) (x : α) : List α := l.set i x

/-- Apply f to entry i of a list. -/
def modAt {α : Type} : List α → Nat → (α → α) → List α
  | [], _, _ => []
  | x :: xs, 0, f => f x :: xs
  | x :: xs, n + 1, f => x :: modAt xs n f

/-- Apply f to the entries that satisfy p. -/
def mapIf {α : Type} (p : α → Bool) (f : α → α) (l : List α) : List α :=
  l.map fun x => if p x then f x else x

/-- Floor(log2 x) for x ≥ 1. -/
def log2 (x : Nat) : Nat := Nat.log2 x

/-- Ceiling(a / b). -/
def ceilDiv (a b : Nat) : Nat := (a + b - 1) / b

/-- Round a up to a multiple of b. -/
def roundUp (a b : Nat) : Nat := ceilDiv a b * b

/-- The first index at which p holds. -/
def findIdx {α : Type} (p : α → Bool) : List α → Nat → Option Nat
  | [], _ => none
  | x :: xs, n => if p x then some n else findIdx p xs (n + 1)

/-- Split a list into runs of k entries, at most `fuel` runs. -/
def chunksOf {α : Type} (k : Nat) : Nat → List α → List (List α)
  | 0, _ => []
  | _, [] => []
  | fuel + 1, l => l.take k :: chunksOf k fuel (l.drop k)

/-- The little-endian 32-bit words of a byte list, the last zero-padded (R366). -/
def words32 (bs : List Byte) : List Word :=
  (chunksOf 4 bs.length bs).map fun c => BitVec.ofNat 32 (numOf c)

end Sys2Proof.Machine
end

