-- ==== Sys2Proof/Machine/Legal.lean ====
section
/-! DEFINITION. The legality of an encoding: every check of R80 and of the tables it gathers
(R63 to R78, R158, R170, R188, R193, R201, R205, R208, R213, R216, R264, R271, R279, R290, R292, R300,
R311, R318, R334, R335, R344, R357, R369, R373, R424). A word that fails one traps UNDEF at decode (R79). -/

namespace Sys2Proof

/-- MOD as a number. -/
def RForm.m (f : RForm) : Nat := f.mod.toNat

/-- MOD field [hi:lo]. -/
def RForm.mf (f : RForm) (hi lo : Nat) : Nat := Machine.fld f.mod hi lo

/-- MOD bit. -/
def RForm.mb (f : RForm) (k : Nat) : Bool := f.mod.getLsbD k

end Sys2Proof

namespace Sys2Proof.Machine

/-- Operand kinds of a register field (R64, R373). -/
inductive FieldKind where
  | unused | vec | pair | quad | four | three | two | scalar | pred | predDst | rejoin | raw
  deriving DecidableEq, Repr

/-- The constraint of R64 on a field value. -/
def kindOk (k : FieldKind) (v : BitVec 10) : Bool :=
  match k with
  | .unused => v == 0
  | .vec => true
  | .pair => v.toNat % 2 == 0
  | .quad => v.toNat % 4 == 0
  | .four => v.toNat ≤ 1020
  | .three => v.toNat ≤ 1021
  | .two => v.toNat ≤ 1022
  | .scalar => v.toNat < 64
  | .pred => v.toNat < 8
  | .predDst => v.toNat < 7
  | .rejoin => v.toNat < 8
  | .raw => true

/-- Under U every vector register field names a scalar (R66). -/
def underU (u : Bool) (k : FieldKind) : FieldKind :=
  match u, k with
  | true, .vec => .scalar
  | true, .pair => .scalar
  | _, k => k

/-- Is the field a register that B may replace by a scalar (R66)? -/
def isVecKind : FieldKind → Bool
  | .vec => true
  | .pair => true
  | _ => false

/-- The kinds of the four fields. -/
structure Kinds where
  d : FieldKind := .unused
  a : FieldKind := .unused
  b : FieldKind := .unused
  c : FieldKind := .unused

/-- Field and generic-bit checks of a register-layout word (R63 to R66). -/
def regOk (f : RForm) (k : Kinds) (uOk bsOk : Bool) (xOk : Bool := true) : Bool :=
  (uOk || !f.u) && (!f.bs || (bsOk && isVecKind k.b && !f.u)) && (xOk || !f.x) &&
  kindOk (underU f.u k.d) f.d && kindOk (underU f.u k.a) f.a &&
  kindOk (if f.bs then .scalar else underU f.u k.b) f.b && kindOk (underU f.u k.c) f.c

/-- No MOD bit outside `mask` is set. -/
def modIn (f : RForm) (mask : Byte) : Bool := f.mod &&& ~~~mask == 0

/-- What an instruction does with SGN (R170). -/
inductive SgnRule where
  | any | zero | one
  deriving DecidableEq, Repr

/-- MOD of the integer class (R67, R170). -/
def intMod (f : RForm) (sgn : SgnRule) (sat : Bool) (opx : Byte) : Bool :=
  modIn f (0x80 ||| (if sat then 0x40 else 0) ||| opx) &&
  (match sgn with | .any => true | .zero => !f.mb 7 | .one => f.mb 7)

/-- The n-width kind of an integer instruction with a W bit (R167). -/
def wKind (w : Bool) : FieldKind := if w then .pair else .vec

/-- A rounding code that R68 assigns. -/
def rndOk (r : Nat) : Bool := r != 5 && r != 6

/-- MOD of the floating class (R68): may it round, and which modifier bits may be set. -/
def fpMod (f : RForm) (rounds : Bool) (mods : Byte) : Bool :=
  (if rounds then rndOk (f.mf 7 5) else f.mf 7 5 == 0) && modIn f (0xE0 ||| mods)

/-- CVT type codes (R201): width of the type, or none when undefined. -/
def cvtWidth (code : Nat) : Option Nat :=
  if code = 0 then some 64 else if code = 1 then some 32 else if code = 2 ∨ code = 3 then some 16
  else if code = 4 then some 8
  else if 0x21 ≤ code ∧ code ≤ 0x3F ∧ code % 8 ≠ 0 then some 8
  else if code = 0x40 ∨ code = 0x44 then some 8 else if code = 0x41 ∨ code = 0x45 then some 16
  else if code = 0x42 ∨ code = 0x46 then some 32 else if code = 0x43 ∨ code = 0x47 then some 64
  else none

/-- A part index within the type's range (R201). -/
def partOk (w p : Nat) : Bool := (p + 1) * w ≤ 32 || p == 0

/-- R201. -/
def cvtOk (f : RForm) : Bool :=
  match cvtWidth (fld f.b 6 0), cvtWidth (fld f.c 6 0) with
  | some ws, some wd =>
    regOk f ⟨wKind (wd == 64), wKind (ws == 64), .raw, .raw⟩ false false &&
    fld f.b 9 7 == 0 && fld f.c 9 7 == 0 && rndOk (f.mf 7 5) && partOk ws (f.mf 3 2) && partOk wd (f.mf 1 0)
  | _, _ => false

/-- An accumulator reference (R208): o in range, for ALL or per lane. -/
def accRefOk (f : RForm) : Bool :=
  let o := fld f.b 5 0
  if f.mb 1 then o < 56 else o ≤ 24

/-- Lane-selecting fields of LGET, LSET and LXCH (R158): IMMF, k, and B. -/
def laneSelOk (f : RForm) : Bool := if f.mb 5 then f.b == 0 else f.mf 4 0 == 0

/-- A barrier reference (R279), `need` when one must be named (R300). -/
def barRefOk (v : BitVec 10) (need : Bool) : Bool :=
  if v.getLsbD 9 then fld v 8 6 == 0 && fld v 5 4 != 3 else !need && v == 0

/-- The RUNTAG and RFREE range (R158). -/
def rangeOk (f : RForm) : Bool :=
  regOk f { d := .vec } false false && f.mf 7 6 == 0 && f.d.toNat + f.mf 5 0 ≤ 1023

/-- ATOM and RED (R279, R280). -/
def atomicOk (f : RForm) (red : Bool) : Bool :=
  let w := f.mb 0
  let op := f.mf 7 4
  let scope := fld f.c 2 0
  let ord := fld f.c 4 3
  regOk f ⟨if red then .raw else wKind w, if scope == 0 then .vec else .pair, wKind w, .raw⟩ false false &&
  fld f.c 9 5 == 0 && scope ≤ 4 && f.mf 3 1 == 0 &&
  (if red then barRefOk f.d false && ord != 1 && ord != 3 && (op ≤ 7 || op == 0xA || (op == 0xB && scope != 4))
   else op ≤ 0xA)

/-- Which transforms each copy instruction accepts (R335): the kind is 0 CPY, 1 CPY2D, 2 GATH and SCAT. -/
def xfOk (kind xf : Nat) : Bool :=
  match kind with
  | 0 => xf ≤ 7 || xf == 9 || xf == 10 || xf == 11
  | 1 => xf ≤ 3 || xf == 6 || xf == 7 || xf == 8 || xf == 10 || xf == 11
  | _ => xf ≤ 3 || xf == 6 || xf == 7

/-- The copy instructions (R334, R335). -/
def copyOk (f : RForm) (kind : Nat) : Bool :=
  let xf := f.mf 4 0
  let last := if kind == 1 then 4 else 3
  regOk f ⟨.scalar, .scalar, if kind == 2 then .vec else .unused, .raw⟩ false false &&
  barRefOk f.c false && !f.mb 7 && f.a.toNat + last ≤ 63 && xfOk kind xf &&
  !((xf == 10 || xf == 11) && f.mb 6)

/-- Payload limits of MLOOK and MFILL (R357): LEN, the payload range, and what it may not overlap. -/
def memoOk (f : RForm) (payload : Nat) : Bool :=
  let len := f.mf 5 0 + 1
  let q := f.a.toNat
  let cw := f.c.toNat
  len ≤ (if f.mb 6 then 14 else 56) && !f.mb 7 && payload + len ≤ 1024 &&
  (payload + len ≤ q || q + 4 ≤ payload) && (cw < payload || payload + len ≤ cw)

/-- A count word outside the quad (R344). -/
def countOutside (q cw : BitVec 10) : Bool := cw.toNat < q.toNat || q.toNat + 4 ≤ cw.toNat

/-- Compact register fields (R69): a scalar code. -/
def isSc (v : BitVec 10) : Bool := 0x3C0 ≤ v.toNat

/-- A compact pair: a scalar, or an even vector register (R71). -/
def compactPair (v : BitVec 10) : Bool := isSc v || v.toNat % 2 == 0

/-- IADDI, LOGI, MOVHI: a scalar destination takes scalar sources (R69). -/
def immOk (f : IForm) : Bool := !isSc f.d || isSc f.a

/-- An index that is a scalar or none (R72). -/
def scalarIndex (v : BitVec 10) : Bool := isSc v

/-- Checks of the memory layout (R71, R72, R80, R264).
`glob`: LD, ST, PREF; `load`: LD, LDS, LDC. -/
def memOk (f : MForm) (glob load : Bool) : Bool :=
  f.wd.toNat ≤ 4 && f.cp != 3 &&
  (!f.sx || (load && f.wd.toNat ≤ 1)) &&
  (f.wd != 3 || compactPair f.d) &&
  (f.wd != 4 || (!isSc f.d && f.d.toNat % 4 == 0 && f.d.toNat ≤ 956)) &&
  (!glob || compactPair f.a) &&
  (!(load && isSc f.d) || (isSc f.a && scalarIndex f.ix))

/-- The registers of a slot, as bank occupancies (R75). -/
def slotBanks (s : Slot) : List Nat :=
  let op := s.sop.toNat
  let dbl := op == 0x15 || op == 0x16
  let usesD := op != 0
  let usesB := op != 0 && !(0x0A ≤ op && op ≤ 0x0D) && op != 0x0F
  let regs (n : Nat) : List Nat := if dbl then [n, n + 1] else [n]
  let rd := if usesD then regs s.d.toNat else []
  let rb := if usesB && s.b != s.d then regs s.b.toNat else []
  (rd ++ rb).map (· % 8)

/-- The checks of one slot (R73, R75, R76, R80). -/
def slotOk (s : Slot) : Bool :=
  let op := s.sop.toNat
  let k := s.imm5.toNat
  if op == 0 then s.g == .pred 0 false && s.d == 0 && s.b == 0 && k == 0
  else if op ≤ 0x09 || op == 0x0E then k == 0
  else if op ≤ 0x0D then s.b == 0
  else if op == 0x0F then s.b == 0
  else if op ≤ 0x12 then k % 4 == 0 && rndOk (k / 4)
  else if op ≤ 0x14 then k == 0
  else if op ≤ 0x16 then k % 4 == 0 && rndOk (k / 4) && s.d.toNat % 2 == 0 && s.b.toNat % 2 == 0
  else if op ≤ 0x1A then k == 0
  else false

/-- The paired word: each slot, and the pairing rule over banks (R75). -/
def pairOk (f : PForm) : Bool :=
  slotOk f.x && slotOk f.y && (slotBanks f.x ++ slotBanks f.y).Nodup

/-- Integer instructions with a W bit in OPX[0]: A, B and D of width n (R170). -/
def intW (f : RForm) (b : Bool) (sgn : SgnRule) (sat : Bool) : Bool :=
  let n := wKind (f.mb 0)
  regOk f ⟨n, n, if b then n else .unused, .unused⟩ true b && intMod f sgn sat 0x01

/-- Shifts (R170): the count in B, or in field B under IMMF. -/
def shiftOk (f : RForm) : Bool :=
  let w := f.mb 0
  let n := wKind w
  intMod f .zero false 0x03 &&
  (if f.mb 1 then
     regOk f ⟨n, n, .raw, .unused⟩ true false && fld f.b 9 6 == 0 && (w || f.b.toNat < 32)
   else regOk f ⟨n, n, .vec, .unused⟩ true true)

/-- Every check of R80 on a decoded instruction. The steps of the device are not words: nothing to check. -/
def legal : Instr → Bool
  | .nop f | .yield f => regOk f {} false false (xOk := true) && f.mod == 0
  | .exit f => regOk f {} false false (xOk := false) && f.mod == 0
  | .launch f => regOk f { d := .scalar, a := .scalar } false false && f.mod == 0
  | .getsr f =>
    regOk f { d := if f.mb 7 then .vec else .scalar } false false && f.mf 6 5 == 0 && f.mf 4 0 ≤ 23 &&
    (f.mb 7 || f.mf 4 0 != 0)
  | .setsr f => regOk f { a := .scalar } false false && (f.m == 16 || f.m == 17 || f.m == 18)
  | .trap f => regOk f {} false false (xOk := false)
  | .brk f | .contc f => regOk f {} false false (xOk := false) && f.mod == 0
  | .conto f => regOk f { a := .scalar } false false (xOk := false) && f.mod == 0
  | .conts f => regOk f { d := .scalar } false false (xOk := false) && modIn f 0x01
  | .iadd f | .isub f | .imul f => regOk f ⟨.vec, .vec, .vec, .unused⟩ true true && intMod f .any true 0
  | .iaddi f | .logi f => immOk f
  | .imulhi f | .irem f | .imin f | .imax f => intW f true .any false
  | .imad f => regOk f ⟨.vec, .vec, .vec, .vec⟩ true true && intMod f .any true 0
  | .imadw f => regOk f ⟨.pair, .vec, .vec, .pair⟩ true true && intMod f .any true 0
  | .idiv f => intW f true .any true
  | .iabs f | .ineg f => intW f false .one true
  | .iadd64 f | .isub64 f | .imul64 f => regOk f ⟨.pair, .pair, .pair, .unused⟩ true true && intMod f .any true 0
  | .and f | .or f | .xor f | .andn f => intW f true .zero false
  | .shl f | .shr f | .sar f | .rotl f => shiftOk f
  | .popc f | .clz f => regOk f { d := .vec, a := wKind (f.mb 0) } true false && intMod f .zero false 0x01
  | .brev f => intW f false .zero false
  | .bfe f => let n := wKind (f.mb 0); regOk f ⟨n, n, .vec, .unused⟩ true true && intMod f .any false 0x01
  | .bfi f => let n := wKind (f.mb 0); regOk f ⟨n, n, .vec, n⟩ true true && intMod f .zero false 0x01
  | .lea f => let n := wKind (f.mb 0); regOk f ⟨n, .vec, n, .unused⟩ true true && intMod f .any false 0x0F
  | .bsel f => regOk f ⟨.vec, .vec, .vec, .vec⟩ true true && intMod f .zero false 0
  | .icmp f =>
    let n := wKind (f.mb 0)
    regOk f ⟨.predDst, n, n, .unused⟩ true true && intMod f .any false 0x0F && f.mf 3 1 ≤ 5
  | .sel f => let n := wKind (f.mb 0); regOk f ⟨n, n, n, .pred⟩ true true && intMod f .zero false 0x01
  | .mov f => let n := wKind (f.mb 0); regOk f ⟨n, .unused, n, .unused⟩ true true && modIn f 0x01
  | .movi f => f.a == 0
  | .movhi f => immOk f && fld f.imm 28 16 == 0 && (isSc f.d || fld f.imm 30 29 ≤ 1)
  | .plop f => regOk f ⟨.predDst, .pred, .pred, .unused⟩ false false && modIn f 0x0F
  | .pmov f =>
    modIn f 0x03 &&
    (match f.mf 1 0 with
     | 0 => regOk f { d := .scalar, a := .pred } false false
     | 1 => regOk f { d := .predDst, a := .scalar } false false
     | 2 => regOk f { d := .vec, a := .pred } false false
     | _ => regOk f { d := .predDst, a := .vec } false false)
  | .lxch f =>
    let immf := f.mb 5
    regOk f ⟨.vec, .vec, if immf then .unused else .vec, .raw⟩ false false && laneSelOk f &&
    fld f.c 9 3 == 0 && fld f.c 2 0 ≤ 5 &&
    (f.mf 7 6 != 3 || (!immf && f.b == 0 && f.mf 4 0 == 0))
  | .pfold f =>
    modIn f 0x07 && f.mf 2 0 ≤ 5 &&
    regOk f { d := if 4 ≤ f.mf 2 0 then .scalar else .predDst, a := .pred } false false
  | .peer f => regOk f { d := .vec, a := wKind (f.mb 0) } false false && modIn f 0x07
  | .lget f =>
    regOk f ⟨.scalar, wKind (f.mb 6), if f.mb 5 then .unused else .scalar, .unused⟩ false false && laneSelOk f &&
    (!f.mb 7 || (!f.mb 5 && f.b == 0 && f.mf 4 0 == 0))
  | .lset f =>
    regOk f ⟨wKind (f.mb 6), .scalar, if f.mb 5 then .unused else .scalar, .unused⟩ false false && laneSelOk f && !f.mb 7
  | .rtag f => regOk f { d := .vec } false false && f.mf 7 6 == 0
  | .runtag f | .rfree f => rangeOk f
  | .fadd f | .fsub f | .fmul f | .fdiv f =>
    regOk f ⟨.vec, .vec, .vec, .unused⟩ false true && fpMod f true 0x16
  | .ffma f => regOk f ⟨.vec, .vec, .vec, .vec⟩ false true && fpMod f true 0x1E
  | .fmin f | .fmax f => regOk f ⟨.vec, .vec, .vec, .unused⟩ false true && fpMod f false 0x17
  | .fsqrt f => regOk f ⟨.vec, .vec, .unused, .unused⟩ false false && fpMod f true 0x14
  | .fcmp f => regOk f ⟨.predDst, .vec, .vec, .raw⟩ false true && fpMod f false 0x16 && fld f.c 9 4 == 0
  | .fclass f => regOk f ⟨.vec, .vec, .unused, .unused⟩ false false && fpMod f false 0x14
  | .fscale f => regOk f ⟨.vec, .vec, .vec, .unused⟩ false true && fpMod f true 0x14
  | .hfma2 f => regOk f ⟨.vec, .vec, .vec, .vec⟩ false true && fpMod f true 0x1F
  | .frcpa f | .frsqa f | .fex2a f | .flg2a f | .fsina f | .fcosa f =>
    regOk f ⟨.vec, .vec, .unused, .unused⟩ false false && fpMod f false 0x14
  | .dadd f | .dsub f | .dmul f | .ddiv f =>
    regOk f ⟨.pair, .pair, .pair, .unused⟩ false true && fpMod f true 0x16
  | .dfma f => regOk f ⟨.pair, .pair, .pair, .pair⟩ false true && fpMod f true 0x1E
  | .dmin f | .dmax f => regOk f ⟨.pair, .pair, .pair, .unused⟩ false true && fpMod f false 0x17
  | .dsqrt f => regOk f ⟨.pair, .pair, .unused, .unused⟩ false false && fpMod f true 0x14
  | .dcmp f => regOk f ⟨.predDst, .pair, .pair, .raw⟩ false true && fpMod f false 0x16 && fld f.c 9 4 == 0
  | .dclass f => regOk f ⟨.vec, .pair, .unused, .unused⟩ false false && fpMod f false 0x14
  | .dscale f => regOk f ⟨.pair, .pair, .vec, .unused⟩ false true && fpMod f true 0x14
  | .cvt f => cvtOk f
  | .qmx f => regOk f ⟨.vec, .vec, .unused, .scalar⟩ false false && modIn f 0x03
  | .dqmx f => regOk f ⟨.vec, .vec, .unused, .scalar⟩ false false && modIn f 0x03
  | .xacc f => regOk f ⟨.unused, wKind (f.mb 0), .raw, .unused⟩ false false && modIn f 0x03 && accRefOk f
  | .xrnd f => regOk f ⟨.pair, .unused, .raw, .unused⟩ false false && modIn f 0xE2 && rndOk (f.mf 7 5) && accRefOk f
  | .xclr f => regOk f ⟨.unused, .unused, .raw, .unused⟩ false false && modIn f 0x02 && accRefOk f
  | .lred f =>
    let n := wKind (f.mb 0)
    regOk f ⟨if f.mb 1 then .scalar else n, n, .unused, .unused⟩ false false && modIn f 0xE3 && rndOk (f.mf 7 5)
  | .bra f => f.d == 0 && f.a == 0
  | .brx f => f.d == 0
  | .call f => !isSc f.d && f.d.toNat % 2 == 0 && f.a == 0
  | .callx f => regOk f { d := .pair, a := .pair } false false (xOk := false) && f.mod == 0
  | .ret f => regOk f { a := .pair } false false (xOk := false) && f.mod == 0
  | .rjset f =>
    regOk f { d := .rejoin, a := if f.mb 0 then .scalar else .unused } false false (xOk := false) && modIn f 0x01
  | .rjoin f | .rjdrop f => regOk f { d := .rejoin } false false (xOk := false) && f.mod == 0
  | .ld f => memOk f true true
  | .st f => memOk f true false
  | .lds f => memOk f false true && f.cp == 0
  | .sts f => memOk f false false && f.cp == 0
  | .ldc f => memOk f false true && f.cp == 0
  | .pref f => memOk f true false && f.d == 0 && f.wd == 0
  | .acq f => regOk f {} false false && modIn f 0x03
  | .rel f => regOk f { d := if f.mb 2 then .scalar else .unused } false false && modIn f 0x07
  | .acqr f => regOk f { a := .scalar, b := .scalar } false false && f.mod == 0
  | .fence f | .fenceo f | .full f | .flushh f => regOk f {} false false && f.mod == 0
  | .hbind f => regOk f { a := .scalar, b := .scalar, c := .scalar } false false && modIn f 0x07
  | .hprio f => regOk f { a := .scalar } false false && modIn f 0x07
  | .hdrop f => regOk f { a := .scalar } false false && f.mod == 0
  | .atom f => atomicOk f false
  | .red f => atomicOk f true
  | .waita f =>
    regOk f ⟨.scalar, .scalar, .scalar, .unused⟩ false false && f.mf 7 6 == 0 && f.mf 5 4 != 0 && f.mf 2 0 ≤ 3
  | .puts f => regOk f ⟨.unused, .scalar, .scalar, .scalar⟩ false false
  | .barv f => regOk f { d := if f.mb 0 then .scalar else .unused, a := .raw } false false && modIn f 0x01 && barRefOk f.a true
  | .barw f => regOk f { a := .raw, b := .scalar } false false && f.mod == 0 && barRefOk f.a true
  | .bars f => regOk f { a := .raw } false false && f.mod == 0 && barRefOk f.a true
  | .bart f => regOk f { a := .raw, b := .scalar } false false && modIn f 0x01 && barRefOk f.a true
  | .barq f => regOk f { d := .scalar, a := .raw } false false && f.mod == 0 && barRefOk f.a true
  | .syncb f => regOk f { a := if f.mb 0 then .scalar else .vec } false false && modIn f 0x01
  | .aballoc f => regOk f {} false false && modIn f 0x0F
  | .abfree f => regOk f { a := .scalar } false false && f.mod == 0
  | .abfreeAll f => regOk f {} false false && f.mod == 1
  | .ald f | .ast f =>
    regOk f { d := wKind (f.mb 0), a := if f.mb 1 then .scalar else .vec } false false && modIn f 0x03
  | .aldSp f | .astSp f => regOk f { a := .scalar, b := .scalar, c := .scalar } false false && f.mod == 4
  | .azero f => regOk f { a := .scalar, c := .scalar } false false && f.mod == 0
  | .azeroAll f => regOk f {} false false && f.mod == 1
  | .mxi f => regOk f { d := .scalar, a := .vec, b := .vec } false false && f.mod == 0
  | .mxq f => regOk f { d := .scalar } false false && f.mod == 0
  | .cpy f => copyOk f 0
  | .cpy2d f => copyOk f 1
  | .gath f | .scat f => copyOk f 2
  | .sigi f => regOk f ⟨.quad, .unused, .unused, .vec⟩ false false && f.mod == 0 && countOutside f.d f.c
  | .siga f => regOk f ⟨.quad, .vec, .unused, .vec⟩ false false && modIn f 0x07 && countOutside f.d f.c
  | .sigq f => regOk f ⟨.quad, .quad, .unused, .unused⟩ false false && f.mod == 0
  | .sigf f => regOk f ⟨.quad, .unused, .unused, .vec⟩ false false && f.mod == 0 && countOutside f.d f.c
  | .mlook f => regOk f ⟨.vec, .quad, .predDst, .vec⟩ false false && memoOk f f.d.toNat
  | .mfill f => regOk f ⟨.unused, .quad, .vec, .vec⟩ false false && memoOk f f.b.toNat
  | .minvKey f => regOk f ⟨.unused, .quad, .scalar, .vec⟩ false false && f.mf 1 0 == 0
  | .minvRegion f => regOk f { b := .scalar } false false && f.mod == 1
  | .minvCtx f => regOk f {} false false && f.mod == 2
  | .txsig f => regOk f ⟨.scalar, .scalar, .unused, .raw⟩ false false && f.mod == 0 && barRefOk f.c false
  | .draw f => regOk f { d := .scalar, a := .scalar } false false && f.mod == 0
  | .vout f =>
    regOk f ⟨.unused, .vec, .unused, .raw⟩ false false && modIn f 0x1F && fld f.c 9 5 == 0 &&
    f.m + fld f.c 4 0 + 1 ≤ 32 && f.a.toNat + fld f.c 4 0 ≤ 1023
  | .ipa f => regOk f { d := .vec, a := .two } false false && f.mf 7 6 != 3 && !f.mb 5
  | .tex f => regOk f { d := .four, a := .three } false false && f.mf 7 6 != 3 && f.mf 5 4 == 0
  | .tld f => regOk f { d := .four, a := .three } false false && modIn f 0x0F
  | .fout f => regOk f { a := if f.mb 0 then .two else .four } false false && modIn f 0x01
  | .mlres f => regOk f ⟨.four, .two, .scalar, .unused⟩ false false && f.mod == 0
  | .mlresLayer f => regOk f ⟨.four, .two, .scalar, .unused⟩ false false && modIn f 0x0F && f.mb 3
  | .mlclr f => regOk f { d := .scalar, a := .scalar } false false && f.mod == 0
  | .mlrd f => regOk f ⟨.four, .two, .scalar, .unused⟩ false false && modIn f 0x07
  | .pairedWord f => pairOk f
  -- The steps of the device and of its host are no words; nothing in an encoding can be wrong.
  | .launchEnqueue _ _ | .dispatchCycle | .activePositionFill _ _ | .dependenceResolved _ _ | .launchRetirement _
  | .loadReturn _ _ _ | .trapRecordWrite | .faultRecordWrite _ | .pageWalk _ _ _ | .logFullRelease _ _
  | .logPinnedRelief _ | .promotionRequest _ _ _ | .publicationGrant _ | .earlyPublication _ _ | .fulling _
  | .entryApply _ _ | .acquireWaitEnd _ _ | .l1Eviction _ _ | .l1PartitionChange _ | .l2Eviction _ _
  | .superblockCompression _ _ _ | .atomicAtHome _ _ _ | .atomicUnitWriteback _ _ | .atomReturn _ _ _
  | .waitMonitorNotice _ _ | .waitaTimedRecheck _ _ | .putsPayloadRead _ _ _ | .putsLanding _ _ _ _
  | .redArrival _ _ _ | .aballocGrant _ | .matrixPass _ _ | .tfuFetch _ | .mxiCompletion _ | .copyCompletion _
  | .peatPartitionChange _ | .battSave _ _ | .preemptComplete _ | .drawStart _ | .vertexCacheValidate _
  | .triangleBin _ | .tileRender _ _ | .fragmentCommit _ | .passRetirement _ | .setroot _ | .tlbinv _ | .setsave _
  | .preempt _ | .restore _ | .kill _ | .peatsize _ | .retire _ | .engstat _ | .ctlload _ | .unknownOp
  | .commandComplete | .lostClear | .trapRelease _ _ | .resumeAtWord _ _ | .resumePastWord _ _ | .trapKill _
  | .twnewClear _ _ | .faultRetry _ _ | .faultToTrap _ _ | .fbnewClear _ _ | .stepmaxWrite _ _ | .wdkick
  | .registerWrite _ _ _ | .bar0BadAccess | .bar2HostRead _ _ | .bar2HostWrite _ _ _ | .bar4HostRead _ _
  | .bar4HostWrite _ _ _ | .hostAtomicop _ _ _ _ _ _ | .hostRequestError _ | .vblankLatch _ | .displayHotplug _ _ _
  | .governorPeriod _ _ _ | .stepTakesEffect _ | .fabricStepEval | .droopOnset _ | .droopRecovery _ | .currentLimit _
  | .temperatureBandChange _ _ | .thermalTrip | .railTrim _ | .loadWindow _ _ | .watchdogLapse | .uncorrectableError _
  | .correctableError | .warmReset | .coldReset | .bringUp _ _ _ | .smbusPartno | .smbusTemperature
  | .smbusBoardPower | .smbusStat | .smbusUnknownCommand | .minvStoreApply _ | .hkcFirmwareUpdate
  | .scanoutFrameStart _ => true

end Sys2Proof.Machine
end

