-- ==== Sys2Proof/WellFormed.lean ====
section
/-! DEFINITION. Well-formed instructions: those that pass every encoding check of R80. The checks themselves stand in
Machine/Legal.lean, one line per instruction. -/

namespace Sys2Proof

/-- The instruction passes the decode checks of R79 and R80. -/
def wellFormed (i : Instr) : Bool := Machine.legal i

end Sys2Proof
end

