-- ==== Sys2Proof/Decode.lean ====
section
/-! DEFINITION. Decoding a 64-bit word into an instruction, and encoding one (R60, R63, R69, R71, R73, R77, R80). -/

namespace Sys2Proof

open Machine (fld)

/-- The guard of a PG and a PN field; PG = 7 with PN = 1 is no guard (R65). -/
def guardOf (pg pn : Nat) : Option Guard :=
  if h : pg < 7 then some (.pred ⟨pg, h⟩ (pn == 1))
  else if pn == 0 then some .always else none

/-- The guard field [54:51] as a number: PG above PN. -/
def guardBits : Guard → Nat
  | .always => 14
  | .pred n neg => n.val * 2 + neg.toNat

/-- The fields of the register layout (R63), without the guard. -/
def regFields (w : BitVec 64) (g : Guard) : RForm :=
  { g := g, d := BitVec.ofNat 10 (fld w 50 41), a := BitVec.ofNat 10 (fld w 40 31),
    b := BitVec.ofNat 10 (fld w 30 21), c := BitVec.ofNat 10 (fld w 20 11),
    u := fld w 10 10 == 1, bs := fld w 9 9 == 1, x := fld w 8 8 == 1, mod := BitVec.ofNat 8 (fld w 7 0) }

/-- The fields of the immediate layout (R69). -/
def immFields (w : BitVec 64) (g : Guard) : IForm :=
  { g := g, d := BitVec.ofNat 10 (fld w 50 41), a := BitVec.ofNat 10 (fld w 40 31), imm := BitVec.ofNat 31 (fld w 30 0) }

/-- The fields of the memory layout (R71). -/
def memFields (w : BitVec 64) (g : Guard) : MForm :=
  { g := g, d := BitVec.ofNat 10 (fld w 50 41), a := BitVec.ofNat 10 (fld w 40 31),
    ix := BitVec.ofNat 10 (fld w 30 21), ofs := BitVec.ofNat 13 (fld w 20 8), x := fld w 7 7 == 1,
    sx := fld w 5 5 == 1, cp := BitVec.ofNat 2 (fld w 4 3), wd := BitVec.ofNat 3 (fld w 2 0) }

/-- One slot of a paired word, its bits counted within the slot (R73). -/
def slotFields (w : BitVec 31) : Option Slot :=
  match guardOf (fld w 24 22) (fld w 21 21) with
  | some g => some { sop := BitVec.ofNat 6 (fld w 30 25), g := g, d := BitVec.ofNat 8 (fld w 20 13),
                     b := BitVec.ofNat 8 (fld w 12 5), imm5 := BitVec.ofNat 5 (fld w 4 0) }
  | none => none

/-- The register-layout opcodes of R77; a MOD bit picks the form where one opcode has several (R314 to R316, R361, R400). -/
def regInstr (op : Nat) (f : RForm) : Option Instr :=
  match op with
  | 0x00 => some (.nop f)
  | 0x01 => some (.yield f)
  | 0x02 => some (.exit f)
  | 0x03 => some (.launch f)
  | 0x04 => some (.getsr f)
  | 0x05 => some (.setsr f)
  | 0x06 => some (.trap f)
  | 0x07 => some (.brk f)
  | 0x08 => some (.conto f)
  | 0x09 => some (.contc f)
  | 0x0A => some (.conts f)
  | 0x10 => some (.iadd f)
  | 0x12 => some (.isub f)
  | 0x13 => some (.imul f)
  | 0x14 => some (.imulhi f)
  | 0x15 => some (.imad f)
  | 0x16 => some (.imadw f)
  | 0x17 => some (.idiv f)
  | 0x18 => some (.irem f)
  | 0x19 => some (.imin f)
  | 0x1A => some (.imax f)
  | 0x1B => some (.iabs f)
  | 0x1C => some (.ineg f)
  | 0x1D => some (.iadd64 f)
  | 0x1E => some (.isub64 f)
  | 0x1F => some (.imul64 f)
  | 0x20 => some (.and f)
  | 0x21 => some (.or f)
  | 0x22 => some (.xor f)
  | 0x23 => some (.andn f)
  | 0x25 => some (.shl f)
  | 0x26 => some (.shr f)
  | 0x27 => some (.sar f)
  | 0x28 => some (.rotl f)
  | 0x29 => some (.popc f)
  | 0x2A => some (.clz f)
  | 0x2B => some (.brev f)
  | 0x2C => some (.bfe f)
  | 0x2D => some (.bfi f)
  | 0x2E => some (.lea f)
  | 0x2F => some (.bsel f)
  | 0x30 => some (.icmp f)
  | 0x31 => some (.sel f)
  | 0x32 => some (.mov f)
  | 0x35 => some (.plop f)
  | 0x36 => some (.pmov f)
  | 0x37 => some (.lxch f)
  | 0x38 => some (.pfold f)
  | 0x39 => some (.peer f)
  | 0x3A => some (.lget f)
  | 0x3B => some (.lset f)
  | 0x3C => some (.rtag f)
  | 0x3D => some (.runtag f)
  | 0x3E => some (.rfree f)
  | 0x40 => some (.fadd f)
  | 0x41 => some (.fsub f)
  | 0x42 => some (.fmul f)
  | 0x43 => some (.ffma f)
  | 0x44 => some (.fmin f)
  | 0x45 => some (.fmax f)
  | 0x46 => some (.fdiv f)
  | 0x47 => some (.fsqrt f)
  | 0x48 => some (.fcmp f)
  | 0x49 => some (.fclass f)
  | 0x4A => some (.fscale f)
  | 0x4B => some (.hfma2 f)
  | 0x4C => some (.frcpa f)
  | 0x4D => some (.frsqa f)
  | 0x4E => some (.fex2a f)
  | 0x4F => some (.flg2a f)
  | 0x50 => some (.dadd f)
  | 0x51 => some (.dsub f)
  | 0x52 => some (.dmul f)
  | 0x53 => some (.dfma f)
  | 0x54 => some (.dmin f)
  | 0x55 => some (.dmax f)
  | 0x56 => some (.ddiv f)
  | 0x57 => some (.dsqrt f)
  | 0x58 => some (.dcmp f)
  | 0x59 => some (.dclass f)
  | 0x5A => some (.dscale f)
  | 0x5B => some (.fsina f)
  | 0x5C => some (.fcosa f)
  | 0x5D => some (.cvt f)
  | 0x5E => some (.qmx f)
  | 0x5F => some (.dqmx f)
  | 0x60 => some (.xacc f)
  | 0x61 => some (.xrnd f)
  | 0x62 => some (.xclr f)
  | 0x63 => some (.lred f)
  | 0x73 => some (.callx f)
  | 0x74 => some (.ret f)
  | 0x75 => some (.rjset f)
  | 0x76 => some (.rjoin f)
  | 0x77 => some (.rjdrop f)
  | 0x86 => some (.acq f)
  | 0x87 => some (.rel f)
  | 0x88 => some (.acqr f)
  | 0x89 => some (.fence f)
  | 0x8A => some (.fenceo f)
  | 0x8B => some (.full f)
  | 0x8C => some (.flushh f)
  | 0x8D => some (.hbind f)
  | 0x8E => some (.hprio f)
  | 0x8F => some (.hdrop f)
  | 0x90 => some (.atom f)
  | 0x91 => some (.red f)
  | 0x92 => some (.waita f)
  | 0x93 => some (.puts f)
  | 0xA0 => some (.barv f)
  | 0xA1 => some (.barw f)
  | 0xA2 => some (.bars f)
  | 0xA3 => some (.bart f)
  | 0xA4 => some (.barq f)
  | 0xA5 => some (.syncb f)
  | 0xB0 => some (.aballoc f)
  | 0xB1 => if f.mb 0 then some (.abfreeAll f) else some (.abfree f)
  | 0xB2 => if f.mb 2 then some (.aldSp f) else some (.ald f)
  | 0xB3 => if f.mb 2 then some (.astSp f) else some (.ast f)
  | 0xB4 => if f.mb 0 then some (.azeroAll f) else some (.azero f)
  | 0xB5 => some (.mxi f)
  | 0xB6 => some (.mxq f)
  | 0xC0 => some (.cpy f)
  | 0xC1 => some (.cpy2d f)
  | 0xC2 => some (.gath f)
  | 0xC3 => some (.scat f)
  | 0xD0 => some (.sigi f)
  | 0xD1 => some (.siga f)
  | 0xD2 => some (.sigq f)
  | 0xD3 => some (.sigf f)
  | 0xD4 => some (.mlook f)
  | 0xD5 => some (.mfill f)
  | 0xD6 => if f.mf 1 0 == 0 then some (.minvKey f) else if f.mf 1 0 == 1 then some (.minvRegion f)
    else if f.mf 1 0 == 2 then some (.minvCtx f) else none
  | 0xD7 => some (.txsig f)
  | 0xE0 => some (.draw f)
  | 0xE1 => some (.vout f)
  | 0xE2 => some (.ipa f)
  | 0xE3 => some (.tex f)
  | 0xE4 => some (.tld f)
  | 0xE5 => some (.fout f)
  | 0xE6 => if f.mb 3 then some (.mlresLayer f) else some (.mlres f)
  | 0xE7 => some (.mlclr f)
  | 0xE8 => some (.mlrd f)
  | _ => none

/-- The immediate-layout opcodes (R69, R77). -/
def immInstr (op : Nat) (f : IForm) : Option Instr :=
  match op with
  | 0x11 => some (.iaddi f)
  | 0x24 => some (.logi f)
  | 0x33 => some (.movi f)
  | 0x34 => some (.movhi f)
  | 0x70 => some (.bra f)
  | 0x71 => some (.brx f)
  | 0x72 => some (.call f)
  | _ => none

/-- The memory-layout opcodes (R71, R77). -/
def memInstr (op : Nat) (f : MForm) : Option Instr :=
  match op with
  | 0x80 => some (.ld f)
  | 0x81 => some (.st f)
  | 0x82 => some (.lds f)
  | 0x83 => some (.sts f)
  | 0x84 => some (.ldc f)
  | 0x85 => some (.pref f)
  | _ => none

/-- The layout of a word and its opcode (R60, R63, R69, R71, R73), before the checks of R80. -/
def parse (w : BitVec 64) : Option Instr :=
  if fld w 63 63 == 1 then
    if fld w 62 62 == 1 then none else
    match slotFields (BitVec.ofNat 31 (fld w 61 31)), slotFields (BitVec.ofNat 31 (fld w 30 0)) with
    | some x, some y => some (.pairedWord ⟨x, y⟩)
    | _, _ => none
  else
    match guardOf (fld w 54 52) (fld w 51 51) with
    | none => none
    | some g =>
      let op := fld w 62 55
      match immInstr op (immFields w g) with
      | some i => some i
      | none =>
        match memInstr op (memFields w g) with
        | some i => if fld w 6 6 == 1 then none else some i
        | none => regInstr op (regFields w g)

/-- Decode a word: its layout, then every check of R80; `none` is the UNDEF of stage 2 of R79. -/
def decode (w : BitVec 64) : Option Instr :=
  match parse w with
  | some i => if wellFormed i then some i else none
  | none => none

/-- A register-layout word (R63). -/
def regWord (op : Nat) (f : RForm) : BitVec 64 :=
  BitVec.ofNat 64 (op * 2 ^ 55 + guardBits f.g * 2 ^ 51 + f.d.toNat * 2 ^ 41 + f.a.toNat * 2 ^ 31 +
    f.b.toNat * 2 ^ 21 + f.c.toNat * 2 ^ 11 + f.u.toNat * 2 ^ 10 + f.bs.toNat * 2 ^ 9 + f.x.toNat * 2 ^ 8 + f.mod.toNat)

/-- An immediate-layout word (R69). -/
def immWord (op : Nat) (f : IForm) : BitVec 64 :=
  BitVec.ofNat 64 (op * 2 ^ 55 + guardBits f.g * 2 ^ 51 + f.d.toNat * 2 ^ 41 + f.a.toNat * 2 ^ 31 + f.imm.toNat)

/-- A memory-layout word (R71); bit [6] is 0. -/
def memWord (op : Nat) (f : MForm) : BitVec 64 :=
  BitVec.ofNat 64 (op * 2 ^ 55 + guardBits f.g * 2 ^ 51 + f.d.toNat * 2 ^ 41 + f.a.toNat * 2 ^ 31 +
    f.ix.toNat * 2 ^ 21 + f.ofs.toNat * 2 ^ 8 + f.x.toNat * 2 ^ 7 + f.sx.toNat * 2 ^ 5 + f.cp.toNat * 2 ^ 3 + f.wd.toNat)

/-- The 31 bits of a slot (R73). -/
def slotBits (s : Slot) : Nat :=
  s.sop.toNat * 2 ^ 25 + guardBits s.g * 2 ^ 21 + s.d.toNat * 2 ^ 13 + s.b.toNat * 2 ^ 5 + s.imm5.toNat

/-- A paired word (R73): bit [63] is 1 and bit [62] is 0. -/
def pairWord (f : PForm) : BitVec 64 :=
  BitVec.ofNat 64 (2 ^ 63 + slotBits f.x * 2 ^ 31 + slotBits f.y)

/-- The word of an instruction (R63, R69, R71, R73, R77); a step of the device has none. -/
def encode : Instr → Option (BitVec 64)
  | .nop f => some (regWord 0x00 f)
  | .yield f => some (regWord 0x01 f)
  | .exit f => some (regWord 0x02 f)
  | .launch f => some (regWord 0x03 f)
  | .getsr f => some (regWord 0x04 f)
  | .setsr f => some (regWord 0x05 f)
  | .trap f => some (regWord 0x06 f)
  | .brk f => some (regWord 0x07 f)
  | .conto f => some (regWord 0x08 f)
  | .contc f => some (regWord 0x09 f)
  | .conts f => some (regWord 0x0A f)
  | .iadd f => some (regWord 0x10 f)
  | .iaddi f => some (immWord 0x11 f)
  | .isub f => some (regWord 0x12 f)
  | .imul f => some (regWord 0x13 f)
  | .imulhi f => some (regWord 0x14 f)
  | .imad f => some (regWord 0x15 f)
  | .imadw f => some (regWord 0x16 f)
  | .idiv f => some (regWord 0x17 f)
  | .irem f => some (regWord 0x18 f)
  | .imin f => some (regWord 0x19 f)
  | .imax f => some (regWord 0x1A f)
  | .iabs f => some (regWord 0x1B f)
  | .ineg f => some (regWord 0x1C f)
  | .iadd64 f => some (regWord 0x1D f)
  | .isub64 f => some (regWord 0x1E f)
  | .imul64 f => some (regWord 0x1F f)
  | .and f => some (regWord 0x20 f)
  | .or f => some (regWord 0x21 f)
  | .xor f => some (regWord 0x22 f)
  | .andn f => some (regWord 0x23 f)
  | .logi f => some (immWord 0x24 f)
  | .shl f => some (regWord 0x25 f)
  | .shr f => some (regWord 0x26 f)
  | .sar f => some (regWord 0x27 f)
  | .rotl f => some (regWord 0x28 f)
  | .popc f => some (regWord 0x29 f)
  | .clz f => some (regWord 0x2A f)
  | .brev f => some (regWord 0x2B f)
  | .bfe f => some (regWord 0x2C f)
  | .bfi f => some (regWord 0x2D f)
  | .lea f => some (regWord 0x2E f)
  | .bsel f => some (regWord 0x2F f)
  | .icmp f => some (regWord 0x30 f)
  | .sel f => some (regWord 0x31 f)
  | .mov f => some (regWord 0x32 f)
  | .movi f => some (immWord 0x33 f)
  | .movhi f => some (immWord 0x34 f)
  | .plop f => some (regWord 0x35 f)
  | .pmov f => some (regWord 0x36 f)
  | .lxch f => some (regWord 0x37 f)
  | .pfold f => some (regWord 0x38 f)
  | .peer f => some (regWord 0x39 f)
  | .lget f => some (regWord 0x3A f)
  | .lset f => some (regWord 0x3B f)
  | .rtag f => some (regWord 0x3C f)
  | .runtag f => some (regWord 0x3D f)
  | .rfree f => some (regWord 0x3E f)
  | .fadd f => some (regWord 0x40 f)
  | .fsub f => some (regWord 0x41 f)
  | .fmul f => some (regWord 0x42 f)
  | .ffma f => some (regWord 0x43 f)
  | .fmin f => some (regWord 0x44 f)
  | .fmax f => some (regWord 0x45 f)
  | .fdiv f => some (regWord 0x46 f)
  | .fsqrt f => some (regWord 0x47 f)
  | .fcmp f => some (regWord 0x48 f)
  | .fclass f => some (regWord 0x49 f)
  | .fscale f => some (regWord 0x4A f)
  | .hfma2 f => some (regWord 0x4B f)
  | .frcpa f => some (regWord 0x4C f)
  | .frsqa f => some (regWord 0x4D f)
  | .fex2a f => some (regWord 0x4E f)
  | .flg2a f => some (regWord 0x4F f)
  | .dadd f => some (regWord 0x50 f)
  | .dsub f => some (regWord 0x51 f)
  | .dmul f => some (regWord 0x52 f)
  | .dfma f => some (regWord 0x53 f)
  | .dmin f => some (regWord 0x54 f)
  | .dmax f => some (regWord 0x55 f)
  | .ddiv f => some (regWord 0x56 f)
  | .dsqrt f => some (regWord 0x57 f)
  | .dcmp f => some (regWord 0x58 f)
  | .dclass f => some (regWord 0x59 f)
  | .dscale f => some (regWord 0x5A f)
  | .fsina f => some (regWord 0x5B f)
  | .fcosa f => some (regWord 0x5C f)
  | .cvt f => some (regWord 0x5D f)
  | .qmx f => some (regWord 0x5E f)
  | .dqmx f => some (regWord 0x5F f)
  | .xacc f => some (regWord 0x60 f)
  | .xrnd f => some (regWord 0x61 f)
  | .xclr f => some (regWord 0x62 f)
  | .lred f => some (regWord 0x63 f)
  | .bra f => some (immWord 0x70 f)
  | .brx f => some (immWord 0x71 f)
  | .call f => some (immWord 0x72 f)
  | .callx f => some (regWord 0x73 f)
  | .ret f => some (regWord 0x74 f)
  | .rjset f => some (regWord 0x75 f)
  | .rjoin f => some (regWord 0x76 f)
  | .rjdrop f => some (regWord 0x77 f)
  | .ld f => some (memWord 0x80 f)
  | .st f => some (memWord 0x81 f)
  | .lds f => some (memWord 0x82 f)
  | .sts f => some (memWord 0x83 f)
  | .ldc f => some (memWord 0x84 f)
  | .pref f => some (memWord 0x85 f)
  | .acq f => some (regWord 0x86 f)
  | .rel f => some (regWord 0x87 f)
  | .acqr f => some (regWord 0x88 f)
  | .fence f => some (regWord 0x89 f)
  | .fenceo f => some (regWord 0x8A f)
  | .full f => some (regWord 0x8B f)
  | .flushh f => some (regWord 0x8C f)
  | .hbind f => some (regWord 0x8D f)
  | .hprio f => some (regWord 0x8E f)
  | .hdrop f => some (regWord 0x8F f)
  | .atom f => some (regWord 0x90 f)
  | .red f => some (regWord 0x91 f)
  | .waita f => some (regWord 0x92 f)
  | .puts f => some (regWord 0x93 f)
  | .barv f => some (regWord 0xA0 f)
  | .barw f => some (regWord 0xA1 f)
  | .bars f => some (regWord 0xA2 f)
  | .bart f => some (regWord 0xA3 f)
  | .barq f => some (regWord 0xA4 f)
  | .syncb f => some (regWord 0xA5 f)
  | .aballoc f => some (regWord 0xB0 f)
  | .abfree f | .abfreeAll f => some (regWord 0xB1 f)
  | .ald f | .aldSp f => some (regWord 0xB2 f)
  | .ast f | .astSp f => some (regWord 0xB3 f)
  | .azero f | .azeroAll f => some (regWord 0xB4 f)
  | .mxi f => some (regWord 0xB5 f)
  | .mxq f => some (regWord 0xB6 f)
  | .cpy f => some (regWord 0xC0 f)
  | .cpy2d f => some (regWord 0xC1 f)
  | .gath f => some (regWord 0xC2 f)
  | .scat f => some (regWord 0xC3 f)
  | .sigi f => some (regWord 0xD0 f)
  | .siga f => some (regWord 0xD1 f)
  | .sigq f => some (regWord 0xD2 f)
  | .sigf f => some (regWord 0xD3 f)
  | .mlook f => some (regWord 0xD4 f)
  | .mfill f => some (regWord 0xD5 f)
  | .minvKey f | .minvRegion f | .minvCtx f => some (regWord 0xD6 f)
  | .txsig f => some (regWord 0xD7 f)
  | .draw f => some (regWord 0xE0 f)
  | .vout f => some (regWord 0xE1 f)
  | .ipa f => some (regWord 0xE2 f)
  | .tex f => some (regWord 0xE3 f)
  | .tld f => some (regWord 0xE4 f)
  | .fout f => some (regWord 0xE5 f)
  | .mlres f | .mlresLayer f => some (regWord 0xE6 f)
  | .mlclr f => some (regWord 0xE7 f)
  | .mlrd f => some (regWord 0xE8 f)
  | .pairedWord f => some (pairWord f)
  | .launchEnqueue _ _ | .dispatchCycle | .activePositionFill _ _ | .dependenceResolved _ _
  | .launchRetirement _ | .loadReturn _ _ _ | .trapRecordWrite | .faultRecordWrite _ | .pageWalk _ _ _
  | .logFullRelease _ _ | .logPinnedRelief _ | .promotionRequest _ _ _ | .publicationGrant _
  | .earlyPublication _ _ | .fulling _ | .entryApply _ _ | .acquireWaitEnd _ _ | .l1Eviction _ _
  | .l1PartitionChange _ | .l2Eviction _ _ | .superblockCompression _ _ _ | .atomicAtHome _ _ _
  | .atomicUnitWriteback _ _ | .atomReturn _ _ _ | .waitMonitorNotice _ _ | .waitaTimedRecheck _ _
  | .putsPayloadRead _ _ _ | .putsLanding _ _ _ _ | .redArrival _ _ _ | .aballocGrant _ | .matrixPass _ _
  | .tfuFetch _ | .mxiCompletion _ | .copyCompletion _ | .peatPartitionChange _ | .battSave _ _
  | .preemptComplete _ | .drawStart _ | .vertexCacheValidate _ | .triangleBin _ | .tileRender _ _
  | .fragmentCommit _ | .passRetirement _ | .setroot _ | .tlbinv _ | .setsave _ | .preempt _ | .restore _
  | .kill _ | .peatsize _ | .retire _ | .engstat _ | .ctlload _ | .unknownOp | .commandComplete
  | .lostClear | .trapRelease _ _ | .resumeAtWord _ _ | .resumePastWord _ _ | .trapKill _ | .twnewClear _ _
  | .faultRetry _ _ | .faultToTrap _ _ | .fbnewClear _ _ | .stepmaxWrite _ _ | .wdkick | .registerWrite _ _ _
  | .bar0BadAccess | .bar2HostRead _ _ | .bar2HostWrite _ _ _ | .bar4HostRead _ _
  | .bar4HostWrite _ _ _ | .hostAtomicop _ _ _ _ _ _ | .hostRequestError _ | .vblankLatch _
  | .displayHotplug _ _ _ | .governorPeriod _ _ _ | .stepTakesEffect _ | .fabricStepEval | .droopOnset _
  | .droopRecovery _ | .currentLimit _ | .temperatureBandChange _ _ | .thermalTrip | .railTrim _
  | .loadWindow _ _ | .watchdogLapse | .uncorrectableError _ | .correctableError | .warmReset | .coldReset
  | .bringUp _ _ _ | .smbusPartno | .smbusTemperature | .smbusBoardPower | .smbusStat
  | .smbusUnknownCommand | .minvStoreApply _ | .hkcFirmwareUpdate | .scanoutFrameStart _ => none

/-- The instruction a word of the opcode table stands for: the words are 64 bits, little-endian (R60), so the table's
numbering of bits is the word's own. -/
def decodeTableWord (_nbits w : Nat) : Option Instr := decode (BitVec.ofNat 64 w)

end Sys2Proof
end

