-- ==== Sys2Proof/Machine/State.lean ====
section
/-! DEFINITION. The state of the KF960: everything the manual gives the device, its batts and its memories, as plain data.
INVENTORY.md lists each field with the rule that names it. -/

namespace Sys2Proof.Machine

/-- Sparse bytes in canonical form: addresses strictly rising, no entry 0 (log 5). -/
abbrev Memory := List Host.Cell

/-- Why a step stops with a fault. -/
inductive Fault where
  /-- A word is to execute and no batt stands at (core, slot): the model was asked to run a word of nothing. Raised by every
  word's meaning. Safe. -/
  | noIssuer
  deriving DecidableEq, Repr

/-- Why a step has no meaning. -/
inductive Refusal where
  /-- An instruction that has no meaning yet; raised by its arm of exec. Safe. -/
  | notModelled (mnemonic : String)
  deriving DecidableEq, Repr

/-! ### Batts -/

/-- Lane states (R215). -/
inductive LaneSt where
  | ready | rejoin | syncb | barrier | exited
  deriving DecidableEq, Repr

/-- One lane's program counter and state (R60, R215). -/
structure Lane where
  pc : DWord := 0
  st : LaneSt := .ready
  deriving DecidableEq, Repr

/-- A vector register that is not Unbacked (R147). -/
structure VReg where
  num : Nat
  backed : Bool := true
  /-- recipe number and depth (R151) -/
  tag : Option (Nat × Nat) := none
  /-- none where backing has been taken for a dropped register and its value is still to be computed (R147, R151, R154) -/
  lanes : List Word := List.replicate 32 0
  poison : Mask := 0
  /-- a word that is being issued has taken its backing and not written it: given up where the word traps (R147, R149; log 69) -/
  fresh : Bool := false
  /-- an outstanding operation writes it: it counts as Backed and untagged; tag and `fresh` say what it was, and is again where the
  operation writes nothing (R147; log 95) -/
  late : Bool := false
  /-- s63, and whether it was poisoned, as its recipe is to read them: an unwind wrote s63 when the register could not be replayed (R22, R152,
  R426; log 100) -/
  kept63 : Option (DWord × Bool) := none
  deriving DecidableEq, Repr

/-- Who a batt is, whatever core it stands on (R120, R19). -/
inductive BattId where
  | ctl
  | batt (lnum felt b : Nat)
  deriving DecidableEq, Repr

/-- What kind of batt (R19, R378). -/
inductive BattKind where
  | control | compute | vertex | pixel
  deriving DecidableEq, Repr

/-- An open containment region (R425). -/
structure Region where
  handler : DWord
  /-- NR: non-revocable -/
  hard : Bool := false
  deriving DecidableEq, Repr

/-- A held accumulator bank (R311): its bytes (unlisted 0) and its poisoned words. -/
structure Bank where
  num : Nat
  data : Memory := []
  poison : List Nat := []
  deriving DecidableEq, Repr

/-- Where an address leads (R232). -/
inductive Target where
  | dev | sluice | host
  deriving DecidableEq, Repr

/-- A translated location: the target, the physical address, and whether the page is COMPRESSIBLE or treated as
quarantined (R411, R412, R421). -/
structure Loc where
  target : Target := .dev
  pa : Nat := 0
  comp : Bool := false
  quar : Bool := false
  deriving DecidableEq, Repr

/-- One lane of an access: its address and the locations of its bytes. -/
structure LaneAcc where
  lane : Nat
  ea : DWord
  locs : List Loc
  deriving DecidableEq, Repr

/-- How far an outstanding operation has come (R403, R276, R282). -/
inductive OpPhase where
  /-- a load, ATOM, acquire or PUTS that has not been performed -/
  | sent
  /-- an ATOM whose lanes were performed, not yet returned; a RED whose arrival is still to be sent -/
  | performed
  deriving DecidableEq, Repr

/-- An outstanding operation of a batt: an issued word whose data, return or grant is still to come. -/
structure Op where
  id : Nat
  instr : Instr
  word : DWord
  pc : DWord
  mask : Mask
  active : Mask
  phase : OpPhase := .sent
  accs : List LaneAcc := []
  /-- operands read at issue, by lane -/
  bvals : List DWord := []
  dvals : List DWord := []
  /-- values returned by home, by lane, and lanes found poisoned -/
  vals : List DWord := []
  poison : Mask := 0
  /-- the number or position the operation waits for, where it has one -/
  num : Nat := 0
  deriving DecidableEq, Repr

/-- One lane's cause and fault address (R405). -/
structure LaneCause where
  lane : Nat
  cause : Nat
  faddr : DWord := 0
  flags : Nat := 0
  deriving DecidableEq, Repr

/-- A trapping word of a split (R404). -/
structure TrapEntry where
  word : DWord
  pc : DWord
  mask : Mask
  recipe : Nat := 0
  lanes : List LaneCause
  /-- issue order within the batt -/
  order : Nat := 0
  deriving DecidableEq, Repr

/-- What a batt's turn-holding split waits for after its word has taken a first effect (R121, R122, R301). -/
inductive Waiting where
  | none
  /-- an arrival in the held queue of a barrier (kind, number); bytes of its BART; the scalar of BARV -/
  | held (kind num : Nat) (bytes : Int) (instr : Instr)
  /-- counted in generation `gen`; waits for its completion (BARS) -/
  | counted (kind num gen : Nat)
  /-- BARW: waits until PHASE differs from `phase` -/
  | phase (kind num : Nat) (phase : Bool)
  /-- WAITA: waits for a notice (entry of the monitor table) or a timed re-check -/
  | watch (timed : Bool) (instr : Instr)
  /-- ABALLOC in the core's queue -/
  | banks (count : Nat)
  /-- LAUNCH or DRAW after its release, on the outstanding limit -/
  | launch (point : Nat) (instr : Instr)
  /-- EXIT of a pixel batt: waits for the commits of the fragments it emitted (R391) -/
  | commit (instr : Instr)
  deriving DecidableEq, Repr

/-- The region tag T of a batt (R349). -/
inductive RegionTag where
  | none | any | region (start : DWord)
  deriving DecidableEq, Repr

/-- A report that waits for the batt's next touch of an engine operation's token or banks (R329, R367). -/
structure Deferred where
  cause : Nat
  token : Nat
  banks : List Nat
  deriving DecidableEq, Repr

/-- A peat-store key (R356): kind 0 lane, 1 quad, 2 tile. -/
structure PeatKey where
  space : Nat
  f1 : DWord
  f2 : DWord
  ident : DWord
  mix : Nat
  len : Nat
  kind : Nat
  deriving DecidableEq, Repr

/-- A pending audit of a lane, or of a quad group, with the key and payload of the entry it names (R363). -/
structure Audit where
  quad : Bool
  idx : Nat
  key : PeatKey
  payload : List Byte
  deriving DecidableEq, Repr

/-- What a pixel batt knows of its triangle (R378, R391, R392): by lane, the pixel, its coverage and the colour set by FOUT. -/
structure PixelInfo where
  draw : Nat
  tri : Nat
  tile : Nat
  /-- list position of the entry in its tile -/
  pos : Nat
  coords : List Int
  zs : List Word
  pixels : List (Option (Nat × Nat))
  cover : List Nat
  colours : List (Option (List Word)) := List.replicate 32 none
  deriving DecidableEq, Repr

/-- A batt (R120, R142, R125, R215, R425). -/
structure Batt where
  core : Nat
  slot : Nat
  id : BattId
  kind : BattKind := .compute
  /-- context 0 to 15, or 16 for the control address space -/
  space : Nat
  quarter : Nat := 0
  regs : Nat := 8
  pinned : Nat := 0
  params : DWord := 0
  nfelt : Nat := 1
  nbatt : Nat := 1
  lanes : List Lane
  vregs : List VReg := []
  scalars : List DWord := List.replicate 64 0
  sPoison : DWord := 0
  preds : List Mask := List.replicate 7 0
  rejoinE : List Mask := List.replicate 8 0
  rejoinA : List Mask := List.replicate 8 0
  cursor : Nat := 0
  quant : Nat := 0
  fpcr : Word := 0
  fpsr : Word := 0
  memo : DWord := 0
  wpoll : Word := 0
  regions : List Region := []
  syncm : Mask := 0
  banks : List Bank := []
  /-- the banks are those of a restored image and are still to be claimed (R140) -/
  claim : Bool := false
  ops : List Op := []
  nextOp : Nat := 0
  /-- scalars that wait for a token (R112, R322, R339) -/
  tokens : DWord := 0
  wait : Waiting := .none
  /-- the number of eligible splits when the waiting word issued (R125) -/
  waitN : Nat := 0
  /-- the lanes of the split when the waiting word issued, and those of its ACTIVE, which stand at the word still (R215, R405) -/
  waitS : Mask := 0
  waitM : Mask := 0
  /-- trapping words found and not yet reported (R404), and the record's place once written -/
  trapped : List TrapEntry := []
  halted : Bool := false
  faulted : Bool := false
  /-- brought to rest by a pre-emption (R129) -/
  resting : Bool := false
  /-- purity of a checked region: operand codes written in it, and T (R349) -/
  tag : RegionTag := .none
  absorbed : List Nat := []
  /-- ARRAY and AUDIT reports that the batt has still to take (R329, R367) -/
  deferred : List Deferred := []
  audits : List Audit := []
  /-- %felt (R120, R378) -/
  feltNo : Nat := 0
  /-- the draw of a vertex or pixel batt (R378) -/
  draw : Nat := 0
  pix : Option PixelInfo := none
  deriving DecidableEq, Repr

/-! ### Cores -/

/-- A store-log entry (R241, R242). -/
structure LogEntry where
  /-- log position: the count of appends before it -/
  pos : Nat
  sector : Nat
  seq : Nat
  scope : Nat := 0
  depth : Nat := 0
  pois : Bool := false
  /-- context 0 to 15, or 16 for the control address space -/
  space : Nat
  mask : DWord
  data : List Byte
  comp : Bool := false
  owner : Nat
  /-- publication number, once published -/
  num : Nat := 0
  /-- sent to its home by fulling, not yet applied (R253) -/
  taken : Bool := false
  /-- a local mark was made since it was appended (R244) -/
  marked : Bool := false
  deriving DecidableEq, Repr

/-- A local mark (R247). -/
structure Mark where
  pos : Nat
  spaces : List Nat
  deriving DecidableEq, Repr

/-- An L1 sector (R238): `held` lists the (core, position) of replayed entries not yet applied; `gone` says that an atomic
invalidated it while held. -/
structure L1Sector where
  sector : Nat
  data : List Byte
  held : List (Nat × Nat) := []
  isLocal : Bool := true
  poison : Bool := false
  gone : Bool := false
  /-- entries of other cores applied at their homes since the fill and not yet in the view (R249): number, mask, data, POIS -/
  replays : List (Nat × DWord × List Byte × Bool) := []
  deriving DecidableEq, Repr

/-- A TLB entry: a valid leaf (R413). -/
structure TlbEntry where
  space : Nat
  vpage : Nat
  big : Bool := false
  pte : DWord
  deriving DecidableEq, Repr

/-- A held location of an atomic unit (R285), with the address spaces that have operated on it since it was fetched. -/
structure AtomLoc where
  spaces : List Nat
  addr : Nat
  comp : Bool := false
  byte : Byte
  changed : Bool := false
  poison : Bool := false
  deriving DecidableEq, Repr

/-- A recipe slot of a core (R18, R89). -/
structure RecipeSlot where
  lnum : Nat
  num : Nat
  len : Nat
  words : List DWord
  deriving DecidableEq, Repr

/-- A quarter's issue state (R121, R123). -/
structure Quarter where
  /-- slots of the 8 active positions -/
  active : List (Option Nat) := List.replicate 8 none
  /-- the free positions in the order in which they were freed (R121) -/
  freed : List Nat := List.range 8
  /-- slots of the ready queue, head first -/
  ready : List Nat := []
  lastIssued : Nat := 7
  /-- the cluster's cycle in which the quarter last issued (R123) -/
  issuedAt : Option DWord := none
  deriving DecidableEq, Repr

/-- An operation queued in the matrix array or the copy engine (R322, R338). -/
structure EngineOp where
  id : Nat
  slot : Nat
  owner : BattId
  space : Nat
  lnum : Nat
  felt : Nat
  instr : Instr
  active : Mask
  /-- the words read at issue: the parameter block (R319), the group (R334) or the descriptor's fields (R369, R400) -/
  params : List DWord
  /-- the format word (R37) -/
  fmt : Nat := 0
  /-- the rounding mode that dynamic rounding takes (R321, R335) -/
  mode : Nat := 0
  vec : List Word := []
  depth : Nat := 0
  token : Nat
  /-- the translations that the checks found, by 64 KiB page (R413) -/
  pages : List (Nat × Loc) := []
  /-- the chunks of K fetched so far (R325): bytes of A by row, of B by column, and their scales, each byte with its poison -/
  opA : List (List (Byte × Bool)) := []
  opB : List (List (Byte × Bool)) := []
  opSA : List (List (Byte × Bool)) := []
  opSB : List (List (Byte × Bool)) := []
  /-- sectors read and still pinned (R325), and their bytes -/
  held : List (Nat × List (Byte × Bool)) := []
  /-- accumulator elements, row by row, each with its poison, once the first pass has begun -/
  begun : Bool := false
  cells : List (Nat × Bool) := []
  step : Nat := 0
  flags : Nat := 0
  mismatch : Bool := false
  /-- POISONED of the token (R323, R326) -/
  poisonIn : Bool := false
  /-- a memoised operation has been looked up (R366), and the key, payload and FLAGS of the entry its audit names (R367) -/
  looked : Bool := false
  audit : Option (PeatKey × List Byte × Nat) := none
  deriving DecidableEq, Repr

/-- A core (R11). -/
structure CoreSt where
  log : List LogEntry := []
  nextPos : Nat := 0
  seq : Nat := 0
  marks : List Mark := []
  view : Nat := 0
  /-- releases and early publications that wait for a number (R245): slot of the batt and operation, if a batt waits -/
  pubQueue : List (Option (Nat × Nat)) := []
  l1 : List L1Sector := []
  icache : List (Nat × Nat × DWord) := []
  ccache : List (Nat × Nat × List Byte) := []
  tlb1 : List TlbEntry := []
  partition : Nat := 0
  recipes : List RecipeSlot := []
  bankQueue : List Nat := []
  mxiq : List EngineOp := []
  copyq : List EngineOp := []
  nextEngine : Nat := 0
  passNo : Word := 0
  retired : BitVec 2 := 0
  mmCount : BitVec 16 := 0
  mmCol : BitVec 5 := 0
  mmRow : BitVec 6 := 0
  atomUnit : List AtomLoc := []
  quarters : List Quarter := List.replicate 4 {}
  deriving DecidableEq, Repr

/-! ### Clusters -/

/-- A slot of a fault buffer (R414). -/
structure FaultRecord where
  pc : DWord
  /-- the lanes with a replayable fault and their addresses -/
  lanes : List LaneCause
  lnum : Nat
  core : Nat
  slot : Nat
  access : Nat
  level : Nat
  replay : Bool
  recipe : Nat := 0
  space : Nat
  owner : BattId
  /-- the VA of a fault in an evaluation of all 32 lanes (R155), where it is not the lowest address of `lanes` -/
  va : Option DWord := none
  /-- the word that faulted, as it was fetched; 0 for a fetch fault (R405, R415) -/
  word : DWord := 0
  deriving DecidableEq, Repr

/-- An entry of the wait monitor table (R291). -/
structure Monitor where
  core : Nat
  slot : Nat
  target : Target
  sector : Nat
  noticed : Bool := false
  deriving DecidableEq, Repr

/-- An entry of the peat store (R351, R353). -/
structure PeatEntry where
  key : PeatKey
  flags : Nat := 0
  depth : Nat := 0
  core : Nat
  slot : Nat
  /-- the batt that filled it, wherever it stands (R355, R360) -/
  owner : BattId
  prot : Bool := false
  /-- an uncorrectable error that no lookup has found yet (R355) -/
  err : Bool := false
  payload : List Byte
  way : Nat := 0
  /-- recency (R354) -/
  used : Nat := 0
  deriving DecidableEq, Repr

/-- What a MINV invalidates (R361). -/
inductive MinvKind where
  | keys (l : List PeatKey)
  | region (ident : DWord)
  | all
  deriving DecidableEq, Repr

/-- A MINV that a store has not applied (R361). -/
structure Minv where
  owner : BattId
  space : Nat
  kind : MinvKind
  deriving DecidableEq, Repr

/-- A cluster's power registers (R436) and clock state (R427 to R434). -/
structure Power where
  a : Nat := 0
  step : Nat := 10
  stepMax : Nat := 12
  tband : Nat := 0
  alarm : Bool := false
  /-- a cause of ALARM has arisen in the current governor period (R432) -/
  alarmSeen : Bool := false
  temp : Nat := 0
  budgetU : Nat := 10240
  ab : Nat := 65536
  amax : Nat := 1048575
  ilim : Nat := 40
  dthresh : Nat := 40
  tslack : Nat := 8
  droops : Nat := 0
  dalarm : Nat := 8
  load : Nat := 0
  peats : Nat := 2
  slack : Nat := 0
  ipeak : Nat := 40
  credit : Nat := 0
  droopsAt : Nat := 0
  stretch : Bool := false
  /-- while the clock is stretched: the next pulse that the pattern passes is not taken (R428) -/
  skip : Bool := false
  /-- a replica check at step + 1 has failed since the last trim of the rail (R433) -/
  replicaFailed : Bool := false
  nextStep : Nat := 10
  floor : Nat := 0
  /-- reference ticks of the governor period that runs (R430) -/
  ticks : Nat := 0
  /-- cycles of the load window that runs (R434) -/
  window : Nat := 0
  /-- the pulse of the master clock at the last droop onset (R428) -/
  droopAt : Nat := 0
  deriving DecidableEq, Repr

/-- A cluster (R11). -/
structure Cluster where
  power : Power := {}
  cyc : DWord := 0
  tim : DWord := 0
  atomStore : List AtomLoc := []
  monitors : List Monitor := []
  tlb2 : List TlbEntry := []
  faults : List (Option FaultRecord) := List.replicate 64 none
  faultNew : DWord := 0
  faultVec : Nat := 0
  faultIe : Bool := false
  faultWaiting : List FaultRecord := []
  peat : List PeatEntry := []
  hcnt : Nat := 0
  peatClock : Nat := 0
  peatPending : Option Nat := none
  minvPending : List Minv := []
  deriving DecidableEq, Repr

/-! ### Launches and felts -/

/-- A launch record (R109). -/
structure LaunchRec where
  entry : DWord := 0
  params : DWord := 0
  nfelt : Nat := 1
  nbatt : Nat := 1
  prio : Nat := 0
  ctx : Nat := 0
  flags : Nat := 0
  audit : Nat := 0
  fbar : Nat := 0
  cbar : Nat := 0
  lbar : Nat := 0
  regs : Nat := 8
  pinned : Nat := 0
  scratch : Nat := 0
  fbmem : Nat := 0
  cbmem : Nat := 0
  lbmem : Nat := 0
  pretab : DWord := 0
  budtab : DWord := 0
  rectab : DWord := 0
  puretab : DWord := 0
  deriving DecidableEq, Repr

/-- An arrival in a held queue (R298): a waiting batt's, or a RED's. -/
inductive Held where
  | batt (id : BattId) (bytes : Int)
  | red
  deriving DecidableEq, Repr

/-- A barrier (R134, R295, R298). `gen` counts completions, for the waiters of one generation. -/
structure Barrier where
  arrived : Nat := 0
  phase : Bool := false
  pend : Int := 0
  count : Int := 0
  held : List Held := []
  touched : Bool := false
  gen : Nat := 0
  deriving DecidableEq, Repr

/-- A felt on a core (R109, R231, R295). -/
structure Felt where
  lnum : Nat
  felt : Nat
  core : Nat
  scratch : Memory := []
  scratchPoison : List Nat := []
  bars : List Barrier := []
  left : Nat := 0
  deriving DecidableEq, Repr

/-- A felt that was saved and waits to be placed again (R136, R140): where its block lies. -/
structure SavedFelt where
  lnum : Nat
  felt : Nat
  cluster : Nat
  addr : DWord
  deriving DecidableEq, Repr

/-! ### Render passes (R370 to R401) -/

/-- A texture descriptor (R395). -/
structure TexDesc where
  base : DWord
  width : Nat
  height : Nat
  levels : Nat
  fmt : Nat
  modeU : Nat
  modeV : Nat
  deriving DecidableEq, Repr

/-- A target descriptor (R372), PAGES and DROPS as they stand. -/
structure TargetDesc where
  addr : DWord
  raw : List Byte
  sigPlane : DWord
  resolve : DWord
  depths : DWord
  colour : DWord
  heads : DWord
  pool : DWord
  poolNodes : Nat
  clearD : Word
  clearC : List Word
  width : Nat
  height : Nat
  layered : Bool
  cfmt : Nat
  samples : Nat
  load : Bool
  retain : Bool
  layers : Nat
  rule : Nat
  policy : Nat
  pages : Nat
  drops : Nat
  deriving DecidableEq, Repr

/-- A draw that has started: its entry (R371), its identities and costs (R380), its signatures and its textures. -/
structure DrawInfo where
  raw : List Byte
  const : DWord
  vcache : DWord
  ventry : DWord
  fentry : DWord
  ntri : Nat
  nout : Nat
  depthTest : Bool
  depthWrite : Bool
  blend : Bool
  cullBack : Bool
  qmemo : Bool
  vpure : Option (DWord × Nat) := none
  fpure : Option (DWord × Nat) := none
  sig : DWord × DWord := (0, 0)
  fkey : DWord × DWord := (0, 0)
  /-- count word of the fragment key, and its H1, H2 before Final (R378) -/
  fstate : DWord × DWord := (0, 0)
  fcount : Nat := 0
  texs : List TexDesc := []
  reused : Bool := false
  validated : Bool := false
  deriving DecidableEq, Repr

/-- An entry of a tile's list (R384). -/
structure TileEntry where
  draw : Nat
  tri : Nat
  coords : List Int
  deriving DecidableEq, Repr

/-- A tile of a pass: its head (R384), its list since the last flush, and its signature so far (R388). -/
structure Tile where
  stored : Bool := false
  noSkip : Bool := false
  /-- a partial flush stored it in this pass (R389) -/
  flushed : Bool := false
  resume : Nat := 0
  first : Nat := 0
  last : Nat := 0
  list : List TileEntry := []
  /-- fragment COST of its entries (R389) -/
  cost : Nat := 0
  sig : DWord × DWord := (0, 0)
  count : Nat := 0
  pure : Bool := true
  finished : Bool := false
  freeNodes : List Nat := []
  page : Option (Nat × Nat) := none
  deriving DecidableEq, Repr

/-- A tile being rendered: its samples (R387, R393). -/
structure TileWork where
  tile : Nat
  depth : List Word
  colour : List (List Byte)
  /-- the list position from which no pixel felt has been formed -/
  upto : Nat
  deriving DecidableEq, Repr

/-- A fragment that has been emitted and not committed (R391, R392). -/
structure Fragment where
  owner : BattId
  lane : Nat
  draw : Nat
  tri : Nat
  tile : Nat
  x : Nat
  y : Nat
  cover : Nat
  colour : List Word
  coords : List Int
  zs : List Word
  deriving DecidableEq, Repr

/-- Where a pass stands (R377, R386). -/
inductive PassStage where
  | start | vertices | binning | flushing | rendering | retired
  deriving DecidableEq, Repr

/-- A render pass (R370, R377, R384). -/
structure Pass where
  paramBase : DWord
  paramSize : Nat
  chunkMax : Nat
  draws : DWord
  fregs : Nat
  vregs : Nat
  ndraw : Nat
  target : TargetDesc
  stage : PassStage := .start
  draw : Nat := 0
  tri : Nat := 0
  infos : List DrawInfo := []
  culled : Nat := 0
  nflush : Nat := 0
  chunks : Nat := 0
  tiles : List Tile := []
  work : List TileWork := []
  /-- binning has begun: the pass state and the heads are initialised (R384) -/
  begun : Bool := false
  /-- pixel felts formed and not yet placed -/
  specs : List PixelInfo := []
  frags : List Fragment := []
  nextPixel : Nat := 0
  deriving DecidableEq, Repr

/-- A launch (R112, R114, R118). -/
structure Launch where
  lnum : Nat
  recd : LaunchRec
  /-- COUNT of the recipe, pre-emption, budget and pure-region tables, as the headers gave them (R85) -/
  recipes : Nat := 0
  points : Nat := 0
  budgets : Nat := 0
  pures : Nat := 0
  next : Nat := 0
  point : Nat := 0
  owner : BattId
  token : Nat
  /-- it has started: it holds its launch-barrier slots (R14) -/
  started : Bool := false
  /-- its first felt has been placed, or its barriers are back from a save: its barriers stand (R295) -/
  claimed : Bool := false
  lbars : List Barrier := []
  cbars : List (Nat × List Barrier) := []
  /-- batts placed and not exited, and felts retired -/
  left : Nat := 0
  status : Nat := 0
  cause : Nat := 0
  killed : Bool := false
  /-- a pre-emption of its context is saving it: barriers complete nothing (R310) -/
  frozen : Bool := false
  saved : List SavedFelt := []
  /-- the launch block whose barrier states a restore reads before its first felt (R140) -/
  savedBlock : Option DWord := none
  pass : Option Pass := none
  deriving DecidableEq, Repr

/-! ### Contexts -/

/-- A saved batt (R130, R137): its block until its context's save area is written, and where it lies afterwards. The last fields
are what the dispatcher keeps of it. -/
structure BattImage where
  lnum : Nat
  felt : Nat
  b : Nat
  bytes : List Byte
  addr : DWord := 0
  /-- scalars that await a token of LAUNCH or DRAW -/
  tokPend : DWord := 0
  kind : BattKind := .compute
  feltNo : Nat := 0
  draw : Nat := 0
  deferred : List Deferred := []
  /-- which of its pinned log entries name COMPRESSIBLE pages -/
  comps : List Bool := []
  /-- the s63 that recipes of its Dropped registers are to read, by register (R22; log 100) -/
  kept63 : List (Nat × DWord × Bool) := []
  /-- where the batt stood -/
  core : Nat := 0
  slot : Nat := 0
  /-- a resume that the host asked for while the batt was saved: the record's slot, and whether past its words (R132, R410) -/
  cmd : Option (Nat × Bool) := none
  deriving DecidableEq, Repr

/-- A trap record (R405). -/
structure TrapRecord where
  owner : BattId
  kind : Nat := 0
  ctx : Nat := 0
  core : Nat := 0
  slot : Nat := 0
  b : Nat := 0
  lnum : Nat := 0
  felt : Nat := 0
  ntrap : Nat := 0
  cont : Nat := 0
  exited : Mask := 0
  fpcr : Word := 0
  fpsr : Word := 0
  seq : DWord := 0
  ticks : DWord := 0
  entries : List TrapEntry := []
  /-- KIND 2: cause and fault address of lane 0 -/
  cause : Nat := 0
  faddr : DWord := 0
  deriving DecidableEq, Repr

/-- A trap window (R408). -/
structure Window where
  slots : List (Option TrapRecord) := List.replicate 64 none
  new : DWord := 0
  vec : Nat := 0
  ie : Bool := false
  unwinds : Word := 0
  waiting : List TrapRecord := []
  seq : DWord := 0
  deriving DecidableEq, Repr

/-- A residency handle (R240, R277). -/
structure Handle where
  num : Nat
  base : Nat
  len : Nat
  prio : Nat
  demoted : Bool := false
  deriving DecidableEq, Repr

/-- A context (R411, R133, R441, R277). -/
structure Ctx where
  root : Nat := 0
  saveBase : Option Nat := none
  ctxst : Nat := 0
  handles : List Handle := []
  /-- a POOLX stopped the context's passes (R399) -/
  poolStop : Bool := false
  battImages : List BattImage := []
  deriving DecidableEq, Repr

/-! ### Level two and the device -/

/-- A level-two sector (R236, R252): Invalid when absent. -/
structure L2Sector where
  slice : Nat
  sector : Nat
  valid : Bool
  written : DWord
  dirty : DWord
  ext : Bool := false
  data : List Byte
  used : Nat := 0
  handles : List (Nat × Nat) := []
  frames : Nat := 0
  deriving DecidableEq, Repr

/-- A poison record entry or quarantine entry (R420). -/
structure PoisonEntry where
  sector : Nat
  origin : Nat
  deriving DecidableEq, Repr

/-- A memory controller (R420). -/
structure Controller where
  poison : List PoisonEntry := []
  quarantine : List Nat := []
  ovf : Bool := false
  deriving DecidableEq, Repr

/-- A display head (R446). -/
structure Head where
  err : Nat := 0
  fmt : Nat := 0
  en : Bool := false
  base : Nat := 0
  pitch : Nat := 0
  hact : Nat := 0
  vact : Nat := 0
  /-- total, sync width, sync start and front porch, in pixels and in lines -/
  htot : Nat := 0
  hsync : Nat := 0
  hstart : Nat := 0
  hfp : Nat := 0
  vtot : Nat := 0
  vsync : Nat := 0
  vstart : Nat := 0
  vfp : Nat := 0
  pclk : Nat := 0
  poisonPix : Nat := 0
  frame : Nat := 0
  vblank : Bool := false
  /-- what the trained link carries, in thousands of bytes of pixels a second -/
  linkRate : Nat := 0
  /-- a video stream runs, and the values that its frames use since the last latch point: FMT, BASE, PITCH, HACT, VACT -/
  stream : Bool := false
  used : Nat × Nat × Nat × Nat × Nat := (0, 0, 0, 0, 0)
  deriving DecidableEq, Repr

/-- What the device sends out: interrupts, completions, posted writes, SMBus answers (R409, R438, R441, R450, R293). -/
inductive Output where
  | msix (vec : Nat)
  | completion (data : List Byte) (poisoned : Bool)
  | abort
  | write (addr : Nat) (data : List (Option Byte)) (poisoned : Bool)
  | atomicAnswer (old : DWord) (poisoned : Bool)
  | hostAtomic (op : HostAtom) (addr : Nat) (wide : Bool) (value compare : DWord)
  | smbus (bytes : List Byte)
  | smbusNack
  /-- THERMTRIP# (R431) -/
  | thermTrip
  /-- a frame sent by a display head: its pixels row by row -/
  | frame (head : Nat) (pixels : List Byte)
  deriving DecidableEq, Repr

/-- Device-wide registers and queues (R439 to R450). -/
structure Dev where
  form : Nat := 1
  memGib : Nat := 256
  failch : Word := 0
  warm : Bool := false
  bootFail : Bool := false
  ready : Bool := false
  tripped : Bool := false
  inReset : Bool := true
  bar2Base : Nat := 0
  bar2Size : Nat := 2 ^ 38
  hostErr : DWord := 0
  poisVec : Nat := 0
  poisIe : Bool := false
  cmdOp : Nat := 0
  cmdTgt : Nat := 0
  arg0 : DWord := 0
  arg1 : DWord := 0
  result : Nat := 0
  lost : Bool := false
  busy : Bool := false
  cres : DWord := 0
  /-- what the running command will report (R441) -/
  cmdResult : Nat := 0
  cmdCres : DWord := 0
  cmdArg0 : DWord := 0
  cmdArg1 : DWord := 0
  cmdDone : Bool := false
  cmdVec : Nat := 0
  cmdIe : Bool := false
  apertures : List (Nat × Bool) := List.replicate 256 (0, false)
  heads : List Head := List.replicate 4 {}
  /-- the MSI-X table of 2,048 entries of 16 bytes, byte for byte (R437, R439) -/
  msixTable : Memory := []
  /-- pulses of the master clock since the last reset (R427) -/
  pulse : Nat := 0
  railMv : Nat := 0
  /-- reference ticks since the last trim of the rail (R433) -/
  trimTicks : Nat := 0
  /-- reference ticks since the last WDKICK, since an update began or ended, or since the last reset (R435, log 139) -/
  kickTicks : Nat := 0
  wdLapsed : Bool := false
  hkcUpdate : Bool := false
  fabricStep : Nat := 10
  dispatchLast : Nat := 127
  launchCounter : Word := 0
  granted : Nat := 0
  ctlRoot : Nat := 0
  /-- what the HKC holds for the control program in quarter 0 of core 0: a batt slot and a register quota, 0 before bring-up (R19) -/
  ctlSlot : Nat := 0
  ctlRegs : Nat := 0
  /-- the last reset was a warm one (R447); STAT.WARM shows it once bring-up has finished -/
  lastWarm : Bool := false
  /-- correctable errors counted for the host (R416) -/
  correctable : Nat := 0
  outbox : List Output := []
  deriving DecidableEq, Repr

/-! ### The machine -/

/-- The device's free choices for one issue (log 1): whether a late operation returns in the step that issues it, whether a
store declines to coalesce (R244), whether a cached translation or fetched word is used where one exists (R413, R62), and which
batts of the quarter stall in place in the cycle, for a latency or a conflict that the manual leaves to the implementation (R122). -/
structure Choice where
  late : Bool := false
  noCoalesce : Bool := false
  /-- the translation that an access uses where no entry of `tlb` names it: the first one held, or the walk's (R413) -/
  useTlb : Bool := false
  /-- accesses of the issue, by `who` and address, that use the n-th translation held, from 1 on, or the walk's, 0 (R413) -/
  tlb : List (Nat × DWord × Nat) := []
  useICache : Bool := true
  l1Loss : Bool := false
  stalled : List Nat := []
  deriving DecidableEq, Repr

/-- What moves next (log 1): an event of the device or its host, an issue slot, or time. -/
inductive Sched where
  | event (i : Instr)
  | issue (core slot : Nat) (ch : Choice)
  | elapse (pulses : Nat)
  /-- the HKC writes 8 bytes of a cluster's power registers (R436) -/
  | hkcWrite (cluster off : Nat) (value : DWord)
  /-- the host resizes BAR 2 to 2^bits bytes (R437, R438) -/
  | resizeBar (bits : Nat)
  /-- the host reads an entry of a cluster's peat store for diagnosis (R353) -/
  | peatRead (cluster entry : Nat)
  deriving DecidableEq, Repr

/-- The whole machine. -/
structure State where
  dev : Dev := {}
  ctxs : List Ctx := List.replicate 16 {}
  /-- windows 0 to 15, and 16, the control trap window -/
  windows : List Window := List.replicate 17 {}
  mem : Memory := []
  l2 : List L2Sector := []
  l2Clock : Nat := 0
  memPoison : List Nat := []
  sluice : Memory := []
  sluicePoison : List Nat := []
  controllers : List Controller := List.replicate 32 {}
  cores : List CoreSt := List.replicate 128 {}
  clusters : List Cluster := List.replicate 16 {}
  launches : List Launch := []
  felts : List Felt := []
  batts : List Batt := []
  /-- the batt whose word is executed, and the choices for it (log 1) -/
  cur : Nat × Nat := (0, 0)
  choice : Choice := {}
  inputs : List Sched := []
  /-- how many free values have been drawn (log 7) -/
  free : Nat := 0
  deriving DecidableEq, Repr

/-- The machine right after a cold reset, before bring-up (R6, R448): nothing runs; the chosen values are log entries 2 to 8. -/
def State.reset : State := {}

end Sys2Proof.Machine
end

