-- ==== Sys2Proof/Machine/Cells.lean ====
section
/-! DEFINITION. Sparse memory in canonical form, and access to the parts of the state. -/

namespace Sys2Proof.Machine

/-- The byte at an address; an unlisted address reads 0 (R419, log 5; scratchpad and banks: log 6, R312). -/
def Memory.get : Memory → Nat → Byte
  | [], _ => 0
  | (k, v) :: t, a => if k = a then v else if a < k then 0 else Memory.get t a

/-- Write one byte, keeping the canonical form. -/
def Memory.put : Memory → Nat → Byte → Memory
  | [], a, x => if x = 0 then [] else [(a, x)]
  | (k, v) :: t, a, x =>
    if k = a then (if x = 0 then t else (a, x) :: t)
    else if a < k then (if x = 0 then (k, v) :: t else (a, x) :: (k, v) :: t)
    else (k, v) :: Memory.put t a x

/-- Every key of the list lies above `lo` (none: any), keys rise, no byte is 0. -/
def Memory.wfFrom : Option Nat → Memory → Bool
  | _, [] => true
  | lo, (k, v) :: t => (match lo with | none => true | some l => decide (l < k)) && v != 0 && Memory.wfFrom (some k) t

/-- The canonical form: addresses strictly rising, no byte 0. -/
def Memory.wf (m : Memory) : Bool := Memory.wfFrom none m

/-- n bytes from an address. -/
def Memory.read (m : Memory) (a n : Nat) : List Byte := (List.range n).map fun i => m.get (a + i)

/-- Store bytes from an address. -/
def Memory.write : Memory → Nat → List Byte → Memory
  | m, _, [] => m
  | m, a, b :: bs => Memory.write (m.put a b) (a + 1) bs

/-- Store the bytes whose mask bit is set. -/
def Memory.writeMasked (m : Memory) (a : Nat) (mask : DWord) (bs : List Byte) : Memory :=
  (List.range 64).foldl (fun m i => if mask.getLsbD i then m.put (a + i) (bs.getD i 0) else m) m

/-- Remove the bytes of a range (they read 0). -/
def Memory.clearRange (m : Memory) (a n : Nat) : Memory := m.filter fun c => c.1 < a || a + n ≤ c.1

/-! ### Parts of the state -/

/-- Core c. -/
def State.core (s : State) (c : Nat) : CoreSt := s.cores.getD c {}

/-- Change core c. -/
def State.modCore (s : State) (c : Nat) (f : CoreSt → CoreSt) : State := { s with cores := modAt s.cores c f }

/-- Cluster k. -/
def State.cluster (s : State) (k : Nat) : Cluster := s.clusters.getD k {}

/-- Change cluster k. -/
def State.modCluster (s : State) (k : Nat) (f : Cluster → Cluster) : State := { s with clusters := modAt s.clusters k f }

/-- The cluster of a core: 8 cores each (R11). -/
def clusterOf (core : Nat) : Nat := core / 8

/-- The quarter of a batt slot: 48 slots each (R14). -/
def quarterOfSlot (slot : Nat) : Nat := slot / 48

/-- Context x. -/
def State.ctx (s : State) (x : Nat) : Ctx := s.ctxs.getD x {}

/-- Change context x. -/
def State.modCtx (s : State) (x : Nat) (f : Ctx → Ctx) : State := { s with ctxs := modAt s.ctxs x f }

/-- Window w (16: the control trap window). -/
def State.window (s : State) (w : Nat) : Window := s.windows.getD w {}

/-- Change window w. -/
def State.modWindow (s : State) (w : Nat) (f : Window → Window) : State := { s with windows := modAt s.windows w f }

/-- Change the device registers. -/
def State.modDev (s : State) (f : Dev → Dev) : State := { s with dev := f s.dev }

/-- Send something out of the device. -/
def State.emit (s : State) (o : Output) : State := s.modDev fun d => { d with outbox := d.outbox ++ [o] }

/-- The batt at a place. -/
def State.batt? (s : State) (core slot : Nat) : Option Batt := s.batts.find? fun b => b.core == core && b.slot == slot

/-- A batt that stands nowhere. -/
def noBatt : Batt := { core := 0, slot := 0, id := .ctl, space := 0, lanes := [] }

/-- The batt at a place, where one is known to stand. -/
def State.battAt (s : State) (core slot : Nat) : Batt := (s.batt? core slot).getD noBatt

/-- Change the batt at a place. -/
def State.modBatt (s : State) (core slot : Nat) (f : Batt → Batt) : State :=
  { s with batts := mapIf (fun b => b.core == core && b.slot == slot) f s.batts }

/-- The batt of an identity. -/
def State.battOf? (s : State) (id : BattId) : Option Batt := s.batts.find? fun b => b.id == id

/-- Change the batt of an identity. -/
def State.modBattOf (s : State) (id : BattId) (f : Batt → Batt) : State :=
  { s with batts := mapIf (fun b => b.id == id) f s.batts }

/-- The launch of a number. -/
def State.launch? (s : State) (n : Nat) : Option Launch := s.launches.find? fun l => l.lnum == n

/-- Change the launch of a number. -/
def State.modLaunch (s : State) (n : Nat) (f : Launch → Launch) : State :=
  { s with launches := mapIf (fun l => l.lnum == n) f s.launches }

/-- A felt of a launch. -/
def State.felt? (s : State) (n f : Nat) : Option Felt := s.felts.find? fun x => x.lnum == n && x.felt == f

/-- Change a felt. -/
def State.modFelt (s : State) (n f : Nat) (g : Felt → Felt) : State :=
  { s with felts := mapIf (fun x => x.lnum == n && x.felt == f) g s.felts }

/-- The launch number of a batt; the control batt has none (R19). -/
def BattId.lnum : BattId → Nat
  | .ctl => 0
  | .batt n _ _ => n

/-- The felt index of a batt. -/
def BattId.felt : BattId → Nat
  | .ctl => 0
  | .batt _ f _ => f

/-- The number of a batt within its felt. -/
def BattId.b : BattId → Nat
  | .ctl => 0
  | .batt _ _ b => b

/-- The launch of a batt. -/
def State.launchOf (s : State) (b : Batt) : Option Launch :=
  match b.id with
  | .ctl => none
  | .batt n _ _ => s.launch? n

/-- The launch record of a batt; the control batt has an empty one. -/
def State.recOf (s : State) (b : Batt) : LaunchRec :=
  match s.launchOf b with
  | some l => l.recd
  | none => { entry := 0 }

/-- Flags of R109: REPRO, EXACT_ONLY, PURECHECK, AUDITTRAP. -/
def LaunchRec.flag (r : LaunchRec) (k : Nat) : Bool := Nat.testBit r.flags k

/-- Draw a free value: a fresh number for the opaque constants of Config (log 7). -/
def State.draw (s : State) : Nat × State := (s.free, { s with free := s.free + 1 })

/-! ### Registers of a batt (R142, R147) -/

/-- The record of a vector register that is not Unbacked. -/
def Batt.vreg? (b : Batt) (n : Nat) : Option VReg := b.vregs.find? fun r => r.num == n

/-- The lanes of vn: an unbacked register reads 0 (R147). -/
def Batt.vlanes (b : Batt) (n : Nat) : List Word :=
  match b.vreg? n with
  | some r => r.lanes
  | none => List.replicate 32 0

/-- vn in lane L. -/
def Batt.v (b : Batt) (n l : Nat) : Word := (b.vlanes n).getD l 0

/-- The pair wn in lane L: vn is bits [31:0] (R142). -/
def Batt.w (b : Batt) (n l : Nat) : DWord := b.v (n + 1) l ++ b.v n l

/-- The poisoned lanes of vn. -/
def Batt.vpoison (b : Batt) (n : Nat) : Mask :=
  match b.vreg? n with
  | some r => r.poison
  | none => 0

/-- Insert or replace a register record, numbers rising. -/
def putVReg : List VReg → VReg → List VReg
  | [], r => [r]
  | x :: t, r => if x.num = r.num then r :: t else if r.num < x.num then r :: x :: t else x :: putVReg t r

/-- Write vn in the lanes of m: the register is backed and untagged afterwards, and the lanes written lose their poison
(R147, R148, R416). -/
def Batt.setV (b : Batt) (n : Nat) (m : Mask) (val : Nat → Word) : Batt :=
  let r := (b.vreg? n).getD { num := n }
  let r' : VReg := { num := n, backed := true, tag := none, poison := r.poison &&& ~~~m,
                     lanes := laneIds.map fun l => if inMask m l then val l else r.lanes.getD l 0 }
  { b with vregs := putVReg b.vregs r' }

/-- Write the pair wn. -/
def Batt.setW (b : Batt) (n : Nat) (m : Mask) (val : Nat → DWord) : Batt :=
  (b.setV n m fun l => (val l).setWidth 32).setV (n + 1) m fun l => (val l >>> 32).setWidth 32

/-- A register whose backing a word took and did not write gives it up: it is Dropped again, or Unbacked, which has no record (R147). -/
def VReg.giveUp (r : VReg) : Option VReg :=
  if !r.fresh || r.late then some r
  else if r.tag.isSome then some { r with backed := false, fresh := false, lanes := List.replicate 32 0 } else none

/-- The backing that a word took for registers that it did not write is given up (R147, R149, R154; log 69). -/
def Batt.unreserve (b : Batt) : Batt := { b with vregs := b.vregs.filterMap VReg.giveUp }

/-- Registers keep the backing that a word took for them (R151). -/
def Batt.keepBacks (b : Batt) (ns : List Nat) : Batt :=
  { b with vregs := mapIf (fun r => ns.contains r.num && !r.late) (fun r => { r with fresh := false }) b.vregs }

/-- An operation that wrote none of these registers is over: each is what it was before (R147). -/
def Batt.untake (b : Batt) (ns : List Nat) : Batt :=
  ({ b with vregs := mapIf (fun r => ns.contains r.num) (fun r => { r with late := false }) b.vregs } : Batt).unreserve

/-- Poison lanes of vn, backing it if it was unbacked. -/
def Batt.poisonV (b : Batt) (n : Nat) (m : Mask) : Batt :=
  if m = 0 then b else
  let r := (b.vreg? n).getD { num := n }
  { b with vregs := putVReg b.vregs { r with poison := r.poison ||| m } }

/-- Scalar sn. -/
def Batt.s (b : Batt) (n : Nat) : DWord := b.scalars.getD n 0

/-- Write sn whole; it loses its poison (R416). -/
def Batt.setS (b : Batt) (n : Nat) (x : DWord) : Batt :=
  { b with scalars := setAt b.scalars n x, sPoison := b.sPoison &&& ~~~(BitVec.ofNat 64 (2 ^ n)) }

/-- Predicate pn; p7 is pt, 1 in every lane (R142). -/
def Batt.p (b : Batt) (n : Nat) : Mask := if n = 7 then BitVec.allOnes 32 else b.preds.getD n 0

/-- Write pn in the lanes of m. -/
def Batt.setP (b : Batt) (n : Nat) (m : Mask) (x : Mask) : Batt :=
  { b with preds := modAt b.preds n fun old => (old &&& ~~~m) ||| (x &&& m) }

/-- Lane L. -/
def Batt.lane (b : Batt) (l : Nat) : Lane := b.lanes.getD l { st := .exited }

/-- The mask of the lanes that satisfy a test. -/
def Batt.lanesWhere (b : Batt) (p : Lane → Bool) : Mask := maskOf fun l => p (b.lane l)

/-- Exited lanes. -/
def Batt.exited (b : Batt) : Mask := b.lanesWhere fun x => x.st == .exited

/-- Change the lanes of a mask. -/
def Batt.modLanes (b : Batt) (m : Mask) (f : Lane → Lane) : Batt :=
  { b with lanes := b.lanes.mapIdx fun i x => if inMask m i then f x else x }

/-- The lanes of a mask advance by one word and are Ready (R215). What lies past the last word of the 49-bit address space the manual does
not say; the model keeps all 64 bits of the PC, so that word 2^49 is reached, which no fetch can read (R60; log 89). -/
def Batt.advance (b : Batt) (m : Mask) : Batt := b.modLanes m fun x => { pc := x.pc + 8, st := .ready }

/-- The open-region state of R425: [2:0] OPEN, [6:3] NR[1] to NR[4]. -/
def Batt.cont (b : Batt) : Nat :=
  b.regions.length + (b.regions.mapIdx fun i r => if r.hard then 2 ^ (3 + i) else 0).foldl (· + ·) 0

/-- The level that pins a store appended now: that of the innermost region when it is revocable, else 0 (R243). -/
def Batt.pinDepth (b : Batt) : Nat :=
  match b.regions.getLast? with
  | some r => if r.hard then 0 else b.regions.length
  | none => 0

end Sys2Proof.Machine
end

