-- ==== Sys2Proof/Machine/L2.lean ====
section
/-! DEFINITION. Level two, device memory, poison records, the sluice window, the host aperture, and translation
(R232 to R240, R411 to R413, R416 to R421, R443, R444). -/

namespace Sys2Proof.Machine

/-- The home slice of a line (R234), or of its superblock on a COMPRESSIBLE page (R235). -/
def homeSlice (pa : Nat) (comp : Bool) : Nat :=
  let p := if comp then pa / 1024 * 1024 else pa
  (p / 2 ^ 8 % 64) ^^^ (p / 2 ^ 14 % 64) ^^^ (p / 2 ^ 20 % 64) ^^^ (p / 2 ^ 26 % 64) ^^^ (p / 2 ^ 32 % 64)

/-- The 64 bytes of a sector from its first one on. -/
def Loc.run64 (x : Loc) : List Loc := (List.range 64).map fun i => { x with pa := x.pa + i }

/-- The home slice of a location. -/
def Loc.home (x : Loc) : Nat := homeSlice x.pa x.comp

/-- The sector PA[39:6] of a location. -/
def Loc.sector (x : Loc) : Nat := x.pa / 64

/-- The base of the sluice window and of the host aperture (R232). -/
def sluiceBase : Nat := 2 ^ 38

/-- The base of the host aperture (R232). -/
def hostBase : Nat := 2 ^ 39

/-- The target that a physical address reaches, if any (R232). -/
def targetOf (pa : Nat) : Option Target :=
  if pa < sluiceBase then some .dev
  else if pa < sluiceBase + 2 ^ 18 then some .sluice
  else if hostBase ≤ pa ∧ pa < 2 ^ 40 then some .host
  else none

/-- The location of a physical address whose sector a log entry names. -/
def locOf (pa : Nat) (comp : Bool) : Loc := { target := (targetOf pa).getD .dev, pa := pa, comp := comp }

/-- The host bus address behind an aperture address, when its window is enabled (R443). -/
def State.hostAddr (s : State) (pa : Nat) : Option Nat :=
  let o := pa - hostBase
  match s.dev.apertures.getD (o / 2 ^ 31) (0, false) with
  | (bus, true) => some (bus * 2 ^ 31 + o % 2 ^ 31)
  | (_, false) => none

/-- A discarded host request counts in HOSTERR (R444). -/
def State.hostErrInc (s : State) : State := s.modDev fun d => { d with hostErr := BitVec.ofNat 64 ((d.hostErr.toNat + 1) % 2 ^ 32) }

/-! ### Poison (R416 to R421) -/

/-- The physical page is quarantined in some controller's list (R421). -/
def State.pageQuarantined (s : State) (pa : Nat) : Bool := s.controllers.any fun c => c.quarantine.contains (pa / 65536)

/-- The device-memory sector reads as poisoned (R419, R421). -/
def State.devPoisoned (s : State) (pa : Nat) : Bool := s.memPoison.contains (pa / 64) || s.pageQuarantined pa

/-- A new entry in a poison record or quarantine list is announced when POISCTL.IE is 1 (R420). -/
def State.announcePoison (s : State) : State := if s.dev.poisIe then s.emit (.msix s.dev.poisVec) else s

/-- Record a poisoned sector in its controller (R420). -/
def State.recordPoison (s : State) (pa origin : Nat) (comp : Bool) : State :=
  let k := homeSlice pa comp / 2
  let c := s.controllers.getD k {}
  let sector := pa / 64
  if s.pageQuarantined pa || c.poison.any (fun e => e.sector == sector) then s
  else if c.poison.length < 512 then
    ({ s with controllers := setAt s.controllers k { c with poison := c.poison ++ [({ sector := sector, origin := origin } : PoisonEntry)] } }).announcePoison
  else if c.quarantine.length < 64 then
    ({ s with controllers := setAt s.controllers k { c with quarantine := c.quarantine ++ [pa / 65536] } }).announcePoison
  else { s with controllers := setAt s.controllers k { c with ovf := true } }

/-- Poison a device-memory sector (R419, R420). -/
def State.poisonSector (s : State) (pa origin : Nat) (comp : Bool) : State :=
  let s := if s.memPoison.contains (pa / 64) then s else { s with memPoison := s.memPoison ++ [pa / 64] }
  s.recordPoison pa origin comp

/-! ### Level-two sectors (R236, R252) -/

/-- The sector a slice holds. -/
def State.l2At (s : State) (slice sector : Nat) : Option L2Sector :=
  s.l2.find? fun x => x.slice == slice && x.sector == sector

/-- Change or add a sector. -/
def State.putL2 (s : State) (x : L2Sector) : State :=
  if s.l2.any (fun y => y.slice == x.slice && y.sector == x.sector) then
    { s with l2 := mapIf (fun y => y.slice == x.slice && y.sector == x.sector) (fun _ => x) s.l2 }
  else { s with l2 := s.l2 ++ [x] }

/-- The 64 bytes of a device-memory sector as a slice holds it: written bytes, and memory's for the rest (R236). -/
def State.l2Data (s : State) (slice sector : Nat) : List Byte :=
  match s.l2At slice sector with
  | some x => if x.valid then x.data else (List.range 64).map fun i => if x.written.getLsbD i then x.data.getD i 0 else s.mem.get (sector * 64 + i)
  | none => s.mem.read (sector * 64) 64

/-- One byte of device memory as its home holds it. -/
def State.l2Byte (s : State) (x : Loc) : Byte :=
  match s.l2At x.home x.sector with
  | some y => if y.valid || y.written.getLsbD (x.pa % 64) then y.data.getD (x.pa % 64) 0 else s.mem.get x.pa
  | none => s.mem.get x.pa

/-- One byte as a page walk or another reader that knows no COMPRESSIBLE bit finds it (log 9). -/
def State.l2ByteAny (s : State) (pa : Nat) : Byte :=
  match s.l2.find? (fun y => y.sector == pa / 64) with
  | some y => if y.valid || y.written.getLsbD (pa % 64) then y.data.getD (pa % 64) 0 else s.mem.get pa
  | none => s.mem.get pa

/-- The handles of a context whose range holds a virtual address (R240). -/
def State.handlesFor (s : State) (space : Nat) (va : Nat) : List (Nat × Nat) :=
  ((s.ctx space).handles.filter fun h => h.base ≤ va && va < h.base + h.len).map fun h => (space, h.num)

/-! ### Frames, ranks and eviction (R11, R236, R237, R240) -/

/-- The line of a sector. -/
def L2Sector.line (x : L2Sector) : Nat := x.sector / 4

/-- The rank of a handle: its priority plus 1 while it is bound and not demoted (R240). -/
def State.handleRank (s : State) (h : Nat × Nat) : Nat :=
  match (s.ctx h.1).handles.find? fun x => x.num == h.2 with
  | some x => if x.demoted then 0 else x.prio + 1
  | none => 0

/-- Demote a handle (R240). -/
def State.demote (s : State) (h : Nat × Nat) : State :=
  s.modCtx h.1 fun c => { c with handles := mapIf (fun x => x.num == h.2) (fun x => { x with demoted := true }) c.handles }

/-- No line carries the handle any longer (R277: it is dropped, or bound anew). -/
def State.unmark (s : State) (space h : Nat) : State :=
  { s with l2 := s.l2.map fun y : L2Sector => { y with handles := y.handles.filter fun k => !(k.1 == space && k.2 == h) } }

/-- The lines that sectors pin: 256 bytes each (R325). -/
def pinLines (sectors : List Nat) : Nat := ((sectors.map (· / 4)).eraseDups).length

/-- Of the sectors that an operation has read, those that n lines can hold, the last read first. -/
def fitPins (n : Nat) (l : List Nat) : List Nat :=
  if pinLines l ≤ n then l else l.foldr (fun v acc => if pinLines (v :: acc) ≤ n then v :: acc else acc) []

/-- The sectors that the TFU of a core pins: those that its operations have still to consume, at most 2 MiB in all. Where the running
operation has read more, its oldest lose their pins (R325, log 81). -/
def CoreSt.pins (c : CoreSt) : List Nat :=
  match c.mxiq with
  | [] => []
  | o :: rest =>
    fitPins (8192 - (rest.map fun x => pinLines (x.held.map (·.1))).foldl (· + ·) 0) (o.held.map (·.1)) ++
      (rest.map fun x => x.held.map (·.1)).flatten

/-- Does a TFU pin a line: has it read a sector of it that an operation has still to consume (R325)? -/
def State.pinned (s : State) (line : Nat) : Bool := s.cores.any fun c => c.pins.any fun h => h / 4 == line

/-- The sectors of a line that a slice holds. -/
def State.lineSectors (s : State) (slice line : Nat) : List L2Sector := s.l2.filter fun x => x.slice == slice && x.line == line

/-- The handles of a line. -/
def State.lineHandles (s : State) (slice line : Nat) : List (Nat × Nat) := ((s.lineSectors slice line).map (·.handles)).flatten

/-- The rank of a line: the highest of its handles' (R240). -/
def State.lineRank (s : State) (slice line : Nat) : Nat := ((s.lineHandles slice line).map s.handleRank).foldl max 0

/-- When a line was last used. -/
def State.lineUsed (s : State) (slice line : Nat) : Nat := ((s.lineSectors slice line).map (·.used)).foldl max 0

/-- Of some lines of a slice the one of lowest rank, among equals the one least recently used (R240). -/
def State.lowestLine (s : State) (slice : Nat) (lines : List Nat) : Option Nat :=
  lines.foldl (fun acc n => match acc with
    | none => some n
    | some m =>
      if s.lineRank slice n < s.lineRank slice m ||
        (s.lineRank slice n == s.lineRank slice m && s.lineUsed slice n < s.lineUsed slice m) then some n else some m) none

/-- The line that a slice gives up when it needs a frame in the set of a line: of the set's lines that no TFU pins the one of lowest
rank, among equals the one least recently used (R240; the set, log 79). -/
def State.l2Victim (s : State) (slice line : Nat) : Option Nat :=
  s.lowestLine slice ((s.l2.filter fun x => x.slice == slice && Config.l2Set x.line == Config.l2Set line && !s.pinned x.line).map (·.line)).eraseDups

/-- A superblock is no longer compressed: one of its lines changes or leaves (R237). -/
def State.expand (s : State) (slice sector : Nat) : State :=
  if s.l2.any fun x => x.slice == slice && x.sector / 16 == sector / 16 && x.frames != 0 then
    { s with l2 := mapIf (fun x => x.slice == slice && x.sector / 16 == sector / 16) (fun x => { x with frames := 0 }) s.l2 }
  else s

/-- Does level two hold every byte of a sector? -/
def State.l2Whole (s : State) (sector : Nat) : Bool := s.l2.any fun x => x.sector == sector && x.valid

/-- The L1s keep no copy of sectors that level two gives up, but for held ones: what an L1 holds is also in a log or in level two (R17). -/
def State.forgetL1 (s : State) (p : Nat → Bool) : State :=
  { s with cores := s.cores.map fun c =>
      if c.l1.any fun x => p x.sector && x.held.isEmpty then { c with l1 := c.l1.filter fun x => !(p x.sector && x.held.isEmpty) } else c }

/-- A line leaves level two: the dirty bytes of its sectors are written to memory (R236), and no L1 keeps a copy (R17); poison stays
(R419). -/
def State.evictLine (s : State) (slice line : Nat) : State :=
  let xs := s.lineSectors slice line
  let s := xs.foldl (fun s x => { s with mem := s.mem.writeMasked (64 * x.sector) x.dirty x.data }) (s.expand slice (4 * line))
  ({ s with l2 := s.l2.filter fun y => !(y.slice == slice && y.line == line) } : State).forgetL1 fun k => xs.any fun x => x.sector == k

/-- A slice evicts a line as a victim: one of rank 1 or more demotes its handle, the one of highest rank (R240), and of several of one rank
the first that the line holds (log 144). -/
def State.evictVictim (s : State) (slice line : Nat) : State :=
  let best := (s.lineHandles slice line).foldl (fun acc h => match acc with
    | none => some h
    | some g => if s.handleRank g < s.handleRank h then some h else some g) none
  let s := match best with
    | some h => if 0 < s.handleRank h then s.demote h else s
    | none => s
  s.evictLine slice line

/-- Line frames of a slice: 3 MiB (R11). -/
def sliceFrames : Nat := 12288

/-- The frames that a slice uses: one for each line, and those of its compressed superblocks (R237). -/
def State.framesUsed (s : State) (slice : Nat) : Nat :=
  let xs := s.l2.filter fun x => x.slice == slice
  ((xs.filter fun x => x.frames == 0).map (·.line)).eraseDups.length +
    ((((xs.filter fun x => x.frames != 0).map fun x => (x.sector / 16, x.frames)).eraseDups).map (·.2)).foldl (· + ·) 0

/-- Does a line stand in a compressed superblock beside a line that a TFU pins? Its eviction would free no frame: three lines that are no longer
compressed take three. -/
def State.sharesPinned (s : State) (x : L2Sector) : Bool :=
  x.frames != 0 && [0, 1, 2, 3].any fun k => s.pinned (x.sector / 16 * 4 + k)

/-- The line that leaves when an access to a line has brought its slice over its frames: another one that no TFU pins, of the line's
set, or of the slice where the set has none, and one whose leaving can free a frame (R240, log 79). -/
def State.l2Yield (s : State) (slice line : Nat) : Option Nat :=
  let free := s.l2.filter fun x => x.slice == slice && x.line != line && !s.pinned x.line && !s.sharesPinned x
  let near := free.filter fun x => Config.l2Set x.line == Config.l2Set line
  s.lowestLine slice ((if near.isEmpty then free else near).map (·.line)).eraseDups

/-- Evict until the slice keeps to its frames; where no other line can yield one, the line's own superblock does not stay (log 79). -/
def l2FitFrom (slice line : Nat) : Nat → State → State
  | 0, s => s
  | fuel + 1, s =>
    if s.framesUsed slice ≤ sliceFrames then s else
    match s.l2Yield slice line with
    | some n => l2FitFrom slice line fuel (s.evictVictim slice n)
    | none => [0, 1, 2, 3].foldl (fun s k => s.evictLine slice (line / 4 * 4 + k)) s

/-- After an access has allocated a sector, or has ended the compression of its superblock, its slice keeps to 3 MiB (R11, R237, R240).
No more sectors than frames leave room. -/
def State.l2Fit (s : State) (slice sector : Nat) : State :=
  if s.l2.length ≤ sliceFrames then s else l2FitFrom slice (sector / 4) s.l2.length s

/-! ### Reads of level two (R236, R240) -/

/-- The sector of a location as its home holds it, or another one of the line where only such are held: handles and use are the line's
(R240). -/
def State.lineAt (s : State) (x : Loc) : Option L2Sector :=
  (s.l2At x.home x.sector).orElse fun _ => (s.lineSectors x.home (x.sector / 4)).head?

/-- An access reaches a line that its home holds: the line takes the handles of the address, and is the last used (R240). -/
def State.l2Hit (s : State) (x : Loc) (hs : List (Nat × Nat)) : State :=
  match x.target, s.lineAt x with
  | .dev, some y => { s.putL2 { y with used := s.l2Clock, handles := y.handles ++ hs.filter fun h => !y.handles.contains h } with
                      l2Clock := s.l2Clock + 1 }
  | _, _ => s

/-- A read of the bytes of `need` in a sector at its home (R236): one that is absent, or Partial and without some of the bytes, is
fetched from memory and merged, and is Valid. It takes the handles of the address that reached it (R240). -/
def State.l2Read (s : State) (x : Loc) (need : DWord) (hs : List (Nat × Nat)) : State :=
  if x.target != .dev || x.quar || s.pageQuarantined x.pa then s else
  match s.l2At x.home x.sector with
  | some y =>
    (if y.valid || need &&& ~~~y.written == 0 then s
     else s.putL2 { y with valid := true, data := s.l2Data x.home x.sector }).l2Hit x hs
  | none =>
    ((s.putL2 { slice := x.home, sector := x.sector, valid := true, written := 0, dirty := 0,
                data := s.mem.read (x.sector * 64) 64 }).l2Hit x hs).l2Fit x.home x.sector

/-- A fill of a whole sector for an address of a context (R236). -/
def State.l2Fill (s : State) (x : Loc) (space va : Nat) : State := s.l2Read x (BitVec.allOnes 64) (s.handlesFor space va)

/-- The first location of each sector of a run, with its place in the run. -/
def firstOfSectors (locs : List Loc) : List (Nat × Loc) :=
  ((locs.map Loc.sector).eraseDups).filterMap fun k =>
    (findIdx (fun x : Loc => x.sector == k) locs 0).map fun i => (i, locs.getD i {})

/-- A read of bytes at their homes for consecutive addresses of a context from va on, sector by sector. -/
def State.l2ReadAll (s : State) (space va : Nat) (locs : List Loc) : State :=
  (firstOfSectors locs).foldl (fun s p =>
    let need : DWord := (locs.filter fun x => x.sector == p.2.sector).foldl (fun m x => m ||| BitVec.ofNat 64 (2 ^ (x.pa % 64))) 0
    s.l2Read p.2 need (s.handlesFor space (va + p.1))) s

/-- Accesses that write bytes for consecutive addresses of a context from va on: the lines that level two holds take the handles of the
addresses, and are the last used (R240). -/
def State.l2HitAll (s : State) (space va : Nat) (locs : List Loc) : State :=
  (firstOfSectors locs).foldl (fun s p => s.l2Hit p.2 (s.handlesFor space (va + p.1))) s

/-- A change reaches a watched sector: the monitors that name it are noticed (R291). -/
def State.notice (s : State) (t : Target) (sector : Nat) : State :=
  { s with clusters := s.clusters.map fun k =>
      if k.monitors.any (fun m => m.target == t && m.sector == sector) then
        { k with monitors := mapIf (fun m => m.target == t && m.sector == sector) (fun m => { m with noticed := true }) k.monitors }
      else k }

/-- Apply masked bytes to a device-memory sector (R236): into an Invalid sector they allocate it Partial. `ext` is an external
write (R252). Bytes for a quarantined page change nothing (R421). -/
def State.l2Apply (s : State) (x : Loc) (mask : DWord) (bytes : List Byte) (ext : Bool) : State :=
  if x.quar || s.pageQuarantined x.pa then s else
  let old : L2Sector := (s.l2At x.home x.sector).getD
    { slice := x.home, sector := x.sector, valid := false, written := 0, dirty := 0, data := List.replicate 64 0 }
  let data := (List.range 64).map fun i => if mask.getLsbD i then bytes.getD i 0 else old.data.getD i 0
  let new : L2Sector := { old with data := data, written := old.written ||| mask, dirty := old.dirty ||| mask, ext := old.ext || ext,
                                   used := s.l2Clock, frames := 0 }
  let s := (s.expand x.home x.sector).putL2 new
  (({ s with l2Clock := s.l2Clock + 1 } : State).l2Fit x.home x.sector).notice .dev x.sector

/-- Apply masked bytes to the sluice SRAM (R233, R445). -/
def State.sluiceApply (s : State) (pa : Nat) (mask : DWord) (bytes : List Byte) : State :=
  ({ s with sluice := s.sluice.writeMasked (pa / 64 * 64 - sluiceBase) mask bytes }).notice .sluice (pa / 64)

/-- A posted write to the host: through a disabled window it is discarded (R443, R444). -/
def State.hostWrite (s : State) (pa : Nat) (mask : DWord) (bytes : List Byte) (poisoned : Bool) : State :=
  match s.hostAddr (pa / 64 * 64) with
  | some a => s.emit (.write a ((List.range 64).map fun i => if mask.getLsbD i then some (bytes.getD i 0) else none) poisoned)
  | none => s.hostErrInc

/-- Bytes and poison reach a sector's home or target (R254): a poisoned entry poisons the sector. Through a quarantined
translation nothing changes (R421). -/
def State.applyAt (s : State) (x : Loc) (mask : DWord) (bytes : List Byte) (pois ext : Bool) : State :=
  if x.quar then s else
  match x.target with
  | .dev =>
    let s := s.l2Apply x mask bytes ext
    if pois && !s.pageQuarantined x.pa then s.poisonSector x.pa 1 x.comp else s
  | .sluice =>
    let s := s.sluiceApply x.pa mask bytes
    if pois && !s.sluicePoison.contains x.sector then { s with sluicePoison := s.sluicePoison ++ [x.sector] } else s
  | .host => s.hostWrite x.pa mask bytes pois

/-- One byte at its home or target, and whether it is poisoned (R233, R419, R421, R444). -/
def State.homeByte (s : State) (x : Loc) : Byte × Bool :=
  match x.target with
  | .dev => (s.l2Byte x, x.quar || s.devPoisoned x.pa)
  | .sluice => (s.sluice.get (x.pa - sluiceBase), x.quar || s.sluicePoison.contains x.sector)
  | .host =>
    match s.hostAddr x.pa with
    | some a => (Config.hostByte s.free a, x.quar)
    | none => (0, true)

/-! ### Translation (R411 to R413) -/

/-- The outcome of a translation. -/
inductive TransRes where
  | ok (loc : Loc) (pte : DWord) (big : Bool)
  /-- XLAT: replayable or not, and the level at which V was 0 -/
  | xlat (replayable : Bool) (level : Nat)
  | poison
  deriving DecidableEq, Repr

/-- PTE bit (R412). -/
def pteBit (e : DWord) (k : Nat) : Bool := e.getLsbD k

/-- The malformed entries of R412, of a device with `top` bytes of memory (R440). -/
def pteMalformed (top : Nat) (e : DWord) (level : Nat) : Bool :=
  let leaf := pteBit e 7
  let pa := fld e 39 16 * 65536
  let size := if level = 2 then 2 ^ 27 else 2 ^ 16
  fld e 63 40 != 0 || fld e 15 9 != 0 || (leaf && level == 1) || (!leaf && level == 3) ||
  (!leaf && (pteBit e 8 || fld e 6 1 != 0 || top ≤ pa)) ||
  (leaf && level == 2 && (fld e 26 16 != 0 || pteBit e 6)) ||
  (leaf && (match targetOf pa with
    | some .dev => pteBit e 5 || pteBit e 6 || top < pa + size
    | some .sluice => pteBit e 5 || !pteBit e 6
    | some .host => !pteBit e 5 || pteBit e 6
    | none => true)) ||
  (leaf && pteBit e 3 && pteBit e 1)

/-- The location of a virtual address under a leaf (R411). -/
def leafLoc (e : DWord) (big : Bool) (va : DWord) : Loc :=
  let pa := fld e 39 16 * 65536 + (if big then fld va 26 0 else fld va 15 0)
  { target := (targetOf pa).getD .dev, pa := pa, comp := pteBit e 4, quar := pteBit e 8 }

/-- The walk of R411 from the table at t, over the levels still to come. -/
def State.walkFrom (s : State) (va : DWord) : List (Nat × Nat) → Nat → TransRes
  | [], _ => .xlat false 0
  | (level, hi) :: rest, t =>
    let a := t + 8 * fld va hi (hi - 10)
    let e := BitVec.ofNat 64 (numOf ((List.range 8).map fun i => s.l2ByteAny (a + i)))
    if s.devPoisoned a then .poison
    else if !pteBit e 0 then .xlat true level
    else if pteMalformed (s.dev.memGib * 2 ^ 30) e level then .xlat false level
    else if pteBit e 7 then .ok (leafLoc e (level == 2) va) e (level == 2)
    else s.walkFrom va rest (fld e 39 16 * 65536)

/-- The root of an address space (R411; log 4 for the control address space). -/
def State.rootOf (s : State) (space : Nat) : Nat := if space = 16 then s.dev.ctlRoot else (s.ctx space).root

/-- Walk (R411). -/
def State.walk (s : State) (space : Nat) (va : DWord) : TransRes :=
  if s.rootOf space = 0 then .xlat false 0 else s.walkFrom va [(1, 48), (2, 37), (3, 26)] (s.rootOf space)

/-- The virtual page number of a leaf. -/
def vpageOf (big : Bool) (va : DWord) : Nat := if big then fld va 48 27 else fld va 48 16

/-- The translations of an address that a core's TLB, then its cluster's, hold: more than one where the tables have changed and no
invalidation has completed (R413). -/
def State.tlbHits (s : State) (core space : Nat) (va : DWord) : List TlbEntry :=
  ((s.core core).tlb1 ++ (s.cluster (clusterOf core)).tlb2).filter fun t => t.space == space && t.vpage == vpageOf t.big va

/-- Which translation an access uses: the walk's, 0, or the n-th held, from 1 on (R413). -/
def Choice.tlbOf (ch : Choice) (who : Nat) (va : DWord) : Nat :=
  match ch.tlb.find? fun x => x.1 == who && x.2.1 == va with
  | some x => x.2.2
  | none => if ch.useTlb then 1 else 0

/-- Translate an address that a core accesses: bits [63:49] are checked first (R266), then a held translation or a walk. R413 lets each
access use either until an invalidation completes: `who` makes the access, a lane, the fetch (32), a check of an engine's ranges (33) or a lane
of a recipe's load (64 and above), and the choice of the issue names it by that and its address (log 138). -/
def State.translate (s : State) (core space who : Nat) (va : DWord) : TransRes :=
  if fld va 63 49 != 0 then .xlat false 0 else
  match s.choice.tlbOf who va with
  | 0 => s.walk space va
  | n + 1 =>
    match (s.tlbHits core space va)[n]? with
    | some t => .ok (leafLoc t.pte t.big va) t.pte t.big
    | none => s.walk space va

/-- A TLB keeps a leaf it has not, beside one that it held of the page before: 192 entries in a core, 4,096 in a cluster (R413). -/
def tlbKeep (cap : Nat) (l : List TlbEntry) (t : TlbEntry) : List TlbEntry :=
  if l.contains t then l else (l ++ [t]).drop (l.length + 1 - cap)

/-- The entries that a walk reads (R411). -/
def State.walkReads (s : State) (va : DWord) : List Nat → Nat → List Nat
  | [], _ => []
  | hi :: rest, t =>
    let a := t + 8 * fld va hi (hi - 10)
    let e := BitVec.ofNat 64 (numOf ((List.range 8).map fun i => s.l2ByteAny (a + i)))
    a :: if s.devPoisoned a || !pteBit e 0 || pteBit e 7 then [] else s.walkReads va rest (fld e 39 16 * 65536)

/-- A walk reads its entries through level two (R236, R411). -/
def State.walkFills (s : State) (space : Nat) (va : DWord) : State :=
  if s.rootOf space = 0 then s else
  (s.walkReads va [48, 37, 26] (s.rootOf space)).foldl (fun s a =>
    match s.l2.find? fun y => y.sector == a / 64 with
    | some y => s.l2Read (locOf a (homeSlice a false != y.slice)) (0xFF <<< (a % 64)) []
    | none => s.l2Read (locOf a false) (0xFF <<< (a % 64)) []) s

/-- Where the bytes of a run of addresses lie, up to the first that has no translation. -/
def State.runLocs (s : State) (space : Nat) : DWord → Nat → List Loc
  | _, 0 => []
  | va, n + 1 =>
    match (if fld va 63 49 != 0 then TransRes.xlat false 0 else s.walk space va) with
    | .ok loc _ _ => loc :: s.runLocs space (va + 1) n
    | _ => []

/-- The device reads runs of bytes of a context's memory: what it reads of level two is fetched and merged, the entries of its walks
first (R236, R240, R411). It changes no value that a later read finds. -/
def State.fetchRuns (s : State) (space : Nat) (runs : List (DWord × Nat)) : State :=
  runs.foldl (fun s r =>
    let pages := ((List.range r.2).map fun i => (r.1 + BitVec.ofNat 64 i).toNat / 65536).eraseDups
    (pages.foldl (fun s p => s.walkFills space (BitVec.ofNat 64 (65536 * p))) s).l2ReadAll space r.1.toNat (s.runLocs space r.1 r.2)) s

/-- A successful walk fills both TLB levels (R413). -/
def State.tlbFill (s : State) (core space : Nat) (va : DWord) : State :=
  let s := s.walkFills space va
  match s.walk space va with
  | .ok _ pte big =>
    let t : TlbEntry := { space := space, vpage := vpageOf big va, big := big, pte := pte }
    (s.modCore core fun c => { c with tlb1 := tlbKeep 192 c.tlb1 t }).modCluster (clusterOf core)
      fun k => { k with tlb2 := tlbKeep 4096 k.tlb2 t }
  | _ => s

end Sys2Proof.Machine
end

