-- ==== Sys2Proof/Machine/Log.lean ====
section
/-! DEFINITION. The store log, publication, acquires, fulling and the first-level cache (R238 to R260, R285). -/

namespace Sys2Proof.Machine

/-! ### Publication numbers (R245) -/

/-- The number after g: mod 2^48, 0 skipped. -/
def nextNumber (g : Nat) : Nat := let n := (g + 1) % 2 ^ 48; if n = 0 then 1 else n

/-- a precedes b as serial numbers. -/
def serialLt (a b : Nat) : Bool :=
  let d := (b + 2 ^ 48 - a % 2 ^ 48) % 2 ^ 48
  1 ≤ d && d ≤ 2 ^ 47 - 1

/-- a precedes or equals b. -/
def serialLe (a b : Nat) : Bool := a == b || serialLt a b

/-- The later of two numbers. -/
def serialMax (a b : Nat) : Nat := if serialLt a b then b else a

/-- Is the entry published? -/
def LogEntry.published (e : LogEntry) : Bool := 2 ≤ e.scope

/-- Insert into a list ordered by `lt`, after equals. -/
def insertBy {α : Type} (lt : α → α → Bool) : List α → α → List α
  | [], x => [x]
  | y :: t, x => if lt x y then x :: y :: t else y :: insertBy lt t x

/-- Sort by `lt`, stably. -/
def sortBy {α : Type} (lt : α → α → Bool) (l : List α) : List α := l.foldl (insertBy lt) []

/-- How many numbers have been granted since n, all 2^48 of them in a ring: of two outstanding numbers the lower has the greater age, for these
lie within 2^46 of the one granted last (R245). -/
def numberAge (granted n : Nat) : Nat := (granted + 2 ^ 48 - n % 2 ^ 48) % 2 ^ 48

/-- Is an entry taken and applied before another: at a lower number, or at the same one earlier in the log (R253, R254)? -/
def LogEntry.before (granted : Nat) (a b : LogEntry) : Bool :=
  numberAge granted b.num < numberAge granted a.num || (numberAge granted a.num == numberAge granted b.num && a.pos < b.pos)

/-- Every published, unpinned entry of the device with its core, in the order in which the homes apply them: ascending
number, then log order (R253, R254). -/
def State.publishedOrder (s : State) : List (Nat × LogEntry) :=
  let all := (s.cores.mapIdx fun c k => (k.log.filter fun e => e.published && e.depth == 0).map fun e => (c, e)).flatten
  sortBy (fun x y => x.2.before s.dev.granted y.2) all

/-! ### Applying entries (R238, R253, R254) -/

/-- Write masked bytes into an L1 copy. -/
def L1Sector.merge (x : L1Sector) (mask : DWord) (bytes : List Byte) (pois : Bool) : L1Sector :=
  { x with data := (List.range 64).map fun i => if mask.getLsbD i then bytes.getD i 0 else x.data.getD i 0
           poison := x.poison || pois }

/-- An L1 after the entry (core, pos) was applied at its home: the hold ends, a former copy that an atomic invalidated
disappears once nothing is held (R238), and so does a copy of a sector that `whole` does not name, which level two has given up while
the copy was held (R17). -/
def l1Released (whole : Nat → Bool) (l : List L1Sector) (core pos : Nat) : List L1Sector :=
  l.filterMap fun x =>
    let held := x.held.filter fun h => !(h.1 == core && h.2 == pos)
    if held.isEmpty && (x.gone || (!x.held.isEmpty && !whole x.sector)) then none else some { x with held := held }

/-- An L1 of another core when an entry of core `c` is applied at its home: a copy filled before it keeps the bytes for its next
acquire (R249), unless that entry has been replayed into it already. -/
def l1Owed (c view : Nat) (e : LogEntry) (l : List L1Sector) : List L1Sector :=
  if serialLe e.num view then l else
  mapIf (fun x => x.sector == e.sector && !x.gone && !x.held.contains (c, e.pos))
    (fun x => { x with replays := x.replays ++ [(e.num, e.mask, e.data, e.pois)] }) l

/-- The core's own entry is written into its L1 copy (R238). What the copy is still owed was applied at the home before it, so the
entry's bytes stand over those. -/
def L1Sector.own (x : L1Sector) (e : LogEntry) : L1Sector :=
  { x.merge e.mask e.data e.pois with replays := x.replays.map fun r => (r.1, r.2.1 &&& ~~~e.mask, r.2.2) }

/-- Write back changed bytes of an atomic unit's locations that an address space has operated on, as external writes (R252, R285). -/
def State.writeBackLocs (s : State) (space : Nat) (l : List AtomLoc) : State :=
  (l.filter fun x => x.spaces.contains space && (x.changed || x.poison)).foldl (fun s x =>
    let loc : Loc := { target := .dev, pa := x.addr, comp := x.comp }
    let mask := if x.changed then BitVec.ofNat 64 (2 ^ (x.addr % 64)) else 0
    s.applyAt loc mask ((List.range 64).map fun _ => x.byte) x.poison true) s

/-- Does a unit's location hold a byte that an entry writes? -/
def LogEntry.covers (e : LogEntry) (y : AtomLoc) : Bool := y.addr / 64 == e.sector && e.mask.getLsbD (y.addr % 64)

/-- Before an entry of a core is applied, the units of the core and its cluster give up the bytes that it writes, written back, so that the
next atomic there fetches them from the home and sees the store (R283, R285; log 112). -/
def State.unitsYield (s : State) (core : Nat) (e : LogEntry) : State :=
  let l := ((s.core core).atomUnit ++ (s.cluster (clusterOf core)).atomStore).filter e.covers
  if l.isEmpty then s else
  ((l.foldl (fun s y => s.writeBackLocs (y.spaces.headD 0) [y]) s).modCore core fun c =>
    { c with atomUnit := c.atomUnit.filter fun y => !e.covers y }).modCluster (clusterOf core) fun k =>
    { k with atomStore := k.atomStore.filter fun y => !e.covers y }

/-- Apply one published entry: into its own core's L1 (R238), at its home or target (R254), and out of the log. -/
def State.applyEntry (s : State) (core : Nat) (e : LogEntry) : State :=
  let s := (s.unitsYield core e).modCore core fun c =>
    { c with l1 := mapIf (fun x => x.sector == e.sector && !x.gone) (fun x => x.own e) c.l1 }
  let s := s.applyAt (locOf (e.sector * 64) e.comp) e.mask e.data e.pois false
  let s := s.modCore core fun c => { c with log := c.log.filter fun x => x.pos != e.pos }
  { s with cores := s.cores.mapIdx fun i c =>
      if c.l1.isEmpty then c else
      let owed := if i = core then c.l1 else l1Owed core c.view e c.l1
      { c with l1 := l1Released s.l2Whole owed core e.pos } }

/-- Apply every published entry that satisfies a test, in the order of R254. -/
def State.drainWhere (s : State) (p : Nat → LogEntry → Bool) : State :=
  (s.publishedOrder.filter fun x => p x.1 x.2).foldl (fun s x => s.applyEntry x.1 x.2) s

/-- Apply every published entry numbered at or below q (R255). -/
def State.drainUpTo (s : State) (q : Nat) : State := s.drainWhere fun _ e => serialLe e.num q

/-! ### Publishing (R245, R247) -/

/-- A publication of core c up to a log position, at SCOPE 2 or 3: the number and the state. A number whose predecessor 2^46
earlier has unfulled entries is granted only after they are applied (R245). -/
def State.publish (s : State) (core upto scope : Nat) : Nat × State :=
  let q := nextNumber s.dev.granted
  let s := s.drainUpTo ((q + 2 ^ 48 - 2 ^ 46) % 2 ^ 48)
  let s := s.modDev fun d => { d with granted := q }
  let cover (e : LogEntry) : Bool := e.depth == 0 && e.scope ≤ 1 && e.pos < upto
  (q, s.modCore core fun c =>
    { c with log := mapIf cover (fun e => { e with scope := scope, num := q }) c.log
             marks := c.marks.filter fun m => upto < m.pos })

/-- An early publication of the entries of a core that satisfy a test: up to the last of them (R253). -/
def State.publishEarly (s : State) (core : Nat) (p : LogEntry → Bool) : State :=
  match ((s.core core).log.filter fun e => e.depth == 0 && e.scope ≤ 1 && p e).getLast? with
  | some e => (s.publish core (e.pos + 1) 2).2
  | none => s

/-- Publish early and apply every unpinned entry of a core that satisfies a test, with all that must come before it. -/
def State.fullEntries (s : State) (core : Nat) (p : LogEntry → Bool) : State :=
  let s := s.publishEarly core p
  match ((s.core core).log.filter fun e => e.published && e.depth == 0 && p e).foldl
      (fun acc e => match acc with | none => some e.num | some q => some (serialMax q e.num)) none with
  | some q => s.drainUpTo q
  | none => s

/-! ### Write-back of the atomic units (R285) -/

/-- Write back a core's L1 atomic unit for an address space. -/
def State.writeBackL1Unit (s : State) (core space : Nat) : State :=
  let l := (s.core core).atomUnit
  (s.writeBackLocs space l).modCore core fun c => { c with atomUnit := c.atomUnit.filter fun x => !x.spaces.contains space }

/-- Write back a cluster's atomic store for an address space. -/
def State.writeBackStore (s : State) (k space : Nat) : State :=
  let l := (s.cluster k).atomStore
  (s.writeBackLocs space l).modCluster k fun c => { c with atomStore := c.atomStore.filter fun x => !x.spaces.contains space }

/-- Every unit of the device gives up an address space (launch retirement, kill). -/
def State.writeBackAll (s : State) (space : Nat) : State :=
  let s := (List.range s.cores.length).foldl (fun s c => if (s.core c).atomUnit.isEmpty then s else s.writeBackL1Unit c space) s
  (List.range s.clusters.length).foldl (fun s k => if (s.cluster k).atomStore.isEmpty then s else s.writeBackStore k space) s

/-! ### Releases (R246, R247, R258) -/

/-- Every open region of a batt becomes non-revocable (R258), and its pinned entries unpin (R242): also those of its
pending copies and its peat entries (R243, R360). -/
def State.harden (s : State) (core slot : Nat) : State :=
  let s := s.modBatt core slot fun b => { b with regions := b.regions.map fun r => { r with hard := true } }
  let s := s.modCore core fun c =>
    { c with log := mapIf (fun e => e.owner == slot) (fun e => { e with depth := 0 }) c.log
             copyq := mapIf (fun o => o.slot == slot) (fun o => { o with depth := 0 }) c.copyq
             mxiq := mapIf (fun o => o.slot == slot) (fun o => { o with depth := 0 }) c.mxiq }
  s.modCluster (clusterOf core) fun k => { k with peat := mapIf (fun e => e.owner == (s.battAt core slot).id) (fun e => { e with depth := 0 }) k.peat }

/-- Harden only where a region is open. -/
def State.hardenOpen (s : State) (core slot : Nat) : State :=
  if (s.battAt core slot).regions.isEmpty then s else s.harden core slot

/-- A core-scope release: a local mark at the tail (R246, R247). -/
def State.releaseCore (s : State) (core space : Nat) : State :=
  s.modCore core fun c =>
    let marks := if c.marks.length < 64 then c.marks ++ [{ pos := c.nextPos, spaces := [space] }]
      else match c.marks.getLast? with
        | some m => c.marks.dropLast ++ [{ pos := c.nextPos, spaces := if m.spaces.contains space then m.spaces else m.spaces ++ [space] }]
        | none => c.marks
    { c with marks := marks,
             log := c.log.map fun e => if e.depth == 0 && e.scope == 0 then { e with scope := 1, marked := true } else { e with marked := true } }

/-- A device-scope release by a batt of an address space: the units of its core and cluster write back first (R285), then a
number is granted up to the log tail. -/
def State.releaseDevice (s : State) (core space scope : Nat) : Nat × State :=
  let s := (s.writeBackL1Unit core space).writeBackStore (clusterOf core) space
  s.publish core (s.core core).nextPos scope

/-- A system-scope release fulls its publication too (R246). -/
def State.releaseSystem (s : State) (core space : Nat) : Nat × State :=
  let (q, s) := s.releaseDevice core space 3
  (q, s.drainUpTo q)

/-- A release at SC 0 core, 1 cluster, 2 device, 3 system (R246): its number, 0 at core scope. -/
def State.releaseAt (s : State) (core space sc : Nat) : Nat × State :=
  if sc = 0 then (0, s.releaseCore core space)
  else if sc = 3 then s.releaseSystem core space
  else s.releaseDevice core space 2

/-! ### Acquires (R249 to R251) -/

/-- Before a replay of number q into core c's copy of a sector, c's own entries for it with a lower number are fulled, with what
must come before them: R255 lets the device full at any moment, and the log would otherwise hide the replayed bytes. -/
def State.ownFirst (s : State) (c sector q : Nat) : State :=
  match ((s.core c).log.filter fun e => e.published && e.depth == 0 && e.sector == sector && serialLt e.num q).foldl
      (fun acc e => match acc with | none => some e.num | some n => some (serialMax n e.num)) none with
  | some n => s.drainUpTo n
  | none => s

/-- Bring one unapplied entry of another core into the view of core c: into a valid L1 copy, which is then held, or by
waiting until its home has it (R249). -/
def State.viewEntry (s : State) (c : Nat) (x : Nat × LogEntry) : State :=
  let e := x.2
  if ((s.core x.1).log.any fun y => y.pos == e.pos) then
    if (s.core c).l1.any (fun y => y.sector == e.sector && !y.gone) then
      let s := s.ownFirst c e.sector e.num
      let see (y : L1Sector) : L1Sector :=
        let z := y.merge e.mask e.data e.pois
        { z with held := y.held ++ [(x.1, e.pos)] }
      s.modCore c fun k => { k with l1 := mapIf (fun y => y.sector == e.sector && !y.gone) see k.l1 }
    else s.drainWhere fun _ y => serialLt y.num e.num || (y.num == e.num && y.pos ≤ e.pos)
  else s

/-- The bytes an L1 copy is owed from entries that were applied since its fill, up to point p (R249). -/
def L1Sector.settle (p : Nat) (x : L1Sector) : L1Sector :=
  let due := x.replays.filter fun r => serialLe r.1 p
  let y := due.foldl (fun y r => y.merge r.2.1 r.2.2.1 r.2.2.2) x
  { y with replays := x.replays.filter fun r => !serialLe r.1 p }

/-- The acquire of R249 on core c with point p: first what applied entries owe its copies, then the unapplied ones in ascending
number. A home applies a sector's entries in that order (R254), so an unapplied one never comes before one that is owed. -/
def State.acquireDevice (s : State) (c p : Nat) : State :=
  let view := (s.core c).view
  let s := s.modCore c fun k => { k with l1 := k.l1.map fun x => x.settle p }
  let due := s.publishedOrder.filter fun x => x.1 != c && serialLt view x.2.num && serialLe x.2.num p
  let s := due.foldl (fun s x => s.viewEntry c x) s
  s.modCore c fun k => { k with l1 := k.l1.filter fun x => !x.held.isEmpty || x.isLocal, view := serialMax k.view p }

/-- The acquire of R251: then every L1 sector that is not held goes. Host writes are performed in the step that accepts
them, so none is outstanding. -/
def State.acquireSystem (s : State) (c p : Nat) : State :=
  (s.acquireDevice c p).modCore c fun k => { k with l1 := k.l1.filter fun x => !x.held.isEmpty }

/-- An acquire at SC 0 core (R250: no change), 1 cluster, 2 device, 3 system, with point p. -/
def State.acquireTo (s : State) (core sc p : Nat) : State :=
  if sc = 0 then s else if sc = 3 then s.acquireSystem core p else s.acquireDevice core p

/-- An acquire whose point is GRANTED as it stands (R249). -/
def State.acquireAt (s : State) (core sc : Nat) : State := s.acquireTo core sc s.dev.granted

/-- A promotion request reaches a core (R247): it publishes up to its youngest mark of the address space. -/
def State.promote (s : State) (core space : Nat) : State :=
  match ((s.core core).marks.filter fun m => m.spaces.contains space).getLast? with
  | some m => (s.publish core m.pos 2).2
  | none => s

/-- An address space leaves the set of every mark; an empty mark goes (R247). -/
def State.dropMarks (s : State) (space : Nat) : State :=
  { s with cores := s.cores.map fun c => if c.marks.isEmpty then c else
      { c with marks := (c.marks.map fun m => { m with spaces := m.spaces.filter (· != space) }).filter fun m => !m.spaces.isEmpty } }

/-! ### Appending (R243, R244) -/

/-- One sector's part of a store: its location, mask and bytes. -/
structure SectorWrite where
  loc : Loc
  mask : DWord
  data : List Byte
  deriving DecidableEq, Repr

/-- Add one byte to the parts of a store, which stay in ascending sector order; a later byte replaces an earlier one. -/
def addByte : List SectorWrite → Loc → Byte → List SectorWrite
  | [], x, b => [{ loc := x, mask := BitVec.ofNat 64 (2 ^ (x.pa % 64)), data := (List.replicate 64 (0 : Byte)).set (x.pa % 64) b }]
  | w :: t, x, b =>
    if w.loc.sector = x.sector then
      { w with mask := w.mask ||| BitVec.ofNat 64 (2 ^ (x.pa % 64)), data := w.data.set (x.pa % 64) b } :: t
    else if x.sector < w.loc.sector then
      { loc := x, mask := BitVec.ofNat 64 (2 ^ (x.pa % 64)), data := (List.replicate 64 (0 : Byte)).set (x.pa % 64) b } :: w :: t
    else w :: addByte t x b

/-- The parts of a store of bytes in lane order: the highest lane's byte stands (R243). -/
def sectorWrites (bytes : List (Loc × Byte)) : List SectorWrite := bytes.foldl (fun l x => addByte l x.1 x.2) []

/-- The entry a sector write coalesces into, if the conditions of R244 hold. -/
def coalesceTarget (log : List LogEntry) (w : SectorWrite) (owner space depth : Nat) (pois : Bool) : Option LogEntry :=
  match (log.filter fun e => e.sector == w.loc.sector).getLast? with
  | some e => if e.owner == owner && e.space == space && e.depth == depth && e.scope == 0 && !e.marked && !e.taken &&
                 !e.pois && !pois then some e else none
  | none => none

/-- Does the log have room for a store's parts (R243, R257)? -/
def logRoom (c : CoreSt) (ws : List SectorWrite) (owner space depth : Nat) (pois decline : Bool) : Bool :=
  let fresh := ws.filter fun w => decline || (coalesceTarget c.log w owner space depth pois).isNone
  c.log.length + fresh.length ≤ 768

/-- Append or coalesce one part (R243, R244). -/
def appendOne (owner space depth : Nat) (pois decline : Bool) (c : CoreSt) (w : SectorWrite) : CoreSt :=
  match (if decline then none else coalesceTarget c.log w owner space depth pois) with
  | some e =>
    { c with log := mapIf (fun x => x.pos == e.pos) (fun x => { x with
        mask := x.mask ||| w.mask
        data := (List.range 64).map fun i => if w.mask.getLsbD i then w.data.getD i 0 else x.data.getD i 0 }) c.log }
  | none =>
    { c with log := c.log ++ [{ pos := c.nextPos, sector := w.loc.sector, seq := c.seq, depth := depth, pois := pois, space := space,
                                mask := w.mask, data := w.data, comp := w.loc.comp, owner := owner }]
             nextPos := c.nextPos + 1, seq := (c.seq + 1) % 2 ^ 20 }

/-- Append a store (R243). -/
def State.append (s : State) (core owner space depth : Nat) (pois : Bool) (ws : List SectorWrite) : State :=
  s.modCore core fun c => ws.foldl (appendOne owner space depth pois s.choice.noCoalesce) c

/-! ### Loads (R238, R239) -/

/-- The entry of the log that supplies a byte to a batt's load: the youngest with the byte, entries pinned by another batt's
region skipped (R239, R242). -/
def logSupply (log : List LogEntry) (slot : Nat) (x : Loc) : Option LogEntry :=
  (log.filter fun e => e.sector == x.sector && e.mask.getLsbD (x.pa % 64) && (e.depth == 0 || e.owner == slot)).getLast?

/-- The L1 copy a load may read: held ones also under cache policy 2 (R239). -/
def l1Supply (l1 : List L1Sector) (cp : Nat) (x : Loc) : Option L1Sector :=
  l1.find? fun y => y.sector == x.sector && !y.gone && (cp != 2 || !y.held.isEmpty)

/-- One byte of a load and whether it is poisoned (R239, R417, R421). -/
def State.loadByte (s : State) (core slot cp : Nat) (x : Loc) : Byte × Bool :=
  match logSupply (s.core core).log slot x with
  | some e => (e.data.getD (x.pa % 64) 0, e.pois || x.quar || (x.target == .dev && s.pageQuarantined x.pa))
  | none =>
    match (if x.target == .dev then l1Supply (s.core core).l1 cp x else none) with
    | some y => (y.data.getD (x.pa % 64) 0, y.poison || x.quar || s.pageQuarantined x.pa)
    | none => s.homeByte x

/-- A load that needs a sector whose held copy an atomic invalidated waits until the replayed entries are applied (R238). -/
def State.settleGone (s : State) (core sector : Nat) : State :=
  match (s.core core).l1.find? (fun y => y.sector == sector && y.gone) with
  | some y => y.held.foldl (fun s h =>
      match ((s.core h.1).log.find? fun e => e.pos == h.2) with
      | some e => s.drainUpTo e.num
      | none => s) s
  | none => s

/-- An L1 without its n oldest sectors that are not held (R17, R238). -/
def l1Trim : Nat → List L1Sector → List L1Sector
  | 0, l => l
  | _ + 1, [] => []
  | n + 1, x :: t => if x.held.isEmpty then l1Trim n t else x :: l1Trim (n + 1) t

/-- Sectors of the L1 beside a scratchpad partition of p KiB: the rest of the 576 KiB (R11, R17). -/
def l1Sectors (p : Nat) : Nat := (576 - p) * 16

/-- A load fills the L1 (policies 0 and 1) with the sector as level two holds it (R238, R252). A full L1 gives up its oldest sector
that is not held; where every one is held, or level two could not keep the sector (R17), nothing is filled. -/
def State.l1Fill (s : State) (core : Nat) (x : Loc) : State :=
  if x.target != .dev || s.devPoisoned x.pa then s else
  if (s.core core).l1.any (fun y => y.sector == x.sector) then s else
  match s.l2At x.home x.sector with
  | none => s
  | some y =>
    s.modCore core fun c =>
      let l := l1Trim (c.l1.length + 1 - l1Sectors c.partition) c.l1
      if l.length < l1Sectors c.partition then
        { c with l1 := l ++ [{ sector := x.sector, data := s.l2Data x.home x.sector, isLocal := !y.ext }] }
      else c

/-! ### Fulling, unwinding and kills (R257 to R260) -/

/-- The DEPTH of what a batt appends: that of its innermost region (R243), or for the engine operation `op` the depth that the closes
and hardenings since its issue have left it. -/
def State.depthFor (s : State) (core slot : Nat) : Option Nat → Nat
  | none => (s.battAt core slot).pinDepth
  | some id => (((s.core core).copyq.find? fun o => o.id == id).map (·.depth)).getD 0

/-- Relief of a log that is wholly pinned: the innermost region of the owner of the lowest entry hardens, until one unpins
(R257). -/
def State.relievePinned (s : State) (core : Nat) : State :=
  if (s.core core).log.all (fun e => e.depth != 0) then
    match (s.core core).log.head? with
    | some e => s.harden core e.owner
    | none => s
  else s

/-- A full log makes room (R255, R257): pinned relief, early publication of everything unpinned, and fulling. -/
def State.fullLog (s : State) (core : Nat) : State :=
  (s.relievePinned core).fullEntries core fun _ => true

/-- Discard the entries of a batt's regions at depth d and deeper (R259). -/
def State.discardLog (s : State) (core slot d : Nat) : State :=
  s.modCore core fun c => { c with log := c.log.filter fun e => !(e.owner == slot && d ≤ e.depth) }

/-- A kill acts on every log at one moment: published entries of the space are fulled, the others discarded (R260). -/
def State.killLogs (s : State) (space : Nat) : State :=
  let cut (c : CoreSt) : CoreSt :=
    if c.log.isEmpty then c else { c with log := c.log.filter fun e => e.space != space || (e.published && e.depth == 0) }
  let s : State := { s with cores := s.cores.map cut }
  match (s.publishedOrder.filter fun x => x.2.space == space).getLast? with
  | some x => s.drainWhere fun _ e => numberAge s.dev.granted x.2.num ≤ numberAge s.dev.granted e.num
  | none => s

end Sys2Proof.Machine
end

