-- ==== Sys2Proof/Machine/Barrier.lean ====
section
/-! DEFINITION. The issue queues of a quarter (R121) and the barrier units (R295 to R307). -/

namespace Sys2Proof.Machine

/-! ### Active set and ready queue (R121) -/

/-- Change a quarter. -/
def State.modQuarter (s : State) (core q : Nat) (f : Quarter → Quarter) : State :=
  s.modCore core fun c => { c with quarters := modAt c.quarters q f }

/-- The quarter. -/
def State.quarter (s : State) (core q : Nat) : Quarter := (s.core core).quarters.getD q {}

/-- A slot gives up its active position, which is now the one freed last (R121). -/
def Quarter.release (q : Quarter) (slot : Nat) : Quarter :=
  let out := (List.range q.active.length).filter fun i => q.active.getD i none == some slot
  { q with active := q.active.map fun x => if x = some slot then none else x
           freed := (q.freed.filter fun i => !out.contains i) ++ out }

/-- The free position that was freed first. The manual does not say which of several free positions takes a batt that reaches an empty
queue: the model takes the one freed first, and after a reset, when all eight are free, the lowest (log 125). -/
def Quarter.nextFree (q : Quarter) : Option Nat :=
  (q.freed.find? fun i => i < q.active.length && q.active.getD i none == none).orElse fun _ => findIdx Option.isNone q.active 0

/-- A batt leaves the active set. -/
def State.leaveActive (s : State) (core slot : Nat) : State := s.modQuarter core (quarterOfSlot slot) fun q => q.release slot

/-- A batt joins the tail of its quarter's ready queue. -/
def State.joinReady (s : State) (core slot : Nat) : State :=
  s.modQuarter core (quarterOfSlot slot) fun q => { q with ready := q.ready ++ [slot] }

/-- A batt leaves both (exit, save, kill). -/
def State.leaveQueues (s : State) (core slot : Nat) : State :=
  s.modQuarter core (quarterOfSlot slot) fun q => { q.release slot with ready := q.ready.filter (· != slot) }

/-- Is the batt in the active set? -/
def State.isActive (s : State) (core slot : Nat) : Bool := (s.quarter core (quarterOfSlot slot)).active.contains (some slot)

/-- Is the batt queued? -/
def State.isQueued (s : State) (core slot : Nat) : Bool := (s.quarter core (quarterOfSlot slot)).ready.contains slot

/-- Is nothing keeping the batt from being ready: no halt, no fault, no rest, no long-latency wait (R121, R129, R404)? -/
def Batt.free (b : Batt) : Bool := !b.halted && !b.faulted && !b.resting && !b.claim && b.wait == .none

/-! ### Splits and turns (R125, R214) -/

/-- The lanes of the split that a lane belongs to: equal program counter and state (R214). -/
def Batt.splitOf (b : Batt) (l : Nat) : Mask := b.lanesWhere fun x => x == b.lane l

/-- Is the lane's split eligible: Ready, or waiting at a barrier (R125, R215)? -/
def Lane.eligible (x : Lane) : Bool := x.st == .ready || x.st == .barrier

/-- The lowest lanes of the eligible splits, ascending. -/
def Batt.eligibleLows (b : Batt) : List Nat :=
  laneIds.filter fun l => (b.lane l).eligible && lowLane (b.splitOf l) == some l

/-- The lowest lane of the turn-holding split: the first at or above CURSOR, or else the first (R125). -/
def Batt.turn (b : Batt) : Option Nat :=
  match b.eligibleLows.find? fun l => b.cursor ≤ l with
  | some l => some l
  | none => b.eligibleLows.head?

/-- The first line of R125: a new turn-holder resets CURSOR and QUANT. -/
def Batt.takeTurn (b : Batt) (low : Nat) : Batt := if low = b.cursor then b else { b with cursor := low, quant := 0 }

/-- The counting lines of R125, with the number of eligible splits when the word issued. -/
def Batt.countTurn (b : Batt) (low n : Nat) : Batt :=
  let q := if 1 < n then b.quant + 1 else b.quant
  if q = 32 then { b with cursor := (low + 1) % 32, quant := 0 } else { b with quant := q }

/-- The count of an issue whose wait has ended: no other split issued meanwhile, so CURSOR is still the waiting split's (R125, R126);
|E| is that of the issue. -/
def Batt.finishTurn (b : Batt) : Batt := b.countTurn b.cursor b.waitN

/-- A wait has ended: the turn is counted and the lanes of the word's ACTIVE advance (R125, R215); those outside it advanced as the word
issued. -/
def Batt.endWait (b : Batt) : Batt := { b.finishTurn.advance b.waitM with wait := .none }

/-! ### Barriers -/

/-- Scope of a barrier kind's release and acquire (R295): 0 core for felt barriers, 2 device. -/
def barScope (kind : Nat) : Nat := if kind = 0 then 0 else 2

/-- How many barriers of a kind the launch declares (R109). -/
def LaunchRec.barCount (r : LaunchRec) (kind : Nat) : Nat := if kind = 0 then r.fbar else if kind = 1 then r.cbar else r.lbar

/-- The member mask of a kind (R109). -/
def LaunchRec.barMem (r : LaunchRec) (kind : Nat) : Nat := if kind = 0 then r.fbmem else if kind = 1 then r.cbmem else r.lbmem

/-- Is the batt a member (R295)? The control batt is a member of none (R19). -/
def Batt.isMember (b : Batt) (r : LaunchRec) (kind : Nat) : Bool :=
  match b.id with
  | .ctl => false
  | .batt _ _ n => Nat.testBit (r.barMem kind) n

/-- Where a barrier stands: its launch, and the felt or the cluster. -/
structure BarRef where
  kind : Nat
  num : Nat
  lnum : Nat
  felt : Nat
  cluster : Nat
  deriving DecidableEq, Repr

/-- The instance a batt names: of its felt, of its launch on its cluster, or of its launch. -/
def Batt.barRef (b : Batt) (kind num : Nat) : BarRef :=
  { kind := kind, num := num, lnum := b.id.lnum, felt := if kind = 0 then b.id.felt else 0, cluster := if kind = 1 then clusterOf b.core else 0 }

/-- The barriers of an instance's group. -/
def State.bars (s : State) (r : BarRef) : List Barrier :=
  if r.kind = 0 then ((s.felt? r.lnum r.felt).map (·.bars)).getD []
  else match s.launch? r.lnum with
    | none => []
    | some l => if r.kind = 1 then ((l.cbars.find? fun x => x.1 == r.cluster).map (·.2)).getD [] else l.lbars

/-- The barrier. -/
def State.bar (s : State) (r : BarRef) : Barrier := (s.bars r).getD r.num {}

/-- Change the barrier. -/
def State.modBar (s : State) (r : BarRef) (f : Barrier → Barrier) : State :=
  if r.kind = 0 then s.modFelt r.lnum r.felt fun x => { x with bars := modAt x.bars r.num f }
  else s.modLaunch r.lnum fun l =>
    if r.kind = 1 then { l with cbars := mapIf (fun x => x.1 == r.cluster) (fun x => (x.1, modAt x.2 r.num f)) l.cbars }
    else { l with lbars := modAt l.lbars r.num f }

/-- PEND in its range (R298). -/
def pendOk (x : Int) : Bool := -(2 ^ 23) ≤ x && x ≤ 2 ^ 23 - 1

/-- What a barrier event did to arrivals: those counted, with generation and phase, and those refused at admission. -/
structure BarNews where
  counted : List (BattId × Nat × Bool) := []
  refused : List BattId := []
  deriving DecidableEq, Repr

/-- Does the barrier complete (R298)? -/
def Barrier.ripe (x : Barrier) : Bool := x.touched && (x.arrived : Int) == x.count && x.pend == 0

/-- Completion (R298), without the admissions. -/
def Barrier.complete (x : Barrier) : Barrier :=
  { x with phase := !x.phase, arrived := 0, touched := false, gen := x.gen + 1 }

/-- Count one arrival. -/
def Barrier.count1 (x : Barrier) (bytes : Int) : Barrier :=
  { x with arrived := x.arrived + 1, pend := x.pend + bytes, touched := true }

/-- Completions and the admissions they bring (R298): after each counted arrival the barrier is checked again; admission goes
on until an arrival is held again, which keeps its place at the head (log 108). `due` is true while admissions are due. -/
def settleBar : Nat → Bool → Barrier → BarNews → Barrier × BarNews
  | 0, _, x, n => (x, n)
  | fuel + 1, due, x, n =>
    if x.ripe then settleBar fuel true x.complete n
    else if due && (x.arrived : Int) < x.count then
      match x.held with
      | [] => (x, n)
      | .red :: t => settleBar fuel true ({ x with held := t }.count1 0) n
      | .batt id v :: t =>
        if pendOk (x.pend + v) then
          settleBar fuel true ({ x with held := t }.count1 v) { n with counted := n.counted ++ [(id, x.gen, x.phase)] }
        else settleBar fuel true { x with held := t } { n with refused := n.refused ++ [id] }
    else (x, n)

/-- The check after an event; a frozen launch completes nothing (R310). -/
def checkBar (frozen : Bool) (x : Barrier) : Barrier × BarNews :=
  if frozen then (x, {}) else settleBar (2 * x.held.length + 4) false x {}

/-- An arrival (R298): counted, held, or refused because its bytes do not fit. -/
def arriveBar (frozen : Bool) (x : Barrier) (who : Held) (bytes : Int) : Barrier × BarNews :=
  if (x.arrived : Int) < x.count then
    if pendOk (x.pend + bytes) then
      let y := x.count1 bytes
      let n : BarNews := match who with | .batt id _ => { counted := [(id, x.gen, x.phase)] } | .red => {}
      let (z, m) := checkBar frozen y
      (z, { counted := n.counted ++ m.counted, refused := m.refused })
    else (x, { refused := match who with | .batt id _ => [id] | .red => [] })
  else ({ x with held := x.held ++ [who] }, {})

/-- The waiters on a barrier after an event that found it in generation `g0`: BARS of a completed generation and BARW of a changed
phase acquire and go on (R302, R304). One event may bring several completions (R298): the first of them releases every BARW that
waited, whatever the last leaves as phase. Their lanes leave state 3; their issue has counted already (R125). -/
def State.wakeBar (s : State) (r : BarRef) (g0 : Nat) : State :=
  let x := s.bar r
  let woken (b : Batt) : Bool :=
    b.id.lnum == r.lnum && b.id != .ctl && (b.barRef r.kind r.num == r) &&
    (match b.wait with
     | .counted k n g => k == r.kind && n == r.num && g < x.gen
     | .phase k n p => k == r.kind && n == r.num && (p != x.phase || g0 < x.gen)
     | _ => false)
  (s.batts.filter woken).foldl (fun s b =>
    (s.acquireAt b.core (barScope r.kind)).modBatt b.core b.slot fun b =>
      { b.advance (b.lanesWhere fun x => x.st == .barrier) with wait := .none }) s

/-- What the batts learn of a barrier event (R298, R302): an admitted BARV or BART goes on, BARV with PH writes its scalar, an
admitted BARS waits for its generation. A refused BART is told so by `refused` in its wait; its trap is taken by the caller. -/
def State.tellBar (s : State) (r : BarRef) (g0 : Nat) (n : BarNews) : State :=
  let s := n.counted.foldl (fun s x =>
    match s.battOf? x.1 with
    | none => s
    | some b =>
      match b.wait with
      | .held _ _ _ i =>
        match i with
        | .bars _ => s.modBattOf x.1 fun b => { b.finishTurn with wait := .counted r.kind r.num x.2.1 }
        | .barv f => s.modBattOf x.1 fun b =>
            let b := if f.mb 0 then b.setS f.d.toNat (if x.2.2 then 1 else 0) else b
            { b.finishTurn.advance (b.lanesWhere fun l => l.st == .barrier) with wait := .none }
        | _ => s.modBattOf x.1 fun b => { b.finishTurn.advance (b.lanesWhere fun l => l.st == .barrier) with wait := .none }
      | _ => s) s
  s.wakeBar r g0

/-- A barrier takes the state that an event leaves, and the batts learn of it. -/
def State.putBar (s : State) (r : BarRef) (x : Barrier) (n : BarNews) : State := (s.modBar r fun _ => x).tellBar r (s.bar r).gen n

/-- Is the launch of a barrier frozen by a pre-emption (R310)? -/
def State.barFrozen (s : State) (r : BarRef) : Bool := ((s.launch? r.lnum).map (·.frozen)).getD false

/-- An arrival at a barrier, and what follows from it. -/
def State.barArrive (s : State) (r : BarRef) (who : Held) (bytes : Int) : BarNews × State :=
  let (x, n) := arriveBar (s.barFrozen r) (s.bar r) who bytes
  (n, s.putBar r x n)

/-- Bytes added to PEND without an arrival, or subtracted by a copy (R298): none when they do not fit. -/
def State.barBytes (s : State) (r : BarRef) (v : Int) : Option (BarNews × State) :=
  let x := s.bar r
  if pendOk (x.pend + v) then
    let (y, n) := checkBar (s.barFrozen r) { x with pend := x.pend + v, touched := true }
    some (n, s.putBar r y n)
  else none

/-- A member batt has exited: COUNT falls by one at every barrier it is a member of, and each is checked (R298). -/
def State.barExit (s : State) (b : Batt) : List BarNews × State :=
  let recd := s.recOf b
  [0, 1, 2].foldl (fun acc kind =>
    if b.isMember recd kind then
      (List.range (recd.barCount kind)).foldl (fun acc num =>
        let s := acc.2
        let r := b.barRef kind num
        let x := s.bar r
        let (y, n) := checkBar (s.barFrozen r) { x with count := x.count - 1 }
        (acc.1 ++ [n], s.putBar r y n)) acc
    else acc) ([], s)

/-- The barrier state word (R134): HELD counts RED arrivals, saturated at 127. -/
def Barrier.word (x : Barrier) : DWord :=
  let reds := (x.held.filter fun h => h == .red).length
  BitVec.ofNat 64 (x.arrived % 2 ^ 32 * 2 ^ 32 + min reds 127 * 2 ^ 25 + (if x.phase then 2 ^ 24 else 0) + modPow x.pend 24)

end Sys2Proof.Machine
end

