-- ==== Sys2Proof/Machine/Numbers.lean ====
section
/-! DEFINITION. Number formats and rounding (R29 to R59), exactly: a finite value is an integer times a power of two. -/

namespace Sys2Proof.Machine

/-! ### Formats -/

/-- How a format's codes are special. -/
inductive FmtKind where
  | ieee
  | p8 (signed inf : Bool)
  deriving DecidableEq, Repr

/-- A floating format: width of a code, precision, trailing bits of a code, bias, largest finite magnitude as an integer times a
power of two. -/
structure Fmt where
  width : Nat
  p : Nat
  tw : Nat
  bias : Int
  maxM : Nat
  maxE : Int
  kind : FmtKind := .ieee
  deriving DecidableEq, Repr

/-- emin = 1 - bias (R41). -/
def Fmt.emin (f : Fmt) : Int := 1 - f.bias

/-- binary64 (R29). -/
def f64 : Fmt := { width := 64, p := 53, tw := 52, bias := 1023, maxM := 2 ^ 53 - 1, maxE := 971 }
/-- binary32 (R29). -/
def f32 : Fmt := { width := 32, p := 24, tw := 23, bias := 127, maxM := 2 ^ 24 - 1, maxE := 104 }
/-- binary16 (R29). -/
def h16 : Fmt := { width := 16, p := 11, tw := 10, bias := 15, maxM := 2 ^ 11 - 1, maxE := 5 }
/-- bfloat16 (R29). -/
def bf16 : Fmt := { width := 16, p := 8, tw := 7, bias := 127, maxM := 2 ^ 8 - 1, maxE := 120 }
/-- A16 of R196: precision 16, binary32's exponent range, and its values as binary32 codes. -/
def a16 : Fmt := { width := 32, p := 16, tw := 23, bias := 127, maxM := 2 ^ 16 - 1, maxE := 112 }

/-- The value of a code of a P3109 format before its special codes (R31): magnitude M x 2^E. -/
def p8Mag (p : Nat) (bias : Int) (code : Nat) : Nat × Int :=
  let e := code / 2 ^ (p - 1)
  let t := code % 2 ^ (p - 1)
  if e = 0 then (t, 1 - bias - (p - 1 : Nat)) else (2 ^ (p - 1) + t, (e : Int) - bias - (p - 1 : Nat))

/-- The P3109 format of a code 1sippp (R31, R32, R36). -/
def p8Fmt (code : Nat) : Fmt :=
  let p := code % 8
  let signed := Nat.testBit code 4
  let inf := Nat.testBit code 3
  let bias : Int := if signed then 2 ^ (7 - p) else 2 ^ (8 - p)
  let top := (if signed then 0x7F else 0xFE) - (if inf then 1 else 0)
  let m := p8Mag p bias top
  { width := 8, p := p, tw := p - 1, bias := bias, maxM := m.1, maxE := m.2, kind := .p8 signed inf }

/-! ### Values -/

/-- A decoded value: NaN (does it raise invalid when used?), infinity and zero with sign, or a nonzero n x 2^e. -/
inductive FVal where
  | nan (signalling : Bool)
  | inf (neg : Bool)
  | zero (neg : Bool)
  | fin (n : Int) (e : Int)
  deriving DecidableEq, Repr

/-- A finite value, zero included (positive zero when n = 0). -/
def FVal.ofInt (n e : Int) : FVal := if n = 0 then .zero false else .fin n e

/-- Sign of a value. -/
def FVal.neg : FVal → Bool
  | .nan _ => false
  | .inf s => s
  | .zero s => s
  | .fin n _ => n < 0

/-- Decode a code (R29 to R32). -/
def decodeF (f : Fmt) (x : Nat) : FVal :=
  match f.kind with
  | .ieee =>
    let ew := f.width - 1 - f.tw
    let s := Nat.testBit x (f.width - 1)
    let e := x / 2 ^ f.tw % 2 ^ ew
    let t := x % 2 ^ f.tw
    if e = 2 ^ ew - 1 then (if t = 0 then .inf s else .nan (!Nat.testBit t (f.tw - 1)))
    else if e = 0 then
      (if t = 0 then .zero s else .fin (if s then -(t : Int) else t) (f.emin - (f.tw : Nat)))
    else
      let m : Int := 2 ^ f.tw + t
      .fin (if s then -m else m) ((e : Int) - f.bias - (f.tw : Nat))
  | .p8 true inf =>
    if x = 0x80 then .nan false
    else if x = 0 then .zero false
    else if inf ∧ x = 0x7F then .inf false
    else if inf ∧ x = 0xFF then .inf true
    else let m := p8Mag f.p f.bias (x % 128); .fin (if 128 ≤ x then -(m.1 : Int) else m.1) m.2
  | .p8 false inf =>
    if x = 0xFF then .nan false
    else if x = 0 then .zero false
    else if inf ∧ x = 0xFE then .inf false
    else let m := p8Mag f.p f.bias x; .fin m.1 m.2

/-- The NaN code or canonical NaN (R30, R32). -/
def Fmt.nanCode (f : Fmt) : Nat :=
  match f.kind with
  | .ieee => (2 ^ (f.width - f.tw) - 1) * 2 ^ (f.tw - 1)
  | .p8 true _ => 0x80
  | .p8 false _ => 0xFF

/-- Has the format an infinity of this sign? -/
def Fmt.hasInf (f : Fmt) (neg : Bool) : Bool :=
  match f.kind with
  | .ieee => true
  | .p8 signed inf => inf && (signed || !neg)

/-- The code of an infinity the format has. -/
def Fmt.infCode (f : Fmt) (neg : Bool) : Nat :=
  match f.kind with
  | .ieee => (if neg then 2 ^ (f.width - 1) else 0) + (2 ^ (f.width - 1 - f.tw) - 1) * 2 ^ f.tw
  | .p8 true _ => if neg then 0xFF else 0x7F
  | .p8 false _ => 0xFE

/-- The code of a zero: formats without a negative zero store 0 (R44). -/
def Fmt.zeroCode (f : Fmt) (neg : Bool) : Nat :=
  match f.kind with
  | .ieee => if neg then 2 ^ (f.width - 1) else 0
  | .p8 _ _ => 0

/-- m shifted by k places. -/
def shiftN (m : Nat) (k : Int) : Nat := if 0 ≤ k then m * 2 ^ k.toNat else m / 2 ^ (-k).toNat

/-- The code of a representable finite magnitude M x 2^E. -/
def Fmt.magCode (f : Fmt) (m : Nat) (e : Int) : Nat :=
  if m = 0 then 0 else
  let l := (log2 m : Int) + e
  if l < f.emin then shiftN m (e - (f.emin - (f.tw : Nat)))
  else (l + f.bias).toNat * 2 ^ f.tw + (shiftN m (e - (l - (f.tw : Nat))) - 2 ^ f.tw)

/-- The code of a finite value of a sign. -/
def Fmt.finCode (f : Fmt) (neg : Bool) (m : Nat) (e : Int) : Nat :=
  if m = 0 then f.zeroCode neg else (if neg then 2 ^ (f.width - 1) else 0) + f.magCode m e

/-- The largest finite value of a sign. -/
def Fmt.maxCode (f : Fmt) (neg : Bool) : Nat := f.finCode neg f.maxM f.maxE

/-! ### Rounding (R41 to R45) -/

/-- Flags, in the order of FPSR (R47). -/
def NV : Nat := 1
/-- Division by zero. -/
def DZ : Nat := 2
/-- Overflow. -/
def OF : Nat := 4
/-- Underflow. -/
def UF : Nat := 8
/-- Inexact. -/
def NX : Nat := 16
/-- Saturation. -/
def SATF : Nat := 32

/-- A result: its code, its flags, and whether it is tiny (R43). -/
structure FRes where
  bits : Nat
  flags : Nat := 0
  tiny : Bool := false
  deriving DecidableEq, Repr

/-- Round n x 2^e (n nonzero) to a grid of precision p, with exponents no lower than emin when one is given: the multiple k of
2^qe, and whether it is exact (R41). Modes: 0 rn, 1 rz, 2 rp, 3 rm, 4 rna. -/
def roundGrid (p : Nat) (bias : Int) (emin : Option Int) (mode : Nat) (n e : Int) : Int × Int × Bool :=
  let l : Int := (log2 n.natAbs : Int) + e
  let e1 : Int := match emin with | some m => max l m | none => l
  let qe : Int := e1 - (p - 1 : Nat)
  if qe ≤ e then (n * 2 ^ (e - qe).toNat, qe, true)
  else
    let d : Int := 2 ^ (qe - e).toNat
    let lo := n / d
    let r := n % d
    if r = 0 then (lo, qe, true)
    else
      let hi := lo + 1
      let k :=
        if mode = 1 then (if 0 ≤ lo then lo else hi)
        else if mode = 2 then hi
        else if mode = 3 then lo
        else if 2 * r < d then lo
        else if d < 2 * r then hi
        else if mode = 4 then (if 0 ≤ lo then hi else lo)
        else if p = 1 ∧ e1 = l then
          let near := if 0 ≤ lo then lo else hi
          let far := if 0 ≤ lo then hi else lo
          if (e1 + bias) % 2 = 0 then near else far
        else if lo % 2 = 0 then lo else hi
      (k, qe, false)

/-- Compare a x 2^i with b x 2^j. -/
def magLt (a : Nat) (i : Int) (b : Nat) (j : Int) : Bool :=
  let m := min i j
  a * 2 ^ (i - m).toNat < b * 2 ^ (j - m).toNat

/-- Is the value tiny in the format (R43)? -/
def Fmt.isTiny (f : Fmt) (mode : Nat) (n e : Int) : Bool :=
  let r := roundGrid f.p f.bias none mode n e
  magLt r.1.natAbs r.2.1 1 f.emin

/-- The outcome of an overflow (R42), with saturation (R45). -/
def Fmt.overflow (f : Fmt) (mode : Nat) (sat neg : Bool) : FRes :=
  let toInf := if mode = 1 then false else if mode = 2 then !neg else if mode = 3 then neg else true
  if !toInf then { bits := f.maxCode neg, flags := OF ||| NX }
  else if sat then { bits := f.maxCode neg, flags := OF ||| NX ||| SATF }
  else { bits := if f.hasInf neg then f.infCode neg else f.nanCode, flags := OF ||| NX }

/-- RoundTo of a nonzero n x 2^e, with the flags of R42 to R45. An unsigned P3109 target takes no negative value (R44, R45). -/
def roundTo (f : Fmt) (mode : Nat) (sat : Bool) (n e : Int) : FRes :=
  let r := roundGrid f.p f.bias (some f.emin) mode n e
  let neg := decide (n < 0)
  let tiny := f.isTiny mode n e
  let inexact := (if r.2.2 then 0 else NX) ||| (if tiny && !r.2.2 then UF else 0)
  if f.kind = .p8 false true ∨ f.kind = .p8 false false then
    if neg then
      if r.1 = 0 then { bits := 0, flags := inexact, tiny := tiny }
      else if sat then { bits := 0, flags := SATF ||| NX }
      else { bits := 0xFF, flags := NV }
    else if magLt f.maxM f.maxE r.1.natAbs r.2.1 then f.overflow mode sat neg
    else { bits := f.finCode false r.1.natAbs r.2.1, flags := inexact, tiny := tiny }
  else if magLt f.maxM f.maxE r.1.natAbs r.2.1 then f.overflow mode sat neg
  else { bits := f.finCode neg r.1.natAbs r.2.1, flags := inexact, tiny := tiny }

/-- A NaN result: canonical, with invalid or not. -/
def nanRes (f : Fmt) (invalid : Bool) : FRes := { bits := f.nanCode, flags := if invalid then NV else 0 }

/-! ### Sums and products (R56, R187, R191) -/

/-- A product as a term of an exact sum: infinity times zero is an invalid NaN. -/
def mulVal : FVal → FVal → FVal
  | .nan a, .nan b => .nan (a || b)
  | .nan a, _ => .nan a
  | _, .nan b => .nan b
  | .inf a, .inf b => .inf (a != b)
  | .inf _, .zero _ => .nan true
  | .zero _, .inf _ => .nan true
  | .inf a, .fin n _ => .inf (a != decide (n < 0))
  | .fin n _, .inf b => .inf (b != decide (n < 0))
  | .zero a, .zero b => .zero (a != b)
  | .zero a, .fin n _ => .zero (a != decide (n < 0))
  | .fin n _, .zero b => .zero (b != decide (n < 0))
  | .fin m i, .fin n j => .fin (m * n) (i + j)

/-- Change the sign of a value. -/
def FVal.negate : FVal → FVal
  | .nan s => .nan s
  | .inf s => .inf !s
  | .zero s => .zero !s
  | .fin n e => .fin (-n) e

/-- The exact sum of two dyadics. -/
def addDy (a b : Int × Int) : Int × Int :=
  let m := min a.2 b.2
  (a.1 * 2 ^ (a.2 - m).toNat + b.1 * 2 ^ (b.2 - m).toNat, m)

/-- The dyadic of a finite value. -/
def FVal.dyadic : FVal → Int × Int
  | .fin n e => (n, e)
  | _ => (0, 0)

/-- The exact sum of finite terms; zeros add nothing. -/
def sumDy (l : List FVal) : Int × Int :=
  (l.filterMap fun v => match v with | .fin n e => some (n, e) | _ => none).foldl
    (fun acc x => if acc.1 = 0 then x else addDy acc x) (0, 0)

/-- Is the term a NaN? -/
def FVal.isNan : FVal → Bool
  | .nan _ => true
  | _ => false

/-- Does using the value raise invalid? -/
def FVal.isSig : FVal → Bool
  | .nan s => s
  | _ => false

/-- A fused sum of terms, rounded once (R55, R56). -/
def fusedSum (f : Fmt) (mode : Nat) (terms : List FVal) : FRes :=
  let pinf := terms.contains (.inf false)
  let ninf := terms.contains (.inf true)
  if terms.any FVal.isNan || (pinf && ninf) then nanRes f (terms.any FVal.isSig || (pinf && ninf))
  else if pinf then { bits := f.infCode false }
  else if ninf then { bits := f.infCode true }
  else
    let x := sumDy terms
    if x.1 = 0 then
      { bits := f.zeroCode ((terms.all fun t => t == .zero true) || mode == 3) }
    else roundTo f mode false x.1 x.2

/-- A product, rounded once. -/
def mulRes (f : Fmt) (mode : Nat) (a b : FVal) : FRes :=
  match mulVal a b with
  | .nan s => nanRes f s
  | .inf s => { bits := f.infCode s }
  | .zero s => { bits := f.zeroCode s }
  | .fin n e => roundTo f mode false n e

/-- A positive quotient as a dyadic with a sticky last bit: it rounds as the exact quotient does. -/
def divDy (m n : Nat) : Nat × Int :=
  let s := 140 + log2 n
  let q := m * 2 ^ s / n
  (2 * q + (if m * 2 ^ s % n = 0 then 0 else 1), -(s : Int) - 1)

/-- Division (R191). -/
def divRes (f : Fmt) (mode : Nat) (a b : FVal) : FRes :=
  let s := a.neg != b.neg
  match a, b with
  | .nan x, .nan y => nanRes f (x || y)
  | .nan x, _ => nanRes f x
  | _, .nan y => nanRes f y
  | .inf _, .inf _ => nanRes f true
  | .inf _, _ => { bits := f.infCode s }
  | _, .inf _ => { bits := f.zeroCode s }
  | .zero _, .zero _ => nanRes f true
  | .zero _, _ => { bits := f.zeroCode s }
  | .fin _ _, .zero _ => { bits := f.infCode s, flags := DZ }
  | .fin m i, .fin n j =>
    let q := divDy m.natAbs n.natAbs
    roundTo f mode false (if s then -(q.1 : Int) else q.1) (q.2 + i - j)

/-- Floor of the square root, bit by bit from bit `k`. -/
def isqrtFrom : Nat → Nat → Nat → Nat
  | 0, _, r => r
  | k + 1, n, r => if (r + 2 ^ k) * (r + 2 ^ k) ≤ n then isqrtFrom k n (r + 2 ^ k) else isqrtFrom k n r

/-- Floor of the square root. -/
def isqrt (n : Nat) : Nat := isqrtFrom (log2 n / 2 + 1) n 0

/-- The root of a positive dyadic, with a sticky last bit. -/
def sqrtDy (m : Nat) (e : Int) : Nat × Int :=
  let odd := e % 2 = 1
  let m1 := (if odd then 2 * m else m) * 2 ^ 140
  let e1 := (if odd then e - 1 else e) / 2 - 70
  let r := isqrt m1
  (2 * r + (if r * r = m1 then 0 else 1), e1 - 1)

/-- Square root (R191). -/
def sqrtRes (f : Fmt) (mode : Nat) (a : FVal) : FRes :=
  match a with
  | .nan s => nanRes f s
  | .inf true => nanRes f true
  | .inf false => { bits := f.infCode false }
  | .zero s => { bits := f.zeroCode s }
  | .fin n e => if n < 0 then nanRes f true else let r := sqrtDy n.natAbs e; roundTo f mode false r.1 r.2

/-- Scaling by a power of two (R191); beyond 2^5000 every outcome is the same. -/
def scaleRes (f : Fmt) (mode : Nat) (a : FVal) (k : Int) : FRes :=
  match a with
  | .nan s => nanRes f s
  | .inf s => { bits := f.infCode s }
  | .zero s => { bits := f.zeroCode s }
  | .fin n e => roundTo f mode false n (e + max (-5000) (min 5000 k))

/-! ### Comparison of values -/

/-- The sign of a - b for values that are no NaN; the two zeros are equal. -/
def cmpVal (a b : FVal) : Int :=
  let rank (v : FVal) : Int := match v with | .inf true => -1 | .inf false => 1 | _ => 0
  if rank a ≠ rank b then rank a - rank b
  else if rank a ≠ 0 then 0
  else (addDy a.dyadic ((-(b.dyadic.1)), b.dyadic.2)).1

/-! ### Flush to zero (R49) -/

/-- A subnormal operand becomes a zero of its sign. -/
def ftzIn (on : Bool) (f : Fmt) (v : FVal) : FVal :=
  match on, v with
  | true, .fin n e => if magLt n.natAbs e 1 f.emin then .zero (decide (n < 0)) else v
  | _, _ => v

/-- A tiny nonzero result becomes a zero of its sign, with underflow and inexact. -/
def ftzOut (on : Bool) (f : Fmt) (r : FRes) : FRes :=
  if on && r.tiny then { bits := f.zeroCode (Nat.testBit r.bits (f.width - 1)), flags := (r.flags ||| UF) ||| NX, tiny := true }
  else r

/-! ### Approximations (R196, R197): f(x) to more than 150 bits, then rounded to A16 -/

/-- Floor of pi x 2^200. -/
def piFix : Nat := 5048344754617993871973410141242436836214643421488662971535368

/-- Floor of the natural logarithm of 2 x 2^200. -/
def ln2Fix : Nat := 1113844574712631719546256151097547306333272293549090750737802

/-- The series of e^y for 0 ≤ y < 1, y in units of 2^-200. -/
def expSeries : Nat → Nat → Nat → Nat → Nat → Nat
  | 0, _, _, _, acc => acc
  | fuel + 1, i, y, t, acc => let t' := t * y / 2 ^ 200 / i; expSeries fuel (i + 1) y t' (acc + t')

/-- 2^x for a value m x 2^e: a positive dyadic; `exact` when x is an integer. -/
def exp2Dy (m e : Int) : Nat × Int × Bool :=
  let lim (k : Int) : Int := max (-2000) (min 2000 k)
  if 0 ≤ e then
    let n := if (20 : Int) < e then (if m < 0 then -2000 else 2000) else m * 2 ^ e.toNat
    (1, lim n, true)
  else
    let d : Int := 2 ^ (-e).toNat
    let n := m / d
    let r := m % d
    if r = 0 then (1, lim n, true)
    else
      let y := (r * ln2Fix / d).toNat
      let s := expSeries 70 1 y (2 ^ 200) (2 ^ 200)
      (2 * s + 1, lim n - 201, false)

/-- The series of atanh(z) / z in z^2, units of 2^-200. -/
def atanhSeries : Nat → Nat → Nat → Nat → Nat → Nat
  | 0, _, _, _, acc => acc
  | fuel + 1, i, z2, t, acc => let t' := t * z2 / 2 ^ 200; atanhSeries fuel (i + 1) z2 t' (acc + t' / (2 * i + 1))

/-- Log2 of a positive dyadic: a dyadic, exact only for powers of two. -/
def log2Dy (m : Nat) (e : Int) : Int × Int × Bool :=
  let l := log2 m
  if m = 2 ^ l then ((l : Int) + e, 0, true)
  else
    -- m = 2^l x u with 1 < u < 2; halve u when it exceeds 3/2
    let big := 3 * 2 ^ l < 2 * m
    let k := (l : Int) + e + (if big then 1 else 0)
    let one : Int := if big then 2 ^ (l + 1) else 2 ^ l
    let num := (m : Int) - one
    let den := (m : Int) + one
    let z2 := (num * num * 2 ^ 200 / (den * den)).toNat
    let t := atanhSeries 100 1 z2 (2 ^ 200) (2 ^ 200)
    let frac := num * t * 2 ^ 202 / (den * ln2Fix)
    (2 * (k * 2 ^ 201 + frac) + 1, -202, false)

/-- The alternating series of sin(pi r) / (pi r) or of cos(pi r) in w = (pi r)^2, units of 2^-200; `j` is the first factor. -/
def trigSeries : Nat → Nat → Nat → Int → Int → Int
  | 0, _, _, _, acc => acc
  | fuel + 1, j, w, t, acc => let t' := -(t * w / 2 ^ 200) / ((j * (j + 1) : Nat) : Int); trigSeries fuel (j + 2) w t' (acc + t')

/-- sin(pi r) for 0 < r ≤ 1/4, r = m / 2^k: a positive dyadic. -/
def sinDy (m k : Nat) : Nat × Int :=
  let x := piFix * m / 2 ^ k
  let w := x * x / 2 ^ 200
  let s := trigSeries 60 2 w (2 ^ 200) (2 ^ 200)
  (2 * (s.toNat * piFix * m) + 1, -(401 + k : Nat))

/-- cos(pi r) for 0 ≤ r ≤ 1/4. -/
def cosDy (m k : Nat) : Nat × Int :=
  let x := piFix * m / 2 ^ k
  let w := x * x / 2 ^ 200
  let s := trigSeries 60 1 w (2 ^ 200) (2 ^ 200)
  (2 * s.toNat + 1, -201)

/-- sin(pi x) for m / 2^k with 0 < m / 2^k < 2: exact 0 or 1 at the multiples of 1/2, else a dyadic with sign. -/
def sinPi (m k : Nat) : Int × Int × Bool :=
  let h := 2 ^ k
  let neg := h ≤ m                    -- the second half of the period is negative
  let m1 := if neg then m - h else m  -- 0 ≤ m1 < 1
  let sgn (x : Nat × Int) : Int × Int × Bool := ((if neg then -(x.1 : Int) else x.1), x.2, false)
  if m1 = 0 then (0, 0, true)
  else if 2 * m1 = h then ((if neg then -1 else 1), 0, true)
  else
    let m2 := if h < 2 * m1 then h - m1 else m1   -- 0 < m2 < 1/2
    if 4 * m2 ≤ h then sgn (sinDy m2 k) else sgn (cosDy (h - 2 * m2) (k + 1))

/-- The approximations, in the table's order: 0 FRCPA, 1 FRSQA, 2 FEX2A, 3 FLG2A, 4 FSINA, 5 FCOSA (R196, R197). -/
def approx (which : Nat) (v : FVal) : FRes :=
  let nan (b : Bool) : FRes := nanRes a16 b
  let rnd (x : Int × Int × Bool) : FRes := if x.1 = 0 then { bits := 0 } else roundTo a16 0 false x.1 x.2.1
  match which, v with
  | _, .nan s => nan s
  | 0, .inf s => { bits := a16.zeroCode s }
  | 0, .zero s => { bits := a16.infCode s, flags := DZ }
  | 0, .fin n e => let q := divDy 1 n.natAbs; roundTo a16 0 false (if n < 0 then -(q.1 : Int) else q.1) (q.2 - e)
  | 1, .inf s => if s then nan true else { bits := 0 }
  | 1, .zero s => { bits := a16.infCode s, flags := DZ }
  | 1, .fin n e =>
    if n < 0 then nan true else
    let odd := e % 2 = 1
    let m := if odd then 2 * n.natAbs else n.natAbs
    let e1 := if odd then e - 1 else e
    let big := 2 ^ (200 + 2 * log2 m)
    let r := isqrt (big / m)
    roundTo a16 0 false ((2 * r + (if r * r * m = big then 0 else 1) : Nat) : Int) (-(e1 / 2) - 101 - (log2 m : Int))
  | 2, .inf s => if s then { bits := 0 } else { bits := a16.infCode false }
  | 2, .zero _ => { bits := 0x3F800000 }
  | 2, .fin n e => let x := exp2Dy n e; roundTo a16 0 false x.1 x.2.1
  | 3, .inf s => if s then nan true else { bits := a16.infCode false }
  | 3, .zero _ => { bits := a16.infCode true, flags := DZ }
  | 3, .fin n e => if n < 0 then nan true else rnd (log2Dy n.natAbs e)
  | 4, .inf _ => nan true
  | 4, .zero s => { bits := a16.zeroCode s }
  | 4, .fin n e =>
    if 0 ≤ e then { bits := a16.zeroCode (decide (n < 0)) } else
    let k := (-e).toNat
    let x := sinPi (n.natAbs % (2 * 2 ^ k)) k
    if x.1 = 0 then { bits := a16.zeroCode (decide (n < 0)) }
    else roundTo a16 0 false (if n < 0 then -x.1 else x.1) x.2.1
  | _, .inf _ => nan true
  | _, .zero _ => { bits := 0x3F800000 }
  | _, .fin n e =>
    if 0 < e then { bits := 0x3F800000 } else
    -- cos(pi x) = sin(pi (x + 1/2))
    let k := (-e).toNat + 1
    let x := sinPi ((2 * n.natAbs + 2 ^ (k - 1)) % (2 * 2 ^ k)) k
    rnd x

end Sys2Proof.Machine
end

