-- ==== Sys2Proof/Machine/Integer.lean ====
section
/-! DEFINITION. Integer, logic, shift, bit-field and address arithmetic on one lane (R167 to R186). Values are numbers below
2^n for the operation width n. -/

namespace Sys2Proof.Machine

/-- Lo of R168. -/
def loOf (sgn : Bool) (n : Nat) : Int := if sgn then -(2 ^ (n - 1) : Nat) else 0

/-- Hi of R168. -/
def hiOf (sgn : Bool) (n : Nat) : Int := if sgn then (2 ^ (n - 1) : Nat) - 1 else (2 ^ n : Nat) - 1

/-- Fit of R168. -/
def fitN (sat sgn : Bool) (n : Nat) (y : Int) : Nat :=
  modPow (if sat then min (max y (loOf sgn n)) (hiOf sgn n) else y) n

/-- The upper half of the double-width product (R173). -/
def mulHi (sgn : Bool) (n a b : Nat) : Nat := modPow (valOf sgn n a * valOf sgn n b / (2 ^ n : Nat)) n

/-- Quotient and remainder with truncation towards zero (R174). -/
def divRem (sat sgn : Bool) (n a b : Nat) : Nat × Nat :=
  let x := valOf sgn n a
  let y := valOf sgn n b
  if y = 0 then
    (modPow (if sat && sgn then (if 0 ≤ x then hiOf true n else loOf true n) else (2 ^ n : Nat) - 1) n, modPow x n)
  else
    let q := Int.tdiv x y
    (fitN sat sgn n q, modPow (x - y * q) n)

/-- Shifts (R178): 0 SHL, 1 SHR, 2 SAR, 3 ROTL. -/
def shiftOp (which n a c : Nat) : Nat :=
  match which with
  | 0 => if n ≤ c then 0 else a * 2 ^ c % 2 ^ n
  | 1 => if n ≤ c then 0 else a / 2 ^ c
  | 2 => modPow (valOf true n a / (2 ^ min c (n - 1) : Nat)) n
  | _ => let s := c % n; (a * 2 ^ s % 2 ^ n) ||| (a / 2 ^ (n - s))

/-- The number of set bits (R179). -/
def popCount (n a : Nat) : Nat := ((List.range n).filter fun i => Nat.testBit a i).length

/-- n minus the bit length (R179). -/
def leadZeros (n a : Nat) : Nat := if a = 0 then n else n - 1 - log2 a

/-- Bits in reverse order (R179). -/
def bitRev (n a : Nat) : Nat := (List.range n).foldl (fun acc i => acc + if Nat.testBit a i then 2 ^ (n - 1 - i) else 0) 0

/-- BFE (R180). -/
def bitExtract (sgn : Bool) (n a pl : Nat) : Nat :=
  let pos := pl % 256
  let len := min (pl / 256 % 256) n
  let f := a / 2 ^ pos % 2 ^ len
  modPow (if sgn ∧ 1 ≤ len ∧ 2 ^ (len - 1) ≤ f then (f : Int) - (2 ^ len : Nat) else f) n

/-- BFI (R180). -/
def bitInsert (n a pl c : Nat) : Nat :=
  let pos := pl % 256
  let len := min (pl / 256 % 256) n
  let m := (2 ^ len - 1) * 2 ^ pos % 2 ^ n
  (a &&& ((2 ^ n - 1) ^^^ m)) ||| ((c * 2 ^ pos % 2 ^ n) &&& m)

/-- BSEL (R181). -/
def byteSelect (a b c : Nat) : Nat :=
  let x := b * 2 ^ 32 + a
  (List.range 4).foldl (fun acc j =>
    let k := c / 2 ^ (8 * j) % 256
    let y := x / 2 ^ (8 * (k % 8)) % 256
    let r := match k / 64 with
      | 0 => y
      | 1 => bitRev 8 y
      | 2 => if 128 ≤ y then 255 else 0
      | _ => if k % 2 = 1 then 255 else 0
    acc + r * 2 ^ (8 * j)) 0

/-- LEA (R182). -/
def leaOf (sgn w : Bool) (sh a b : Nat) : Nat :=
  let i := valOf (w && sgn) 32 a
  modPow (b + i * (2 ^ sh : Nat)) (if w then 64 else 32)

/-- Conditions of ICMP (R183): 0 eq, 1 ne, 2 lt, 3 le, 4 gt, 5 ge. -/
def condInt (cc : Nat) (a b : Int) : Bool :=
  match cc with
  | 0 => a == b
  | 1 => a != b
  | 2 => decide (a < b)
  | 3 => decide (a ≤ b)
  | 4 => decide (b < a)
  | _ => decide (b ≤ a)

/-- AND, OR, XOR, ANDN over n bits (R177, R176): 0 to 3. -/
def logicOp (which n a b : Nat) : Nat :=
  match which with
  | 0 => a &&& b
  | 1 => a ||| b
  | 2 => a ^^^ b
  | _ => a &&& ((2 ^ n - 1) ^^^ b)

end Sys2Proof.Machine
end

