-- ==== Sys2Proof/Machine/Flags.lean ====
section
/-! DEFINITION. Floating-point lane operations with their flags, conversions, block scaling and exact sums
(R187 to R213, R50 to R54). -/

namespace Sys2Proof.Machine

/-- Modifiers on an operand of w bits: the absolute value first, then the negation, on the sign bit alone (R68). -/
def modSign (w : Nat) (ab ng : Bool) (x : Nat) : Nat :=
  let y := if ab then x % 2 ^ (w - 1) else x
  if ng then y ^^^ 2 ^ (w - 1) else y

/-- The rounding mode of a RND field: 7 takes FPCR.RMODE (R68, R190). -/
def rndMode (rnd : Nat) (fpcr : Word) : Nat := if rnd = 7 then fld fpcr 10 8 else rnd

/-- FPCR.FTZ (R46). -/
def ftzOn (fpcr : Word) : Bool := fpcr.getLsbD 11

/-- The arithmetic operations of R190. -/
inductive FArith where
  | add | sub | mul | fma | div | sqrt
  deriving DecidableEq, Repr

/-- One lane of the arithmetic family, on codes after their modifiers (R190, R191, R49). -/
def farith (op : FArith) (f : Fmt) (mode : Nat) (ftz : Bool) (a b c : Nat) : FRes :=
  let x := ftzIn ftz f (decodeF f a)
  let y := ftzIn ftz f (decodeF f b)
  let z := ftzIn ftz f (decodeF f c)
  ftzOut ftz f <|
    match op with
    | .add => fusedSum f mode [x, y]
    | .sub => fusedSum f mode [x, y.negate]
    | .mul => mulRes f mode x y
    | .fma => fusedSum f mode [mulVal x y, z]
    | .div => divRes f mode x y
    | .sqrt => sqrtRes f mode x

/-- One lane of FSCALE and DSCALE (R190). -/
def fscaleOp (f : Fmt) (mode : Nat) (ftz : Bool) (a : Nat) (k : Int) : FRes :=
  ftzOut ftz f (scaleRes f mode (ftzIn ftz f (decodeF f a)) k)

/-- One lane of the approximations (R196): FTZ applies to the operand and to the result. -/
def approxOp (which : Nat) (ftz : Bool) (a : Nat) : FRes :=
  ftzOut ftz a16 (approx which (ftzIn ftz f32 (decodeF f32 a)))

/-- Order of FMIN and FMAX: -0 lies below +0 (R192). -/
def valLt (a b : FVal) : Bool :=
  let c := cmpVal a b
  c < 0 || (c == 0 && (match a, b with | .zero true, .zero false => true | _, _ => false))

/-- One lane of FMIN, FMAX, DMIN, DMAX (R192). -/
def fminmax (f : Fmt) (isMax prop : Bool) (a b : Nat) : FRes :=
  let x := decodeF f a
  let y := decodeF f b
  let flags := if x.isSig || y.isSig then NV else 0
  if (x.isNan && y.isNan) || (prop && (x.isNan || y.isNan)) then { bits := f.nanCode, flags := flags }
  else if x.isNan then { bits := b, flags := flags }
  else if y.isNan then { bits := a, flags := flags }
  else { bits := if (if isMax then valLt x y else valLt y x) then b else a, flags := flags }

/-- One lane of FCMP and DCMP: the bit in bit 0, and its flags (R193). -/
def fcompare (f : Fmt) (cc : Nat) (sig ftz : Bool) (a b : Nat) : FRes :=
  let x := ftzIn ftz f (decodeF f a)
  let y := ftzIn ftz f (decodeF f b)
  let u := x.isNan || y.isNan
  let c := cmpVal x y
  let t := match cc with
    | 0 => !u && c == 0
    | 1 => u || c != 0
    | 2 => !u && c < 0
    | 3 => !u && c ≤ 0
    | 4 => !u && 0 < c
    | 5 => !u && 0 ≤ c
    | 6 => u
    | _ => !u
  { bits := if t then 1 else 0, flags := if (sig && u) || x.isSig || y.isSig then NV else 0 }

/-- One lane of FCLASS and DCLASS (R194). -/
def fclassify (f : Fmt) (a : Nat) : Nat :=
  match decodeF f a with
  | .nan s => if s then 2 ^ 8 else 2 ^ 9
  | .inf s => if s then 1 else 2 ^ 7
  | .zero s => if s then 2 ^ 3 else 2 ^ 4
  | .fin n e =>
    let sub := magLt n.natAbs e 1 f.emin
    if n < 0 then (if sub then 2 ^ 2 else 2) else (if sub then 2 ^ 5 else 2 ^ 6)

/-- One lane of HFMA2: two fused multiply-adds (R195). -/
def hfma2Op (f : Fmt) (mode : Nat) (ftz : Bool) (a b c : Nat) : FRes :=
  let r (j : Nat) : FRes := farith .fma f mode ftz (a / 2 ^ (16 * j) % 2 ^ 16) (b / 2 ^ (16 * j) % 2 ^ 16) (c / 2 ^ (16 * j) % 2 ^ 16)
  let x := r 0
  let y := r 1
  { bits := y.bits * 2 ^ 16 + x.bits, flags := x.flags ||| y.flags, tiny := x.tiny || y.tiny }

/-- Modifiers of HFMA2 act on both halves (R68). -/
def modSign2 (ab ng : Bool) (x : Nat) : Nat := modSign 16 ab ng (x / 2 ^ 16) * 2 ^ 16 + modSign 16 ab ng (x % 2 ^ 16)

/-! ### CVT (R201 to R204) -/

/-- A type of CVT (R201). -/
inductive CvtType where
  | flt (f : Fmt)
  | mxi8
  | int (signed : Bool) (n : Nat)
  deriving DecidableEq, Repr

/-- The type of a code (R201, R36). -/
def cvtType (code : Nat) : CvtType :=
  if code = 0 then .flt f64 else if code = 1 then .flt f32 else if code = 2 then .flt h16 else if code = 3 then .flt bf16
  else if code = 4 then .mxi8
  else if 0x40 ≤ code then .int (code < 0x44) (8 * 2 ^ (code % 4))
  else .flt (p8Fmt code)

/-- Decode a source (R202). -/
def cvtDecode (t : CvtType) (x : Nat) : FVal :=
  match t with
  | .flt f => decodeF f x
  | .mxi8 => FVal.ofInt (valOf true 8 x) (-6)
  | .int s n => FVal.ofInt (valOf s n x) 0

/-- Rounding of a dyadic to a multiple of 2^g (R204): the multiple and whether it is exact. -/
def roundToUnit (mode : Nat) (n e g : Int) : Int × Bool :=
  if g ≤ e then (n * 2 ^ (e - g).toNat, true)
  else
    -- a magnitude far below the grid rounds as any other
    let n := if (2 ^ 2100 : Int) < 2 ^ (min 2101 (g - e).toNat) ∧ n.natAbs < 2 ^ 200 then (if n < 0 then -1 else 1) else n
    let d : Int := 2 ^ (min 2101 (g - e).toNat)
    let lo := n / d
    let r := n % d
    if r = 0 then (lo, true)
    else (if mode = 1 then (if 0 ≤ lo then lo else lo + 1)
      else if mode = 2 then lo + 1
      else if mode = 3 then lo
      else if 2 * r < d then lo
      else if d < 2 * r then lo + 1
      else if mode = 4 then (if 0 ≤ lo then lo + 1 else lo)
      else if lo % 2 = 0 then lo else lo + 1, false)

/-- Conversion to an integer type or MXINT8: the width, the signedness and the grid 2^g (R204). -/
def cvtToGrid (sgn : Bool) (n : Nat) (g : Int) (mode : Nat) (sat : Bool) (v : FVal) : FRes :=
  let lo := loOf sgn n
  let hi := hiOf sgn n
  let indefinite := if sgn then 2 ^ (n - 1) else 2 ^ n - 1
  let put (y : Int) (exact : Bool) : FRes :=
    if lo ≤ y ∧ y ≤ hi then { bits := modPow y n, flags := if exact then 0 else NX }
    else if sat then { bits := modPow (min (max y lo) hi) n, flags := NX ||| SATF }
    else { bits := indefinite, flags := NV }
  match v with
  | .nan _ => { bits := if sat then 0 else indefinite, flags := NV }
  | .inf s => if sat then { bits := modPow (if s then lo else hi) n, flags := SATF } else { bits := indefinite, flags := NV }
  | .zero _ => { bits := 0 }
  | .fin m e => let r := roundToUnit mode m e g; put r.1 r.2

/-- Conversion to a floating type (R203, R44, R45). -/
def cvtToFloat (f : Fmt) (mode : Nat) (sat : Bool) (v : FVal) : FRes :=
  match v with
  | .nan s => nanRes f s
  | .inf s =>
    if sat ∧ (f.kind = .p8 false true ∨ f.kind = .p8 false false) ∧ s then { bits := 0, flags := SATF }
    else if sat then { bits := f.maxCode s, flags := SATF }
    else if f.hasInf s then { bits := f.infCode s }
    else { bits := f.nanCode, flags := NV }
  | .zero s => { bits := f.zeroCode s }
  | .fin n e => roundTo f mode sat n e

/-- Convert (R202 to R204). -/
def cvtOp (dst src : CvtType) (mode : Nat) (sat : Bool) (x : Nat) : FRes :=
  let v := cvtDecode src x
  let sig := if v.isSig then NV else 0
  let r : FRes := match dst with
    | .flt f => cvtToFloat f mode sat v
    | .mxi8 => cvtToGrid true 8 (-6) mode sat v
    | .int s n =>
      match src with
      | .int t k =>
        let y := valOf t k x
        if sat then { bits := fitN true s n y, flags := if loOf s n ≤ y ∧ y ≤ hiOf s n then 0 else SATF }
        else { bits := modPow y n }
      | _ => cvtToGrid s n 0 mode sat v
  { r with flags := r.flags ||| sig }

/-! ### QMX, DQMX (R205 to R207) -/

/-- The scale code of a block of binary32 values that holds no NaN (R206). -/
def qmxScale (vals : List FVal) : Nat :=
  let exps := vals.filterMap fun v => match v with | .fin n e => some ((log2 n.natAbs : Int) + e) | _ => none
  match exps with
  | [] => 0
  | x :: xs => (127 + max (xs.foldl max x) (-127)).toNat

/-- The element of a value under a scale code (R206). -/
def qmxElem (c : Nat) (v : FVal) : FRes :=
  match v with
  | .nan s => { bits := 0, flags := if s then NV else 0 }
  | .inf s => { bits := if s then 0x81 else 0x7F, flags := SATF }
  | .zero _ => { bits := 0 }
  | .fin n e =>
    let r := roundToUnit 0 n (e + 6 - ((c : Int) - 127)) 0
    let nx := if r.2 then 0 else NX
    if 127 < r.1.natAbs then { bits := if r.1 < 0 then 0x81 else 0x7F, flags := nx ||| SATF }
    else { bits := modPow r.1 8, flags := nx }

/-- The scale and the elements of a block (R206): values by position. -/
def qmxBlock (vals : List FVal) : Nat × List FRes :=
  if vals.any FVal.isNan then (0xFF, vals.map fun v => { bits := 0, flags := if v.isSig then NV else 0 })
  else let c := qmxScale vals; (c, vals.map (qmxElem c))

/-- DQMX of one element (R207). -/
def dqmxElem (c q : Nat) : FRes :=
  if c = 0xFF then { bits := f32.nanCode }
  else let v := valOf true 8 q; if v = 0 then { bits := 0 } else roundTo f32 0 false v ((c : Int) - 133)

/-! ### The exact accumulator (R50 to R53) -/

/-- An exact accumulator's integer and status. -/
structure Acc where
  n : Int := 0
  status : Nat := 0
  deriving DecidableEq, Repr

/-- Read a 288-byte object (R50, R51); reserved bits are ignored. -/
def accOf (bytes : List Byte) : Acc :=
  { n := valOf true 2176 (numOf (bytes.take 272)), status := numOf ((bytes.drop 272).take 8) % 16 }

/-- The 288 bytes of an object: the reserved word is written 0. -/
def Acc.bytes (a : Acc) : List Byte := bytesOf 272 (modPow a.n 2176) ++ bytesOf 8 a.status ++ bytesOf 8 0

/-- AccAdd (R52). -/
def accAdd (a : Acc) (v : FVal) : Acc :=
  match v with
  | .nan _ => { a with status := a.status ||| 4 }
  | .inf s => { a with status := a.status ||| (if s then 2 else 1) }
  | .zero _ => a
  | .fin n e =>
    let t := a.n + n * 2 ^ (e + 1074).toNat
    { n := valOf true 2176 (modPow t 2176)
      status := if t < -(2 ^ 2175 : Int) ∨ (2 ^ 2175 : Int) ≤ t then a.status ||| 8 else a.status }

/-- The rounding of an accumulator (R53). -/
def accRound (mode : Nat) (a : Acc) : FRes :=
  if Nat.testBit a.status 2 || Nat.testBit a.status 3 || (Nat.testBit a.status 0 && Nat.testBit a.status 1) then nanRes f64 true
  else if Nat.testBit a.status 0 then { bits := f64.infCode false }
  else if Nat.testBit a.status 1 then { bits := f64.infCode true }
  else if a.n = 0 then { bits := 0 }
  else roundTo f64 mode false a.n (-1074)

/-! ### LRED (R54, R213) -/

/-- The sum of a node (R54): as IEEE addition has it the sum of two +0 is +0 in every mode, rm too, where R56, which R54 does not name, would
give -0; an exact zero of opposite signs is R56's (log 13). -/
def lredSum (f : Fmt) (mode : Nat) (a b : Nat) : FRes :=
  if decodeF f a == .zero false && decodeF f b == .zero false then { bits := f.zeroCode false } else fusedSum f mode [decodeF f a, decodeF f b]

/-- One node of the tree: an absent side passes the other. -/
def lredNode (f : Fmt) (mode : Nat) (x y : Option FRes) : Option FRes :=
  match x, y with
  | a, none => a
  | none, b => b
  | some a, some b =>
    let r := lredSum f mode a.bits b.bits
    some { bits := r.bits, flags := a.flags ||| b.flags ||| r.flags, tiny := a.tiny || b.tiny || r.tiny }

/-- One level of the tree. -/
def lredLevel (f : Fmt) (mode : Nat) : List (Option FRes) → List (Option FRes)
  | a :: b :: t => lredNode f mode a b :: lredLevel f mode t
  | l => l

/-- A lane's operand: a NaN enters the tree canonical, and a signalling one raises invalid, even where no other lane is added to it
(R30). -/
def lredLeaf (f : Fmt) (x : Nat) : FRes :=
  let v := decodeF f x
  if v.isNan then nanRes f v.isSig else { bits := x }

/-- The tree of R54 over 32 lanes. -/
def lredTree (f : Fmt) (mode : Nat) (lanes : List (Option Nat)) : FRes :=
  let l0 := lanes.map fun o => o.map (lredLeaf f)
  let l5 := lredLevel f mode (lredLevel f mode (lredLevel f mode (lredLevel f mode (lredLevel f mode l0))))
  match l5 with
  | some r :: _ => r
  | _ => { bits := 0 }

/-! ### Outcome of a floating word (R199) -/

/-- tr[L] of R199: the flags, with UF added when the result is tiny. -/
def FRes.tr (r : FRes) : Nat := if r.tiny then r.flags ||| UF else r.flags

/-- Does the lane trap under the enables of FPCR (R199)? -/
def FRes.traps (fpcr : Word) (r : FRes) : Bool := r.tr &&& fld fpcr 4 0 != 0

end Sys2Proof.Machine
end

