-- ==== Sys2Proof/Machine/Operands.lean ====
section
/-! DEFINITION. Operand forms (R64 to R72): reading and writing fields, and which registers a word reads and writes, in the
field order of R350. -/

namespace Sys2Proof.Machine

/-! ### Reading fields -/

/-- A vector or pair field, or a scalar under U (R64, R66): 64 bits under `w`, else 32. -/
def Batt.rd (b : Batt) (u w : Bool) (n l : Nat) : Nat :=
  if u then (if w then (b.s n).toNat else (b.s n).toNat % 2 ^ 32) else if w then (b.w n l).toNat else (b.v n l).toNat

/-- Field A of a register-layout word. -/
def Batt.rdA (b : Batt) (f : RForm) (w : Bool) (l : Nat) : Nat := b.rd f.u w f.a.toNat l

/-- Field B, which BS makes a scalar (R66). -/
def Batt.rdB (b : Batt) (f : RForm) (w : Bool) (l : Nat) : Nat := b.rd (f.u || f.bs) w f.b.toNat l

/-- Field C. -/
def Batt.rdC (b : Batt) (f : RForm) (w : Bool) (l : Nat) : Nat := b.rd f.u w f.c.toNat l

/-- Field D read as a source. -/
def Batt.rdD (b : Batt) (f : RForm) (w : Bool) (l : Nat) : Nat := b.rd f.u w f.d.toNat l

/-- Scalar number of a compact field (R69). -/
def scNum (v : BitVec 10) : Nat := v.toNat - 0x3C0

/-- A compact 32-bit operand: a vector lane, or a scalar's low half broadcast (R69, R72). -/
def Batt.cv (b : Batt) (v : BitVec 10) (l : Nat) : Nat :=
  if isSc v then (b.s (scNum v)).toNat % 2 ^ 32 else (b.v v.toNat l).toNat

/-- A compact 64-bit operand: a pair, or a whole scalar (R72). -/
def Batt.cw (b : Batt) (v : BitVec 10) (l : Nat) : Nat :=
  if isSc v then (b.s (scNum v)).toNat else (b.w v.toNat l).toNat

/-! ### Which registers a word names -/

/-- A register or bank that a word names (R350). -/
inductive RegRef where
  | v (n : Nat) | s (n : Nat) | p (n : Nat) | bank (k : Nat) | special (m : Nat)
  deriving DecidableEq, Repr

/-- The operand code of R350. -/
def RegRef.code : RegRef → Nat
  | .v n => n
  | .s n => 0x400 + n
  | .p n => 0x440 + n
  | .bank k => 0x448 + k
  | .special m => 0x460 + m

/-- The registers of a field. -/
def refsOf (k : FieldKind) (n : Nat) : List RegRef :=
  match k with
  | .vec => [.v n]
  | .pair => [.v n, .v (n + 1)]
  | .quad => [.v n, .v (n + 1), .v (n + 2), .v (n + 3)]
  | .four => [.v n, .v (n + 1), .v (n + 2), .v (n + 3)]
  | .three => [.v n, .v (n + 1), .v (n + 2)]
  | .two => [.v n, .v (n + 1)]
  | .scalar => [.s n]
  | .pred => if n = 7 then [] else [.p n]
  | .predDst => [.p n]
  | _ => []

/-- Reads, in field order, and writes. -/
structure RegUse where
  reads : List RegRef := []
  writes : List RegRef := []
  deriving DecidableEq, Repr

/-- The guard's predicate. -/
def guardRefs : Guard → List RegRef
  | .always => []
  | .pred n _ => [.p n.val]

/-- The use of a register-layout word: is D read, is it written? -/
def rUse (f : RForm) (k : Kinds) (dRead dWrite : Bool) : RegUse :=
  let d := refsOf (underU f.u k.d) f.d.toNat
  { reads := guardRefs f.g ++ (if dRead then d else []) ++ refsOf (underU f.u k.a) f.a.toNat ++
      refsOf (if f.bs then .scalar else underU f.u k.b) f.b.toNat ++ refsOf (underU f.u k.c) f.c.toNat
    writes := if dWrite then d else [] }

/-- The registers of a compact field. -/
def cRefs (v : BitVec 10) (k : FieldKind) : List RegRef := if isSc v then [.s (scNum v)] else refsOf k v.toNat

/-- The use of an immediate-layout word. -/
def iUse (f : IForm) (aRead : Bool) : RegUse :=
  { reads := guardRefs f.g ++ (if aRead then cRefs f.a .vec else []), writes := cRefs f.d .vec }

/-- The kind of the data register of a memory-layout word (R72). -/
def memDKind (f : MForm) : FieldKind := if f.wd = 3 then .pair else if f.wd = 4 then .quad else .vec

/-- The use of a memory-layout word; `glob`: the base is a 64-bit address. -/
def mUse (f : MForm) (glob : Bool) (store : Bool) (hasD : Bool) : RegUse :=
  let d := if hasD then cRefs f.d (memDKind f) else []
  { reads := guardRefs f.g ++ (if store then d else []) ++ cRefs f.a (if glob then .pair else .vec) ++
      (if f.ix = 0x3FF then [] else cRefs f.ix .vec)
    writes := if store then [] else d }

/-- The use of a slot (R75). -/
def slotUse (s : Slot) : RegUse :=
  let op := s.sop.toNat
  let k : FieldKind := if op = 0x15 ∨ op = 0x16 then .pair else .vec
  if op = 0 then {} else
  let usesB := !(0x0A ≤ op && op ≤ 0x0D) && op != 0x0F
  let usesD := !(op == 0x0E || (0x17 ≤ op && op ≤ 0x1A))
  { reads := guardRefs s.g ++ (if usesD then refsOf k s.d.toNat else []) ++ (if usesB then refsOf k s.b.toNat else [])
    writes := refsOf k s.d.toNat }

/-- Registers vn to v(n + c). -/
def vRange (n c : Nat) : List RegRef := (List.range (c + 1)).map fun i => .v (n + i)

/-- Registers sn to s(n + c). -/
def sRange (n c : Nat) : List RegRef := (List.range (c + 1)).map fun i => .s (n + i)

/-- The scalars of a copy's group that it reads: SRC, the second, is not read under XF 10 and 11 (R334, R335). -/
def copyReads (f : RForm) (c : Nat) : List RegRef :=
  if f.mf 4 0 = 10 ∨ f.mf 4 0 = 11 then .s f.a.toNat :: sRange (f.a.toNat + 2) (c - 2) else sRange f.a.toNat c

/-- The guard of a word (R65); a paired word's slots have their own (R74). -/
def guardOfInstr : Instr → Guard
  | .nop f | .yield f | .exit f | .launch f | .getsr f | .setsr f | .trap f | .brk f | .conto f | .contc f
  | .conts f | .iadd f | .isub f | .imul f | .imulhi f | .imad f | .imadw f | .idiv f | .irem f | .imin f
  | .imax f | .iabs f | .ineg f | .iadd64 f | .isub64 f | .imul64 f | .and f | .or f | .xor f | .andn f
  | .shl f | .shr f | .sar f | .rotl f | .popc f | .clz f | .brev f | .bfe f | .bfi f | .lea f | .bsel f
  | .icmp f | .sel f | .mov f | .plop f | .pmov f | .lxch f | .pfold f | .peer f | .lget f | .lset f
  | .rtag f | .runtag f | .rfree f | .fadd f | .fsub f | .fmul f | .ffma f | .fmin f | .fmax f | .fdiv f
  | .fsqrt f | .fcmp f | .fclass f | .fscale f | .hfma2 f | .frcpa f | .frsqa f | .fex2a f | .flg2a f
  | .dadd f | .dsub f | .dmul f | .dfma f | .dmin f | .dmax f | .ddiv f | .dsqrt f | .dcmp f | .dclass f
  | .dscale f | .fsina f | .fcosa f | .cvt f | .qmx f | .dqmx f | .xacc f | .xrnd f | .xclr f | .lred f
  | .callx f | .ret f | .rjset f | .rjoin f | .rjdrop f | .acq f | .rel f | .acqr f | .fence f | .fenceo f
  | .full f | .flushh f | .hbind f | .hprio f | .hdrop f | .atom f | .red f | .waita f | .puts f | .barv f
  | .barw f | .bars f | .bart f | .barq f | .syncb f | .aballoc f | .abfree f | .abfreeAll f | .ald f
  | .aldSp f | .ast f | .astSp f | .azero f | .azeroAll f | .mxi f | .mxq f | .cpy f | .cpy2d f | .gath f
  | .scat f | .sigi f | .siga f | .sigq f | .sigf f | .mlook f | .mfill f | .minvKey f | .minvRegion f
  | .minvCtx f | .txsig f | .draw f | .vout f | .ipa f | .tex f | .tld f | .fout f | .mlres f
  | .mlresLayer f | .mlclr f | .mlrd f => f.g
  | .iaddi f | .logi f | .movi f | .movhi f | .bra f | .brx f | .call f => f.g
  | .ld f | .st f | .lds f | .sts f | .ldc f | .pref f => f.g
  | .pairedWord _ => .always
  | .launchEnqueue _ _ | .dispatchCycle | .activePositionFill _ _ | .dependenceResolved _ _
  | .launchRetirement _ | .loadReturn _ _ _ | .trapRecordWrite | .faultRecordWrite _ | .pageWalk _ _ _
  | .logFullRelease _ _ | .logPinnedRelief _ | .promotionRequest _ _ _ | .publicationGrant _
  | .earlyPublication _ _ | .fulling _ | .entryApply _ _ | .acquireWaitEnd _ _ | .l1Eviction _ _
  | .l1PartitionChange _ | .l2Eviction _ _ | .superblockCompression _ _ _ | .atomicAtHome _ _ _
  | .atomicUnitWriteback _ _ | .atomReturn _ _ _ | .waitMonitorNotice _ _ | .waitaTimedRecheck _ _
  | .putsPayloadRead _ _ _ | .putsLanding _ _ _ _ | .redArrival _ _ _ | .aballocGrant _ | .matrixPass _ _
  | .tfuFetch _ | .mxiCompletion _ | .copyCompletion _ | .peatPartitionChange _ | .battSave _ _
  | .preemptComplete _ | .drawStart _ | .vertexCacheValidate _ | .triangleBin _ | .tileRender _ _
  | .fragmentCommit _ | .passRetirement _ | .setroot _ | .tlbinv _ | .setsave _ | .preempt _ | .restore _
  | .kill _ | .peatsize _ | .retire _ | .engstat _ | .ctlload _ | .unknownOp | .commandComplete
  | .lostClear | .trapRelease _ _ | .resumeAtWord _ _ | .resumePastWord _ _ | .trapKill _ | .twnewClear _ _
  | .faultRetry _ _ | .faultToTrap _ _ | .fbnewClear _ _ | .stepmaxWrite _ _ | .wdkick
  | .registerWrite _ _ _ | .bar0BadAccess | .bar2HostRead _ _ | .bar2HostWrite _ _ _
  | .bar4HostRead _ _ | .bar4HostWrite _ _ _ | .hostAtomicop _ _ _ _ _ _ | .hostRequestError _
  | .vblankLatch _ | .displayHotplug _ _ _ | .governorPeriod _ _ _ | .stepTakesEffect _ | .fabricStepEval
  | .droopOnset _ | .droopRecovery _ | .currentLimit _ | .temperatureBandChange _ _ | .thermalTrip
  | .railTrim _ | .loadWindow _ _ | .watchdogLapse | .uncorrectableError _ | .correctableError
  | .warmReset | .coldReset | .bringUp _ _ _ | .smbusPartno | .smbusTemperature | .smbusBoardPower
  | .smbusStat | .smbusUnknownCommand | .minvStoreApply _ | .hkcFirmwareUpdate | .scanoutFrameStart _ => .always

/-- The registers a word reads and writes (R64, R158, R170, R188, R201, R205, R208, R213, R216, R264, R271, R279, R290, R292,
R300, R311, R318, R334, R344, R357, R369, R373). -/
def regUse (i : Instr) : RegUse :=
  let vvv (f : RForm) (k : Kinds) : RegUse := rUse f k false true
  match i with
  | .launch f => vvv f { d := .scalar, a := .scalar }
  | .getsr f =>
    let u := vvv f { d := if f.mb 7 then .vec else .scalar }
    { u with reads := u.reads ++ [.special (f.mf 4 0)] }
  | .setsr f | .conto f | .abfree f => rUse f { a := .scalar } false false
  | .conts f | .mxq f => vvv f { d := .scalar }
  | .iadd f | .isub f | .imul f | .hfma2 f | .bsel f | .ffma f | .fadd f | .fsub f | .fmul f | .fdiv f | .fmin f | .fmax f
  | .fscale f | .fsqrt f | .fclass f | .frcpa f | .frsqa f | .fex2a f | .flg2a f | .fsina f | .fcosa f | .imad f =>
    let three := match i with | .hfma2 _ | .bsel _ | .ffma _ | .imad _ => true | _ => false
    let one := match i with
      | .fsqrt _ | .fclass _ | .frcpa _ | .frsqa _ | .fex2a _ | .flg2a _ | .fsina _ | .fcosa _ => true
      | _ => false
    vvv f ⟨.vec, .vec, if one then .unused else .vec, if three then .vec else .unused⟩
  | .iaddi f | .logi f | .movhi f => iUse f true
  | .movi f => iUse f false
  | .imulhi f | .irem f | .imin f | .imax f | .idiv f | .and f | .or f | .xor f | .andn f =>
    let n := wKind (f.mb 0); vvv f ⟨n, n, n, .unused⟩
  | .imadw f => vvv f ⟨.pair, .vec, .vec, .pair⟩
  | .iabs f | .ineg f | .brev f => let n := wKind (f.mb 0); vvv f ⟨n, n, .unused, .unused⟩
  | .iadd64 f | .isub64 f | .imul64 f | .dadd f | .dsub f | .dmul f | .ddiv f | .dmin f | .dmax f =>
    vvv f ⟨.pair, .pair, .pair, .unused⟩
  | .dfma f => vvv f ⟨.pair, .pair, .pair, .pair⟩
  | .dsqrt f => vvv f ⟨.pair, .pair, .unused, .unused⟩
  | .dscale f => vvv f ⟨.pair, .pair, .vec, .unused⟩
  | .dclass f => vvv f ⟨.vec, .pair, .unused, .unused⟩
  | .shl f | .shr f | .sar f | .rotl f => let n := wKind (f.mb 0); vvv f ⟨n, n, if f.mb 1 then .unused else .vec, .unused⟩
  | .popc f | .clz f => vvv f { d := .vec, a := wKind (f.mb 0) }
  | .bfe f => let n := wKind (f.mb 0); vvv f ⟨n, n, .vec, .unused⟩
  | .bfi f => let n := wKind (f.mb 0); vvv f ⟨n, n, .vec, n⟩
  | .lea f => let n := wKind (f.mb 0); vvv f ⟨n, .vec, n, .unused⟩
  | .icmp f => let n := wKind (f.mb 0); vvv f ⟨.predDst, n, n, .unused⟩
  | .sel f => let n := wKind (f.mb 0); vvv f ⟨n, n, n, .pred⟩
  | .mov f => let n := wKind (f.mb 0); vvv f ⟨n, .unused, n, .unused⟩
  | .plop f => vvv f ⟨.predDst, .pred, .pred, .unused⟩
  | .pmov f =>
    match f.mf 1 0 with
    | 0 => vvv f { d := .scalar, a := .pred }
    | 1 => vvv f { d := .predDst, a := .scalar }
    | 2 => vvv f { d := .vec, a := .pred }
    | _ => vvv f { d := .predDst, a := .vec }
  | .lxch f => vvv f ⟨.vec, .vec, if f.mb 5 || f.mf 7 6 == 3 then .unused else .vec, .unused⟩
  | .pfold f => vvv f { d := if 4 ≤ f.mf 2 0 then .scalar else .predDst, a := .pred }
  | .peer f => vvv f { d := .vec, a := wKind (f.mb 0) }
  | .lget f => vvv f ⟨.scalar, wKind (f.mb 6), if f.mb 5 || f.mb 7 then .unused else .scalar, .unused⟩
  | .lset f => vvv f ⟨wKind (f.mb 6), .scalar, if f.mb 5 then .unused else .scalar, .unused⟩
  | .rtag f => vvv f { d := .vec }
  | .runtag f => { reads := guardRefs f.g }
  | .rfree f => { reads := guardRefs f.g, writes := vRange f.d.toNat (f.mf 5 0) }
  | .fcmp f => vvv f ⟨.predDst, .vec, .vec, .unused⟩
  | .dcmp f => vvv f ⟨.predDst, .pair, .pair, .unused⟩
  | .cvt f =>
    let ws := (cvtWidth (fld f.b 6 0)).getD 32
    let wd := (cvtWidth (fld f.c 6 0)).getD 32
    rUse { f with b := 0, c := 0 } ⟨wKind (wd == 64), wKind (ws == 64), .unused, .unused⟩ (wd < 32) true
  | .qmx f =>
    let u := rUse f ⟨.vec, .vec, .unused, .unused⟩ true true
    { u with writes := u.writes ++ [.s f.c.toNat] }
  | .dqmx f => vvv f ⟨.vec, .vec, .unused, .scalar⟩
  | .xacc f =>
    { reads := guardRefs f.g ++ refsOf (wKind (f.mb 0)) f.a.toNat ++ [.bank (fld f.b 9 6)], writes := [.bank (fld f.b 9 6)] }
  | .xrnd f => { reads := guardRefs f.g ++ [.bank (fld f.b 9 6)], writes := refsOf .pair f.d.toNat }
  | .xclr f => { reads := guardRefs f.g, writes := [.bank (fld f.b 9 6)] }
  | .lred f => let n := wKind (f.mb 0); vvv f ⟨if f.mb 1 then .scalar else n, n, .unused, .unused⟩
  | .bra f => { reads := guardRefs f.g }
  | .brx f => { reads := guardRefs f.g ++ cRefs f.a .vec }
  | .call f => { reads := guardRefs f.g, writes := refsOf .pair f.d.toNat }
  | .callx f => vvv f { d := .pair, a := .pair }
  | .ret f => rUse f { a := .pair } false false
  | .rjset f => rUse f { a := if f.mb 0 then .scalar else .unused } false false
  | .ld f => mUse f true false true
  | .st f => mUse f true true true
  | .lds f | .ldc f => mUse f false false true
  | .sts f => mUse f false true true
  | .pref f => mUse f true false false
  | .rel f => vvv f { d := if f.mb 2 then .scalar else .unused }
  | .acqr f => rUse f { a := .scalar, b := .scalar } false false
  | .hbind f => rUse f { a := .scalar, b := .scalar, c := .scalar } false false
  | .hprio f | .hdrop f => rUse f { a := .scalar } false false
  | .atom f =>
    let n := wKind (f.mb 0)
    rUse { f with c := 0 } ⟨n, if fld f.c 2 0 == 0 then .vec else .pair, n, .unused⟩ (f.mf 7 4 == 9) true
  | .red f =>
    rUse { f with c := 0 } ⟨.unused, if fld f.c 2 0 == 0 then .vec else .pair, wKind (f.mb 0), .unused⟩ false false
  | .waita f => vvv f ⟨.scalar, .scalar, .scalar, .unused⟩
  | .puts f => rUse f ⟨.unused, .scalar, .scalar, .scalar⟩ false false
  | .barv f => vvv f { d := if f.mb 0 then .scalar else .unused }
  | .barw f | .bart f => rUse f { b := .scalar } false false
  | .barq f => vvv f { d := .scalar }
  | .syncb f => rUse f { a := if f.mb 0 then .scalar else .vec } false false
  | .ald f => vvv f { d := wKind (f.mb 0), a := if f.mb 1 then .scalar else .vec }
  | .ast f => rUse f { d := wKind (f.mb 0), a := if f.mb 1 then .scalar else .vec } true false
  | .aldSp f | .astSp f => rUse f { a := .scalar, b := .scalar, c := .scalar } false false
  | .azero f => rUse f { a := .scalar, c := .scalar } false false
  | .mxi f => vvv f { d := .scalar, a := .vec, b := .vec }
  | .cpy f => { reads := guardRefs f.g ++ copyReads f 3, writes := [.s f.d.toNat] }
  | .cpy2d f => { reads := guardRefs f.g ++ copyReads f 4, writes := [.s f.d.toNat] }
  | .gath f | .scat f => { reads := guardRefs f.g ++ sRange f.a.toNat 3 ++ [.v f.b.toNat], writes := [.s f.d.toNat] }
  | .sigi f => { reads := guardRefs f.g, writes := refsOf .quad f.d.toNat ++ [.v f.c.toNat] }
  | .siga f =>
    let u := rUse f ⟨.quad, .vec, .unused, .vec⟩ true true
    { u with writes := u.writes ++ [.v f.c.toNat] }
  | .sigq f => rUse f ⟨.quad, .quad, .unused, .unused⟩ false true
  | .sigf f => rUse f ⟨.quad, .unused, .unused, .vec⟩ true true
  | .mlook f =>
    { reads := guardRefs f.g ++ refsOf .quad f.a.toNat ++ [.v f.c.toNat]
      writes := vRange f.d.toNat (f.mf 5 0) ++ [.p f.b.toNat] }
  | .mfill f => { reads := guardRefs f.g ++ refsOf .quad f.a.toNat ++ vRange f.b.toNat (f.mf 5 0) ++ [.v f.c.toNat] }
  | .minvKey f => rUse f ⟨.unused, .quad, .scalar, .vec⟩ false false
  | .minvRegion f => rUse f { b := .scalar } false false
  | .txsig f | .draw f => vvv f { d := .scalar, a := .scalar }
  | .vout f => { reads := guardRefs f.g ++ vRange f.a.toNat (fld f.c 4 0) }
  | .ipa f => vvv f { d := .vec, a := .two }
  | .tex f | .tld f => vvv f { d := .four, a := .three }
  | .fout f => rUse f { a := if f.mb 0 then .two else .four } false false
  | .mlres f | .mlresLayer f | .mlrd f => vvv f ⟨.four, .two, .scalar, .unused⟩
  | .mlclr f => vvv f { d := .scalar, a := .scalar }
  | .pairedWord f =>
    let x := slotUse f.x
    let y := slotUse f.y
    { reads := x.reads ++ y.reads, writes := x.writes ++ y.writes }
  | _ => { reads := guardRefs (guardOfInstr i) }

/-- The vector registers of a list of references, ascending, without repeats. -/
def vNums (l : List RegRef) : List Nat :=
  (l.filterMap fun r => match r with | .v n => some n | _ => none).foldl (fun acc n => if acc.contains n then acc else insertBy (· < ·) acc n) []

/-- The scalars of a list of references. -/
def sNums (l : List RegRef) : List Nat := l.filterMap fun r => match r with | .s n => some n | _ => none

end Sys2Proof.Machine
end

