-- ==== Sys2Proof/Machine/Alu.lean ====
section
/-! DEFINITION. What one lane of each arithmetic, logic, move and conversion instruction computes (R160, R172 to R184,
R190 to R204), as one function of the registers: shared by the instructions and by recipe evaluation (R151). -/

namespace Sys2Proof.Machine

/-- Where a lane's result goes. -/
inductive AluDst where
  | v (n : Nat) | w (n : Nat) | s (n : Nat) | p (n : Nat)
  deriving DecidableEq, Repr

end Sys2Proof.Machine

namespace Sys2Proof

/-- SGN of the integer class (R67). -/
def RForm.sgn (f : RForm) : Bool := f.mb 7

/-- SAT of the integer class (R67). -/
def RForm.sat (f : RForm) : Bool := f.mb 6

/-- Operation width of a W bit (R167). -/
def RForm.n (f : RForm) : Nat := if f.mb 0 then 64 else 32

/-- A vector or pair destination, a scalar under U (R66). -/
def RForm.dst (f : RForm) (w : Bool) : Machine.AluDst :=
  if f.u then .s f.d.toNat else if w then .w f.d.toNat else .v f.d.toNat

/-- The destination of an immediate-layout word (R69). -/
def IForm.dst (f : IForm) : Machine.AluDst := if Machine.isSc f.d then .s (Machine.scNum f.d) else .v f.d.toNat

end Sys2Proof

namespace Sys2Proof.Machine

/-- What a lane computes from the batt's registers, FPCR (with FTZ as it applies) and the lane. -/
abbrev LaneFn := Batt → Word → Nat → FRes

/-- An integer result. -/
def ires (x : Nat) : FRes := { bits := x }

/-- The 32-bit additive family (R172). -/
def laneInt2 (op : Int → Int → Int) (w : Bool) (f : RForm) : LaneFn := fun b _ l =>
  let n := if w then 64 else 32
  ires (fitN f.sat f.sgn n (op (valOf f.sgn n (b.rdA f w l)) (valOf f.sgn n (b.rdB f w l))))

/-- IADD (R172). -/
def laneIadd (f : RForm) : LaneFn := laneInt2 (· + ·) false f
/-- ISUB (R172). -/
def laneIsub (f : RForm) : LaneFn := laneInt2 (· - ·) false f
/-- IMUL (R172). -/
def laneImul (f : RForm) : LaneFn := laneInt2 (· * ·) false f
/-- IADD64 (R172). -/
def laneIadd64 (f : RForm) : LaneFn := laneInt2 (· + ·) true f
/-- ISUB64 (R172). -/
def laneIsub64 (f : RForm) : LaneFn := laneInt2 (· - ·) true f
/-- IMUL64 (R172). -/
def laneImul64 (f : RForm) : LaneFn := laneInt2 (· * ·) true f
/-- IMAD: one rounding or wrap (R172). -/
def laneImad (f : RForm) : LaneFn := fun b _ l =>
  ires (fitN f.sat f.sgn 32 (valOf f.sgn 32 (b.rdA f false l) * valOf f.sgn 32 (b.rdB f false l) + valOf f.sgn 32 (b.rdC f false l)))
/-- IMADW (R172). -/
def laneImadw (f : RForm) : LaneFn := fun b _ l =>
  ires (fitN f.sat f.sgn 64 (valOf f.sgn 32 (b.rdA f false l) * valOf f.sgn 32 (b.rdB f false l) + valOf f.sgn 64 (b.rdC f true l)))
/-- IMULHI (R173). -/
def laneImulhi (f : RForm) : LaneFn := fun b _ l => ires (mulHi f.sgn f.n (b.rdA f (f.mb 0) l) (b.rdB f (f.mb 0) l))
/-- IDIV (R174). -/
def laneIdiv (f : RForm) : LaneFn := fun b _ l => ires (divRem f.sat f.sgn f.n (b.rdA f (f.mb 0) l) (b.rdB f (f.mb 0) l)).1
/-- IREM (R174). -/
def laneIrem (f : RForm) : LaneFn := fun b _ l => ires (divRem f.sat f.sgn f.n (b.rdA f (f.mb 0) l) (b.rdB f (f.mb 0) l)).2
/-- IMIN (R175). -/
def laneImin (f : RForm) : LaneFn := fun b _ l =>
  let x := b.rdA f (f.mb 0) l
  let y := b.rdB f (f.mb 0) l
  ires (if valOf f.sgn f.n x ≤ valOf f.sgn f.n y then x else y)
/-- IMAX (R175). -/
def laneImax (f : RForm) : LaneFn := fun b _ l =>
  let x := b.rdA f (f.mb 0) l
  let y := b.rdB f (f.mb 0) l
  ires (if valOf f.sgn f.n y ≤ valOf f.sgn f.n x then x else y)
/-- IABS (R175). -/
def laneIabs (f : RForm) : LaneFn := fun b _ l => ires (fitN f.sat true f.n ((valOf true f.n (b.rdA f (f.mb 0) l)).natAbs : Int))
/-- INEG (R175). -/
def laneIneg (f : RForm) : LaneFn := fun b _ l => ires (fitN f.sat true f.n (-(valOf true f.n (b.rdA f (f.mb 0) l))))
/-- IADDI (R176): 64 bits for a scalar destination. -/
def laneIaddi (f : IForm) : LaneFn := fun b _ l =>
  let k := sval 31 f.imm.toNat
  if isSc f.d then ires (modPow ((b.cw f.a l : Int) + k) 64) else ires (modPow ((b.cv f.a l : Int) + k) 32)
/-- LOGI (R176). -/
def laneLogi (f : IForm) : LaneFn := fun b _ l =>
  let k := sval 29 (fld f.imm 28 0)
  let op := fld f.imm 30 29
  if isSc f.d then ires (logicOp op 64 (b.cw f.a l) (modPow k 64)) else ires (logicOp op 32 (b.cv f.a l) (modPow k 32))
/-- AND (R177). -/
def laneAnd (f : RForm) : LaneFn := fun b _ l => ires (logicOp 0 f.n (b.rdA f (f.mb 0) l) (b.rdB f (f.mb 0) l))
/-- OR (R177). -/
def laneOr (f : RForm) : LaneFn := fun b _ l => ires (logicOp 1 f.n (b.rdA f (f.mb 0) l) (b.rdB f (f.mb 0) l))
/-- XOR (R177). -/
def laneXor (f : RForm) : LaneFn := fun b _ l => ires (logicOp 2 f.n (b.rdA f (f.mb 0) l) (b.rdB f (f.mb 0) l))
/-- ANDN (R177). -/
def laneAndn (f : RForm) : LaneFn := fun b _ l => ires (logicOp 3 f.n (b.rdA f (f.mb 0) l) (b.rdB f (f.mb 0) l))
/-- The count of a shift: k under IMMF, else the 32-bit operand (R170, R178). -/
def shiftCount (f : RForm) (b : Batt) (l : Nat) : Nat := if f.mb 1 then fld f.b 5 0 else b.rdB f false l
/-- SHL (R178). -/
def laneShl (f : RForm) : LaneFn := fun b _ l => ires (shiftOp 0 f.n (b.rdA f (f.mb 0) l) (shiftCount f b l))
/-- SHR (R178). -/
def laneShr (f : RForm) : LaneFn := fun b _ l => ires (shiftOp 1 f.n (b.rdA f (f.mb 0) l) (shiftCount f b l))
/-- SAR (R178). -/
def laneSar (f : RForm) : LaneFn := fun b _ l => ires (shiftOp 2 f.n (b.rdA f (f.mb 0) l) (shiftCount f b l))
/-- ROTL (R178). -/
def laneRotl (f : RForm) : LaneFn := fun b _ l => ires (shiftOp 3 f.n (b.rdA f (f.mb 0) l) (shiftCount f b l))
/-- POPC (R179). -/
def lanePopc (f : RForm) : LaneFn := fun b _ l => ires (popCount f.n (b.rdA f (f.mb 0) l))
/-- CLZ (R179). -/
def laneClz (f : RForm) : LaneFn := fun b _ l => ires (leadZeros f.n (b.rdA f (f.mb 0) l))
/-- BREV (R179). -/
def laneBrev (f : RForm) : LaneFn := fun b _ l => ires (bitRev f.n (b.rdA f (f.mb 0) l))
/-- BFE (R180). -/
def laneBfe (f : RForm) : LaneFn := fun b _ l => ires (bitExtract f.sgn f.n (b.rdA f (f.mb 0) l) (b.rdB f false l))
/-- BFI (R180). -/
def laneBfi (f : RForm) : LaneFn := fun b _ l => ires (bitInsert f.n (b.rdA f (f.mb 0) l) (b.rdB f false l) (b.rdC f (f.mb 0) l))
/-- LEA (R182). -/
def laneLea (f : RForm) : LaneFn := fun b _ l => ires (leaOf f.sgn (f.mb 0) (f.mf 3 1) (b.rdA f false l) (b.rdB f (f.mb 0) l))
/-- BSEL (R181). -/
def laneBsel (f : RForm) : LaneFn := fun b _ l => ires (byteSelect (b.rdA f false l) (b.rdB f false l) (b.rdC f false l))
/-- ICMP: the bit (R183). -/
def laneIcmp (f : RForm) : LaneFn := fun b _ l =>
  ires (if condInt (f.mf 3 1) (valOf f.sgn f.n (b.rdA f (f.mb 0) l)) (valOf f.sgn f.n (b.rdB f (f.mb 0) l)) then 1 else 0)
/-- SEL (R184). -/
def laneSel (f : RForm) : LaneFn := fun b _ l =>
  ires (if inMask (b.p (fld f.c 2 0)) l then b.rdA f (f.mb 0) l else b.rdB f (f.mb 0) l)
/-- MOV (R160). -/
def laneMov (f : RForm) : LaneFn := fun b _ l => ires (b.rdB f (f.mb 0) l)
/-- MOVI (R160). -/
def laneMovi (f : IForm) : LaneFn := fun _ _ _ => ires (modPow (sval 31 f.imm.toNat) (if isSc f.d then 64 else 32))
/-- MOVHI (R160). -/
def laneMovhi (f : IForm) : LaneFn := fun b _ l =>
  let h := fld f.imm 30 29
  let x := if isSc f.d then b.cw f.a l else b.cv f.a l
  ires (x - x / 2 ^ (16 * h) % 2 ^ 16 * 2 ^ (16 * h) + fld f.imm 15 0 * 2 ^ (16 * h))

/-! ### Floating lanes -/

/-- Width of a format in a register: a pair for binary64. -/
def Fmt.isW (f : Fmt) : Bool := f.width == 64

/-- Operand A after its modifiers (R68, R190). -/
def fopA (fm : Fmt) (f : RForm) (b : Batt) (l : Nat) : Nat := modSign fm.width (f.mb 2) (f.mb 4) (b.rdA f fm.isW l)
/-- Operand B after its modifiers. -/
def fopB (fm : Fmt) (f : RForm) (b : Batt) (l : Nat) : Nat := modSign fm.width (f.mb 1) false (b.rdB f fm.isW l)
/-- Operand C after its modifiers. -/
def fopC (fm : Fmt) (f : RForm) (b : Batt) (l : Nat) : Nat := modSign fm.width false (f.mb 3) (b.rdC f fm.isW l)

/-- An instruction of the arithmetic family (R190). -/
def laneFarith (op : FArith) (fm : Fmt) (f : RForm) : LaneFn := fun b fpcr l =>
  let y := match op with | .sqrt => 0 | _ => fopB fm f b l
  let z := match op with | .fma => fopC fm f b l | _ => 0
  farith op fm (rndMode (f.mf 7 5) fpcr) (ftzOn fpcr) (fopA fm f b l) y z

/-- FADD (R190). -/
def laneFadd (f : RForm) : LaneFn := laneFarith .add f32 f
/-- FSUB (R190). -/
def laneFsub (f : RForm) : LaneFn := laneFarith .sub f32 f
/-- FMUL (R190). -/
def laneFmul (f : RForm) : LaneFn := laneFarith .mul f32 f
/-- FFMA (R190). -/
def laneFfma (f : RForm) : LaneFn := laneFarith .fma f32 f
/-- FDIV (R190). -/
def laneFdiv (f : RForm) : LaneFn := laneFarith .div f32 f
/-- FSQRT (R190). -/
def laneFsqrt (f : RForm) : LaneFn := laneFarith .sqrt f32 f
/-- DADD (R190). -/
def laneDadd (f : RForm) : LaneFn := laneFarith .add f64 f
/-- DSUB (R190). -/
def laneDsub (f : RForm) : LaneFn := laneFarith .sub f64 f
/-- DMUL (R190). -/
def laneDmul (f : RForm) : LaneFn := laneFarith .mul f64 f
/-- DFMA (R190). -/
def laneDfma (f : RForm) : LaneFn := laneFarith .fma f64 f
/-- DDIV (R190). -/
def laneDdiv (f : RForm) : LaneFn := laneFarith .div f64 f
/-- DSQRT (R190). -/
def laneDsqrt (f : RForm) : LaneFn := laneFarith .sqrt f64 f
/-- FSCALE and DSCALE: B is a signed 32-bit integer (R188, R190). -/
def laneScale (fm : Fmt) (f : RForm) : LaneFn := fun b fpcr l =>
  fscaleOp fm (rndMode (f.mf 7 5) fpcr) (ftzOn fpcr) (fopA fm f b l) (sval 32 (b.rdB f false l))
/-- FSCALE. -/
def laneFscale (f : RForm) : LaneFn := laneScale f32 f
/-- DSCALE. -/
def laneDscale (f : RForm) : LaneFn := laneScale f64 f
/-- Minimum and maximum (R192). -/
def laneMinMax (fm : Fmt) (isMax : Bool) (f : RForm) : LaneFn := fun b _ l => fminmax fm isMax (f.mb 0) (fopA fm f b l) (fopB fm f b l)
/-- FMIN. -/
def laneFmin (f : RForm) : LaneFn := laneMinMax f32 false f
/-- FMAX. -/
def laneFmax (f : RForm) : LaneFn := laneMinMax f32 true f
/-- DMIN. -/
def laneDmin (f : RForm) : LaneFn := laneMinMax f64 false f
/-- DMAX. -/
def laneDmax (f : RForm) : LaneFn := laneMinMax f64 true f
/-- FCMP and DCMP: the bit (R193). -/
def laneFpCmp (fm : Fmt) (f : RForm) : LaneFn := fun b fpcr l =>
  fcompare fm (fld f.c 2 0) (f.c.getLsbD 3) (ftzOn fpcr) (fopA fm f b l) (fopB fm f b l)
/-- FCMP. -/
def laneFcmp (f : RForm) : LaneFn := laneFpCmp f32 f
/-- DCMP. -/
def laneDcmp (f : RForm) : LaneFn := laneFpCmp f64 f
/-- FCLASS (R194). -/
def laneFclass (f : RForm) : LaneFn := fun b _ l => ires (fclassify f32 (fopA f32 f b l))
/-- DCLASS (R194). -/
def laneDclass (f : RForm) : LaneFn := fun b _ l => ires (fclassify f64 (fopA f64 f b l))
/-- HFMA2 (R195). -/
def laneHfma2 (f : RForm) : LaneFn := fun b fpcr l =>
  let hb := if f.bs then (b.s f.b.toNat).toNat % 2 ^ 32 else b.rdB f false l
  hfma2Op (if f.mb 0 then bf16 else h16) (rndMode (f.mf 7 5) fpcr) (ftzOn fpcr)
    (modSign2 (f.mb 2) (f.mb 4) (b.rdA f false l)) (modSign2 (f.mb 1) false hb) (modSign2 false (f.mb 3) (b.rdC f false l))
/-- An approximation (R196). -/
def laneApprox (which : Nat) (f : RForm) : LaneFn := fun b fpcr l => approxOp which (ftzOn fpcr) (fopA f32 f b l)
/-- FRCPA. -/
def laneFrcpa (f : RForm) : LaneFn := laneApprox 0 f
/-- FRSQA. -/
def laneFrsqa (f : RForm) : LaneFn := laneApprox 1 f
/-- FEX2A. -/
def laneFex2a (f : RForm) : LaneFn := laneApprox 2 f
/-- FLG2A. -/
def laneFlg2a (f : RForm) : LaneFn := laneApprox 3 f
/-- FSINA. -/
def laneFsina (f : RForm) : LaneFn := laneApprox 4 f
/-- FCOSA. -/
def laneFcosa (f : RForm) : LaneFn := laneApprox 5 f
/-- CVT (R202): a narrow destination replaces part DJ of D. -/
def laneCvt (f : RForm) : LaneFn := fun b fpcr l =>
  let st := fld f.b 6 0
  let dt := fld f.c 6 0
  let ws := (cvtWidth st).getD 32
  let wd := (cvtWidth dt).getD 32
  let x := b.rdA f (ws == 64) l / 2 ^ (ws * f.mf 3 2) % 2 ^ ws
  let r := cvtOp (cvtType dt) (cvtType st) (rndMode (f.mf 7 5) fpcr) (f.mb 4) x
  if wd < 32 then
    let old := b.rdD f false l
    let sh := 2 ^ (wd * f.mf 1 0)
    { r with bits := old - old / sh % 2 ^ wd * sh + r.bits * sh }
  else r

/-! ### Destinations -/

/-- The lane function and destination of every instruction that a recipe may hold, but for LD (R150). -/
def aluOf (i : Instr) : Option (LaneFn × AluDst) :=
  match i with
  | .iadd f => some (laneIadd f, f.dst false) | .isub f => some (laneIsub f, f.dst false)
  | .imul f => some (laneImul f, f.dst false) | .imulhi f => some (laneImulhi f, f.dst (f.mb 0))
  | .imad f => some (laneImad f, f.dst false) | .imadw f => some (laneImadw f, f.dst true)
  | .idiv f => some (laneIdiv f, f.dst (f.mb 0)) | .irem f => some (laneIrem f, f.dst (f.mb 0))
  | .imin f => some (laneImin f, f.dst (f.mb 0)) | .imax f => some (laneImax f, f.dst (f.mb 0))
  | .iabs f => some (laneIabs f, f.dst (f.mb 0)) | .ineg f => some (laneIneg f, f.dst (f.mb 0))
  | .iadd64 f => some (laneIadd64 f, f.dst true) | .isub64 f => some (laneIsub64 f, f.dst true)
  | .imul64 f => some (laneImul64 f, f.dst true)
  | .iaddi f => some (laneIaddi f, f.dst) | .logi f => some (laneLogi f, f.dst)
  | .and f => some (laneAnd f, f.dst (f.mb 0)) | .or f => some (laneOr f, f.dst (f.mb 0))
  | .xor f => some (laneXor f, f.dst (f.mb 0)) | .andn f => some (laneAndn f, f.dst (f.mb 0))
  | .shl f => some (laneShl f, f.dst (f.mb 0)) | .shr f => some (laneShr f, f.dst (f.mb 0))
  | .sar f => some (laneSar f, f.dst (f.mb 0)) | .rotl f => some (laneRotl f, f.dst (f.mb 0))
  | .popc f => some (lanePopc f, f.dst false) | .clz f => some (laneClz f, f.dst false)
  | .brev f => some (laneBrev f, f.dst (f.mb 0)) | .bfe f => some (laneBfe f, f.dst (f.mb 0))
  | .bfi f => some (laneBfi f, f.dst (f.mb 0)) | .lea f => some (laneLea f, f.dst (f.mb 0))
  | .bsel f => some (laneBsel f, f.dst false)
  | .mov f => some (laneMov f, f.dst (f.mb 0)) | .movi f => some (laneMovi f, f.dst) | .movhi f => some (laneMovhi f, f.dst)
  | .fadd f => some (laneFadd f, f.dst false) | .fsub f => some (laneFsub f, f.dst false)
  | .fmul f => some (laneFmul f, f.dst false) | .ffma f => some (laneFfma f, f.dst false)
  | .fmin f => some (laneFmin f, f.dst false) | .fmax f => some (laneFmax f, f.dst false)
  | .fdiv f => some (laneFdiv f, f.dst false) | .fsqrt f => some (laneFsqrt f, f.dst false)
  | .fclass f => some (laneFclass f, f.dst false) | .fscale f => some (laneFscale f, f.dst false)
  | .hfma2 f => some (laneHfma2 f, f.dst false)
  | .frcpa f => some (laneFrcpa f, f.dst false) | .frsqa f => some (laneFrsqa f, f.dst false)
  | .fex2a f => some (laneFex2a f, f.dst false) | .flg2a f => some (laneFlg2a f, f.dst false)
  | .dadd f => some (laneDadd f, f.dst true) | .dsub f => some (laneDsub f, f.dst true)
  | .dmul f => some (laneDmul f, f.dst true) | .dfma f => some (laneDfma f, f.dst true)
  | .dmin f => some (laneDmin f, f.dst true) | .dmax f => some (laneDmax f, f.dst true)
  | .ddiv f => some (laneDdiv f, f.dst true) | .dsqrt f => some (laneDsqrt f, f.dst true)
  | .dclass f => some (laneDclass f, f.dst false) | .dscale f => some (laneDscale f, f.dst true)
  | .fsina f => some (laneFsina f, f.dst false) | .fcosa f => some (laneFcosa f, f.dst false)
  | .cvt f => some (laneCvt f, f.dst ((cvtWidth (fld f.c 6 0)).getD 32 == 64))
  | _ => none

/-- Write results to a destination in the lanes of a mask; a scalar takes the lowest lane's (R65, R66). -/
def Batt.put (b : Batt) (d : AluDst) (m : Mask) (r : Nat → Nat) : Batt :=
  match d with
  | .v n => b.setV n m fun l => BitVec.ofNat 32 (r l)
  | .w n => b.setW n m fun l => BitVec.ofNat 64 (r l)
  | .s n => b.setS n (BitVec.ofNat 64 (r ((lowLane m).getD 0)))
  | .p n => b.setP n m (maskOf fun l => r l % 2 == 1)

end Sys2Proof.Machine
end

