-- ==== Sys2Proof/Machine/Recipe.lean ====
section
/-! DEFINITION. Recipes and the preparation of a word: the recipe check, evaluation, replay, drops and the register states
(R145 to R155). -/

namespace Sys2Proof.Machine

/-! ### Effective addresses (R72) -/

/-- Bytes of a width code (R71). -/
def widthOf (wd : BitVec 3) : Nat := 2 ^ wd.toNat

/-- Index of a memory-layout word (R72). -/
def memIndex (f : MForm) (b : Batt) (l : Nat) : Int := if f.ix = 0x3FF then 0 else sval 32 (b.cv f.ix l)

/-- Effective address of a lane (R72): a 64-bit base for global accesses, a 32-bit base for offsets. -/
def memEa (f : MForm) (glob : Bool) (b : Batt) (l : Nat) : DWord :=
  let base := if glob then b.cw f.a l else b.cv f.a l
  BitVec.ofNat 64 (modPow ((base : Int) + memIndex f b l * (widthOf f.wd : Int) + sval 13 f.ofs.toNat) 64)

/-- The value a loaded byte string gives (R265): sign- or zero-extended to `bits`. -/
def extendLoad (f : MForm) (bits : Nat) (bytes : List Byte) : Nat :=
  let n := widthOf f.wd
  if f.sx then modPow (sval (8 * n) (numOf bytes)) bits else numOf bytes

/-! ### The recipe check (R150) -/

/-- The target of a recipe word: a vector register or a pair. -/
def recipeTarget (i : Instr) : Option AluDst :=
  match i with
  | .ld f => if isSc f.d || f.wd == 4 then none else if f.wd == 3 then some (.w f.d.toNat) else some (.v f.d.toNat)
  | i => match aluOf i with
    | some (_, .v n) => some (.v n)
    | some (_, .w n) => some (.w n)
    | _ => none

/-- The registers of a target. -/
def dstRegs : AluDst → List Nat
  | .v n => [n]
  | .w n => [n, n + 1]
  | _ => []

/-- Is the word one that rounds by a RND field (R150: RND other than 7)? -/
def dynRounds (i : Instr) : Bool :=
  match i with
  | .fadd f | .fsub f | .fmul f | .ffma f | .fdiv f | .fsqrt f | .fscale f | .hfma2 f | .dadd f | .dsub f | .dmul f | .dfma f
  | .ddiv f | .dsqrt f | .dscale f | .cvt f => f.mf 7 5 == 7
  | _ => false

/-- U of a register-layout word that a recipe may hold. -/
def usesU (i : Instr) : Bool := match aluOf i with | some (_, .s _) => true | _ => false

/-- One word of a recipe (R150). -/
def recipeWordOk (t : AluDst) (i : Instr) : Bool :=
  guardOfInstr i == .always && !usesU i && !dynRounds i && recipeTarget i == some t

/-- The decoded words of a recipe that passes the check (R150), with its target. -/
def recipeCheck (r : RecipeSlot) : Option (List Instr × AluDst) :=
  if r.len < 1 || 4 < r.len then none else
  let is := (r.words.take r.len).map decode
  match is.mapM id with
  | none => none
  | some l =>
    match l.getLast?.bind recipeTarget with
    | none => none
    | some t =>
      let firstReads := match l with | i :: _ => vNums (regUse i).reads | [] => []
      if l.all (recipeWordOk t) && (dstRegs t).all fun n => !firstReads.contains n then some (l, t) else none

/-- The recipe of a number in the batt's launch on its core (R18, R89); the control batt has no launch and no recipes. -/
def State.recipe? (s : State) (b : Batt) (n : Nat) : Option RecipeSlot :=
  if b.id == .ctl then none else (s.core b.core).recipes.find? fun r => r.lnum == b.id.lnum && r.num == n

/-- The checked words and target of a recipe. -/
def State.recipeOf (s : State) (b : Batt) (n : Nat) : Option (List Instr × AluDst) := (s.recipe? b n).bind recipeCheck

/-- Vector sources that a recipe reads, but for its own target (R151, R153). -/
def recipeSources (l : List Instr) (t : AluDst) : List Nat :=
  (vNums (l.map fun i => (regUse i).reads).flatten).filter fun n => !(dstRegs t).contains n

/-- Scalars that a recipe reads (R153). -/
def recipeScalars (l : List Instr) : List Nat := sNums (l.map fun i => (regUse i).reads).flatten

/-- Depth(n) of R151: a source that an outstanding operation writes counts as untagged. -/
def recipeDepth (b : Batt) (l : List Instr) (t : AluDst) : Nat :=
  1 + ((recipeSources l t).filterMap fun n => (b.vreg? n).bind fun r => if r.late then none else r.tag.map (·.2)).foldl max 0

/-! ### Evaluation (R151, R155) -/

/-- The outcome of an evaluation: the batt's registers with the target computed, the lane results' flags, or lane causes. -/
inductive EvalRes where
  | ok (b : Batt) (flags : List Nat) (tr : List Nat)
  | fault (lanes : List LaneCause) (replayable : Bool) (level : Nat)
  deriving DecidableEq, Repr

/-- The checks of one lane of a recipe's LD but for its data: an aligned, mapped and SEALED address (R24, R151); its location, or the
cause, whether it is replayable, and the level. -/
def State.evalLane (s : State) (b : Batt) (f : MForm) (l : Nat) : Loc ⊕ (LaneCause × Bool × Nat) :=
  let ea := memEa f true b l
  let bad (c : Nat) (rep : Bool) (lv : Nat) : Loc ⊕ (LaneCause × Bool × Nat) := .inr ({ lane := l, cause := c, faddr := ea }, rep, lv)
  if ea.toNat % widthOf f.wd != 0 then bad 0x02 false 0 else
  match s.translate b.core b.space (64 + l) ea with
  | .xlat rep lv => bad 0x03 rep lv
  | .poison => bad 0x0F false 0
  | .ok loc pte _ => if pteBit pte 3 then .inl loc else bad 0x04 false 0

/-- A byte of a SEALED page as a recipe's load reads it: what the page holds is fixed while the launch is outstanding (R24, R156), also in
host memory (log 94). -/
def State.sealedByte (s : State) (b : Batt) (cp : Nat) (x : Loc) : Byte × Bool :=
  let y := s.loadByte b.core b.slot cp x
  match x.target, s.hostAddr x.pa with
  | .host, some a => (Config.hostSealed b.id.lnum a, y.2)
  | _, _ => y

/-- A LD of a recipe, over all 32 lanes: SEALED pages only (R24, R151). Its data is looked at for poison once every lane has passed
the other checks, as for every load (R155, R265, R267). -/
def State.evalLoad (s : State) (b : Batt) (f : MForm) : EvalRes :=
  let all := laneIds.map (s.evalLane b f)
  match all.filterMap fun r => match r with | .inl _ => none | .inr x => some x with
  | x :: t =>
    let low := t.foldl (fun x y => if y.1.faddr.toNat < x.1.faddr.toNat then y else x) x
    .fault ((x :: t).map (·.1)) ((x :: t).all fun x => x.2.1) low.2.2
  | [] =>
    let data := all.map fun r => match r with
      | .inl loc => (List.range (widthOf f.wd)).map fun i => s.sealedByte b f.cp.toNat { loc with pa := loc.pa + i }
      | .inr _ => []
    let bad := laneIds.filterMap fun l => ((data.getD l []).findIdx? fun x => x.2).map fun i =>
      ({ lane := l, cause := 0x0F, faddr := memEa f true b l + BitVec.ofNat 64 i } : LaneCause)
    if !bad.isEmpty then .fault bad false 0 else
    let val (l : Nat) : Nat := extendLoad f (if f.wd = 3 then 64 else 32) ((data.getD l []).map (·.1))
    .ok (if f.wd = 3 then b.setW f.d.toNat (BitVec.allOnes 32) fun l => BitVec.ofNat 64 (val l)
         else b.setV f.d.toNat (BitVec.allOnes 32) fun l => BitVec.ofNat 32 (val l)) [] []

/-- One word of a recipe over all 32 lanes, FTZ taken as 0 (R151, R152). -/
def State.evalWord (s : State) (b : Batt) (i : Instr) : EvalRes :=
  let refs := (regUse i).reads
  let poisoned (l : Nat) : Option LaneCause :=
    (refs.find? fun r => match r with
      | .v n => inMask (b.vpoison n) l
      | .s n => b.sPoison.getLsbD n
      | _ => false).map fun r => { lane := l, cause := 0x0F, faddr := BitVec.ofNat 64 (0xFFFF000000000000 + r.code) }
  match laneIds.filterMap poisoned with
  | x :: xs => .fault (x :: xs) false 0
  | [] =>
    match i with
    | .ld f => s.evalLoad b f
    | i =>
      match aluOf i with
      | some (fn, d) =>
        let rs := laneIds.map (fn b (b.fpcr &&& ~~~(0x800 : Word)))
        .ok (b.put d (BitVec.allOnes 32) fun l => (rs.getD l { bits := 0 }).bits) (rs.map (·.flags)) (rs.map (·.tr))
      | none => .ok b [] []

/-- OR two lists of lane flags. -/
def orFlags (x y : List Nat) : List Nat := laneIds.map fun l => x.getD l 0 ||| y.getD l 0

/-- The words of a recipe in order (R151). -/
def State.evalWords (s : State) : Batt → List Instr → List Nat → List Nat → EvalRes
  | b, [], fl, tr => .ok b fl tr
  | b, i :: t, fl, tr =>
    match s.evalWord b i with
    | .ok b' f g => s.evalWords b' t (orFlags fl f) (orFlags tr g)
    | e => e

/-! ### Backing, drops and replays (R149, R152 to R154) -/

/-- Must a read replay the register: is it Dropped, tagged and not backed (R147), or backed and without its value (R151)? -/
def Batt.dropped (b : Batt) (n : Nat) : Bool :=
  match b.vreg? n with
  | some r => r.tag.isSome && !r.late && (!r.backed || r.lanes.isEmpty)
  | none => false

/-- Is it backed? -/
def Batt.isBacked (b : Batt) (n : Nat) : Bool := match b.vreg? n with | some r => r.backed | none => false

/-- The backed registers (R145). -/
def Batt.backedCount (b : Batt) : Nat := (b.vregs.filter (·.backed)).length

/-- Why preparation, an RTAG's own checks, or its own evaluation, ended the word (R149, R151, R155). -/
inductive PrepFault where
  | quota
  /-- a refused RTAG, with the address of its recipe's entry (R151) -/
  | refused (entry : DWord)
  | replay (recipe : Nat) (lanes : List LaneCause) (replayable : Bool) (level : Nat)
  | eval (lanes : List LaneCause) (replayable : Bool) (level : Nat)
  deriving DecidableEq, Repr

/-- A preparation in progress: the batt, the vector registers that its replays have read (R149), how many recipe words they took,
and whether one of them took more than eight in all, a long-latency dependence (R122, R152). -/
structure Prep where
  b : Batt
  read : List Nat := []
  words : Nat := 0
  long : Bool := false
  deriving DecidableEq, Repr

/-- The outcome of a preparation step: the preparation as it stands, or the fault and what stands of it. -/
inductive PrepRes where
  | ok (p : Prep)
  | fault (f : PrepFault) (p : Prep)
  deriving DecidableEq, Repr

/-- Continue after a step that succeeded. -/
def PrepRes.bind (r : PrepRes) (f : Prep → PrepRes) : PrepRes :=
  match r with
  | .ok p => f p
  | e => e

/-- The registers that the replays have read. -/
def PrepRes.read : PrepRes → List Nat
  | .ok p => p.read
  | .fault _ p => p.read

/-- Change the batt of a preparation. -/
def Prep.on (p : Prep) (f : Batt → Batt) : Prep := { p with b := f p.b }

/-- One step for each element of a list, in order, as long as they succeed. -/
def prepEach {α : Type} (f : α → Prep → PrepRes) (l : List α) (r : PrepRes) : PrepRes := l.foldl (fun r x => r.bind (f x)) r

/-- Back one register (R149): when the quota is full, the lowest candidate is dropped. `avoid` are the registers that the
word or a replay of its preparation names. -/
def Batt.back (b : Batt) (avoid : List Nat) (n : Nat) : Option Batt :=
  let mk (b : Batt) : Batt :=
    let r := (b.vreg? n).getD { num := n }
    { b with vregs := putVReg b.vregs { r with backed := true, fresh := true, lanes := if r.tag.isSome then [] else r.lanes } }
  if b.isBacked n then some b
  else if b.backedCount < b.regs then some (mk b)
  else
    (b.vregs.find? fun r => r.backed && r.tag.isSome && !r.late && r.poison == 0 && r.num != n && !avoid.contains r.num).map
      fun r => mk { b with vregs := putVReg b.vregs { r with backed := false, fresh := false, lanes := List.replicate 32 0 } }

/-- Back one register, or QUOTA (R149). -/
def Prep.back (avoid : List Nat) (n : Nat) (p : Prep) : PrepRes :=
  match p.b.back avoid n with
  | some b => .ok { p with b := b }
  | none => .fault .quota p

/-- The scalars that the recipe of a register reads: those of the batt, s63 as it was where an unwind could not replay the register first
(R22, R152; log 100). -/
def VReg.scalarsFor (r : VReg) (b : Batt) : Batt :=
  match r.kept63 with
  | some (v, bad) => { b with scalars := setAt b.scalars 63 v, sPoison := (b.sPoison &&& ~~~(2 ^ 63 : DWord)) ||| (if bad then 2 ^ 63 else 0) }
  | none => b

/-- Replay a dropped register (R152), its dropped sources first; `fuel` bounds the depth of R151. A poisoned lane keeps its poison (R149). A
replay that fails leaves the register as it was. -/
def State.replay (s : State) (avoid : List Nat) : Nat → Nat → Prep → PrepRes
  | 0, _, p => .ok p
  | fuel + 1, y, p =>
    if !p.b.dropped y then .ok p else
    match p.b.vreg? y, (p.b.vreg? y).bind (·.tag) with
    | some r, some (rn, depth) =>
      match s.recipeOf p.b rn with
      | none => .ok p
      | some (l, t) =>
        let before := p.words
        let p : Prep := { p with read := p.read ++ vNums (l.map fun i => (regUse i).reads).flatten }
        ((prepEach (s.replay avoid fuel) (recipeSources l t) (.ok p)).bind (Prep.back avoid y)).bind fun p =>
          match s.evalWords (r.scalarsFor p.b) l [] [] with
          | .fault lanes rep lv => .fault (.replay rn lanes rep lv) (p.on fun b => { b with vregs := putVReg b.vregs r })
          | .ok e _ _ =>
            let n := p.words + l.length
            let r' : VReg := { num := y, tag := some (rn, depth), lanes := e.vlanes y, poison := r.poison, kept63 := r.kept63 }
            .ok { p with b := { p.b with vregs := putVReg p.b.vregs r' }, words := n, long := p.long || 8 < n - before }
    | _, _ => .ok p

/-- The lanes that the recipe of a dropped register gives, or none where it cannot be evaluated: a replay with the whole register file to back
its sources in, of which nothing else stands. -/
def State.recipeLanes (s : State) (b : Batt) (y : Nat) : Option (List Word) :=
  match s.replay [] 3 y { b := { b with regs := 4096 } } with
  | .ok p => some (p.b.vlanes y)
  | .fault _ _ => none

/-- The lanes of a register that a write takes over: those it holds, or, where it is Dropped, those its recipe gives. Nothing is replayed
for them, since R147 asks for no replay where every lane is written, and none is dropped: they show only in a lane that the operation
leaves unwritten because its data is poisoned. Where the recipe cannot be evaluated they are free values (log 95). -/
def State.takenLanes (s : State) (b : Batt) (r : VReg) : List Word :=
  if !r.lanes.isEmpty && r.backed then r.lanes else
  (s.recipeLanes b r.num).getD (laneIds.map fun l => (Config.freeValue (s.free + l)).setWidth 32)

/-- A word that writes these registers later takes them over as it issues: they count as Backed and untagged from then on, so that none
is dropped or replayed by its earlier recipe before the write (R147 to R149). Where the operation comes to write nothing, `Batt.untake`
makes them again what they were. -/
def State.takeDests (s : State) (core slot : Nat) (ns : List Nat) : State :=
  let b := s.battAt core slot
  let regs := (b.vregs.filter fun r => ns.contains r.num && (r.tag.isSome || r.fresh)).map fun r =>
    { r with backed := true, late := true, lanes := s.takenLanes b r }
  if regs.isEmpty then s else
  { s.modBatt core slot fun b => { b with vregs := regs.foldl putVReg b.vregs } with free := s.free + 32 }

/-- Untag a register (R153): one that is not tagged does not change (R166). -/
def Batt.untag (b : Batt) (n : Nat) : Batt :=
  match b.vreg? n with
  | some r => if r.tag.isSome then { b with vregs := putVReg b.vregs { r with tag := none, fresh := false, kept63 := none } } else b
  | none => b

/-- Replay a register where it is dropped, then untag it (R147, R153). -/
def State.rematerialise (s : State) (avoid : List Nat) (y : Nat) (p : Prep) : PrepRes :=
  (s.replay avoid 3 y p).bind fun p => .ok (p.on fun b => b.untag y)

/-- The tagged registers whose recipes read a register directly (R153), ascending. -/
def State.dependents (s : State) (b : Batt) (x : RegRef) : List Nat :=
  (b.vregs.filter fun r => match r.tag with
    | none => false
    | some (rn, _) => match s.recipeOf b rn with
      | none => false
      | some (l, t) => match x with
        | .v n => (recipeSources l t).contains n
        | .s n => (recipeScalars l).contains n
        | _ => false).map (·.num)

/-- Handle the dependents of a register that is written or freed (R153). -/
def State.handleDeps (s : State) (avoid : List Nat) (x : RegRef) (p : Prep) : PrepRes :=
  prepEach (s.rematerialise avoid) (s.dependents p.b x) (.ok p)

/-- Back a destination, or replay it where the word writes a dropped register in part (R147, R148, R154). -/
def State.backDest (s : State) (avoid whole : List Nat) (x : Nat) (p : Prep) : PrepRes :=
  if p.b.dropped x && !whole.contains x then s.replay avoid 3 x p else p.back avoid x

/-- The references of a list in ascending order, each once. -/
def orderRefs (l : List RegRef) : List RegRef :=
  l.foldl (fun acc r => if acc.contains r then acc else insertBy (fun a b => a.code < b.code) acc r) []

/-- A preparation that drops none of the registers its replays read (R149): it is made again with those registers excluded until no
further one is found. -/
def settlePrep (run : List Nat → PrepRes) : Nat → List Nat → PrepRes
  | 0, avoid => run avoid
  | fuel + 1, avoid =>
    match (run avoid).read.filter fun n => !avoid.contains n with
    | [] => run avoid
    | more => settlePrep run fuel (avoid ++ more)

/-- A register whose recipe reads s63, which an unwind is about to write, is replayed where it is dropped, and untagged (R147, R153). Where that
replay fails or finds no room, the register stays as it is and keeps the s63 that its recipe reads (R22, R145, R152; log 100). -/
def State.detach (s : State) (y : Nat) (b : Batt) : Batt :=
  match settlePrep (fun avoid => s.rematerialise avoid y { b := b }) (b.vregs.length + 1) [] with
  | .ok p => p.b
  | .fault _ p =>
    let keep (r : VReg) : VReg := { r with kept63 := r.kept63.orElse fun _ => some (p.b.s 63, p.b.sPoison.getLsbD 63) }
    { p.b with vregs := mapIf (fun r => r.num == y) keep p.b.vregs }

/-- An unwind writes s63 outside any word (R426): the tagged registers whose recipes read it lose their tags first. -/
def State.writeS63 (s : State) (core slot : Nat) (v : DWord) : State :=
  s.modBatt core slot fun b => ((s.dependents b (.s 63)).foldl (fun b y => s.detach y b) b).setS 63 v

/-- The preparation of a word that reads and writes these registers (R154); `backing`: its destinations need backing; `whole`: the
registers that it writes in all 32 lanes. -/
def State.prepare (s : State) (b : Batt) (reads writes : List RegRef) (backing : Bool) (whole : List Nat) : PrepRes :=
  let run (avoid : List Nat) : PrepRes :=
    prepEach (s.backDest avoid whole) (if backing then vNums writes else [])
      (prepEach (s.replay avoid 3) (vNums reads) (prepEach (s.handleDeps avoid) (orderRefs writes) (.ok { b := b })))
  settlePrep run (b.vregs.length + 1) (vNums reads ++ vNums writes)

/-! ### The word's own preparation (R79, R151, R154, R166) -/

/-- The address of recipe entry n in the launch's table (R89): at byte 16 + 40n. -/
def State.recipeAddr (s : State) (b : Batt) (n : Nat) : DWord := (s.recOf b).rectab + BitVec.ofNat 64 (16 + 40 * n)

/-- A register is pinned (R146). -/
def Batt.isPinned (b : Batt) (n : Nat) : Bool := n < b.pinned

/-- The checks of RTAG, made before any preparation (R151): the words and the target. -/
def State.rtagCheck (s : State) (b : Batt) (f : RForm) : Option (List Instr × AluDst) :=
  match s.recipeOf b (f.mf 5 0) with
  | none => none
  | some (l, t) =>
    if (t == .v f.d.toNat || t == .w f.d.toNat) && !(dstRegs t).any b.isPinned && recipeDepth b l t ≤ 2 then some (l, t) else none

/-- The non-pinned registers of a range, ascending (R166). -/
def Batt.rangeRegs (b : Batt) (f : RForm) : List Nat :=
  ((List.range (f.mf 5 0 + 1)).map fun i => f.d.toNat + i).filter fun n => !b.isPinned n

/-- What a word reads and writes as it issues: RFREE leaves pinned registers alone (R166); RTAG reads what its recipe reads and writes
the recipe's whole target (R151). -/
def State.wordUse (s : State) (b : Batt) (i : Instr) : RegUse :=
  let u := regUse i
  match i with
  | .rfree _ => { u with writes := u.writes.filter fun r => match r with | .v k => b.pinned ≤ k | _ => true }
  | .rtag f =>
    match s.rtagCheck b f with
    | some (l, t) =>
      let own := (dstRegs t).map RegRef.v
      { u with reads := u.reads ++ (l.map fun i => (regUse i).reads).flatten.filter fun r => !own.contains r
               writes := own }
    | none => u
  | _ => u

/-- The lanes of a split for which a guard is true (R65). -/
def Batt.guarded (b : Batt) (split : Mask) : Guard → Mask
  | .always => split
  | .pred n neg => if neg then split &&& ~~~(b.p n.val) else split &&& b.p n.val

/-- The vector registers that a word writes in all 32 lanes (R147, R148): a slot of a paired word under its own guard (R74); LSET
writes one lane, and the payload of MLOOK only the lanes that hit, which are not known yet. -/
def Batt.wholeRegs (b : Batt) (i : Instr) (split active : Mask) : List Nat :=
  let all (m : Mask) (l : List RegRef) : List Nat := if m == BitVec.allOnes 32 then vNums l else []
  match i with
  | .pairedWord f => all (b.guarded split f.x.g) (slotUse f.x).writes ++ all (b.guarded split f.y.g) (slotUse f.y).writes
  | .lset _ | .mlook _ => []
  | _ => all active (regUse i).writes

/-- The vector registers of a word, or of a slot of a paired word, whose guard is true in no lane: nothing is going to write them. -/
def Batt.offRegs (b : Batt) (i : Instr) (split active : Mask) : List Nat :=
  let off (m : Mask) (l : List RegRef) : List Nat := if m = 0 then vNums l else []
  match i with
  | .pairedWord f => off (b.guarded split f.x.g) (slotUse f.x).writes ++ off (b.guarded split f.y.g) (slotUse f.y).writes
  | i => off active (regUse i).writes

/-- Registers that nothing is going to write give up the backing that a preparation took for them (R147). -/
def PrepRes.without (ns : List Nat) : PrepRes → PrepRes
  | .ok p => .ok (if ns.isEmpty then p else p.on fun b => { b with vregs := b.vregs.filterMap fun r => if ns.contains r.num then r.giveUp else some r })
  | e => e

/-- Stage 3 of R79. RTAG, RUNTAG and RFREE have no effect where ACTIVE is empty (R166); a refused RTAG prepares nothing (R151); RUNTAG
takes its range through its event (R147). R65 gives a word whose ACTIVE is empty no effect and no trap, and R79 and R154 put the
preparation before the guard: the model prepares such a word, which may then replay and drop registers, untag dependents, or end in a
trap or a fault of its preparation (log 111). -/
def State.prepareWord (s : State) (b : Batt) (i : Instr) (split active : Mask) : PrepRes :=
  let u := s.wordUse b i
  match i with
  | .rtag f =>
    if active = 0 then .ok { b := b }
    else if (s.rtagCheck b f).isNone then .fault (.refused (s.recipeAddr b (f.mf 5 0))) { b := b }
    else s.prepare b u.reads u.writes true (vNums u.writes)
  | .runtag f =>
    if active = 0 then .ok { b := b }
    else settlePrep (fun avoid => prepEach (s.rematerialise avoid) (b.rangeRegs f) (.ok { b := b })) (b.vregs.length + 1) (b.rangeRegs f)
  | .rfree _ => if active = 0 then .ok { b := b } else s.prepare b u.reads u.writes false []
  | _ => (s.prepare b u.reads u.writes true (b.wholeRegs i split active)).without (b.offRegs i split active)

end Sys2Proof.Machine
end

