-- ==== Sys2Proof/Machine/Banks.lean ====
section
/-! DEFINITION. Accumulator banks and the scratchpad of a felt as byte spaces with one poison bit per 32-bit word
(R231, R311, R315, R316, R416). -/

namespace Sys2Proof.Machine

/-- The words of a byte range. -/
def wordsOf (a n : Nat) : List Nat := if n = 0 then [] else (List.range ((a + n - 1) / 4 - a / 4 + 1)).map fun i => a / 4 + i

/-- The poison of words after a write of a range: a word written whole takes the new poison, a word written in part keeps its
own beside it (R416). -/
def wordPoison (old : List Nat) (a n : Nat) (bad : Bool) : List Nat :=
  (wordsOf a n).foldl (fun l w =>
    if bad then (if l.contains w then l else insertBy (· < ·) l w)
    else if a ≤ 4 * w && 4 * w + 4 ≤ a + n then l.filter (· != w) else l) old

/-! ### Banks (R311) -/

/-- Bytes of a bank. -/
def bankBytes : Nat := 16384

/-- The held bank of a number. -/
def Batt.bank? (b : Batt) (k : Nat) : Option Bank := b.banks.find? fun x => x.num == k

/-- Is the whole range of accumulator addresses in held banks (R311)? The first byte that is not, else none. -/
def Batt.bankMiss (b : Batt) (aa n : Nat) : Option Nat :=
  if n = 0 then none else
  ((List.range ((aa + n - 1) / bankBytes - aa / bankBytes + 1)).map fun i => aa / bankBytes + i).findSome? fun k =>
    if (b.bank? k).isSome then none else some (max aa (k * bankBytes))

/-- The byte at an accumulator address. -/
def Batt.bankByte (b : Batt) (aa : Nat) : Byte :=
  match b.bank? (aa / bankBytes) with
  | some k => k.data.get (aa % bankBytes)
  | none => 0

/-- Bytes from an accumulator address. -/
def Batt.bankRead (b : Batt) (aa n : Nat) : List Byte := (List.range n).map fun i => b.bankByte (aa + i)

/-- The lowest poisoned word of a range, as an accumulator address. -/
def Batt.bankBad (b : Batt) (aa n : Nat) : Option Nat :=
  ((wordsOf aa n).find? fun w =>
    match b.bank? (4 * w / bankBytes) with
    | some k => k.poison.contains (w % (bankBytes / 4))
    | none => false).map (4 * ·)

/-- Change a held bank. -/
def Batt.modBank (b : Batt) (k : Nat) (f : Bank → Bank) : Batt := { b with banks := mapIf (fun x => x.num == k) f b.banks }

/-- Write bytes that lie in one word (a range is written word by word), with their poison. -/
def Batt.bankPut (b : Batt) (aa : Nat) (bs : List Byte) (bad : Bool) : Batt :=
  b.modBank (aa / bankBytes) fun k =>
    { k with data := k.data.write (aa % bankBytes) bs, poison := wordPoison k.poison (aa % bankBytes) bs.length bad }

/-- Write bytes from an accumulator address; a range may run into the next bank (R311). -/
def Batt.bankWrite : Nat → Batt → Nat → List Byte → Bool → Batt
  | 0, b, _, _, _ => b
  | _, b, _, [], _ => b
  | fuel + 1, b, aa, bs, bad =>
    let room := bankBytes - aa % bankBytes
    (b.bankPut aa (bs.take room) bad).bankWrite fuel (aa + room) (bs.drop room) bad

/-- Write bytes from an accumulator address: at most 16 banks. -/
def Batt.bankStore (b : Batt) (aa : Nat) (bs : List Byte) (bad : Bool) : Batt := b.bankWrite 17 aa bs bad

/-- Banks that a range touches. -/
def banksOf (aa n : Nat) : List Nat :=
  if n = 0 then [] else (List.range ((aa + n - 1) / bankBytes - aa / bankBytes + 1)).map fun i => aa / bankBytes + i

/-! ### The scratchpad (R231) -/

/-- SCRATCH of a felt's launch. -/
def State.scratchSize (s : State) (lnum : Nat) : Nat := ((s.launch? lnum).map (·.recd.scratch)).getD 0

/-- Bytes of a felt's scratchpad. -/
def State.scratchRead (s : State) (lnum felt a n : Nat) : List Byte :=
  match s.felt? lnum felt with
  | some x => x.scratch.read a n
  | none => List.replicate n 0

/-- Does a range hold a poisoned word? -/
def State.scratchBad (s : State) (lnum felt a n : Nat) : Bool :=
  match s.felt? lnum felt with
  | some x => (wordsOf a n).any fun w => x.scratchPoison.contains w
  | none => false

/-- Write bytes into a felt's scratchpad, with their poison (R416). -/
def State.scratchWrite (s : State) (lnum felt a : Nat) (bs : List Byte) (bad : Bool) : State :=
  s.modFelt lnum felt fun x =>
    { x with scratch := x.scratch.write a bs, scratchPoison := wordPoison x.scratchPoison a bs.length bad }

/-- Words of a felt's scratchpad that clean ranges of one instruction, by address and length, write whole together lose their poison
(R416). -/
def State.scratchWhole (s : State) (lnum felt : Nat) (ranges : List (Nat × Nat)) : State :=
  let whole (w : Nat) : Bool := [0, 1, 2, 3].all fun i => ranges.any fun r => r.1 ≤ 4 * w + i && 4 * w + i < r.1 + r.2
  s.modFelt lnum felt fun x => { x with scratchPoison := x.scratchPoison.filter fun w => !whole w }

/-- A map of what pieces of one instruction write: 1 for a poisoned byte and 2 for a clean one, a later piece over an earlier one. -/
def writeMap (ws : List (Nat × List (Byte × Bool))) : Memory :=
  ws.foldl (fun m w => m.write w.1 (w.2.map fun x => if x.2 then 1 else 2)) []

/-- Words of a felt's scratchpad that pieces of one instruction write whole together, every byte clean, lose their poison (R416). -/
def State.scratchClean (s : State) (lnum felt : Nat) (ws : List (Nat × List (Byte × Bool))) : State :=
  let m := writeMap ws
  s.modFelt lnum felt fun x =>
    { x with scratchPoison := x.scratchPoison.filter fun w => !([0, 1, 2, 3].all fun i => m.get (4 * w + i) == 2) }

/-- SCRATCH as a batt has it: the control batt has no felt (R19). -/
def State.battScratch (s : State) (b : Batt) : Nat :=
  match b.id with
  | .ctl => 0
  | .batt n _ _ => s.scratchSize n

/-- Bytes of a felt's scratchpad, each with its word's poison. -/
def State.scratchBytes (s : State) (lnum felt a n : Nat) : List (Byte × Bool) :=
  match s.felt? lnum felt with
  | some x => (List.range n).map fun i => (x.scratch.get (a + i), x.scratchPoison.contains ((a + i) / 4))
  | none => List.replicate n (0, false)

/-- The poison of words after bytes of their own poison are written (R416). -/
def poisonBytes (old : List Nat) (a : Nat) (bad : List Bool) : List Nat :=
  (wordsOf a bad.length).foldl (fun l w =>
    if (bad.drop (4 * w - a)).take (4 * w + 4 - max a (4 * w)) |>.any id then (if l.contains w then l else insertBy (· < ·) l w)
    else if a ≤ 4 * w && 4 * w + 4 ≤ a + bad.length then l.filter (· != w) else l) old

/-- Write bytes of their own poison into a felt's scratchpad (R338). -/
def State.scratchPut (s : State) (lnum felt a : Nat) (bs : List (Byte × Bool)) : State :=
  s.modFelt lnum felt fun x =>
    { x with scratch := x.scratch.write a (bs.map (·.1)), scratchPoison := poisonBytes x.scratchPoison a (bs.map (·.2)) }

end Sys2Proof.Machine
end

