-- ==== Sys2Proof/Machine/Sig.lean ====
section
/-! DEFINITION. The signature function and tolerance classes (R340 to R346). -/

namespace Sys2Proof.Machine

/-- K1 of R341. -/
def sigK1 : DWord := 0x8F1B4E2D6A3C5971

/-- K2 of R341. -/
def sigK2 : DWord := 0xB5297A4D3C1E6F0B

/-- Rotate left within 64 bits. -/
def rotl64 (x : DWord) (n : Nat) : DWord := (x <<< n) ||| (x >>> (64 - n))

/-- A signature state: H1, H2 and COUNT. -/
structure Sig where
  h1 : DWord := 0x243F6A8885A308D3
  h2 : DWord := 0x13198A2E03707344
  count : Nat := 0
  deriving DecidableEq, Repr

/-- Absorb (R341): q at class k. -/
def Sig.absorb (g : Sig) (q : Nat) (k : Nat) : Sig :=
  let w : DWord := BitVec.ofNat 64 (q + k * 2 ^ 32 + g.count * 2 ^ 40)
  { h1 := rotl64 (g.h1 ^^^ w) 27 * sigK1, h2 := rotl64 (g.h2 + w) 31 * sigK2, count := (g.count + 1) % 2 ^ 16 }

/-- Absorb a list of 32-bit words at class 0. -/
def Sig.absorbAll (g : Sig) (ws : List Nat) : Sig := ws.foldl (fun g q => g.absorb q 0) g

/-- Absorb bytes as little-endian words, the last zero-padded. -/
def Sig.absorbBytes (g : Sig) (bs : List Byte) : Sig := g.absorbAll ((words32 bs).map (·.toNat))

/-- Mix of R341. -/
def sigMix (z : DWord) : DWord :=
  let y := (z ^^^ (z >>> 33)) * sigK1
  y ^^^ (y >>> 29)

/-- Final of R341, c the count word's low 24 bits. -/
def sigFinal (h1 h2 : DWord) (c : Nat) : DWord × DWord :=
  let g1 := h1 ^^^ BitVec.ofNat 64 c
  let g2 := h2 ^^^ BitVec.ofNat 64 (c * 2 ^ 32)
  (sigMix (g1 ^^^ rotl64 g2 17), sigMix (g2 ^^^ rotl64 g1 43))

/-- Final of a state whose absorptions were all at class 0. -/
def Sig.final (g : Sig) : DWord × DWord := sigFinal g.h1 g.h2 (g.count + 0x10000)

/-- The precision of tolerance classes 1 to 6 (R342). -/
def tolPrec (k : Nat) : Nat := [20, 16, 12, 10, 8, 6].getD (k - 1) 20

/-- Quantise a 32-bit operand at class k (R342). -/
def sigQuant (k : Nat) (x : Nat) : Nat :=
  if k = 0 then x
  else if k = 7 then x - x % 256
  else match decodeF f32 x with
    | .nan _ => 0x7FC00000
    | .zero _ => 0
    | .inf n => f32.infCode n
    | .fin n e =>
      let (m, e', _) := roundGrid (tolPrec k) f32.bias (some f32.emin) 0 n e
      if magLt f32.maxM f32.maxE m.natAbs e' then f32.infCode (n < 0)
      else f32.finCode (n < 0) m.natAbs e'

end Sys2Proof.Machine
end

