-- ==== Sys2Proof/Machine/Peat.lean ====
section
/-! DEFINITION. Side tables read through level two (R85 to R91, R461) and the peat store (R351 to R363, R368). -/

namespace Sys2Proof.Machine

/-! ### Device reads of a context's memory through level two (R85, R461) -/

/-- A read: its value, or the cause and the address of the first unreadable byte. -/
inductive SideRes (α : Type) where
  | ok (x : α)
  | bad (cause : Nat) (addr : DWord)
  deriving DecidableEq, Repr

/-- Read bytes from a virtual address through level two; a failing translation is cause XLAT, poison POISON (R461). Of a table that is
written while a launch that names it is outstanding R115 lets each lookup see the old or the new bytes of a word; the model always gives the
bytes that level two holds at the lookup (log 90). -/
def State.sideRead (s : State) (space : Nat) : DWord → Nat → SideRes (List Byte)
  | _, 0 => .ok []
  | va, n + 1 =>
    match (if fld va 63 49 != 0 then TransRes.xlat false 0 else s.walk space va) with
    | .ok loc _ _ =>
      let (x, bad) := s.homeByte loc
      if bad then .bad 0x0F va
      else match s.sideRead space (va + 1) n with
        | .ok xs => .ok (x :: xs)
        | e => e
    | .xlat _ _ => .bad 0x03 va
    | .poison => .bad 0x0F va

/-- Read a little-endian number. -/
def State.sideNum (s : State) (space : Nat) (va : DWord) (n : Nat) : SideRes Nat :=
  match s.sideRead space va n with
  | .ok bs => .ok (numOf bs)
  | .bad c a => .bad c a

/-- FindLast (R86): the address of the last entry whose key, its first 8 bytes, is at most pc. `fuel` bounds the halvings. -/
def State.findLastFrom (s : State) (space : Nat) (table : DWord) (esize : Nat) (pc : DWord) : Nat → Nat → Nat → SideRes (Option DWord)
  | 0, lo, _ => .ok (if lo = 0 then none else some (table + BitVec.ofNat 64 (16 + esize * (lo - 1))))
  | fuel + 1, lo, hi =>
    if lo < hi then
      let mid := (lo + hi) / 2
      match s.sideNum space (table + BitVec.ofNat 64 (16 + esize * mid)) 8 with
      | .bad c a => .bad c a
      | .ok k => if k ≤ pc.toNat then s.findLastFrom space table esize pc fuel (mid + 1) hi else s.findLastFrom space table esize pc fuel lo mid
    else .ok (if lo = 0 then none else some (table + BitVec.ofNat 64 (16 + esize * (lo - 1))))

/-- FindLast over a table of COUNT entries; no table is an empty one (R85). -/
def State.findLast (s : State) (space : Nat) (table : DWord) (esize count : Nat) (pc : DWord) : SideRes (Option DWord) :=
  if table = 0 then .ok none else s.findLastFrom space table esize pc 34 0 count

/-- The keys that FindLast reads (R86). -/
def State.findLastRuns (s : State) (space : Nat) (table : DWord) (esize : Nat) (pc : DWord) : Nat → Nat → Nat → List (DWord × Nat)
  | 0, _, _ => []
  | fuel + 1, lo, hi =>
    if lo < hi then
      let mid := (lo + hi) / 2
      let a := table + BitVec.ofNat 64 (16 + esize * mid)
      (a, 8) :: match s.sideNum space a 8 with
        | .bad _ _ => []
        | .ok k => if k ≤ pc.toNat then s.findLastRuns space table esize pc fuel (mid + 1) hi else s.findLastRuns space table esize pc fuel lo mid
    else []

/-- What a lookup reads: the keys of its search, and n bytes of the entry that it finds (R86). -/
def State.lookupRuns (s : State) (space : Nat) (table : DWord) (esize count : Nat) (pc : DWord) (n : Nat) : List (DWord × Nat) :=
  if table = 0 then [] else
  s.findLastRuns space table esize pc 34 0 count ++ match s.findLast space table esize count pc with
    | .ok (some a) => [(a, n)]
    | _ => []

/-- A pure region (R90): its first word, its end, its identity and its cost. -/
structure PureRegion where
  start : DWord
  stop : DWord
  ident : DWord
  cost : Nat
  deriving DecidableEq, Repr

/-- The pure-region entry at an address. -/
def State.pureEntry (s : State) (space : Nat) (a : DWord) : SideRes PureRegion :=
  match s.sideRead space a 32 with
  | .bad c x => .bad c x
  | .ok bs =>
    .ok { start := BitVec.ofNat 64 (numOf (bs.take 8)), stop := BitVec.ofNat 64 (numOf ((bs.drop 8).take 8)),
          ident := BitVec.ofNat 64 (numOf ((bs.drop 16).take 8)), cost := numOf (bs.drop 28) }

/-- The pure region a word lies in (R86, R347). -/
def State.regionAt (s : State) (b : Batt) (pc : DWord) : SideRes (Option PureRegion) :=
  match s.launchOf b with
  | none => .ok none
  | some l =>
    match s.findLast b.space l.recd.puretab 32 l.pures pc with
    | .bad c a => .bad c a
    | .ok none => .ok none
    | .ok (some a) =>
      match s.pureEntry b.space a with
      | .bad c x => .bad c x
      | .ok r => .ok (if pc.toNat < r.stop.toNat then some r else none)

/-- What the lookup of a word's pure region reads. -/
def State.regionRuns (s : State) (b : Batt) (pc : DWord) : List (DWord × Nat) :=
  match s.launchOf b with
  | some l => s.lookupRuns b.space l.recd.puretab 32 l.pures pc 32
  | none => []

/-! ### The peat store (R351, R353, R354) -/

/-- The CTL word of an entry (R353). -/
def PeatEntry.ctl (e : PeatEntry) : DWord :=
  BitVec.ofNat 64 (e.key.len % 2 ^ 16 * 2 ^ 48 + e.key.mix % 2 ^ 8 * 2 ^ 40 + e.key.space % 16 * 2 ^ 36 + e.flags % 64 * 2 ^ 30 + e.key.kind % 4 * 2 ^ 28 +
    e.depth % 8 * 2 ^ 25 + e.core % 128 * 2 ^ 18 + e.slot % 256 * 2 ^ 10 + (if e.prot then 2 ^ 9 else 0) + 2 ^ 8)

/-- The 32-byte header of an entry (R353): CTL, IDENT, F1, F2. -/
def PeatEntry.header (e : PeatEntry) : List Byte :=
  bytesOf 8 e.ctl.toNat ++ bytesOf 8 e.key.ident.toNat ++ bytesOf 8 e.key.f1.toNat ++ bytesOf 8 e.key.f2.toNat

/-- The bytes of an entry as the host reads them for diagnosis (R351, R353). -/
def PeatEntry.bytes (e : PeatEntry) : List Byte := e.header ++ e.payload

/-- The class of an entry: 0, 1, 2 the small classes, 3 the large partition. -/
def PeatKey.cls (k : PeatKey) : Nat :=
  if k.kind = 2 then 3 else if k.len ≤ 32 then 0 else if k.len ≤ 96 then 1 else 2

/-- The set of a small entry under a small partition of S MiB (R351). -/
def PeatKey.set (k : PeatKey) (mib : Nat) : Nat :=
  let sets := if k.cls = 0 then mib * 256 else mib * 128
  k.f1.toNat % sets

/-- The valid entry of a key (R356). -/
def Cluster.peatFind (c : Cluster) (k : PeatKey) : Option PeatEntry := c.peat.find? fun e => e.key == k

/-- Remove the entry of a key. -/
def Cluster.peatDrop (c : Cluster) (k : PeatKey) : Cluster := { c with peat := c.peat.filter fun e => e.key != k }

/-- Granules of a payload in the large partition. -/
def granules (len : Nat) : Nat := ceilDiv len 4096

/-- The entry that gives way among some (R354): the least recently used without PROT. -/
def peatVictim (l : List PeatEntry) : Option PeatEntry :=
  (l.filter fun e => !e.prot).foldl (fun acc e => match acc with
    | none => some e
    | some x => if e.used < x.used then some e else some x) none

/-- Clear PROT of the entries that satisfy a test when every one of them has it (R354). -/
def Cluster.unprotect (c : Cluster) (p : PeatEntry → Bool) : Cluster :=
  if (c.peat.filter p).all (·.prot) then { c with peat := mapIf p (fun e => { e with prot := false }) c.peat } else c

/-- Evict one entry among those that satisfy a test. -/
def Cluster.evictOne (c : Cluster) (p : PeatEntry → Bool) : Cluster :=
  let c := c.unprotect p
  match peatVictim (c.peat.filter p) with
  | some v => c.peatDrop v.key
  | none => c

/-- Evict from the large partition until an entry of n granules fits (R354). -/
def Cluster.largeRoom (n : Nat) : Nat → Cluster → Cluster
  | 0, c => c
  | fuel + 1, c =>
    let large := c.peat.filter fun e => e.key.cls == 3
    let used := (large.map fun e => granules e.key.len).foldl (· + ·) 0
    if used + n ≤ (4 - c.power.peats) * 256 && large.length < 512 then c
    else Cluster.largeRoom n fuel (c.evictOne fun e => e.key.cls == 3)

/-- Insert an entry (R354); a valid entry of its key stays (R359). -/
def Cluster.peatInsert (c : Cluster) (e : PeatEntry) : Cluster :=
  if (c.peatFind e.key).isSome then c else
  if e.key.cls = 3 then
    let c := Cluster.largeRoom (granules e.key.len) 512 c
    { c with peat := c.peat ++ [{ e with used := c.peatClock, prot := false }], peatClock := c.peatClock + 1 }
  else
    let mine (x : PeatEntry) : Bool := x.key.cls == e.key.cls && x.key.set c.power.peats == e.key.set c.power.peats
    let c := if (c.peat.filter mine).length < 16 then c else c.evictOne mine
    let way := ((List.range 16).find? fun w => !(c.peat.any fun x => mine x && x.way == w)).getD 0
    { c with peat := c.peat ++ [{ e with used := c.peatClock, prot := false, way := way }], peatClock := c.peatClock + 1 }

/-- What a lookup finds (R363): a miss, a hit with its entry, or a hit that is audited. -/
inductive PeatHit where
  | miss
  | hit (e : PeatEntry)
  | audit (e : PeatEntry)
  deriving DecidableEq, Repr

/-- A lookup with audit exponent a (R354, R363): every hit counts in HCNT; an error found in the entry is
a miss (R355). -/
def Cluster.peatLook (c : Cluster) (k : PeatKey) (a : Nat) : PeatHit × Cluster :=
  match c.peatFind k with
  | none => (.miss, c)
  | some e =>
    if e.err then (.miss, c.peatDrop k) else
    let h := (c.hcnt + 1) % 2 ^ 16
    let audited := h % 2 ^ a == 0
    let touch (x : PeatEntry) : PeatEntry := { x with used := c.peatClock, prot := x.prot || !audited }
    let c' : Cluster := { c with hcnt := h, peatClock := c.peatClock + 1, peat := mapIf (fun x => x.key == k) touch c.peat }
    (if audited then .audit e else .hit e, c')

/-- An audit mismatch invalidates the entry that the audit names (R364, R367); an entry filled since under the same key with another
payload is a different one and stays. -/
def Cluster.peatMismatch (c : Cluster) (k : PeatKey) (payload : List Byte) : Cluster :=
  { c with peat := c.peat.filter fun e => !(e.key == k && e.payload == payload) }

/-- A credit in boost units (R368). -/
def Cluster.credit (c : Cluster) (n : Nat) : Cluster := { c with power := { c.power with credit := c.power.credit + n } }

/-- Apply a MINV to one store (R361). -/
def Cluster.applyMinv (c : Cluster) (m : Minv) : Cluster :=
  { c with peat := c.peat.filter fun e =>
      !(e.key.space == m.space && (match m.kind with
        | .keys l => l.contains e.key
        | .region i => e.key.ident == i
        | .all => true)) }

/-- The audit exponent of a batt's launch (R109); the control batt has none. -/
def State.auditExp (s : State) (b : Batt) : Nat := (s.recOf b).audit

end Sys2Proof.Machine
end

