-- ==== Sys2Proof/Machine/Traps.lean ====
section
/-! DEFINITION. Causes, their classes, and the halt of a batt at a trapping word (R403, R404, R406, R407). -/

namespace Sys2Proof.Machine

/-! ### Causes (R406, R407) -/

/-- Cause codes of R407. -/
def cUNDEF : Nat := 0x01
/-- ALIGN. -/
def cALIGN : Nat := 0x02
/-- XLAT. -/
def cXLAT : Nat := 0x03
/-- PROT. -/
def cPROT : Nat := 0x04
/-- FPX. -/
def cFPX : Nat := 0x05
/-- FMTDIV. -/
def cFMTDIV : Nat := 0x06
/-- BUDGET. -/
def cBUDGET : Nat := 0x07
/-- QUOTA. -/
def cQUOTA : Nat := 0x08
/-- MASKMIS. -/
def cMASKMIS : Nat := 0x09
/-- BARMEM. -/
def cBARMEM : Nat := 0x0A
/-- BARTX. -/
def cBARTX : Nat := 0x0B
/-- NESTALLOC. -/
def cNESTALLOC : Nat := 0x0C
/-- IMPURE. -/
def cIMPURE : Nat := 0x0D
/-- AUDIT. -/
def cAUDIT : Nat := 0x0E
/-- POISON. -/
def cPOISON : Nat := 0x0F
/-- NONREPRO. -/
def cNONREPRO : Nat := 0x10
/-- POOLX. -/
def cPOOLX : Nat := 0x11
/-- TRAPI. -/
def cTRAPI : Nat := 0x12
/-- BRKPT. -/
def cBRKPT : Nat := 0x13
/-- RANGE. -/
def cRANGE : Nat := 0x14
/-- LAUNCHX. -/
def cLAUNCHX : Nat := 0x15
/-- ARRAY. -/
def cARRAY : Nat := 0x16

/-- Class Poison (R406); bit 7 marks a recipe replay (R155). -/
def isPoisonClass (c : Nat) : Bool := c % 128 == cPOISON || c % 128 == cARRAY

/-- Class Stop (R406). -/
def isStopClass (c : Nat) : Bool := c % 128 == cPOOLX

/-- The unwind events of R425. -/
def isUnwindCause (c : Nat) : Bool := isPoisonClass c || c % 128 == cAUDIT

/-- One cause with one fault address for every lane of a mask. -/
def causesOf (m : Mask) (cause : Nat) (faddr : DWord) : List LaneCause :=
  (lanesOf m).map fun l => { lane := l, cause := cause, faddr := faddr }

/-- The lowest fault address of a list of causes. -/
def lowestAddr (l : List LaneCause) : DWord :=
  match l with
  | [] => 0
  | c :: cs => cs.foldl (fun m x => if x.faddr.toNat < m.toNat then x.faddr else m) c.faddr

/-- The cause of an entry: that of the lowest lane with one (R405). -/
def TrapEntry.cause (e : TrapEntry) : Nat := ((e.lanes.find? fun x => x.cause != 0).map (·.cause)).getD 0

/-- The lowest lane's cause of a class (R405, R406): a word whose lanes give several causes belongs to a class that any of them names
(log 76). -/
def TrapEntry.causeIn (e : TrapEntry) (p : Nat → Bool) : Option Nat := (e.lanes.find? fun x => p x.cause).map (·.cause)

/-- A word traps: the batt halts and the entry is noted, with the number of its issue (R404): that of its outstanding operation for a
late check, and the next one for a word that is being issued. It gives up the backing it took for registers it has not written. -/
def State.noteTrap (s : State) (core slot : Nat) (word pc : DWord) (mask : Mask) (recipe : Nat) (lanes : List LaneCause) (order : Nat) : State :=
  s.modBatt core slot fun b =>
    let e : TrapEntry := { word := word, pc := pc, mask := mask, recipe := recipe, lanes := lanes, order := order }
    { b.unreserve with halted := true, trapped := b.trapped ++ [e] }

/-- A refused BART of the held queue halts its batt with BARTX at its word (R298, R301). -/
def State.noteRefusals (s : State) (ns : List BarNews) : State :=
  (ns.map (·.refused)).flatten.foldl (fun s id =>
    match s.battOf? id with
    | none => s
    | some b =>
      let m := b.lanesWhere fun x => x.st == .barrier
      let pc := (b.lane ((lowLane m).getD 0)).pc
      let word := match b.wait with | .held _ _ _ i => (encode i).getD 0 | _ => 0
      let s := s.modBattOf id fun b => { b.finishTurn.modLanes m (fun x => { x with st := .ready }) with wait := .none }
      s.noteTrap b.core b.slot word pc m 0 (causesOf m cBARTX 0) b.nextOp) s

end Sys2Proof.Machine
end

