-- ==== Sys2Proof/Machine/Matrix.lean ====
section
/-! DEFINITION. The matrix array's formats, parameter block, addresses and arithmetic (R36 to R39, R55 to R58, R318 to R321, R328),
and the copy engine's transforms and addresses (R335, R337, R462). -/

namespace Sys2Proof.Machine

/-! ### The format word (R37, R38) -/

/-- The format word, decoded: element codes, scaling, accumulator (0 binary32, 1 binary64, 2 int32) and rounding code. -/
structure MxFmt where
  af : Nat
  bf : Nat
  scale : Bool
  acc : Nat
  rnd : Nat
  deriving DecidableEq, Repr

/-- An 8-bit element code (R36). -/
def is8 (c : Nat) : Bool := c == 4 || (0x20 ≤ c && c % 8 != 0)

/-- The combinations of R38; none for a word that breaks R37 or R38. -/
def mxFmt (w : Nat) : Option MxFmt :=
  let f : MxFmt := { af := w % 64, bf := w / 2 ^ 6 % 64, scale := w / 2 ^ 12 % 4 == 1, acc := w / 2 ^ 14 % 16, rnd := w / 2 ^ 18 % 8 }
  let half (c : Nat) : Bool := c == 2 || c == 3
  let fl := f.acc ≤ 1
  if w / 2 ^ 21 != 0 || f.rnd == 5 || f.rnd == 6 || 2 ≤ w / 2 ^ 12 % 4 then none
  else if (f.af == 0 && f.bf == 0 && !f.scale && f.acc == 1) || (f.af == 1 && f.bf == 1 && !f.scale && fl) ||
      (half f.af && half f.bf && !f.scale && fl) || (is8 f.af && is8 f.bf && fl) ||
      (f.af == 4 && f.bf == 4 && !f.scale && f.acc == 2) then some f
  else none

/-- The format of a word that passed its check. -/
def mxFmtAt (w : Nat) : MxFmt := (mxFmt w).getD { af := 1, bf := 1, scale := false, acc := 0, rnd := 0 }

/-- Element size in bytes (R320). -/
def elemSize (c : Nat) : Nat := if c = 0 then 8 else if c = 1 then 4 else if c ≤ 3 then 2 else 1

/-- Accumulator element size (R320). -/
def MxFmt.accSize (f : MxFmt) : Nat := if f.acc = 1 then 8 else 4

/-- The accumulator's format; int32 has none. -/
def MxFmt.accFmt (f : MxFmt) : Fmt := if f.acc = 1 then f64 else f32

/-- Elements of k in one chunk (R55, R57). -/
def MxFmt.chunk (f : MxFmt) : Nat := if f.scale then 32 else 8

/-- Q of R327. -/
def MxFmt.rate (f : MxFmt) : Nat :=
  match max (elemSize f.af) (elemSize f.bf) with
  | 8 => 256
  | 4 => 512
  | 2 => 1024
  | _ => 4096

/-! ### The parameter block (R319, R320) -/

/-- The parameter block. -/
structure MxParams where
  ctl : Nat
  m : Nat
  n : Nat
  k : Nat
  src : Nat
  acc : Nat
  sastr : Nat
  sbstr : Nat
  aaddr : Nat
  baddr : Nat
  saaddr : Nat
  sbaddr : Nat
  astr : Nat
  bstr : Nat
  region : DWord
  deriving DecidableEq, Repr

/-- OPER. -/
def MxParams.oper (p : MxParams) : Nat := p.ctl % 4
/-- TA. -/
def MxParams.ta (p : MxParams) : Bool := Nat.testBit p.ctl 2
/-- TB. -/
def MxParams.tb (p : MxParams) : Bool := Nat.testBit p.ctl 3
/-- MEMO. -/
def MxParams.memo (p : MxParams) : Bool := Nat.testBit p.ctl 4

/-- The block's fields from its eight dwords (R319). -/
def mxParams (d : List DWord) : MxParams :=
  let w (i : Nat) : DWord := d.getD i 0
  { ctl := fld (w 0) 7 0, m := 16 * fld (w 0) 11 8, n := 16 * fld (w 0) 19 16, src := fld (w 0) 27 24, k := fld (w 0) 47 32
    acc := fld (w 1) 17 0, sastr := fld (w 1) 47 32, sbstr := fld (w 1) 63 48
    aaddr := (w 2).toNat, baddr := (w 3).toNat, saaddr := (w 4).toNat, sbaddr := (w 5).toNat
    astr := fld (w 6) 31 0, bstr := fld (w 6) 63 32, region := w 7 }

/-- Reserved bits of the block (R319). -/
def mxReserved (d : List DWord) : Bool :=
  let w (i : Nat) : DWord := d.getD i 0
  fld (w 0) 7 5 != 0 || fld (w 0) 15 12 != 0 || fld (w 0) 23 20 != 0 || fld (w 0) 31 28 != 0 || fld (w 0) 63 48 != 0 ||
  fld (w 1) 31 18 != 0

/-- Is an operand in global memory: 0 A, 1 B, 2 SA, 3 SB? -/
def MxParams.global (p : MxParams) (i : Nat) : Bool := Nat.testBit p.src i

/-- Check 4 of R318 (R320): does a field break it? -/
def mxBad (d : List DWord) (f : MxFmt) : Bool :=
  let p := mxParams d
  mxReserved d || 2 ≤ p.oper || p.m < 16 || 128 < p.m || p.n < 16 || 128 < p.n || p.k < 1 || 4096 < p.k ||
  (f.scale && p.k % 32 != 0) ||
  (!f.scale && (p.src / 4 != 0 || p.saaddr != 0 || p.sbaddr != 0 || p.sastr != 0 || p.sbstr != 0)) ||
  (!p.global 0 && 2 ^ 32 ≤ p.aaddr) || (!p.global 1 && 2 ^ 32 ≤ p.baddr) ||
  (!p.global 2 && 2 ^ 32 ≤ p.saaddr) || (!p.global 3 && 2 ^ 32 ≤ p.sbaddr) ||
  (p.memo && (p.oper != 1 || 16384 < p.m * p.n * f.accSize)) || (!p.memo && p.region != 0)

/-- Check 5: the first address or stride that is not a multiple of its element size. -/
def mxMisaligned (p : MxParams) (f : MxFmt) : Option Nat :=
  [(p.aaddr, elemSize f.af), (p.baddr, elemSize f.bf), (p.astr, elemSize f.af), (p.bstr, elemSize f.bf), (p.acc, f.accSize)].findSome?
    fun x => if x.1 % x.2 != 0 then some x.1 else none

/-- Address of element (i, k) of A (R320). -/
def MxParams.addrA (p : MxParams) (f : MxFmt) (i k : Nat) : Nat :=
  if p.ta then p.aaddr + k * p.astr + i * elemSize f.af else p.aaddr + i * p.astr + k * elemSize f.af

/-- Address of element (k, j) of B. -/
def MxParams.addrB (p : MxParams) (f : MxFmt) (k j : Nat) : Nat :=
  if p.tb then p.baddr + j * p.bstr + k * elemSize f.bf else p.baddr + k * p.bstr + j * elemSize f.bf

/-- The range of operand i: address and length (R320). -/
def MxParams.range (p : MxParams) (f : MxFmt) (i : Nat) : Nat × Nat :=
  match i with
  | 0 => (p.aaddr, if p.ta then (p.k - 1) * p.astr + p.m * elemSize f.af else (p.m - 1) * p.astr + p.k * elemSize f.af)
  | 1 => (p.baddr, if p.tb then (p.n - 1) * p.bstr + p.k * elemSize f.bf else (p.k - 1) * p.bstr + p.n * elemSize f.bf)
  | 2 => (p.saaddr, if f.scale then (p.m - 1) * p.sastr + p.k / 32 else 0)
  | _ => (p.sbaddr, if f.scale then (p.n - 1) * p.sbstr + p.k / 32 else 0)

/-- The runs of consecutive bytes of operand i that hold its elements of k from lo up to hi: by row of A and SA and column of B and
SB, or by k where the operand is stored the other way (R320). -/
def MxParams.runs (p : MxParams) (f : MxFmt) (i lo hi : Nat) : List (Nat × Nat) :=
  let across (base stride e n : Nat) : List (Nat × Nat) := (List.range n).map fun r => (base + r * stride + lo * e, (hi - lo) * e)
  let along (base stride e n : Nat) : List (Nat × Nat) := (List.range (hi - lo)).map fun t => (base + (lo + t) * stride, n * e)
  let scales (base stride n : Nat) : List (Nat × Nat) :=
    if f.scale then (List.range n).map fun r => (base + r * stride + lo / 32, (hi - lo) / 32) else []
  match i with
  | 0 => if p.ta then along p.aaddr p.astr (elemSize f.af) p.m else across p.aaddr p.astr (elemSize f.af) p.m
  | 1 => if p.tb then across p.baddr p.bstr (elemSize f.bf) p.n else along p.baddr p.bstr (elemSize f.bf) p.n
  | 2 => scales p.saaddr p.sastr p.m
  | _ => scales p.sbaddr p.sbstr p.n

/-- Do two ranges share a 64-byte sector? -/
def shareSector (x y : Nat × Nat) : Bool :=
  0 < x.2 && 0 < y.2 && x.1 / 64 ≤ (y.1 + y.2 - 1) / 64 && y.1 / 64 ≤ (x.1 + x.2 - 1) / 64

/-- Do two ranges share a byte? -/
def shareByte (x y : Nat × Nat) : Bool := 0 < x.2 && 0 < y.2 && x.1 < y.1 + y.2 && y.1 < x.1 + x.2

/-- Bytes of the accumulator range. -/
def MxParams.accBytes (p : MxParams) (f : MxFmt) : Nat := p.m * p.n * f.accSize

/-! ### The sums (R55 to R58) -/

/-- A value times 2^k. -/
def FVal.scale (v : FVal) (k : Int) : FVal :=
  match v with
  | .fin n e => .fin n (e + k)
  | v => v

/-- One chunk of an output element: the accumulator code, the element codes of the chunk, and the scale bytes of its block. -/
def mxChunk (f : MxFmt) (mode : Nat) (c : Nat) (ab : List (Nat × Nat)) (xa xb : Nat) : FRes :=
  if f.acc = 2 then
    { bits := modPow ((c : Int) + (ab.map fun x => valOf true 8 x.1 * valOf true 8 x.2).foldl (· + ·) 0) 32 }
  else if f.scale && (xa == 0xFF || xb == 0xFF) then { bits := f.accFmt.nanCode }
  else
    let k : Int := if f.scale then (xa : Int) + xb - 254 else 0
    let terms := ab.map fun x => (mulVal (cvtDecode (cvtType f.af) x.1) (cvtDecode (cvtType f.bf) x.2)).scale k
    fusedSum f.accFmt mode (decodeF f.accFmt c :: terms)

/-- Initial accumulator of GEMM-overwrite (R321). -/
def MxFmt.zero (f : MxFmt) : Nat := if f.acc = 2 then 0 else if f.acc = 1 then 2 ^ 63 else 2 ^ 31

/-! ### Copies (R334 to R337, R462) -/

/-- A copy's group, decoded (R334): kind 0 CPY, 1 CPY2D, 2 GATH, 3 SCAT. `len` is LEN, W or ESIZE. -/
structure CopyGroup where
  kind : Nat
  xf : Nat
  dsp : Bool
  ssp : Bool
  dst : Nat
  src : Nat
  len : Nat
  rows : Nat := 1
  dstr : Nat := 0
  sstr : Nat := 0
  iscale : Nat := 0
  xp : Nat
  deriving DecidableEq, Repr

/-- The group of a kind, from its scalars and MOD (R334). -/
def copyGroup (kind : Nat) (m : Byte) (d : List DWord) : CopyGroup :=
  let w (i : Nat) : DWord := d.getD i 0
  let g : CopyGroup := { kind := kind, xf := fld m 4 0, dsp := bit1 m 5, ssp := bit1 m 6, dst := (w 0).toNat, src := (w 1).toNat,
                         len := (w 2).toNat, xp := (w 3).toNat }
  match kind with
  | 0 => g
  | 1 => { g with len := fld (w 2) 31 0, rows := fld (w 2) 63 32, dstr := fld (w 3) 31 0, sstr := fld (w 3) 63 32, xp := (w 4).toNat }
  | _ => { g with len := fld (w 2) 31 0, iscale := fld (w 2) 63 32 }

/-- Input unit, output unit, source alignment, destination alignment (R462). -/
def CopyGroup.units (g : CopyGroup) : Nat × Nat × Nat × Nat :=
  let e := 2 ^ (g.xp % 4)
  match g.xf with
  | 0 => (1, 1, 1, 1)
  | 1 => (4, 2, 4, 2)
  | 2 => (4, 2, 4, 2)
  | 3 => (2, 4, 2, 4)
  | 4 => (128, 32, 4, 1)
  | 5 => (32, 128, 1, 4)
  | 6 => (4, 1, 4, 1)
  | 7 => (1, 4, 1, 4)
  | 8 => (e, e, e, e)
  | 9 => (4, 16, 4, 8)
  | 10 => (0, 1, 1, 1)
  | _ => (0, 4, 1, 4)

/-- A P3109 code of R36. -/
def isP8Code (c : Nat) : Bool := 0x20 ≤ c && c < 0x40 && c % 8 != 0

/-- Check 1 of R336: is some group value bad? -/
def CopyGroup.bad (g : CopyGroup) : Bool :=
  let (ib, ob, _, _) := g.units
  let unit := if ib = 0 then ob else ib
  let rnd := g.xp % 8
  let lenBad := match g.kind with
    | 0 => 2 ^ 24 < g.len
    | 1 => g.len < 1 || 65536 < g.len || g.rows < 1 || 65536 < g.rows || 2 ^ 24 < g.len * g.rows
    | _ => g.len < 1 || 4096 < g.len
  let xpBad := match g.xf with
    | 1 => 16 ≤ g.xp || rnd == 5 || rnd == 6
    | 2 => 16 ≤ g.xp || rnd == 5 || rnd == 6
    | 4 => false
    | 5 => false
    | 6 => 1024 ≤ g.xp || rnd == 5 || rnd == 6 || !isP8Code (g.xp / 16)
    | 7 => 1024 ≤ g.xp || g.xp % 16 != 0 || !isP8Code (g.xp / 16)
    | 8 => 4 ≤ g.xp
    | 11 => 2 ^ 32 ≤ g.xp
    | _ => g.xp != 0
  lenBad || g.len % unit != 0 || xpBad

/-- One piece of a copy: source bytes to destination bytes, for a lane where GATH or SCAT made it (R337). -/
structure Piece where
  src : Int
  nin : Nat
  dst : Int
  nout : Nat
  lane : Option Nat := none
  deriving DecidableEq, Repr

/-- An address of R337: exact in the scratchpad, mod 2^64 in global memory. -/
def copyAddr (sp : Bool) (a : Int) : Int := if sp then a else a % (2 ^ 64 : Int)

/-- Output bytes of an input of n bytes. -/
def CopyGroup.outOf (g : CopyGroup) (n : Nat) : Nat :=
  let (ib, ob, _, _) := g.units
  if g.xf = 9 then 16 else if ib = 0 then n else n / ib * ob

/-- Input bytes of a row or element whose length field is n: none under XF 10 and 11 (R335). -/
def CopyGroup.inOf (g : CopyGroup) (n : Nat) : Nat := if 10 ≤ g.xf then 0 else n

/-- The pieces of a copy, in the order in which they are written (R337). A CPY of LEN 0 has none (R339). -/
def CopyGroup.pieces (g : CopyGroup) (active : Mask) (vec : List Word) : List Piece :=
  let s (a : Int) : Int := copyAddr g.ssp a
  let d (a : Int) : Int := copyAddr g.dsp a
  let idx (l : Nat) : Int := sval 32 (vec.getD l 0).toNat
  let out := g.outOf g.len
  match g.kind with
  | 0 => if g.len = 0 then [] else [{ src := s g.src, nin := g.inOf g.len, dst := d g.dst, nout := out }]
  | 1 =>
    if g.xf = 8 then
      let e := 2 ^ (g.xp % 4)
      ((List.range g.rows).map fun r => (List.range (g.len / e)).map fun q =>
        ({ src := s (g.src + r * g.sstr + q * e : Nat), nin := e, dst := d (g.dst + q * g.dstr + r * e : Nat), nout := e } : Piece)).flatten
    else (List.range g.rows).map fun r =>
      { src := s (g.src + r * g.sstr : Nat), nin := g.inOf g.len, dst := d (g.dst + r * g.dstr : Nat), nout := out }
  | 2 => (lanesOf active).map fun l =>
      { src := s (g.src + idx l * g.iscale), nin := g.len, dst := d (g.dst + l * out : Nat), nout := out, lane := some l }
  | _ => (lanesOf active).map fun l =>
      { src := s (g.src + l * g.len : Nat), nin := g.len, dst := d (g.dst + idx l * g.iscale), nout := out, lane := some l }

/-- The scale array of transforms 4 and 5 (R335): address, bytes, in the scratchpad, written. -/
def CopyGroup.scales (g : CopyGroup) : Option (Nat × Nat × Bool × Bool) :=
  if g.xf = 4 then some (g.xp, g.len / 128, g.dsp, true)
  else if g.xf = 5 then some (g.xp, g.len / 32, g.ssp, false)
  else none

/-- What a transform makes of a piece: bytes with their poison, flags, and scale bytes. -/
structure XfOut where
  bytes : List (Byte × Bool)
  flags : Nat := 0
  scales : List (Byte × Bool) := []
  deriving DecidableEq, Repr

/-- Bytes with one poison bit. -/
def taint (bad : Bool) (bs : List Byte) : List (Byte × Bool) := bs.map fun b => (b, bad)

/-- A conversion of units as CVT makes it (R335, R338). -/
def xfConvert (dst src : CvtType) (mode : Nat) (sat : Bool) (ib ob : Nat) (x : List (Byte × Bool)) : XfOut :=
  (chunksOf ib x.length x).foldl (fun o u =>
    let r := cvtOp dst src mode sat (numOf (u.map (·.1)))
    { o with bytes := o.bytes ++ taint (u.any (·.2)) (bytesOf ob r.bits), flags := o.flags ||| r.flags }) { bytes := [] }

/-- The transform of a piece (R335): `mode` is the rounding mode that RND selects, `sc` the scale bytes read under XF 5. -/
def CopyGroup.transform (g : CopyGroup) (mode nout : Nat) (sc : List (Byte × Bool)) (x : List (Byte × Bool)) : XfOut :=
  let sat := Nat.testBit g.xp 3
  let p8 : CvtType := cvtType (g.xp / 16)
  match g.xf with
  | 1 => xfConvert (.flt h16) (.flt f32) mode sat 4 2 x
  | 2 => xfConvert (.flt bf16) (.flt f32) mode sat 4 2 x
  | 3 => xfConvert (.flt f32) (.flt h16) 0 false 2 4 x
  | 4 => (chunksOf 128 x.length x).foldl (fun o u =>
      let bad := u.any (·.2)
      let (c, rs) := qmxBlock ((words32 (u.map (·.1))).map fun w => decodeF f32 w.toNat)
      { bytes := o.bytes ++ taint bad (rs.map fun r => BitVec.ofNat 8 r.bits), flags := rs.foldl (fun a r => a ||| r.flags) o.flags
        scales := o.scales ++ [(BitVec.ofNat 8 c, bad)] }) { bytes := [] }
  | 5 => ((chunksOf 32 x.length x).zip sc).foldl (fun o u =>
      let bad := u.2.2 || u.1.any (·.2)
      let rs := u.1.map fun q => dqmxElem u.2.1.toNat q.1.toNat
      { o with bytes := o.bytes ++ taint bad (rs.map fun r => bytesOf 4 r.bits).flatten, flags := rs.foldl (fun a r => a ||| r.flags) o.flags })
      { bytes := [] }
  | 6 => xfConvert p8 (.flt f32) mode sat 4 1 x
  | 7 => xfConvert (.flt f32) p8 0 false 1 4 x
  | 9 =>
    let (f1, f2) := (({} : Sig).absorbBytes (x.map (·.1))).final
    { bytes := taint (x.any (·.2)) (bytesOf 8 f1.toNat ++ bytesOf 8 f2.toNat) }
  | 10 => { bytes := taint false (List.replicate nout 0) }
  | 11 => { bytes := taint false ((List.replicate (nout / 4) (bytesOf 4 g.xp)).flatten) }
  | 8 => { bytes := taint (x.any (·.2)) (x.map (·.1)) }
  | _ => { bytes := x }

end Sys2Proof.Machine
end

