-- ==== Sys2Proof/Machine/Engine.lean ====
section
/-! DEFINITION. The queues of the matrix array and of the copy engine: locks, fetch, passes, completion and what waits for them
(R317, R322 to R333, R337 to R339, R366, R367). -/

namespace Sys2Proof.Machine

/-! ### An operation -/

/-- Is it an operation of the array? -/
def EngineOp.isMxi (o : EngineOp) : Bool := match o.instr with | .mxi _ => true | _ => false

/-- Its decoded format word. -/
def EngineOp.fmtOf (o : EngineOp) : MxFmt := mxFmtAt o.fmt

/-- Its parameter block. -/
def EngineOp.prm (o : EngineOp) : MxParams := mxParams o.params

/-- Its group; TXSIG signs the texture's bytes (R369), MLCLR fills the heads with zeros (R400). -/
def EngineOp.group (o : EngineOp) : CopyGroup :=
  match o.instr with
  | .cpy f => copyGroup 0 f.mod o.params
  | .cpy2d f => copyGroup 1 f.mod o.params
  | .gath f => copyGroup 2 f.mod o.params
  | .scat f => copyGroup 3 f.mod o.params
  | .mlclr _ => { kind := 0, xf := 10, dsp := false, ssp := false, dst := (o.params.getD 0 0).toNat, src := 0, len := (o.params.getD 2 0).toNat, xp := 0 }
  | _ => { kind := 0, xf := 9, dsp := false, ssp := false, dst := (o.params.getD 0 0).toNat, src := (o.params.getD 1 0).toNat,
           len := (o.params.getD 2 0).toNat, xp := 0 }

/-- Its pieces. -/
def EngineOp.pieces (o : EngineOp) : List Piece := o.group.pieces o.active o.vec

/-- The barrier field of a copy (R334, R369). -/
def EngineOp.barField (o : EngineOp) : BitVec 10 :=
  match o.instr with
  | .cpy f | .cpy2d f | .gath f | .scat f | .txsig f => f.c
  | _ => 0

/-- Banks of the accumulator range (R322). -/
def EngineOp.banks (o : EngineOp) : List Nat := if o.isMxi then banksOf o.prm.acc (o.prm.accBytes o.fmtOf) else []

/-- The location of a virtual address, as the checks translated it (R413). -/
def EngineOp.loc (o : EngineOp) (va : Nat) : Loc :=
  match o.pages.find? fun x => x.1 == va / 65536 with
  | some x => { x.2 with pa := x.2.pa + va % 65536 }
  | none => {}

/-! ### Locks (R324) -/

/-- Chunks of K (R328). -/
def EngineOp.nchunks (o : EngineOp) : Nat := ceilDiv o.prm.k o.fmtOf.chunk

/-- Have all its operand bytes been read? -/
def EngineOp.fetched (o : EngineOp) : Bool := o.nchunks ≤ o.opA.length

/-- Scratchpad ranges it has still to read. -/
def EngineOp.readRanges (o : EngineOp) : List (Nat × Nat) :=
  if o.isMxi then
    if o.fetched then [] else
    [0, 1, 2, 3].filterMap fun i => if o.prm.global i || (o.prm.range o.fmtOf i).2 = 0 then none else some (o.prm.range o.fmtOf i)
  else
    (if o.group.ssp then o.pieces.filterMap fun p => if p.nin = 0 then none else some (p.src.toNat, p.nin) else []) ++
    (match o.group.scales with | some (a, n, true, false) => [(a, n)] | _ => [])

/-- Scratchpad ranges it writes. -/
def EngineOp.writeRanges (o : EngineOp) : List (Nat × Nat) :=
  if o.isMxi then [] else
    (if o.group.dsp then o.pieces.map fun p => (p.dst.toNat, p.nout) else []) ++
    (match o.group.scales with | some (a, n, true, true) => [(a, n)] | _ => [])

/-- Do two lists of ranges share a byte? -/
def rangesMeet (x y : List (Nat × Nat)) : Bool := x.any fun p => y.any fun q => shareByte p q

/-- The operations of a core's two queues. -/
def CoreSt.engineOps (c : CoreSt) : List EngineOp := c.mxiq ++ c.copyq

/-- Does an earlier operation of the felt hold a lock that this one waits for? -/
def CoreSt.opBlocked (c : CoreSt) (o : EngineOp) : Bool :=
  c.engineOps.any fun e => e.id < o.id && e.lnum == o.lnum && e.felt == o.felt &&
    (rangesMeet e.writeRanges (o.readRanges ++ o.writeRanges) || rangesMeet e.readRanges o.writeRanges)

/-- Does a scratchpad store to these ranges by a batt of the felt wait? -/
def CoreSt.storeLocked (c : CoreSt) (lnum felt : Nat) (rs : List (Nat × Nat)) : Bool :=
  c.engineOps.any fun e => e.lnum == lnum && e.felt == felt && rangesMeet (e.readRanges ++ e.writeRanges) rs

/-- Do these scratchpad ranges of a felt meet a write-locked one? -/
def CoreSt.writeLocked (c : CoreSt) (lnum felt : Nat) (rs : List (Nat × Nat)) : Bool :=
  c.engineOps.any fun e => e.lnum == lnum && e.felt == felt && rangesMeet e.writeRanges rs

/-- Does a scratchpad load of these ranges by the batt of a slot wait? -/
def CoreSt.loadLocked (c : CoreSt) (slot lnum felt : Nat) (rs : List (Nat × Nat)) : Bool :=
  c.engineOps.any fun e => e.lnum == lnum && e.felt == felt &&
    (rangesMeet e.writeRanges rs || (e.slot == slot && rangesMeet e.readRanges rs))

/-! ### Fetch (R324, R325) -/

/-- Replace an operation of the array's queue. -/
def State.putMxi (s : State) (core : Nat) (o : EngineOp) : State :=
  s.modCore core fun c => { c with mxiq := mapIf (fun x => x.id == o.id) (fun _ => o) c.mxiq }

/-- The k of chunk c: from, up to. -/
def EngineOp.chunkK (o : EngineOp) (c : Nat) : Nat × Nat := (c * o.fmtOf.chunk, min o.prm.k ((c + 1) * o.fmtOf.chunk))

/-- The runs in memory of the operand bytes with k from lo up to hi. -/
def EngineOp.memRuns (o : EngineOp) (lo hi : Nat) : List (Nat × Nat) :=
  if hi ≤ lo then [] else (([0, 1, 2, 3].filter o.prm.global).map fun i => o.prm.runs o.fmtOf i lo hi).flatten

/-- The virtual addresses of the sectors that runs in memory touch. -/
def runSectors (rs : List (Nat × Nat)) : List Nat :=
  ((rs.filter fun r => 0 < r.2).flatMap fun r => (List.range ((r.1 + r.2 - 1) / 64 - r.1 / 64 + 1)).map fun j => 64 * (r.1 / 64 + j)).eraseDups

/-- Of virtual addresses those that lead to sectors which come for the first time. -/
def EngineOp.freshSectors (o : EngineOp) : List Nat → List Nat → List Nat
  | _, [] => []
  | seen, a :: t =>
    if seen.contains (o.loc a).sector then o.freshSectors seen t else a :: o.freshSectors ((o.loc a).sector :: seen) t

/-- The sectors of level two, by a virtual address of each, that the next chunk needs and that the operation has not read, through whichever
address (R325). -/
def EngineOp.newSectors (o : EngineOp) : List Nat :=
  let (lo, hi) := o.chunkK o.opA.length
  o.freshSectors (o.held.map (·.1)) (runSectors (o.memRuns lo hi))

/-- One operand byte in memory, from a sector that has been read. -/
def EngineOp.heldByte (o : EngineOp) (va : Nat) : Byte × Bool :=
  match o.held.find? fun h => h.1 == (o.loc va).sector with
  | some h => h.2.getD (va % 64) (0, false)
  | none => (0, false)

/-- The TFU reads the sector of a virtual address, from level two only and once (R325). -/
def State.readSector (s : State) (o : EngineOp) (va : Nat) : (Nat × List (Byte × Bool)) × State :=
  let x := o.loc va
  ((x.sector, (x.run64).map s.homeByte), s.l2Fill x o.space va)

/-- Fetch the next chunk of every operand: A in (i, k) order, B in (j, k) order, the scales by row and by column. Sectors read before
are not read again, and every sector read stays pinned until the array has consumed it (R325). -/
def State.fetchChunk (s : State) (o : EngineOp) : EngineOp × State :=
  let (o1, s) := o.newSectors.foldl (fun (acc : EngineOp × State) v =>
    let (h, s) := acc.2.readSector o v
    ({ acc.1 with held := acc.1.held ++ [h] }, s)) (o, s)
  let f := o.fmtOf
  let p := o.prm
  let (lo, hi) := o.chunkK o.opA.length
  let bytes (i a n : Nat) : List (Byte × Bool) :=
    if p.global i then (List.range n).map fun j => o1.heldByte (a + j) else s.scratchBytes o.lnum o.felt a n
  let grid (m : Nat) (g : Nat → Nat → List (Byte × Bool)) : List (Byte × Bool) :=
    ((List.range m).map fun i => ((List.range (hi - lo)).map fun t => g i (lo + t)).flatten).flatten
  let scales (i base stride m : Nat) : List (Byte × Bool) :=
    if f.scale then ((List.range m).map fun r => bytes i (base + r * stride + lo / 32) 1).flatten else []
  ({ o1 with opA := o1.opA ++ [grid p.m fun i k => bytes 0 (p.addrA f i k) (elemSize f.af)]
             opB := o1.opB ++ [grid p.n fun j k => bytes 1 (p.addrB f k j) (elemSize f.bf)]
             opSA := o1.opSA ++ [scales 2 p.saaddr p.sastr p.m]
             opSB := o1.opSB ++ [scales 3 p.sbaddr p.sbstr p.n] }, s)

/-- Level-two bytes of the lines of the sectors that an operation holds. -/
def EngineOp.pinBytes (o : EngineOp) : Nat := 256 * pinLines (o.held.map (·.1))

/-- Level-two bytes that it would pin with its next chunk. -/
def EngineOp.pinNext (o : EngineOp) : Nat := 256 * pinLines (o.held.map (·.1) ++ o.newSectors.map fun a => (o.loc a).sector)

/-! ### Passes (R321, R323, R328, R329) -/

/-- Blocks of 32 in a dimension. -/
def blocks32 (n : Nat) : Nat := ceilDiv n 32

/-- Blocks of output elements. -/
def EngineOp.nblocks (o : EngineOp) : Nat := blocks32 o.prm.m * blocks32 o.prm.n

/-- Passes of an operation (R328): every block for the first chunk of K, then for the next (log 81). -/
def EngineOp.passes (o : EngineOp) : Nat := o.nblocks * o.nchunks

/-- The chunk of a pass. -/
def EngineOp.chunkOf (o : EngineOp) (pass : Nat) : Nat := pass / o.nblocks

/-- The row and column of a pass's block among the blocks. -/
def EngineOp.blockOf (o : EngineOp) (pass : Nat) : Nat × Nat := (pass % o.nblocks / blocks32 o.prm.n, pass % o.nblocks % blocks32 o.prm.n)

/-- Code of element i of a fetched operand. -/
def codeAt (l : List (Byte × Bool)) (size i : Nat) : Nat := numOf (((l.drop (i * size)).take size).map (·.1))

/-- Is a run of fetched bytes poisoned? -/
def badRun (l : List (Byte × Bool)) (a n : Nat) : Bool := ((l.drop a).take n).any (·.2)

/-- Is an input that row i, or column j, has in a chunk poisoned (R323)? `l` and `sc` are the chunk's elements and scales, `e` the
element size, `n` the chunk's length. -/
def inputBad (l sc : List (Byte × Bool)) (e n i : Nat) : Bool := badRun l (i * n * e) (n * e) || badRun sc i 1

/-- Read the accumulator elements, or take the zero of GEMM-overwrite (R321), with the poison of the old elements (R323). -/
def EngineOp.begin (o : EngineOp) (b : Batt) : EngineOp :=
  let f := o.fmtOf
  let p := o.prm
  let cell (x : Nat) : Nat × Bool :=
    if p.oper = 1 then (f.zero, false)
    else (numOf (b.bankRead (p.acc + x * f.accSize) f.accSize), (b.bankBad (p.acc + x * f.accSize) f.accSize).isSome)
  let cells := (List.range (p.m * p.n)).map cell
  { o with begun := true, cells := cells, poisonIn := cells.any (·.2) }

/-- The result of a pass on element x (R55 to R58, R323), when the pass covers it: its value and poison, the flags, and whether an input
is poisoned. -/
def EngineOp.passCell (o : EngineOp) (pass x : Nat) (c : Nat × Bool) : (Nat × Bool) × Nat × Bool :=
  let f := o.fmtOf
  let p := o.prm
  let ch := o.chunkOf pass
  let i := x / p.n
  let j := x % p.n
  if (i / 32, j / 32) = o.blockOf pass then
    let (lo, hi) := o.chunkK ch
    let n := hi - lo
    let oa := o.opA.getD ch []
    let ob := o.opB.getD ch []
    let sa := o.opSA.getD ch []
    let sb := o.opSB.getD ch []
    let ab := (List.range n).map fun t => (codeAt oa (elemSize f.af) (i * n + t), codeAt ob (elemSize f.bf) (j * n + t))
    let r := mxChunk f o.mode c.1 ab (codeAt sa 1 i) (codeAt sb 1 j)
    let bad := inputBad oa sa (elemSize f.af) n i || inputBad ob sb (elemSize f.bf) n j
    ((r.bits, c.2 || bad), r.flags, bad)
  else (c, 0, false)

/-- A sector's pin ends once no later chunk uses a byte of its line (R325). -/
def EngineOp.unpin (o : EngineOp) (c : Nat) : EngineOp :=
  if o.held.isEmpty then o else
  let later := ((runSectors (o.memRuns ((c + 1) * o.fmtOf.chunk) o.prm.k)).map fun a => (o.loc a).sector / 4).eraseDups
  { o with held := o.held.filter fun h => later.contains (h.1 / 4) }

/-- One pass over the cells. -/
def EngineOp.runPass (o : EngineOp) : EngineOp :=
  let rs := o.cells.mapIdx fun x c => o.passCell o.step x c
  let o1 := { o with cells := rs.map (·.1), flags := rs.foldl (fun a r => a ||| r.2.1) o.flags, step := o.step + 1
                     poisonIn := o.poisonIn || rs.any fun r => r.2.2 }
  if o1.step % o.nblocks = 0 then o1.unpin (o.chunkOf o.step) else o1

/-- The output row that the spare row repeats in a pass, when it has work there (R329). -/
def EngineOp.spareRow (o : EngineOp) (passNo pass : Nat) : Option Nat :=
  let i := 32 * (o.blockOf pass).1 + passNo % 32
  if i < o.prm.m then some i else none

/-- Columns of a block that row r uses. -/
def EngineOp.passCols (o : EngineOp) (pass : Nat) : Nat := min 32 (o.prm.n - 32 * (o.blockOf pass).2)

/-- A mismatch poisons what row r contributed to in the pass (R329). -/
def EngineOp.poisonRow (o : EngineOp) (pass i : Nat) : EngineOp :=
  { o with mismatch := true
           cells := o.cells.mapIdx fun x c => if x / o.prm.n = i && x % o.prm.n / 32 = (o.blockOf pass).2 then (c.1, true) else c }

/-! ### Memoised tiles (R331, R366, R367) -/

/-- The key of a memoised operation, over the operand bytes of all chunks (R366): by row of A, by column of B, then the scales. -/
def EngineOp.key (o : EngineOp) : PeatKey :=
  let f := o.fmtOf
  let p := o.prm
  let head := [o.fmt - f.rnd * 2 ^ 18 + o.mode * 2 ^ 18, p.m / 16, p.n / 16, p.k]
  let rows (l : List (List (Byte × Bool))) (m size : Nat) (n : Nat → Nat) : List Byte :=
    ((List.range m).map fun i => (l.mapIdx fun c x => ((x.drop (i * (n c * size))).take (n c * size)).map (·.1)).flatten).flatten
  let len (c : Nat) : Nat := (o.chunkK c).2 - (o.chunkK c).1
  let g := ((((({} : Sig).absorbAll head).absorbBytes (rows o.opA p.m (elemSize f.af) len)).absorbBytes (rows o.opB p.n (elemSize f.bf) len)).absorbBytes
    (rows o.opSA p.m 1 fun _ => 1)).absorbBytes (rows o.opSB p.n 1 fun _ => 1)
  let (f1, f2) := g.final
  { space := o.space, f1 := f1, f2 := f2, ident := p.region, mix := 1, len := p.accBytes f, kind := 2 }

/-- Are all operand bytes clean? -/
def EngineOp.clean (o : EngineOp) : Bool := !(o.opA ++ o.opB ++ o.opSA ++ o.opSB).any fun l => l.any (·.2)

/-- The lookup of a memoised operation (R331, R363, R368): a hit supplies the cells and leaves no pass to run. -/
def State.lookOp (s : State) (core : Nat) (o : EngineOp) : EngineOp × State :=
  if !o.prm.memo || o.looked || !o.clean then ({ o with looked := true }, s) else
  let k := clusterOf core
  let b := s.battAt core o.slot
  let (h, c) := (s.cluster k).peatLook o.key (s.auditExp b)
  let s1 := s.modCluster k fun _ => c
  match h with
  | .miss => ({ o with looked := true }, s1)
  | .audit e => ({ o with looked := true, audit := some (e.key, e.payload, e.flags) }, s1)
  | .hit e =>
    let cells := (chunksOf o.fmtOf.accSize e.payload.length e.payload).map fun x => (numOf x, false)
    ({ o with looked := true, cells := cells, flags := e.flags, step := o.passes, held := [] },
     s1.modCluster k fun c => c.credit (ceilDiv (o.prm.m * o.prm.n * o.prm.k) o.fmtOf.rate))

/-- May the array take its next step on the operation: a memoised one is looked up once every operand byte is there (R366), any other
pass needs its chunk? -/
def EngineOp.ready (o : EngineOp) : Bool := if o.prm.memo && !o.looked then o.fetched else o.chunkOf o.step < o.opA.length

/-- Level-two bytes of the lines that the operations of a core hold. -/
def CoreSt.pinTotal (c : CoreSt) : Nat := (c.mxiq.map EngineOp.pinBytes).foldl (· + ·) 0

/-- TFU pins of a core in KiB, at most 2,048 (R325, R332); part of a KiB counts as a whole one (log 145). -/
def CoreSt.pinKib (c : CoreSt) : Nat := min 2048 (ceilDiv c.pinTotal 1024)

/-- Has the core pins left for an operation's next chunk: 2 MiB in all (R325)? -/
def CoreSt.pinsLeft (c : CoreSt) (o : EngineOp) : Bool := c.pinTotal - o.pinBytes + o.pinNext ≤ 2 ^ 21

/-- The operation of which the TFU fetches a chunk next: the running one, or with pins left over the next one (R325). Where no pins are
left the running one waits while the array can consume what it has; one that can run no pass yet, as a memoised one whose key is formed
over every operand byte (R366), fetches on, and its oldest lines lose their pins (log 81). -/
def CoreSt.nextFetch (c : CoreSt) : Option EngineOp :=
  match c.mxiq with
  | o :: rest =>
    if !o.fetched then (if !c.opBlocked o && (c.pinsLeft o || !o.ready) then some o else none)
    else match rest with
      | n :: _ => if !n.fetched && !c.opBlocked n && c.pinsLeft n then some n else none
      | [] => none
  | [] => none

/-- The columns of cells that a pass runs on (R328, R330): the whole block at full width; 16 columns in turn when narrowed, by an
alarm or on the half that is not retired. -/
def State.spareCol (s : State) (core : Nat) (o : EngineOp) (pass col : Nat) : Bool :=
  let retired := (s.core core).retired.toNat
  if retired != 0 then col / 16 + 1 != retired && col % 16 < o.passCols pass
  else if (s.cluster (clusterOf core)).power.alarm then col % 16 < o.passCols pass
  else col < o.passCols pass

/-- One step of the running operation of the array (R328): lookup, then a pass. `badCol`: the spare row disagreed in a column. -/
def State.arrayPass (s : State) (core : Nat) (badCol : Option Nat) : State :=
  match (s.core core).mxiq with
  | [] => s
  | o :: _ =>
    if o.step < o.passes && !o.ready then s else
    let (o, s) := s.lookOp core o
    if o.passes ≤ o.step then s.putMxi core o else
    let o := if o.begun then o else o.begin (s.battAt core o.slot)
    let passNo := (s.core core).passNo
    let o1 := o.runPass
    let s1 := s.modCore core fun c => { c with passNo := c.passNo + 1 }
    match badCol, o.spareRow passNo.toNat o.step with
    | some col, some i =>
      if s.spareCol core o o.step col then
        (s1.modCore core fun c => { c with mmCount := c.mmCount + 1, mmRow := BitVec.ofNat 6 (passNo.toNat % 32), mmCol := BitVec.ofNat 5 col }).putMxi core
          (o1.poisonRow o.step i)
      else s1.putMxi core o1
    | _, _ => s1.putMxi core o1

/-! ### Completion (R322, R326, R339) -/

/-- An operation leaves its queue. -/
def State.popOp (s : State) (core id : Nat) : State :=
  s.modCore core fun c => { c with mxiq := c.mxiq.filter (fun x => x.id != id), copyq := c.copyq.filter fun x => x.id != id }

/-- Write a token into its scalar (R322). -/
def State.writeToken (s : State) (core slot token : Nat) (v : DWord) : State :=
  s.modBatt core slot fun b => { b.setS token v with tokens := b.tokens &&& ~~~(BitVec.ofNat 64 (2 ^ token)) }

/-- AUDFAIL advances (R365). -/
def Batt.auditFail (b : Batt) : Batt :=
  { b with memo := (b.memo &&& ~~~(0xFF00 : DWord)) ||| BitVec.ofNat 64 ((fld b.memo 15 8 + 1) % 256 * 256) }

/-- The cells of an operation as bytes. -/
def EngineOp.payload (o : EngineOp) : List Byte := (o.cells.map fun c => bytesOf o.fmtOf.accSize c.1).flatten

/-- The fill or the audit of a memoised operation that ran (R331, R360, R367). -/
def State.memoTile (s : State) (core : Nat) (o : EngineOp) : State :=
  if !o.prm.memo || !o.begun || o.mismatch || o.poisonIn || !o.clean then s else
  let k := clusterOf core
  match o.audit with
  | none =>
    let e : PeatEntry := { key := o.key, flags := o.flags, depth := (s.battAt core o.slot).pinDepth, core := core, slot := o.slot, owner := o.owner,
                           payload := o.payload }
    s.modCluster k fun c => c.peatInsert e
  | some (key, payload, flags) =>
    if payload == o.payload && flags == o.flags then s
    else
      let trap := (s.recOf (s.battAt core o.slot)).flag 3
      (s.modCluster k fun c => c.peatMismatch key payload).modBatt core o.slot fun b =>
        { b.auditFail with deferred := if trap then b.deferred ++ [{ cause := cAUDIT, token := o.token, banks := o.banks }] else b.deferred }

/-- The completion of an operation of the array whose passes have run (R322, R326, R329). -/
def State.finishMxi (s : State) (core : Nat) (o : EngineOp) : State :=
  let z := o.fmtOf.accSize
  let s := s.modBatt core o.slot fun b =>
    (o.cells.foldl (fun (acc : Batt × Nat) c => (acc.1.bankStore acc.2 (bytesOf z c.1) c.2, acc.2 + z)) (b, o.prm.acc)).1
  let s := s.memoTile core o
  let s := if o.mismatch then s.modBatt core o.slot fun b =>
      { b with deferred := b.deferred ++ [{ cause := cARRAY, token := o.token, banks := o.banks }] } else s
  let v := o.flags * 2 ^ 8 + (if o.poisonIn then 2 else 0) + (if o.mismatch then 1 else 0)
  (s.popOp core o.id).writeToken core o.slot o.token (BitVec.ofNat 64 v)

/-- A log makes room for parts: it fulls what is not pinned, and where every entry is pinned the owner of the lowest hardens, until the
parts fit (R243, R257). The DEPTH that counts for coalescing is that of the moment, for room may harden the batt's own regions. -/
def State.makeRoom (core slot space : Nat) (op : Option Nat) (ws : List SectorWrite) (pois : Bool) : Nat → State → State
  | 0, s => s
  | fuel + 1, s =>
    if logRoom (s.core core) ws slot space (s.depthFor core slot op) pois s.choice.noCoalesce then s
    else State.makeRoom core slot space op ws pois fuel (s.fullLog core)

/-- Append parts once the log has room for all of them (R243): more rounds than a core has slots harden every region. -/
def State.appendParts (s : State) (core slot space : Nat) (op : Option Nat) (ws : List SectorWrite) (pois : Bool) : State :=
  let s := State.makeRoom core slot space op ws pois 200 s
  s.append core slot space (s.depthFor core slot op) pois ws

/-- The bytes of a sector that carry poison once all have been written: the last one written to a place counts (R243). -/
def poisonedIn (sector : Nat) (bytes : List (Loc × Byte × Bool)) : DWord :=
  bytes.foldl (fun m x =>
    if x.1.sector != sector then m
    else if x.2.2 then m ||| BitVec.ofNat 64 (2 ^ (x.1.pa % 64)) else m &&& ~~~(BitVec.ofNat 64 (2 ^ (x.1.pa % 64)))) 0

/-- Append the bytes of a store in one step, or of a copy sector by sector, for it may need more entries than a log has (R243, R257). A
store's bytes carry no poison (R417). Bytes for a quarantined page change nothing (R421). -/
def State.appendBytes (s : State) (core slot space : Nat) (op : Option Nat) (bytes : List (Loc × Byte × Bool)) : State :=
  let bytes := bytes.filter fun x => !x.1.quar
  let ws := sectorWrites (bytes.map fun x => (x.1, x.2.1))
  match op with
  | none => s.appendParts core slot space none ws false
  | some _ => ws.foldl (fun s w => s.appendParts core slot space op [w] (poisonedIn w.loc.sector bytes != 0)) s

/-- Source bytes of a copy, by the load path of R239 or from the scratchpad (R339). -/
def State.copyBytes (s : State) (core : Nat) (o : EngineOp) (sp : Bool) (a : Int) (n : Nat) : List (Byte × Bool) :=
  if sp then s.scratchBytes o.lnum o.felt a.toNat n
  else (List.range n).map fun i => s.loadByte core o.slot 0 (o.loc ((a.toNat + i) % 2 ^ 64))

/-- The sectors that a copy reads settle first (R238). -/
def State.settleFor (s : State) (core : Nat) (o : EngineOp) : State :=
  if o.group.ssp || !(s.core core).l1.any (·.gone) then s else
  ((s.core core).l1.filter (·.gone)).foldl (fun s x => s.settleGone core x.sector) s

/-- The locations of n bytes of a copy in memory. -/
def EngineOp.locs (o : EngineOp) (a : Int) (n : Nat) : List Loc := (List.range n).map fun i => o.loc ((a.toNat + i) % 2 ^ 64)

/-- What the reads of a copy leave of level two (R236, R240): the sources of its pieces, and the scales it reads. -/
def State.copyFetch (s : State) (o : EngineOp) : State :=
  let srcs := (if o.group.ssp then [] else o.pieces.map fun p => (p.src, p.nin)) ++
    (match o.group.scales with | some (a, n, false, false) => [((a : Int), n)] | _ => [])
  srcs.foldl (fun s r => s.l2ReadAll o.space (r.1.toNat % 2 ^ 64) (o.locs r.1 r.2)) s

/-- Write output bytes of a copy, at their addresses: those in memory as stores of its batt, one entry or part of one for each sector, by
ascending sector, a later piece over an earlier one (R243, R339). The lines that they reach take the handles of their addresses (R240, log 79). -/
def State.copyOut (s : State) (core : Nat) (o : EngineOp) (ws : List (Int × List (Byte × Bool))) : State :=
  if o.group.dsp then
    (ws.foldl (fun s w => s.scratchPut o.lnum o.felt w.1.toNat w.2) s).scratchClean o.lnum o.felt (ws.map fun w => (w.1.toNat, w.2))
  else
    let s := s.appendBytes core o.slot o.space (some o.id) (ws.flatMap fun w => (o.locs w.1 w.2.length).zip w.2)
    ws.foldl (fun s w => s.l2HitAll o.space (w.1.toNat % 2 ^ 64) (o.locs w.1 w.2.length)) s

/-- Completion of a copy (R337 to R339): all reads, then the writes, the subtraction, and the token last. -/
def State.finishCopy (s : State) (core : Nat) (o : EngineOp) : State :=
  let (_, s) := ((s.settleFor core o).copyFetch o).draw
  let g := o.group
  let sc := match g.scales with
    | some (a, n, sp, false) => s.copyBytes core o sp a n
    | _ => []
  let outs := o.pieces.map fun p => (p, g.transform o.mode p.nout sc (s.copyBytes core o g.ssp p.src p.nin))
  let scOut := (outs.map fun x => x.2.scales).flatten
  let s := s.copyOut core o (outs.map (fun x => (x.1.dst, x.2.bytes)) ++ if scOut.isEmpty then [] else [((g.xp : Int), scOut)])
  -- MLCLR writes STATUS with PAGES 1 and DROPS 0 (R400)
  let s := match o.instr with
    | .mlclr _ => s.copyOut core o [(((o.params.getD 1 0).toNat : Int), (bytesOf 8 1).map fun x => (x, false))]
    | _ => s
  let flags := outs.foldl (fun a x => a ||| x.2.flags) 0
  let bad := outs.any (fun x => x.2.bytes.any (·.2)) || scOut.any (·.2)
  let total := (outs.map fun x => x.1.nout).foldl (· + ·) 0 + scOut.length
  let c := o.barField
  let (sub, s) : Bool × State :=
    if bit1 c 9 then
      let kind := fld c 5 4
      let s := if kind = 0 then s else (s.publish core (s.core core).nextPos 2).2
      match s.barBytes ((s.battAt core o.slot).barRef kind (fld c 3 0)) (-(total : Int)) with
      | some (n, s) => (false, s.noteRefusals [n])
      | none => (true, s)
    else (false, s)
  let v := flags * 2 ^ 8 + (if sub then 4 else 0) + (if bad then 2 else 0)
  (s.popOp core o.id).writeToken core o.slot o.token (BitVec.ofNat 64 v)

/-- Fetch every chunk that is still to come. -/
def State.fetchAll (s : State) (o : EngineOp) : EngineOp × State :=
  (List.range (o.nchunks - o.opA.length)).foldl (fun acc _ => acc.2.fetchChunk acc.1) (o, s)

/-- The rest of an operation at once: each chunk is fetched, and its passes run; a memoised one is fetched whole and looked up first. -/
def State.finishOp (s : State) (core : Nat) (o : EngineOp) : State :=
  if o.isMxi then
    let (o, s) := if o.prm.memo && !o.looked then s.fetchAll o else (o, s)
    let (o, s) := s.lookOp core o
    let o := if o.begun || o.passes ≤ o.step then o else o.begin (s.battAt core o.slot)
    let n := o.passes - o.step
    let (o, s) := (List.range n).foldl (fun (acc : EngineOp × State) _ =>
      let (o, s) := if acc.1.ready then acc else acc.2.fetchChunk acc.1
      (o.runPass, s.putMxi core o.runPass)) (o, s)
    (s.modCore core fun c => { c with passNo := c.passNo + BitVec.ofNat 32 n }).finishMxi core o
  else s.finishCopy core o

/-- The operation that completes next among the heads of the two queues: one that is not blocked, the earlier issued first. -/
def CoreSt.nextOp (c : CoreSt) : Option EngineOp :=
  match c.mxiq.head?, c.copyq.head? with
  | some m, some k => if c.opBlocked m then some k else if c.opBlocked k || m.id < k.id then some m else some k
  | some m, none => some m
  | none, k => k

/-- Complete operations of a core until the batt of a slot has none (R130, R230, R333). -/
def completeFrom (core slot : Nat) : Nat → State → State
  | 0, s => s
  | fuel + 1, s =>
    if !(s.core core).engineOps.any (fun o => o.slot == slot) then s else
    match (s.core core).nextOp with
    | some o => completeFrom core slot fuel (s.finishOp core o)
    | none => s

/-- Complete every outstanding matrix and copy operation of a batt, in order, with those before them. -/
def State.completeEngines (s : State) (core slot : Nat) : State := completeFrom core slot (s.core core).engineOps.length s

/-! ### What waits for an operation (R317, R324, R361) -/

/-- Does the core's matrix array run narrowed (R328, R330)? -/
def State.narrowed (s : State) (core : Nat) : Bool := (s.cluster (clusterOf core)).power.alarm || (s.core core).retired != 0

/-- The parameter block that an MXI of the batt would read, when it lies in the scratchpad (R318, R319). -/
def State.mxiBlock (s : State) (b : Batt) (f : RForm) (active : Mask) : Option (List DWord × Nat) :=
  let l := (lowLane active).getD 0
  let p := (b.v f.a.toNat l).toNat
  if p % 64 = 0 && p + 64 ≤ s.battScratch b then
    some ((List.range 8).map (fun i => BitVec.ofNat 64 (numOf (s.scratchRead b.id.lnum b.id.felt (p + 8 * i) 8))), (b.v f.b.toNat l).toNat)
  else none

/-- The banks that a word of the batt touches (R311, R317, R329). -/
def State.banksTouched (s : State) (b : Batt) (i : Instr) (active : Mask) : List Nat :=
  let refs := ((regUse i).reads ++ (regUse i).writes).filterMap fun r => match r with | .bank k => some k | _ => none
  let lanes (f : RForm) : List Nat :=
    let z := if f.mb 0 then 8 else 4
    ((lanesOf active).map fun l =>
      let aa := if f.mb 1 then ((b.s f.a.toNat).toNat + z * l) % 2 ^ 64 else (b.v f.a.toNat l).toNat
      if aa + z ≤ 16 * bankBytes then banksOf aa z else []).flatten
  let range (f : RForm) : List Nat :=
    let aa := (b.s f.a.toNat).toNat
    let n := (b.s f.c.toNat).toNat
    if aa + n ≤ 16 * bankBytes then banksOf aa n else []
  match i with
  | .ald f | .ast f => lanes f
  | .aldSp f | .astSp f | .azero f => range f
  | .azeroAll _ | .abfreeAll _ => b.banks.map (·.num)
  | .abfree f => (b.banks.map (·.num)).filter fun k => (b.s f.a.toNat).getLsbD k
  | .mxi f =>
    match s.mxiBlock b f active with
    | some (d, w) => match mxFmt w with
      | some m => banksOf (mxParams d).acc ((mxParams d).accBytes m)
      | none => []
    | none => []
  | _ => refs

/-- Is a MINV of the batt still on its way to some store (R361)? -/
def State.minvOut (s : State) (b : Batt) : Bool :=
  s.clusters.any fun k => k.minvPending.any fun m => m.owner == b.id

/-- Does an MXI wait to read its parameter block: the block lies in a write-locked range (R324)? -/
def State.blockLocked (s : State) (b : Batt) (i : Instr) (active : Mask) : Bool :=
  match i with
  | .mxi f =>
    let p := (b.v f.a.toNat ((lowLane active).getD 0)).toNat
    (s.mxiBlock b f active).isSome && (s.core b.core).writeLocked b.id.lnum b.id.felt [(p, 64)]
  | _ => false

/-- Is a scratchpad atomic of the batt's felt on its way? It was not held by a lock, so the operations that may lock its range wait for it
(R261, R324; log 113). -/
def State.feltAtomics (s : State) (b : Batt) : Bool :=
  s.batts.any fun c => c.core == b.core && c.id.lnum == b.id.lnum && c.id.felt == b.id.felt && c.ops.any fun o =>
    match o.instr with
    | .atom f | .red f => fld f.c 2 0 == 0 && o.phase == .sent
    | _ => false

/-- Does a word wait for an engine operation of its batt or of its felt, or for a MINV (R124, R317, R324, R361)? -/
def State.engineWait (s : State) (b : Batt) (i : Instr) (active : Mask) : Bool :=
  let isMxi := match i with | .mxi _ => true | _ => false
  let owned := (((s.core b.core).mxiq.filter fun o => o.slot == b.slot).map EngineOp.banks).flatten
  (!isMxi && !owned.isEmpty && (s.banksTouched b i active).any fun k => owned.contains k) || s.blockLocked b i active ||
  ((match i with
    | .mlook _ | .mfill _ => true
    | .getsr f => f.mf 4 0 == 18
    | .mxi f => match s.mxiBlock b f active with | some (d, _) => (mxParams d).memo | none => false
    | _ => false) && s.minvOut b) ||
  (match i with
    | .mxi _ | .cpy _ | .cpy2d _ | .gath _ | .scat _ | .txsig _ | .mlclr _ => s.feltAtomics b
    | _ => false)

end Sys2Proof.Machine
end

