-- ==== Sys2Proof/Machine/Ops.lean ====
section
/-! DEFINITION. The shared operations of exceptions: taking a trap, a replayable fault, unwinding, kills, a batt's end, and the
return from each (R230, R403 to R410, R414, R415, R422, R423, R425, R426). -/

namespace Sys2Proof.Machine

/-! ### Trap windows (R408, R409) -/

/-- The window of an address space: 16 is the control trap window. -/
def windowOf (space : Nat) : Nat := space

/-- Write waiting records into free slots, lowest first, each with its number and the interrupt when IE is 1 (R409). TICKS is the counter of the
record's cluster (R405); for a record that names no batt the manual gives none: it is that of core 0's cluster (log 135). -/
def flushFrom (w : Nat) : Nat → State → State
  | 0, s => s
  | fuel + 1, s =>
    let x := s.window w
    match x.waiting, findIdx Option.isNone x.slots 0 with
    | r :: rest, some i =>
      let seq := x.seq + 1
      let ticks := (s.cluster (clusterOf r.core)).tim
      let s := s.modWindow w fun y => { y with slots := setAt y.slots i (some { r with seq := seq, ticks := ticks })
                                               new := y.new ||| BitVec.ofNat 64 (2 ^ i), waiting := rest, seq := seq }
      flushFrom w fuel (if x.ie then s.emit (.msix x.vec) else s)
    | _, _ => s

/-- Write as many waiting records as slots are free. -/
def State.flushWindow (s : State) (w : Nat) : State := flushFrom w 64 s

/-- A record joins the window: into a free slot, or it waits (R409). -/
def State.addRecord (s : State) (w : Nat) (r : TrapRecord) : State :=
  (s.modWindow w fun x => { x with waiting := x.waiting ++ [r] }).flushWindow w

/-- Trapping words in the order of their issue (R404). -/
def byIssue (l : List TrapEntry) : List TrapEntry := sortBy (fun a b => a.order < b.order) l

/-- Split entries by issue: the earliest trapping word of each split stands (R404); lanes beyond the fourth keep their causes. -/
def sortEntries (l : List TrapEntry) : List TrapEntry :=
  (byIssue l).foldl (fun acc e => if acc.any fun x => x.mask &&& e.mask != 0 then acc else acc ++ [e]) []

/-- The record of a batt (R405). -/
def State.battRecord (_s : State) (b : Batt) (kind : Nat) : TrapRecord :=
  { owner := b.id, kind := kind, ctx := if b.space = 16 then 16 else b.space, core := b.core, slot := b.slot, b := b.id.b,
    lnum := b.id.lnum, felt := b.feltNo, ntrap := min 255 b.trapped.length, cont := b.cont, exited := b.exited,
    fpcr := b.fpcr, fpsr := b.fpsr, entries := sortEntries b.trapped }

/-- A KIND 2 record: no batt is named (R405). -/
def plainRecord (space cause : Nat) (faddr : DWord) : TrapRecord :=
  { owner := .ctl, kind := 2, ctx := space, cause := cause, faddr := faddr }

/-! ### Felts and partitions (R17, R230) -/

/-- The scratchpad bytes that a core's resident felts are allotted. -/
def State.scratchHeld (s : State) (core : Nat) : Nat :=
  ((s.felts.filter fun f => f.core == core).map fun f => ((s.launch? f.lnum).map (·.recd.scratch)).getD 0).foldl (· + ·) 0

/-- The partition in KiB for an allotment in bytes (R17). -/
def partitionFor (bytes : Nat) : Nat := roundUp (ceilDiv bytes 1024) 32

/-- The partition a core's resident felts ask for, in KiB (R17). -/
def State.wantedPartition (s : State) (core : Nat) : Nat := partitionFor (s.scratchHeld core)

/-- A partition change trims the L1 to what remains of the 576 KiB: clean sectors that are not held go, oldest first; a change
that would take a held one waits (R17, R238). -/
def State.setPartition (s : State) (core : Nat) : State :=
  let p := s.wantedPartition core
  if l1Sectors p < ((s.core core).l1.filter fun x => !x.held.isEmpty).length then s else
  s.modCore core fun c => { c with partition := p, l1 := l1Trim (c.l1.length - l1Sectors p) c.l1 }

/-- A felt leaves its core (R14): its scratchpad and barrier slots, and with the launch's last felt there its recipe slots. -/
def State.dropFelt (s : State) (lnum felt core : Nat) : State :=
  let s := { s with felts := s.felts.filter fun f => !(f.lnum == lnum && f.felt == felt) }
  let s := if s.felts.any (fun f => f.lnum == lnum && f.core == core) then s
    else s.modCore core fun c => { c with recipes := c.recipes.filter fun r => r.lnum != lnum }
  s.setPartition core

/-- A felt retires (R14, R230, R295): its cluster barriers go with the launch's last felt in the cluster, saved ones counted. -/
def State.retireFelt (s : State) (lnum felt core : Nat) : State :=
  let s := s.dropFelt lnum felt core
  let k := clusterOf core
  if s.felts.any (fun f => f.lnum == lnum && clusterOf f.core == k) || ((s.launch? lnum).map fun l => l.saved.any fun f => f.cluster == k).getD false then s
  else s.modLaunch lnum fun l => { l with cbars := l.cbars.filter fun x => x.1 != k }

/-- A pending change of a cluster's peat partition takes effect once no batt but the control batt is in the cluster; every entry
becomes invalid (R352). -/
def State.settlePeat (s : State) (k : Nat) : State :=
  match (s.cluster k).peatPending with
  | none => s
  | some n =>
    if s.batts.any fun b => clusterOf b.core == k && b.id != .ctl then s
    else s.modCluster k fun c => { c with peat := [], peatPending := none, power := { c.power with peats := n } }

/-- Is the pass at rest behind its closed gate (R401)? -/
def Launch.passAtRest (l : Launch) : Bool :=
  match l.pass with
  | some p => p.work.isEmpty && p.frags.isEmpty
  | none => true

/-- In a context that is being pre-empted, a launch whose batts are all saved gives back its launch-barrier slots and its cluster
barriers (R128 step 4); their states stay as they were for the save area. -/
def State.shelve (s : State) (ctx : Nat) : State :=
  if (s.ctx ctx).ctxst != 1 then s else
  let out (l : Launch) : Bool := l.started && l.recd.ctx == ctx && l.passAtRest && !s.batts.any fun b => b.id != .ctl && b.id.lnum == l.lnum
  { s with launches := mapIf out (fun l => { l with started := false }) s.launches }

/-- A batt leaves its slot: queues, bank queue, monitors and the list of batts (R14, R230). -/
def State.dropBatt (s : State) (b : Batt) : State :=
  let s := (s.leaveQueues b.core b.slot).modCore b.core fun c => { c with bankQueue := c.bankQueue.filter (· != b.slot) }
  let s := s.modCluster (clusterOf b.core) fun k => { k with monitors := k.monitors.filter fun m => !(m.core == b.core && m.slot == b.slot) }
  ({ s with batts := s.batts.filter fun x => !(x.core == b.core && x.slot == b.slot) } : State).settlePeat (clusterOf b.core) |>.shelve b.space

/-- Close every open region of a batt, as CONTC closes the innermost (R230, R425): entries at each level go to the level below
where that is revocable, and to 0 otherwise (R242); closing them all in turn leaves the outermost chain at 0. -/
def closeDepth (regions : List Region) (d : Nat) : Nat :=
  match d with
  | 0 => 0
  | k + 1 => match (if k = 0 then none else regions[k - 1]?) with
    | some r => if r.hard then 0 else k
    | none => 0

/-- CONTC on the innermost region: log, copy and peat entries of its level (R242, R243, R360), then OPEN falls by one. -/
def State.closeRegion (s : State) (core slot : Nat) : State :=
  let b := s.battAt core slot
  let d := b.regions.length
  let d' := closeDepth b.regions d
  let s := s.modCore core fun c =>
    { c with log := mapIf (fun e => e.owner == slot && e.depth == d) (fun e => { e with depth := d' }) c.log
             copyq := mapIf (fun o => o.slot == slot && o.depth == d) (fun o => { o with depth := d' }) c.copyq
             mxiq := mapIf (fun o => o.slot == slot && o.depth == d) (fun o => { o with depth := d' }) c.mxiq }
  let s := s.modCluster (clusterOf core) fun k =>
    { k with peat := mapIf (fun e => e.owner == b.id && e.depth == d) (fun e => { e with depth := d' }) k.peat }
  s.modBatt core slot fun b => { b with regions := b.regions.dropLast }

/-- Close all regions, innermost first. -/
def State.closeAll (s : State) (core slot : Nat) : State :=
  (List.range (s.battAt core slot).regions.length).foldl (fun s _ => s.closeRegion core slot) s

/-! ### Kills (R422, R423) -/

/-- Mark the KIND 0 records of a context KIND 1 (R423), those that wait for a slot too (log 150). -/
def Window.killRecords (w : Window) : Window :=
  let k (r : TrapRecord) : TrapRecord := if r.kind == 0 then { r with kind := 1 } else r
  { w with slots := w.slots.map (·.map k), waiting := w.waiting.map k }

/-- A kill acts on the whole context at one moment (R423): batts and felts end, the logs follow R260, engines R333, the peat
store R355, barriers go with their launches, handles, monitors, atomic units (R285) and fault records. Fragments committed to a plain tile
that no store has brought to the surfaces go with the pass (R401; log 147). -/
def State.killContext (s : State) (space status cause : Nat) : State :=
  let mine := s.batts.filter fun b => b.space == space && b.id != .ctl
  let s := mine.foldl (fun s b => s.dropBatt b) s
  let gone := s.felts.filter fun f => match s.launch? f.lnum with | some l => l.recd.ctx == space | none => false
  let s := gone.foldl (fun s f => s.retireFelt f.lnum f.felt f.core) s
  let dead (l : Launch) : Launch :=
    { l with killed := true, status := status, cause := cause, left := 0, saved := [], cbars := [], lbars := [], frozen := false }
  let s : State := { s with launches := mapIf (fun l => l.recd.ctx == space && !l.killed) dead s.launches }
  let s := s.killLogs space
  let quit (c : CoreSt) : CoreSt := if c.mxiq.isEmpty && c.copyq.isEmpty then c else
    { c with mxiq := c.mxiq.filter fun o => o.space != space, copyq := c.copyq.filter fun o => o.space != space }
  let clear (k : Cluster) : Cluster :=
    { k with peat := k.peat.filter fun e => e.key.space != space
             faults := k.faults.map fun o => match o with | some r => if r.space == space then none else some r | none => none
             faultWaiting := k.faultWaiting.filter fun r => r.space != space }
  let s : State := { s with cores := s.cores.map quit, clusters := s.clusters.map clear }
  let s := (s.writeBackAll space).dropMarks space
  let s := s.modCtx space fun c => { c with handles := [], ctxst := 0, battImages := [], poolStop := false }
  let s : State := { s with l2 := s.l2.map fun x : L2Sector => { x with handles := x.handles.filter fun h => h.1 != space } }
  (s.modWindow (windowOf space) Window.killRecords).flushWindow (windowOf space)

/-! ### Unwinding (R426) -/

/-- The innermost open region is revocable. -/
def Batt.revocable (b : Batt) : Bool := match b.regions.getLast? with | some r => !r.hard | none => false

/-- Withdraw a batt's held arrivals from the barriers it may wait at, its monitor registration and a queued ABALLOC (R130, R426). -/
def State.withdraw (s : State) (b : Batt) : State :=
  let s := match b.wait with
    | .held k n _ _ => s.modBar (b.barRef k n) fun x => { x with held := x.held.filter fun h => match h with | .batt id _ => id != b.id | .red => true }
    | _ => s
  let s := s.modCore b.core fun c => { c with bankQueue := c.bankQueue.filter (· != b.slot) }
  s.modCluster (clusterOf b.core) fun k => { k with monitors := k.monitors.filter fun m => !(m.core == b.core && m.slot == b.slot) }

/-- Unwind the innermost region (R426). An ARRAY or AUDIT report that waits for a touch of another operation is no pending trap record: it
stays, as only an exit discards it (R329, R367). The write of s63 is a write of a source of the recipes that read it (R147, R153). -/
def State.unwind (s : State) (core slot cause : Nat) (pc : DWord) : State :=
  let s := s.completeEngines core slot
  let b := s.battAt core slot
  let d := b.regions.length
  let handler := ((b.regions.getLast?).map (·.handler)).getD 0
  let s := (s.withdraw b).discardLog core slot d
  let s := s.modCluster (clusterOf core) fun k =>
    { k with peat := k.peat.filter fun e => !(e.owner == b.id && d ≤ e.depth) }
  let s := s.modBatt core slot fun b =>
    let b := { b with trapped := [], halted := false, faulted := false, wait := .none, audits := [], ops := [], regions := b.regions.dropLast,
                      rejoinA := List.replicate 8 0, cursor := 0, quant := 0, syncm := 0 }
    b.modLanes (~~~b.exited) fun _ => { pc := handler, st := .ready }
  let s := s.writeS63 core slot (BitVec.ofNat 64 (cause + d * 2 ^ 8 + fld pc 48 3 * 2 ^ 16))
  s.modWindow (windowOf b.space) fun w => { w with unwinds := w.unwinds + 1 }

/-! ### Taking a trap (R403, R404) -/

/-- Are operations with late checks outstanding (R403)? -/
def Batt.lateOut (b : Batt) : Bool := b.ops.any fun o =>
  match o.instr with
  | .ld _ | .ldc _ | .atom _ | .puts _ | .tex _ | .tld _ | .mlres _ | .mlresLayer _ | .mlrd _ => true
  | _ => false

/-- Has every word that the batt issued completed, but for RED, which runs on (R404)? -/
def Batt.allBack (b : Batt) : Bool := b.ops.all fun o => match o.instr with | .red _ => true | _ => false

/-- The earliest-issued trapping word with a cause of a class, as that cause and its program counter. -/
def Batt.firstCause (b : Batt) (p : Nat → Bool) : Option (Nat × DWord) :=
  (byIssue b.trapped).findSome? fun e => (e.causeIn p).map fun c => (c, e.pc)

/-- When every issued word has completed (R404), a halting batt's trapping words take their effect: the earliest unwind event unwinds
a revocable region, of the control batt too (log 149), once its REDs are complete too (R426); a Poison-class event outside one kills the
context (R422), or halts the control batt (R423); otherwise the record is written (R409). A word that waits has not completed, unless the wait is `final`: its batt is
being saved with the word waiting (R310, log 110). -/
def State.settleTrapIf (s : State) (final : Bool) (core slot : Nat) : State :=
  let b := s.battAt core slot
  if b.trapped.isEmpty || !b.allBack then s else
  match (if b.revocable then b.firstCause isUnwindCause else none) with
  | some (cause, pc) => if b.ops.isEmpty then s.unwind core slot cause pc else s
  | none =>
    if b.wait != .none && !final then s else
    match (if b.id == .ctl then none else b.firstCause isPoisonClass) with
    | some (cause, _) => (s.addRecord (windowOf b.space) (s.battRecord b 1)).killContext b.space 1 (cause % 128)
    | none => (s.addRecord (windowOf b.space) (s.battRecord b 0)).modBatt core slot fun b => { b with trapped := [] }

/-- The effect of a halting batt's trapping words once every issued word has completed (R404). -/
def State.settleTrap (s : State) (core slot : Nat) : State := s.settleTrapIf false core slot

/-- A word that is being issued traps: the batt halts, the entry is noted, and the trap is settled once every earlier word has
completed (R404). -/
def State.takeTrap (s : State) (core slot : Nat) (word pc : DWord) (mask : Mask) (recipe : Nat) (lanes : List LaneCause) : State :=
  (s.noteTrap core slot word pc mask recipe lanes (s.battAt core slot).nextOp).settleTrap core slot

/-! ### Replayable faults (R414, R415) -/

/-- Write waiting fault records into free slots of a cluster's fault buffer (R414). -/
def flushFaultsFrom (k : Nat) : Nat → State → State
  | 0, s => s
  | fuel + 1, s =>
    let x := s.cluster k
    match x.faultWaiting, findIdx Option.isNone x.faults 0 with
    | r :: rest, some i =>
      let s := s.modCluster k fun y => { y with faults := setAt y.faults i (some r), faultNew := y.faultNew ||| BitVec.ofNat 64 (2 ^ i)
                                                faultWaiting := rest }
      flushFaultsFrom k fuel (if x.faultIe then s.emit (.msix x.faultVec) else s)
    | _, _ => s

/-- Flush a cluster's fault buffer. -/
def State.flushFaults (s : State) (k : Nat) : State := flushFaultsFrom k 64 s

/-- A replayable fault halts the batt at its word; the cluster writes a fault record (R414). Access: 0 read, 1 write, 2 fetch,
3 engine check. R121 names no transition for a batt that a trap or a fault halts: it keeps its active position (log 75). -/
def State.takeFault (s : State) (core slot : Nat) (word pc : DWord) (lanes : List LaneCause) (access level : Nat) (replay : Bool) (recipe : Nat)
    (va : Option DWord := none) : State :=
  let b := s.battAt core slot
  let r : FaultRecord := { pc := pc, lanes := lanes, lnum := b.id.lnum, core := core, slot := slot, access := access,
                           level := level, replay := replay, recipe := recipe, space := b.space, owner := b.id, va := va, word := word }
  let s := s.modBatt core slot fun b => { b.unreserve with faulted := true }
  (s.modCluster (clusterOf core) fun k => { k with faultWaiting := k.faultWaiting ++ [r] }).flushFaults (clusterOf core)

/-! ### Return (R410, R415) -/

/-- Free a slot of a window; a waiting record may take it (R409). -/
def State.freeSlot (s : State) (w i : Nat) : State :=
  (s.modWindow w fun x => { x with slots := setAt x.slots i none }).flushWindow w

/-- May the record be resumed: KIND 0, no cause of class Stop, not in the control window (R410)? -/
def TrapRecord.resumable (r : TrapRecord) (w : Nat) : Bool :=
  w != 16 && r.kind == 0 && !(r.entries.any fun e => e.lanes.any fun x => isStopClass x.cause)

/-- Resume a halted batt (R410): at the word, each split issues its entry's word again; past it, every lane of each entry's mask
continues at PC + 8. CURSOR and QUANT are unchanged; a batt at rest stays at rest (R129). -/
def Batt.resume (b : Batt) (r : TrapRecord) (past : Bool) : Batt :=
  let step (b : Batt) (e : TrapEntry) : Batt :=
    b.modLanes (e.mask &&& ~~~b.exited) fun _ => { pc := if past then e.pc + 8 else e.pc, st := .ready }
  { r.entries.foldl step b with halted := false }

/-- The return from a trap on a window's slot (R410); ignored where it has no effect. For a saved batt it waits until the restore
(R132). -/
def State.resumeTrap (s : State) (w i : Nat) (past : Bool) : State :=
  match ((s.window w).slots.getD i none) with
  | some r =>
    if r.resumable w then
      match s.battOf? r.owner with
      | some _ => (s.modBattOf r.owner fun b => b.resume r past).freeSlot w i
      | none =>
        let keep (m : BattImage) : BattImage := if m.cmd.isSome then m else { m with cmd := some (i, past) }
        s.modCtx w fun c => { c with battImages := mapIf (fun m => r.owner == .batt m.lnum m.felt m.b) keep c.battImages }
    else s
  | none => s

/-! ### Exit of a batt (R230) -/

/-- Settle every halted batt whose trapping words are found and whose checks are all decided. -/
def State.settleHalted (s : State) : State :=
  (s.batts.filter fun b => !b.trapped.isEmpty).foldl (fun s b => s.settleTrap b.core b.slot) s

/-- A batt exits (R230): its engine operations complete with their effects, their tokens discarded; its regions close; it is
counted out of its barriers, and its resources go. A felt retires with its last batt, unless batts of it have been saved. -/
def State.exitBatt (s : State) (core slot : Nat) : State :=
  let s := (s.completeEngines core slot).closeAll core slot
  let b := s.battAt core slot
  let s := s.dropBatt b
  match b.id with
  | .ctl => s
  | .batt n f _ =>
    let (news, s) := s.barExit b
    let s := (s.noteRefusals news).settleHalted
    let s := s.modLaunch n fun l => { l with left := l.left - 1 }
    let s := s.modFelt n f fun x => { x with left := x.left - 1 }
    match s.felt? n f with
    | some x => if x.left = 0 && !(s.ctx b.space).battImages.any (fun m => m.lnum == n && m.felt == f) then s.retireFelt n f x.core else s
    | none => s

end Sys2Proof.Machine
end

