-- ==== Sys2Proof/Machine/Purity.lean ====
section
/-! DEFINITION. Pure regions and the purity checks of PURECHECK (R347 to R350), and the kill that an unreadable side table brings
(R461). -/

namespace Sys2Proof.Machine

/-- An unreadable side table kills its context (R461): a KIND 2 record, then STATUS 1 with the cause. -/
def State.killUnreadable (s : State) (space cause : Nat) (addr : DWord) : State :=
  (s.addRecord (windowOf space) (plainRecord space cause addr)).killContext space 1 cause

/-- PURECHECK of the batt's launch (R109). -/
def State.purecheck (s : State) (b : Batt) : Bool := (s.recOf b).flag 2

/-- The X bit; immediate-layout and paired words have none (R350). -/
def xBit (i : Instr) : Bool :=
  match i with
  | .iaddi _ | .logi _ | .movi _ | .movhi _ | .bra _ | .brx _ | .call _ | .pairedWord _ => false
  | .ld f | .st f | .lds f | .sts f | .ldc f | .pref f => f.x
  | .iadd f | .isub f | .imul f | .imulhi f | .imad f | .imadw f | .idiv f | .irem f | .imin f | .imax f | .iabs f | .ineg f
  | .iadd64 f | .isub64 f | .imul64 f | .and f | .or f | .xor f | .andn f | .shl f | .shr f | .sar f | .rotl f | .popc f
  | .clz f | .brev f | .bfe f | .bfi f | .lea f | .bsel f | .icmp f | .sel f | .mov f | .plop f | .pmov f | .lxch f
  | .pfold f | .peer f | .lget f | .lset f | .rtag f | .runtag f | .rfree f | .fadd f | .fsub f | .fmul f | .ffma f
  | .fmin f | .fmax f | .fdiv f | .fsqrt f | .fcmp f | .fclass f | .fscale f | .hfma2 f | .frcpa f | .frsqa f | .fex2a f
  | .flg2a f | .dadd f | .dsub f | .dmul f | .dfma f | .dmin f | .dmax f | .ddiv f | .dsqrt f | .dcmp f | .dclass f
  | .dscale f | .fsina f | .fcosa f | .cvt f | .qmx f | .dqmx f | .xacc f | .xrnd f | .xclr f | .lred f | .nop f | .yield f
  | .exit f | .launch f | .getsr f | .setsr f | .acq f | .rel f | .acqr f | .fence f | .fenceo f | .full f | .flushh f
  | .hbind f | .hprio f | .hdrop f | .atom f | .red f | .waita f | .puts f | .barv f | .barw f | .bars f | .bart f | .barq f
  | .syncb f | .aballoc f | .abfree f | .abfreeAll f | .ald f | .aldSp f | .ast f | .astSp f | .azero f | .azeroAll f
  | .mxi f | .mxq f | .cpy f | .cpy2d f | .gath f | .scat f | .sigi f | .siga f | .sigq f | .sigf f | .mlook f | .mfill f
  | .minvKey f | .minvRegion f | .minvCtx f | .txsig f | .draw f | .vout f | .ipa f | .tex f | .tld f | .fout f | .mlres f
  | .mlresLayer f | .mlclr f | .mlrd f => f.x
  | _ => false

/-- What a region lookup leaves: the state, or the kill of R461. -/
inductive RegionRes where
  | ok (s : State)
  | killed (s : State)
  deriving DecidableEq, Repr

/-- Entry (R349): the first word of a pure region empties the set and sets the tag. -/
def State.enterRegion (s : State) (core slot : Nat) (pc : DWord) : RegionRes :=
  let b := s.battAt core slot
  if !s.purecheck b then .ok s else
  match s.regionAt b pc with
  | .bad cause a => .killed (s.killUnreadable b.space cause a)
  | .ok (some r) =>
    if r.start = pc then .ok (s.modBatt core slot fun b => { b with tag := .region r.start, absorbed := [] }) else .ok s
  | .ok none => .ok s

/-- The purity set that a word at pc is checked against, when it is checked at all but for its X bit (R350). -/
def State.puritySet (s : State) (b : Batt) (pc : DWord) : Option (List Nat) :=
  if !s.purecheck b || b.tag == .any then none else
  match s.regionAt b pc with
  | .ok (some r) => some (if b.tag == .region r.start then b.absorbed else [])
  | _ => none

/-- Does R350 check the word? Check 6 of R266 applies to exactly the loads it checks. -/
def State.isChecked (s : State) (b : Batt) (i : Instr) (pc : DWord) : Bool := !xBit i && (s.puritySet b pc).isSome

/-- The special registers that a pure region may read (R350). -/
def pureSpecial (n : Nat) : Bool := n == 0 || n == 1 || n == 2 || n == 7 || n == 8

/-- The banks that a word reads (R350). -/
def State.banksRead (s : State) (b : Batt) (i : Instr) (active : Mask) : List Nat :=
  let touched := (s.banksTouched b i active).foldl (fun l k => if l.contains k then l else insertBy (· < ·) l k) []
  match i with
  | .ald _ | .aldSp _ | .xacc _ | .xrnd _ => touched
  | .mxi f => match s.mxiBlock b f active with | some (d, _) => if (mxParams d).oper = 0 then touched else [] | none => []
  | _ => []

/-- The lanes in which a word acts: for a paired word, those of either slot's own ACTIVE (R65, R74). -/
def Batt.actsIn (b : Batt) (i : Instr) (active : Mask) : Mask :=
  match i with
  | .pairedWord f => b.guarded active f.x.g ||| b.guarded active f.y.g
  | _ => active

/-- What a word reads in some lane, in field order (R350): a slot of a paired word whose own ACTIVE is empty reads nothing (R74). -/
def Batt.readRefs (b : Batt) (i : Instr) (active : Mask) : List RegRef :=
  match i with
  | .pairedWord f =>
    (if b.guarded active f.x.g = 0 then [] else (slotUse f.x).reads) ++ (if b.guarded active f.y.g = 0 then [] else (slotUse f.y).reads)
  | _ => (regUse i).reads

/-- Operands read, in field order (R350). What an RTAG reads in evaluating its own recipe is no operand field of it: R350 excludes the reads of
recipe replay and does not name these, and the model does not check them (log 123). -/
def State.readCodes (s : State) (b : Batt) (i : Instr) (active : Mask) : List Nat :=
  let refs := b.readRefs i active
  let regs := refs.filter fun r => match r with | .bank _ | .special _ => false | _ => true
  let specials := refs.filter fun r => match r with | .special n => !pureSpecial n | _ => false
  regs.map RegRef.code ++ (s.banksRead b i active).map (fun k => (RegRef.bank k).code) ++ specials.map RegRef.code

/-- PREF never traps at execution and never consumes poison (R270). -/
def isPref (i : Instr) : Bool := match i with | .pref _ => true | _ => false

/-- IMPURE (R350): every lane of ACTIVE with the code of the first offending operand; never of a PREF (R270). R350 does not say which
ACTIVE it names of a paired word, whose slots have one each (R74): the model names the lanes of either (log 74). -/
def State.impure (s : State) (b : Batt) (i : Instr) (pc : DWord) (active : Mask) : List LaneCause :=
  if xBit i || isPref i then [] else
  match s.puritySet b pc with
  | none => []
  | some set =>
    match (s.readCodes b i active).find? fun c => !set.contains c with
    | some c => causesOf (b.actsIn i active) cIMPURE (BitVec.ofNat 64 c)
    | none => []

/-- What an executed word wrote in any lane (R349): a slot whose guard holds in no lane writes nothing, and neither does the payload
of an MLOOK that no lane hit (R358); RTAG writes its recipe's whole target (R151). -/
def State.wroteRefs (s : State) (b : Batt) (i : Instr) (active : Mask) : List RegRef :=
  match i with
  | .rtag _ => (s.wordUse b i).writes
  | .pairedWord f =>
    (if b.guarded active f.x.g = 0 then [] else (slotUse f.x).writes) ++ (if b.guarded active f.y.g = 0 then [] else (slotUse f.y).writes)
  | .mlook f =>
    if b.p f.b.toNat &&& active = 0 then (regUse i).writes.filter fun r => match r with | .v _ => false | _ => true else (regUse i).writes
  | _ => (regUse i).writes

/-- The lookup of a word's pure region reads level two (R236, R461): under PURECHECK for each word, and for MLOOK and MFILL (R347, R350). -/
def State.regionReads (s : State) (core slot : Nat) (i : Instr) (pc : DWord) : State :=
  let b := s.battAt core slot
  if s.purecheck b || (match i with | .mlook _ | .mfill _ => true | _ => false) then s.fetchRuns b.space (s.regionRuns b pc) else s

/-- Definition and absorption (R349): what a word of region T wrote, and the operand of a SIGA. Whether ABALLOC, which clears the banks that it
grants (R312), and ABFREE count as words that write those banks the manual does not say: neither adds a bank (log 128). -/
def State.noteDefs (s : State) (core slot : Nat) (i : Instr) (pc : DWord) (active : Mask) : State :=
  let b := s.battAt core slot
  if active = 0 || !s.purecheck b then s else
  match s.regionAt b pc with
  | .ok (some r) =>
    if b.tag == .region r.start then
      let absorbed := match i with | .siga f => [RegRef.v f.a.toNat] | _ => []
      let banks := match i with
        | .ast _ | .astSp _ | .azero _ | .azeroAll _ | .xacc _ | .xclr _ | .mxi _ => (s.banksTouched b i active).map RegRef.bank
        | _ => []
      let codes := (s.wroteRefs b i active ++ absorbed ++ banks).map RegRef.code
      s.modBatt core slot fun b => { b with absorbed := codes.foldl (fun l c => if l.contains c then l else insertBy (· < ·) l c) b.absorbed }
    else s
  | _ => s

end Sys2Proof.Machine
end

