-- ==== Sys2Proof/Machine/Issue.lean ====
section
/-! DEFINITION. Issuing a word: splits and turns (R125, R214), the scoreboard (R124, R276), preparation, guard, the execution
stage and its first checks (R79, R154, R65, R350, R417), and what follows the word's effect (R215). -/

namespace Sys2Proof.Machine

/-! ### One issue -/

/-- The word being issued: its batt, its split and its active lanes (R65). -/
structure Iss where
  core : Nat
  slot : Nat
  instr : Instr
  word : DWord
  pc : DWord
  split : Mask
  low : Nat
  active : Mask
  deriving DecidableEq, Repr

/-- What the execution of a word comes to. -/
inductive Body where
  /-- its effect is taken; every lane of the split advances by 8 -/
  | done (s : State)
  /-- its effect is taken, the lanes' program counters and states included -/
  | moved (s : State)
  /-- as moved, and CURSOR and QUANT as well (YIELD, R117) -/
  | yielded (s : State)
  /-- it traps with these causes -/
  | trap (lanes : List LaneCause) (s : State)
  /-- all its causes are replayable XLAT: lowest address, lanes, access, level (R267, R414) -/
  | fault (lanes : List LaneCause) (access level : Nat) (s : State)
  /-- a replay that its own effect needs failed (R155) -/
  | prep (f : PrepFault) (s : State)
  /-- it has issued and now waits, a long-latency dependence (R122) -/
  | wait (s : State)
  /-- it cannot issue yet; `long`: a long-latency dependence, the batt leaves the active set (R121) -/
  | stall (long : Bool)
  deriving DecidableEq, Repr

/-- Words that execute once, when the guard is true in the split's lowest lane (R65, R112, R272). -/
def scalarForm (i : Instr) : Bool :=
  match i with
  | .iaddi f | .logi f | .movi f | .movhi f => isSc f.d
  | .ld f | .lds f | .ldc f => isSc f.d
  | .icmp f => f.u
  | .launch _ | .draw _ | .waita _ => true
  | .rel f => f.mb 2
  | i => match aluOf i with | some (_, .s _) => true | some _ => false | none => match i with | .sel f => f.u | _ => false

/-- Is it a paired word, whose slots have guards of their own (R73)? -/
def isPaired (i : Instr) : Bool := match i with | .pairedWord _ => true | _ => false

/-- Registers that an outstanding operation still has to write (R124). -/
def Op.dests (o : Op) : List RegRef :=
  match o.instr with
  | .red _ | .puts _ => []
  | i => (regUse i).writes

/-- Is the instruction one of those that R276 orders: OP 0x80 to 0x93, but PREF and FENCEO? -/
def isMemOrdered (i : Instr) : Bool :=
  match i with
  | .ld _ | .st _ | .lds _ | .sts _ | .ldc _ | .acq _ | .rel _ | .acqr _ | .fence _ | .full _ | .flushh _ | .hbind _ | .hprio _
  | .hdrop _ | .atom _ | .red _ | .waita _ | .puts _ => true
  | _ => false

/-- Is the outstanding operation one that every later memory instruction waits for (R276)? -/
def Op.blocks (o : Op) : Bool :=
  match o.instr with
  | .atom _ | .acq _ | .acqr _ | .rel _ | .full _ | .flushh _ => true
  | .red _ => o.phase == .sent
  | _ => false

/-- Is the outstanding operation an atomic or an acquire, which comes before every later access of its batt (R249, R261)? -/
def Op.acquires (o : Op) : Bool :=
  match o.instr with
  | .atom _ | .acq _ | .acqr _ => true
  | .red _ => o.phase == .sent
  | _ => false

/-- Words outside OP 0x80 to 0x93 that access memory or the scratchpad: reads of texels and lists are loads (R396, R400), ALD.SP and AST.SP
count as STS and LDS (R316), and the accesses of an engine operation are its batt's at its issue (R256, R324). The model holds the word, and
so what follows it, until earlier atomics and acquires are over (log 113). -/
def isOtherAccess (i : Instr) : Bool :=
  match i with
  | .tex _ | .tld _ | .mlres _ | .mlresLayer _ | .mlrd _ | .aldSp _ | .astSp _ | .mxi _ | .cpy _ | .cpy2d _ | .gath _ | .scat _ | .txsig _
  | .mlclr _ => true
  | _ => false

/-- Is the outstanding operation a read of memory whose data is still to come? -/
def Op.isRead (o : Op) : Bool :=
  match o.instr with
  | .ld _ | .ldc _ | .tex _ | .tld _ | .mlres _ | .mlresLayer _ | .mlrd _ => true
  | _ => false

/-- The waits of R276, R246, R249, R250, R261 and R425 on the batt's outstanding operations. EXIT waits for all of them but RED, which
holds no batt (R230, R282, R306; log 104). -/
def orderWait (b : Batt) (i : Instr) : Bool :=
  let loads := b.ops.any Op.isRead
  let puts := b.ops.any fun o => match o.instr with | .puts _ => true | _ => false
  (isMemOrdered i && b.ops.any Op.blocks) || (isOtherAccess i && b.ops.any Op.acquires) ||
  (match i with
   | .flushh _ => loads || b.ops.any Op.blocks || puts
   | .rel f => loads || b.ops.any Op.blocks || (f.mf 1 0 == 3 && puts)
   | .atom f | .red f => loads || b.ops.any Op.blocks || (fld f.c 2 0 == 4 && 2 ≤ fld f.c 4 3 && puts)
   | .acq _ | .acqr _ | .fence _ | .launch _ | .draw _ | .barv _ | .bars _ | .bart _
   | .barw _ => loads || b.ops.any Op.blocks
   | .st _ | .sts _ => puts
   | .conto _ | .contc _ => b.lateOut
   | .exit _ => !b.allBack
   | .conts _ => b.lateOut || b.ops.any Op.blocks
   | _ => false)

/-- Does the operation still have to write a register of the use? -/
def Op.owes (o : Op) (u : RegUse) : Bool := (u.reads ++ u.writes).any fun r => o.dests.contains r

/-- Does the use name a scalar that awaits a token (R112, R122)? -/
def Batt.needsToken (b : Batt) (u : RegUse) : Bool :=
  (u.reads ++ u.writes).any fun r => match r with | .s n => b.tokens.getLsbD n | _ => false

/-- The scoreboard: a register of the word is still to be written (R124), or a token is awaited (R112, R122). -/
def scoreWait (b : Batt) (u : RegUse) : Bool := b.ops.any (fun o => o.owes u) || b.needsToken u

/-- Is the outstanding operation a load, or an ATOM, which waits as a load does (R282)? -/
def Op.isLoad (o : Op) : Bool :=
  o.isRead || match o.instr with | .atom _ => true | _ => false

/-- Is what the word waits for a long-latency dependence (R122): the data of a load that missed, or a token? Every other dependence
stalls the batt in place. -/
def longWait (b : Batt) (u : RegUse) (i : Instr) : Bool :=
  let loads := b.ops.filter Op.isLoad
  loads.any (fun o => o.owes u) || b.needsToken u || orderWait { b with ops := loads } i

/-! ### Poisoned operands (R417) -/

/-- The first poisoned register of a list, read in a lane. -/
def firstPoison (b : Batt) (refs : List RegRef) (l : Nat) : Option RegRef :=
  refs.find? fun r => match r with
    | .v n => inMask (b.vpoison n) l
    | .s n => b.sPoison.getLsbD n
    | _ => false

/-- POISON causes of lanes with the references each reads. -/
def poisonCauses (b : Batt) (m : Mask) (refs : Nat → List (RegRef × Nat)) : List LaneCause :=
  (lanesOf m).filterMap fun l =>
    ((refs l).find? fun x => match x.1 with
      | .v n => inMask (b.vpoison n) x.2
      | .s n => b.sPoison.getLsbD n
      | _ => false).map fun x => { lane := l, cause := cPOISON, faddr := BitVec.ofNat 64 (0xFFFF000000000000 + x.1.code) }

/-- Which lane of which register each active lane reads (R162 to R165, R417);
the payload of MFILL is not consumed (R359). -/
def laneReads (b : Batt) (i : Instr) (active : Mask) (l : Nat) : List (RegRef × Nat) :=
  let own (refs : List RegRef) : List (RegRef × Nat) := refs.map fun r => (r, l)
  match i with
  | .lxch f =>
    let n := 2 ^ fld f.c 2 0
    let k := if f.mb 5 then f.mf 4 0 else (b.v f.b.toNat l).toNat % 32
    let i := l % n
    let base := l - i
    let src := match f.mf 7 6 with
      | 0 => k % n
      | 1 => (i + k) % n
      | 2 => (i ^^^ (k % n)) % n
      | _ => n - 1 - i
    let kb := if f.mb 5 || f.mf 7 6 == 3 then [] else [(RegRef.v f.b.toNat, l)]
    own (guardRefs f.g) ++ [(.v f.a.toNat, base + src)] ++ kb
  | .peer f =>
    let regs := if f.mb 0 then [f.a.toNat, f.a.toNat + 1] else [f.a.toNat]
    (regs.map fun n => (lanesOf active).map fun m => (RegRef.v n, m)).flatten
  | .lget f =>
    let k := if f.mb 7 then (lowLane active).getD 0 else if f.mb 5 then f.mf 4 0 else (b.s f.b.toNat).toNat % 32
    let regs := if f.mb 6 then [f.a.toNat, f.a.toNat + 1] else [f.a.toNat]
    (regs.map fun n => (RegRef.v n, k)) ++ (if f.mb 5 || f.mb 7 then [] else [(.s f.b.toNat, l)])
  | .lred f =>
    let regs := if f.mb 0 then [f.a.toNat, f.a.toNat + 1] else [f.a.toNat]
    (regs.map fun n => (RegRef.v n, l))
  | .mfill f => own (guardRefs f.g ++ refsOf .quad f.a.toNat ++ [.v f.c.toNat])
  | i => own (regUse i).reads

/-- The poison check of a word over its operands (R417); PREF consumes none (R270). -/
def operandPoison (b : Batt) (i : Instr) (split active : Mask) : List LaneCause :=
  match i with
  | .pref _ => []
  | .pairedWord f =>
    let ax := b.guarded split f.x.g
    let ay := b.guarded split f.y.g
    let refs (l : Nat) : List (RegRef × Nat) :=
      ((if inMask ax l then (slotUse f.x).reads else []) ++ (if inMask ay l then (slotUse f.y).reads else [])).map fun r => (r, l)
    poisonCauses b (ax ||| ay) refs
  | _ => poisonCauses b active (laneReads b i active)

/-! ### The pipeline -/

/-- Who may issue: the batt, the eligible splits, the turn-holder (R125, R214). -/
inductive Turn where
  | none
  | idle
  | go (b : Batt) (low n : Nat)
  deriving DecidableEq, Repr

/-- The batt of `cur` and its turn-holder, if one can issue. -/
def State.theTurn (s : State) : Turn :=
  match s.batt? s.cur.1 s.cur.2 with
  | none => .none
  | some b =>
    if !b.free then .idle else
    match b.turn with
    | none => .idle
    | some l => if (b.lane l).st == .ready then .go b l b.eligibleLows.length else .idle

/-- The execution stage after the deferred reports: purity (R349, R350), poisoned operands (R417), then the word's own effect
when a lane is active (R65). A poisoned register of an accumulator word thus traps before the bank and the object that R209 checks
(log 143). -/
def execStage (x : Iss) (body : Iss → State → Body) (s : State) : Body :=
  let b := s.battAt x.core x.slot
  if x.active = 0 && !isPaired x.instr then .done s
  else if scalarForm x.instr && !inMask x.active x.low then .done s
  else
    match s.impure b x.instr x.pc x.active with
    | c :: cs => .trap (c :: cs) s
    | [] =>
      match operandPoison b x.instr x.split x.active with
      | c :: cs => .trap (c :: cs) s
      | [] => body x s

/-- The lanes that a failed evaluation of all 32 lanes names, with the cause plus a bit: a named lane that itself faults has its own
cause and address, every other that of the lowest faulting lane (R155). -/
def evalCauses (named : Mask) (bit : Nat) (lanes : List LaneCause) : List LaneCause :=
  let low := (lanes.head?).getD { lane := 0, cause := cXLAT }
  (lanesOf named).map fun l =>
    let c := (lanes.find? fun c => c.lane == l).getD low
    { lane := l, cause := c.cause + bit, faddr := c.faddr }

/-- The issue of a trapping word has counted for its turn (R125). -/
def Iss.counted (x : Iss) (n : Nat) (s : State) : State := s.modBatt x.core x.slot fun b => b.countTurn x.low n

/-- A fault of preparation, or of an RTAG's own checks or evaluation, as the word's report (R149, R151, R155). R151 does not say which
lanes a refused RTAG names at stage 3: the model names ACTIVE, as for its other causes, and leaves an earlier tag of D in place
(log 77). -/
def prepFault (x : Iss) (n : Nat) (f : PrepFault) (s : State) : State :=
  let trap (recipe : Nat) (lanes : List LaneCause) : State := (x.counted n s).takeTrap x.core x.slot x.word x.pc x.split recipe lanes
  match f with
  | .quota => trap 0 (causesOf x.split cQUOTA 0)
  | .refused entry => trap 0 (causesOf x.active cUNDEF entry)
  | .replay rn lanes rep lv =>
    let named := evalCauses x.split 0x80 lanes
    if rep then s.takeFault x.core x.slot x.word x.pc named 0 lv true rn (some (lowestAddr lanes)) else trap rn named
  | .eval lanes rep lv =>
    let named := evalCauses x.active 0 lanes
    if rep then s.takeFault x.core x.slot x.word x.pc named 0 lv false 0 (some (lowestAddr lanes)) else trap 0 named

/-- The lanes that a word has acted in: a scalar word runs only with the lowest lane of its split (R65). -/
def Iss.acted (x : Iss) : Mask := if scalarForm x.instr && !inMask x.active x.low then 0 else x.active

/-- Does the wait belong to a word whose effect is complete but for the waiting: BARS that is counted, and BARW? A saved batt does not
issue it again (R130, R309), so its issue counts at once; the issue of every other waiting word counts when the wait ends (log 15). -/
def Waiting.isCounted : Waiting → Bool
  | .counted _ _ _ | .phase _ _ _ => true
  | _ => false

/-- What follows a word's effect: the purity set (R349), the lanes advance (R215), the turn is counted (R125), a trap or fault is
taken. A waiting batt leaves the active set (R121), its lanes outside ACTIVE advance (R215), and it keeps the lanes that wait and the number
of splits among which its issue counts. -/
def finishWord (x : Iss) (n : Nat) (r : Body) (s0 : State) : State :=
  match r with
  | .done s =>
    (s.noteDefs x.core x.slot x.instr x.pc x.acted).modBatt x.core x.slot fun b =>
      (b.advance (x.split &&& b.lanesWhere fun l => l.st == .ready && l.pc == x.pc)).countTurn x.low n
  | .moved s => x.counted n (s.noteDefs x.core x.slot x.instr x.pc x.acted)
  | .yielded s => s
  | .trap lanes s => (x.counted n s).takeTrap x.core x.slot x.word x.pc x.split 0 lanes
  | .fault cs acc lv s => s.takeFault x.core x.slot x.word x.pc cs acc lv false 0
  | .prep f s => prepFault x n f s
  | .wait s =>
    ((s.noteDefs x.core x.slot x.instr x.pc x.acted).leaveActive x.core x.slot).modBatt x.core x.slot fun b =>
      let b := b.advance (x.split &&& ~~~x.active &&& b.lanesWhere fun l => l.st == .ready && l.pc == x.pc)
      if b.wait.isCounted then b.countTurn x.low n else { b with waitN := n, waitS := x.split, waitM := x.active }
  | .stall long => if long then s0.leaveActive x.core x.slot else s0

/-- The context of the issue of an instruction by the batt of `cur`, or what stands in its way. -/
inductive Ready where
  | none
  | idle (s : State)
  | go (x : Iss) (n : Nat) (s : State)
  deriving DecidableEq, Repr

/-- The lanes for which the word acts, as its guard is read before preparation (R65). -/
def Batt.activeFor (b : Batt) (i : Instr) (low : Nat) : Mask := b.guarded (b.splitOf low) (guardOfInstr i)

/-- The batt as the preparation of its next word leaves it: addresses that engine waits depend on may stand in dropped registers. -/
def State.readied (s : State) (b : Batt) (i : Instr) (low : Nat) : Batt :=
  if !b.vregs.any (fun r => b.dropped r.num) then b else
  match s.prepareWord (b.takeTurn low) i (b.splitOf low) (b.activeFor i low) with
  | .ok p => p.b
  | .fault _ _ => b

/-- Does the word of the turn-holder wait for something that no event has resolved (R124, R276, R317, R324)? -/
def State.wordWaits (s : State) (b : Batt) (i : Instr) (low : Nat) : Bool :=
  scoreWait b (s.wordUse b i) || orderWait b i || s.engineWait (s.readied b i low) i (b.activeFor i low)

/-- The batt leaves the active set when what it waits for is a long-latency dependence (R121, R122). -/
def State.stallAt (s : State) (b : Batt) (i : Instr) : State :=
  if longWait b (s.wordUse b i) i then s.leaveActive b.core b.slot else s

/-- Stages before execution: the turn (R125), the scoreboard and order waits (R124, R276), preparation (R79, R154), after which a batt
whose replays took more than eight words waits with the registers they gave (R122, R152), the guard (R65) and a region's entry (R349). -/
def issueWord (i : Instr) (s : State) : Ready :=
  match s.theTurn with
  | .none => .none
  | .idle => .idle s
  | .go b0 low n =>
    if s.wordWaits b0 i low then .idle (s.stallAt b0 i)
    else
      let b := b0.takeTurn low
      let split := b.splitOf low
      let pc := (b.lane low).pc
      let active := b.activeFor i low
      let x : Iss := { core := b.core, slot := b.slot, instr := i, word := (encode i).getD 0, pc := pc, split := split, low := low, active := active }
      match s.prepareWord b i split active with
      | .fault f p => .idle (prepFault x n f (s.modBatt b.core b.slot fun _ => p.b))
      | .ok p =>
        if p.long then .idle ((s.modBatt b.core b.slot fun _ => p.b.unreserve).leaveActive b.core b.slot) else
        match (s.modBatt b.core b.slot fun _ => p.b).enterRegion p.b.core p.b.slot pc with
        | .ok s' => .go x n s'
        | .killed s' => .idle s'

/-- Does a word read or write the token, or touch a bank, that a report waits for (R329, R367)? PREF, which never traps at execution
(R270), leaves the report for the next word (log 96). -/
def State.touchesReport (s : State) (b : Batt) (i : Instr) (active : Mask) (d : Deferred) : Bool :=
  let u := s.wordUse b i
  !isPref i && ((u.reads ++ u.writes).contains (.s d.token) || (s.banksTouched b i active).any fun k => d.banks.contains k)

/-- The execution stage, deferred ARRAY and AUDIT reports first (R329, R350, R367). -/
def runBody (x : Iss) (body : Iss → State → Body) (s : State) : Body :=
  let b := s.battAt x.core x.slot
  match (if x.active = 0 then none else b.deferred.find? fun d => s.touchesReport b x.instr x.active d) with
  | some d => .trap (causesOf x.active d.cause 0) (s.modBatt x.core x.slot fun b => { b with deferred := b.deferred.erase d })
  | none => execStage x body s

/-- The meaning of a word: one issue of the batt of `cur`. -/
def runWord (i : Instr) (body : Iss → State → Body) (s : State) : Host.Outcome State Fault Refusal :=
  match issueWord i s with
  | .none => .fault .noIssuer
  | .idle s' => .next s'
  | .go x n s' => .next (finishWord x n (runBody x body s') s')

/-! ### Lane results (R199, R185) -/

/-- The lanes a result is written in: the lowest lane for a scalar destination (R65). -/
def resultLanes (d : AluDst) (x : Iss) : Mask := match d with | .s _ => lane1 x.low | _ => x.active

/-- The results of the lanes of a mask, all formed before anything is written; other lanes have none. -/
def laneList (fn : LaneFn) (m : Mask) (b : Batt) : List FRes :=
  laneIds.map fun l => if inMask m l then fn b b.fpcr l else { bits := 0 }

/-- A lane's result. -/
def resAt (rs : List FRes) (l : Nat) : FRes := rs.getD l { bits := 0 }

/-- The lanes of a mask in which an enabled exception arises (R199). -/
def trapLanes (rs : List FRes) (m : Mask) (fpcr : Word) : Mask := maskOf fun l => inMask m l && (resAt rs l).traps fpcr

/-- The flags that arise in the lanes of a mask (R47, R199). -/
def flagsOver (rs : List FRes) (m : Mask) : Word :=
  BitVec.ofNat 32 ((lanesOf m).foldl (fun acc l => acc ||| (resAt rs l).flags) 0)

/-- FPX: the lanes of E are named, and every lane gives its flags (R199). -/
def fpxCauses (rs : List FRes) (m bad : Mask) : List LaneCause :=
  (lanesOf m).map fun l => { lane := l, cause := if inMask bad l then cFPX else 0, flags := (resAt rs l).tr }

/-- The execution of a lane instruction: FPX if an enabled exception arises in a lane; otherwise the results are written and the
flags are ORed into FPSR (R199). -/
def laneBody (fn : LaneFn) (d : AluDst) : Iss → State → Body := fun x s =>
  let b := s.battAt x.core x.slot
  let m := resultLanes d x
  let rs := laneList fn m b
  let bad := trapLanes rs m b.fpcr
  if bad != 0 then .trap (fpxCauses rs m bad) s
  else .done (s.modBatt x.core x.slot fun b =>
    { b.put d m (fun l => (resAt rs l).bits) with fpsr := b.fpsr ||| flagsOver rs m })

end Sys2Proof.Machine
end

