-- ==== Sys2Proof/Machine/Access.lean ====
section
/-! DEFINITION. Lane checks of memory accesses, their report, and the operations at atomic homes
(R232, R233, R239, R265 to R267, R278 to R289, R444). -/

namespace Sys2Proof.Machine

/-! ### Checks and reports (R266, R267) -/

/-- A lane's checks: where its bytes lie, or its cause, whether it is replayable, and the level of its walk. -/
inductive LaneRes where
  | ok (a : LaneAcc)
  | bad (c : LaneCause) (rep : Bool) (level : Nat)
  deriving DecidableEq, Repr

/-- Locations of the lanes that passed. -/
def okAccs (rs : List LaneRes) : List LaneAcc := rs.filterMap fun r => match r with | .ok a => some a | _ => none

/-- The report of R267, or what follows when every lane passed. -/
def reportOr (rs : List LaneRes) (access : Nat) (s : State) (k : List LaneAcc → Body) : Body :=
  let bads := rs.filterMap fun r => match r with | .bad c rep lv => some (c, rep, lv) | _ => none
  match bads with
  | [] => k (okAccs rs)
  | _ =>
    let cs := bads.map (·.1)
    if bads.all (·.2.1) then
      let lo := lowestAddr cs
      let lv := ((bads.find? fun b => b.1.faddr == lo).map (·.2.2)).getD 0
      .fault cs access lv s
    else .trap cs s

/-- Checks 3 and 4 of R266 on one address, and a page's own check (5 and 6): `page` gives a cause or 0. -/
def State.checkPage (s : State) (core space lane : Nat) (va fa : DWord) (page : DWord → Loc → Nat) : LaneRes :=
  match s.translate core space lane va with
  | .xlat rep lv => .bad { lane := lane, cause := cXLAT, faddr := fa } rep lv
  | .poison => .bad { lane := lane, cause := cPOISON, faddr := fa } false 0
  | .ok loc pte _ =>
    match page pte loc with
    | 0 => .ok { lane := lane, ea := va, locs := [loc] }
    | c => .bad { lane := lane, cause := c, faddr := fa } false 0

/-- The n bytes from a location within one page. -/
def Loc.run (x : Loc) (n : Nat) : List Loc := (List.range n).map fun i => { x with pa := x.pa + i }

/-- An aligned access of n bytes within one page. -/
def State.checkRun (s : State) (core space lane n : Nat) (va : DWord) (page : DWord → Loc → Nat) : LaneRes :=
  match s.checkPage core space lane va va page with
  | .ok a => .ok { a with locs := (a.locs.map fun x => x.run n).flatten }
  | r => r

/-- The pages that lanes use fill the TLBs (R413). -/
def State.tlbFillAll (s : State) (core space : Nat) (vas : List DWord) : State :=
  ((vas.map fun v => BitVec.ofNat 64 (v.toNat / 65536 * 65536)).eraseDups).foldl (fun s v => s.tlbFill core space v) s

/-! ### Reading (R239, R417, R444) -/

/-- The bytes of a lane's load with their poison. -/
def State.loadBytes (s : State) (core slot cp : Nat) (a : LaneAcc) : List (Byte × Bool) := a.locs.map (s.loadByte core slot cp)

/-- What a load leaves behind: sectors whose former copy waits settle (R238), level two and L1 fills (R236, R238), TLB fills. -/
def State.loadFills (s : State) (core space cp : Nat) (accs : List LaneAcc) : State :=
  let firsts := accs.filterMap fun a => a.locs.head?.map fun x => (x, a.ea)
  let s := firsts.foldl (fun s x =>
    if x.1.target == .dev && !x.1.quar && !s.pageQuarantined x.1.pa then
      let s := s.l2Fill x.1 space x.2.toNat
      if cp = 2 then s else s.l1Fill core x.1
    else s) s
  s.tlbFillAll core space (accs.map (·.ea))

/-- The waits of R238 before a load's lanes read. -/
def State.loadSettle (s : State) (core : Nat) (accs : List LaneAcc) : State :=
  if (s.core core).l1.any (·.gone) then
    accs.foldl (fun s a => match a.locs.head? with | some x => s.settleGone core x.sector | none => s) s
  else s

/-- Bytes read from host memory are fresh values (log 7). -/
def State.drewHost (s : State) (accs : List LaneAcc) : State :=
  if accs.any fun a => a.locs.any fun x => x.target == .host then { s with free := s.free + 1 } else s

/-- The first poisoned byte of a lane, as a cause. -/
def poisonedByte (a : LaneAcc) (bs : List (Byte × Bool)) : Option LaneCause :=
  if bs.any (·.2) then some { lane := a.lane, cause := cPOISON, faddr := a.ea } else none

/-! ### Atomic homes (R278, R280, R285) -/

/-- New of R280: the operation on the n-bit location, b the operand, d the comparand. -/
def atomNew (op n old b d : Nat) : Nat :=
  match op with
  | 0 => (old + b) % 2 ^ n
  | 1 => if valOf true n old ≤ valOf true n b then old else b
  | 2 => if valOf true n b ≤ valOf true n old then old else b
  | 3 => min old b
  | 4 => max old b
  | 5 => old &&& b
  | 6 => old ||| b
  | 7 => old ^^^ b
  | 8 => b
  | 9 => if old = d then b else old
  | _ => (farith .add (if n = 64 then f64 else f32) 0 false old b 0).bits

/-- The new bytes of a location: AccAdd for xadd (R280). -/
def atomBytes (op : Nat) (wide : Bool) (old : List Byte) (b d : Nat) : List Byte :=
  if op = 11 then (accAdd (accOf old) (decodeF (if wide then f64 else f32) b)).bytes
  else bytesOf old.length (atomNew op (8 * old.length) (numOf old) b d)

/-- The locations a unit holds, for SCOPE 1 and 2. -/
def State.unitOf (s : State) (core scope : Nat) : List AtomLoc :=
  if scope = 1 then (s.core core).atomUnit else (s.cluster (clusterOf core)).atomStore

/-- Change a unit. -/
def State.modUnit (s : State) (core scope : Nat) (f : List AtomLoc → List AtomLoc) : State :=
  if scope = 1 then s.modCore core fun c => { c with atomUnit := f c.atomUnit }
  else s.modCluster (clusterOf core) fun k => { k with atomStore := f k.atomStore }

/-- Bytes that the cluster atomic store holds: 256 KiB (R11). The manual gives the L1 atomic unit no capacity. -/
def storeBytes : Nat := 262144

/-- A full cluster atomic store gives up its oldest location, which is written back (R11, R285). -/
def State.unitRoom (s : State) (core scope : Nat) : State :=
  if scope = 1 then s else
  if (s.unitOf core scope).length < storeBytes then s else
  match s.unitOf core scope with
  | y :: _ => (s.writeBackLocs (y.spaces.headD 0) [y]).modUnit core scope fun l => l.drop 1
  | [] => s

/-- A unit fetches the bytes it does not hold from their home slices (R285); QUAR of the PTE is that of the access and not of the
location (R421). -/
def State.unitFetch (s : State) (core scope space : Nat) (a : LaneAcc) : State :=
  let lacks (s : State) (x : Loc) : Bool := !(s.unitOf core scope).any fun y => y.addr == x.pa
  let s := if a.locs.any (lacks s) then s.l2ReadAll space a.ea.toNat a.locs else s
  a.locs.foldl (fun s x =>
    if !lacks s x then s
    else
      let (v, bad) := s.homeByte { x with quar := false }
      (s.unitRoom core scope).modUnit core scope fun l => l ++ [{ spaces := [space], addr := x.pa, comp := x.comp, byte := v, poison := bad }]) s

/-- One byte at a SCOPE 1 or 2 home. -/
def State.unitByte (s : State) (core scope : Nat) (x : Loc) : Byte × Bool :=
  match (s.unitOf core scope).find? fun y => y.addr == x.pa with
  | some y => (y.byte, y.poison || x.quar || s.pageQuarantined x.pa)
  | none => s.homeByte x

/-- The bytes of a lane's location at its home. -/
def State.atomRead (s : State) (b : Batt) (scope : Nat) (a : LaneAcc) (size : Nat) : List (Byte × Bool) :=
  if scope = 0 then s.scratchBytes b.id.lnum b.id.felt a.ea.toNat size
  else if scope ≤ 2 then a.locs.map (s.unitByte b.core scope)
  else a.locs.map s.homeByte

/-- The issuing core invalidates its copies of a changed sector (R238, R285). -/
def State.dropL1 (s : State) (core sector : Nat) : State :=
  s.modCore core fun c =>
    if c.l1.isEmpty then c else
    { c with l1 := (c.l1.filter fun x => !(x.sector == sector && x.held.isEmpty)).map fun x => if x.sector == sector then { x with gone := true } else x }

/-- A change in a cluster's atomic store is noticed there (R291). -/
def State.noticeStore (s : State) (k sector : Nat) : State :=
  s.modCluster k fun c => { c with monitors := mapIf (fun m => m.sector == sector) (fun m => { m with noticed := true }) c.monitors }

/-- Write the bytes of a lane's location at its home (R252, R285). -/
def State.atomWrite (s : State) (b : Batt) (scope : Nat) (a : LaneAcc) (bytes : List Byte) : State :=
  if scope = 0 then s.scratchWrite b.id.lnum b.id.felt a.ea.toNat bytes false
  else if scope ≤ 2 then
    let pairs := a.locs.zip bytes
    let s := s.modUnit b.core scope fun l => l.map fun y =>
      match pairs.find? fun p => p.1.pa == y.addr with
      | some p => { y with byte := p.2, changed := true, spaces := if y.spaces.contains b.space then y.spaces else y.spaces ++ [b.space] }
      | none => y
    if scope = 2 then ((a.locs.map Loc.sector).eraseDups).foldl (fun s x => s.noticeStore (clusterOf b.core) x) s else s
  else
    (sectorWrites (a.locs.zip bytes)).foldl (fun s w => (s.applyAt w.loc w.mask w.data false true).dropL1 b.core w.loc.sector) s

/-- The AtomicOp request of an operation on host memory (R278). -/
def hostOpOf (op : Nat) : HostAtom := if op = 8 then .swap else if op = 9 then .cas else .fetchAdd

/-- One lane of an atomic at its home (R282, R287, R421, R444): the value it returns, and whether it is poisoned. -/
def State.atomLane (s : State) (b : Batt) (scope op : Nat) (wide : Bool) (size : Nat) (a : LaneAcc) (bv dv : DWord) : (DWord × Bool) × State :=
  match a.locs.head? with
  | some x =>
    if x.target == .host then
      if x.quar then ((0, true), s) else
      match s.hostAddr x.pa with
      | none => ((0, true), s.hostErrInc)
      | some addr =>
        let (n, s) := s.draw
        let old := Config.hostAtomOld n addr
        ((if wide then old else (old.setWidth 32).setWidth 64, false), s.emit (.hostAtomic (hostOpOf op) addr wide bv dv))
    else
      let s := if scope = 1 ∨ scope = 2 then s.unitFetch b.core scope b.space a else s.l2ReadAll b.space a.ea.toNat a.locs
      let bs := s.atomRead b scope a size
      let old := bs.map (·.1)
      if bs.any (·.2) then ((BitVec.ofNat 64 (numOf (old.take 8)), true), s)
      else ((BitVec.ofNat 64 (numOf (old.take 8)), false), s.atomWrite b scope a (atomBytes op wide old bv.toNat dv.toNat))
  | none =>
    let bs := s.atomRead b scope a size
    let old := bs.map (·.1)
    if bs.any (·.2) then ((BitVec.ofNat 64 (numOf (old.take 8)), true), s)
    else ((BitVec.ofNat 64 (numOf (old.take 8)), false), s.atomWrite b scope a (atomBytes op wide old bv.toNat dv.toNat))

/-- Every lane of an atomic in ascending order (R282). -/
def State.atomAll (s : State) (b : Batt) (scope op : Nat) (wide : Bool) (size : Nat) (accs : List LaneAcc) (bvals dvals : List DWord) :
    List (Nat × DWord × Bool) × State :=
  accs.foldl (fun acc a =>
    let (r, s) := acc.2.atomLane b scope op wide size a (bvals.getD a.lane 0) (dvals.getD a.lane 0)
    (acc.1 ++ [(a.lane, r)], s)) ([], s)

end Sys2Proof.Machine
end

