-- ==== Sys2Proof/Machine/MemoryWords.lean ====
section
/-! DEFINITION. Loads, stores, prefetch, ordering, draining and residency instructions (R264 to R277), and the completion of those
that the device returns later. -/

namespace Sys2Proof.Machine

/-! ### Outstanding operations (R124, R403) -/

/-- Record an operation whose completion is an event of its own; the registers that it will write are its own from now on (R147). -/
def State.addOp (s : State) (core slot : Nat) (mk : Nat → Op) : State :=
  (s.takeDests core slot (vNums (mk 0).dests)).modBatt core slot fun b => { b with ops := b.ops ++ [mk b.nextOp], nextOp := b.nextOp + 1 }

/-- The operation of a batt. -/
def Batt.op? (b : Batt) (id : Nat) : Option Op := b.ops.find? fun o => o.id == id

/-- An operation is finished: a halted batt may now settle its traps (R403, R404). -/
def State.endOp (s : State) (core slot id : Nat) : State :=
  (s.modBatt core slot fun b => { b with ops := b.ops.filter fun o => o.id != id }).settleTrap core slot

/-- Change an operation. -/
def State.modOp (s : State) (core slot id : Nat) (f : Op → Op) : State :=
  s.modBatt core slot fun b => { b with ops := mapIf (fun o => o.id == id) f b.ops }

/-- An operation of the word being issued. -/
def Iss.op (x : Iss) (id : Nat) : Op := { id := id, instr := x.instr, word := x.word, pc := x.pc, mask := x.split, active := x.active }

/-! ### LD, LDS, LDC (R265) -/

/-- The lanes that a load acts for: the lowest lane for a scalar destination. -/
def loadLanes (f : MForm) (x : Iss) : Mask := if isSc f.d then lane1 x.low else x.active

/-- The registers of a load take the bytes of the lanes of m (R265). -/
def Batt.putLoad (b : Batt) (f : MForm) (m : Mask) (bytes : Nat → List Byte) : Batt :=
  if isSc f.d then
    match lowLane m with
    | some l => b.setS (scNum f.d) (BitVec.ofNat 64 (extendLoad f 64 (bytes l)))
    | none => b
  else if f.wd = 4 then
    [0, 1, 2, 3].foldl (fun b j => b.setV (f.d.toNat + j) m fun l => BitVec.ofNat 32 (numOf (((bytes l).drop (4 * j)).take 4))) b
  else if f.wd = 3 then b.setW f.d.toNat m fun l => BitVec.ofNat 64 (extendLoad f 64 (bytes l))
  else b.setV f.d.toNat m fun l => BitVec.ofNat 32 (extendLoad f 32 (bytes l))

/-- The bytes of a lane in a list of lane results. -/
def laneBytes (rs : List (Nat × List Byte)) (l : Nat) : List Byte := ((rs.find? fun r => r.1 == l).map (·.2)).getD []

/-- Check 6 of R266: the page is not SEALED, for a load that R350 checks. -/
def sealCause (checked : Bool) (pte : DWord) : Nat := if checked && !pteBit pte 3 then cIMPURE else 0

/-- The lanes of an LD (R266). -/
def State.ldLane (s : State) (x : Iss) (f : MForm) (checked : Bool) (l : Nat) : LaneRes :=
  let b := s.battAt x.core x.slot
  let ea := memEa f true b l
  if ea.toNat % widthOf f.wd != 0 then .bad { lane := l, cause := cALIGN, faddr := ea } false 0
  else s.checkRun x.core b.space l (widthOf f.wd) ea fun pte _ => sealCause checked pte

/-- A load whose bytes are read: late ones wait for their return, the others are written or consume poison (R265, R417). A late one has taken
its bytes at issue already, so the loads of a batt are performed in issue order, which R276 allows and does not ask (log 106). -/
def loadResult (x : Iss) (f : MForm) (accs : List LaneAcc) (rd : LaneAcc → List (Byte × Bool)) (s : State) (fin : State → State) : Body :=
  let rs := accs.map fun a => (a, rd a)
  let m := maskOf fun l => accs.any fun a => a.lane == l
  if s.choice.late then
    .done (fin (s.addOp x.core x.slot fun id =>
      { x.op id with accs := accs, vals := laneIds.map fun l => BitVec.ofNat 64 (numOf ((laneBytes (rs.map fun r => (r.1.lane, r.2.map (·.1))) l).take 8))
                     bvals := laneIds.map fun l => BitVec.ofNat 64 (numOf ((laneBytes (rs.map fun r => (r.1.lane, r.2.map (·.1))) l).drop 8))
                     poison := maskOf fun l => rs.any fun r => r.1.lane == l && r.2.any (·.2) }))
  else
    match rs.filterMap fun r => poisonedByte r.1 r.2 with
    | c :: cs => .trap (c :: cs) (fin s)
    | [] => .done (fin (s.modBatt x.core x.slot fun b => b.putLoad f m (laneBytes (rs.map fun r => (r.1.lane, r.2.map (·.1))))))

/-- LD (R265). -/
def ldBody (f : MForm) : Iss → State → Body := fun x s =>
  let b := s.battAt x.core x.slot
  let checked := s.isChecked b x.instr x.pc
  reportOr ((lanesOf (loadLanes f x)).map (s.ldLane x f checked)) 0 s fun accs =>
    let s := s.loadSettle x.core accs
    loadResult x f accs (s.loadBytes x.core x.slot f.cp.toNat) s fun s => (s.loadFills x.core b.space f.cp.toNat accs).drewHost accs

/-- LD (R265). -/
def execLd (f : MForm) (s : State) : Host.Outcome State Fault Refusal := runWord (.ld f) (ldBody f) s

/-- The lanes of an LDS or STS: alignment, then the extent of SCRATCH, then check 6 (R266). -/
def State.scratchLane (s : State) (x : Iss) (f : MForm) (checked : Bool) (l : Nat) : LaneRes :=
  let b := s.battAt x.core x.slot
  let ea := memEa f false b l
  let n := widthOf f.wd
  if ea.toNat % n != 0 then .bad { lane := l, cause := cALIGN, faddr := ea } false 0
  else if s.battScratch b < ea.toNat + n then .bad { lane := l, cause := cRANGE, faddr := ea } false 0
  else if checked then .bad { lane := l, cause := cIMPURE, faddr := ea } false 0
  else .ok { lane := l, ea := ea, locs := [] }

/-- The ranges of scratchpad lanes. -/
def accRanges (accs : List LaneAcc) (n : Nat) : List (Nat × Nat) := accs.map fun a => (a.ea.toNat, n)

/-- LDS (R265, R268): performed in the banks at once; a locked range holds it in place (R324). -/
def ldsBody (f : MForm) : Iss → State → Body := fun x s =>
  let b := s.battAt x.core x.slot
  let n := widthOf f.wd
  reportOr ((lanesOf (loadLanes f x)).map (s.scratchLane x f (s.isChecked b x.instr x.pc))) 0 s fun accs =>
    if (s.core x.core).loadLocked x.slot b.id.lnum b.id.felt (accRanges accs n) then .stall false else
    let rs := accs.map fun a => (a, s.scratchBytes b.id.lnum b.id.felt a.ea.toNat n)
    match rs.filterMap fun r => poisonedByte r.1 r.2 with
    | c :: cs => .trap (c :: cs) s
    | [] => .done (s.modBatt x.core x.slot fun b => b.putLoad f (loadLanes f x) (laneBytes (rs.map fun r => (r.1.lane, r.2.map (·.1)))))

/-- LDS (R265). -/
def execLds (f : MForm) (s : State) : Host.Outcome State Fault Refusal := runWord (.lds f) (ldsBody f) s

/-- The report of an access whose bytes lie in two pages: the checks come in the order of R266, an XLAT that is not replayable
before one that is, both before the page's own checks, PROT before IMPURE, and of one check the lowest byte. -/
def pagesReport (rs : List LaneRes) : Option LaneRes :=
  let at' (p : Nat → Bool → Bool) : Option LaneRes := rs.find? fun r => match r with | .bad c rep _ => p c.cause rep | .ok _ => false
  (at' fun c rep => c == cXLAT && !rep).orElse fun _ => (at' fun c _ => c != cPROT && c != cIMPURE).orElse fun _ =>
    (at' fun c _ => c == cPROT).orElse fun _ => at' fun _ _ => true

/-- The lanes of an LDC (R266, R269). -/
def State.ldcLane (s : State) (x : Iss) (f : MForm) (checked : Bool) (l : Nat) : LaneRes :=
  let b := s.battAt x.core x.slot
  let ea := memEa f false b l
  let n := widthOf f.wd
  if ea.toNat % n != 0 then .bad { lane := l, cause := cALIGN, faddr := ea } false 0
  else if 65536 < ea.toNat + n then .bad { lane := l, cause := cRANGE, faddr := ea } false 0
  else
    let va := b.params + ea
    -- a window whose base is not aligned may lead an access into the next page: byte by byte
    match (List.range n).map fun i => s.checkPage x.core b.space l (va + BitVec.ofNat 64 i) va
        fun pte _ => if pteBit pte 5 || pteBit pte 6 then cPROT else sealCause checked pte with
    | rs => match pagesReport rs with
      | some r => r
      | none => .ok { lane := l, ea := va, locs := ((okAccs rs).map (·.locs)).flatten }

/-- One byte through the constant cache (R269). -/
def State.constByte (s : State) (core space : Nat) (x : Loc) : Byte × Bool :=
  match (if s.choice.useICache then (s.core core).ccache.find? fun e => e.1 == space && e.2.1 == x.sector else none) with
  | some e => (e.2.2.getD (x.pa % 64) 0, x.quar || s.pageQuarantined x.pa)
  | none => s.homeByte x

/-- The constant cache keeps a sector, read through level two for an address, unless the read finds it there (R236, R240, R269); of a poisoned
one it keeps nothing. -/
def State.constKeep (s : State) (core space va : Nat) (x : Loc) : State :=
  if s.choice.useICache && (s.core core).ccache.any fun e => e.1 == space && e.2.1 == x.sector then s
  else
    let s := s.l2Fill x space va
    if x.quar || s.devPoisoned x.pa then s else
    s.modCore core fun c =>
      { c with ccache := (c.ccache.filter fun e => !(e.1 == space && e.2.1 == x.sector)) ++ [(space, x.sector, s.l2Data x.home x.sector)] }

/-- The constant cache keeps the sectors that lanes read: an access that crosses two, both. -/
def State.constFill (s : State) (core space : Nat) (accs : List LaneAcc) : State :=
  accs.foldl (fun s a => (firstOfSectors a.locs).foldl (fun s p => s.constKeep core space (a.ea.toNat + p.1) p.2) s) s

/-- LDC (R265, R269). -/
def ldcBody (f : MForm) : Iss → State → Body := fun x s =>
  let b := s.battAt x.core x.slot
  reportOr ((lanesOf (loadLanes f x)).map (s.ldcLane x f (s.isChecked b x.instr x.pc))) 0 s fun accs =>
    loadResult x f accs (fun a => a.locs.map (s.constByte x.core b.space)) s fun s => s.constFill x.core b.space accs

/-- LDC (R269). -/
def execLdc (f : MForm) (s : State) : Host.Outcome State Fault Refusal := runWord (.ldc f) (ldcBody f) s

/-- The registers of an operation that has written none of them are again what they were when it issued (R147). -/
def State.giveBack (s : State) (core slot : Nat) (o : Op) : State := s.modBatt core slot fun b => b.untake (vNums o.dests)

/-- The return of a late load (R403): its lanes are written, or the poisoned ones trap and nothing is written. -/
def State.loadReturnOf (s : State) (core slot : Nat) (f : MForm) (o : Op) : State :=
  let m := maskOf fun l => o.accs.any fun a => a.lane == l
  let s :=
    if o.poison != 0 then
      (s.giveBack core slot o).noteTrap core slot o.word o.pc o.mask 0 ((o.accs.filter fun a => inMask o.poison a.lane).map fun a =>
        { lane := a.lane, cause := cPOISON, faddr := a.ea }) o.id
    else s.modBatt core slot fun b => b.putLoad f m fun l =>
      (bytesOf 8 (o.vals.getD l 0).toNat ++ bytesOf 8 (o.bvals.getD l 0).toNat).take (widthOf f.wd)
  s.endOp core slot o.id

/-! ### ST, STS (R265, R243) -/

/-- The data bytes of a store's lane. -/
def Batt.storeBytes (b : Batt) (f : MForm) (l : Nat) : List Byte :=
  if f.wd = 4 then ([0, 1, 2, 3].map fun j => bytesOf 4 (b.v (f.d.toNat + j) l).toNat).flatten
  else bytesOf (widthOf f.wd) (if f.wd = 3 ∨ isSc f.d then b.cw f.d l else b.cv f.d l)

/-- A page that a store may write (R62, R266). -/
def writeCause (pte : DWord) : Nat := if !pteBit pte 1 || pteBit pte 3 || pteBit pte 2 then cPROT else 0

/-- The lanes of an ST (R266). -/
def State.stLane (s : State) (x : Iss) (f : MForm) (l : Nat) : LaneRes :=
  let b := s.battAt x.core x.slot
  let ea := memEa f true b l
  if ea.toNat % widthOf f.wd != 0 then .bad { lane := l, cause := cALIGN, faddr := ea } false 0
  else s.checkRun x.core b.space l (widthOf f.wd) ea fun pte _ => writeCause pte

/-- The bytes that lanes store, with their locations; none carries poison. -/
def storedBytes (accs : List LaneAcc) (data : Nat → List Byte) : List (Loc × Byte × Bool) :=
  (accs.map fun a => (a.locs.zip (data a.lane)).map fun p => (p.1, p.2, false)).flatten

/-- Must a store wait for room in the log (R257)? A late choice waits; otherwise room is made. -/
def State.logWait (s : State) (x : Iss) (bytes : List (Loc × Byte × Bool)) : Bool :=
  let b := s.battAt x.core x.slot
  s.choice.late && !logRoom (s.core x.core) (sectorWrites ((bytes.filter fun p => !p.1.quar).map fun p => (p.1, p.2.1))) x.slot b.space
    b.pinDepth false s.choice.noCoalesce

/-- The lines that a store's translations reach take their handles, where level two holds them (R240; log 79). -/
def State.storeHits (s : State) (space : Nat) (accs : List LaneAcc) : State :=
  if (s.ctx space).handles.isEmpty then s else accs.foldl (fun s a => s.l2HitAll space a.ea.toNat a.locs) s

/-- The effect of a store on the log, the residency handles and the TLBs (R240, R243, R413). -/
def State.storeDone (s : State) (x : Iss) (accs : List LaneAcc) (bytes : List (Loc × Byte × Bool)) : State :=
  let b := s.battAt x.core x.slot
  ((s.appendBytes x.core x.slot b.space none bytes).storeHits b.space accs).tlbFillAll x.core b.space (accs.map (·.ea))

/-- ST (R265, R243): on a full log a late choice waits for room (R257), otherwise room is made. -/
def stBody (f : MForm) : Iss → State → Body := fun x s =>
  reportOr ((lanesOf x.active).map (s.stLane x f)) 1 s fun accs =>
    let bytes := storedBytes accs ((s.battAt x.core x.slot).storeBytes f)
    if s.logWait x bytes then .stall true else .done (s.storeDone x accs bytes)

/-- ST (R265). -/
def execSt (f : MForm) (s : State) : Host.Outcome State Fault Refusal := runWord (.st f) (stBody f) s

/-- STS (R265, R268): the highest lane's byte stands; a word that the lanes write whole together loses its poison (R416). -/
def stsBody (f : MForm) : Iss → State → Body := fun x s =>
  let b := s.battAt x.core x.slot
  reportOr ((lanesOf x.active).map (s.scratchLane x f false)) 1 s fun accs =>
    if (s.core x.core).storeLocked b.id.lnum b.id.felt (accRanges accs (widthOf f.wd)) then .stall false
    else .done ((accs.foldl (fun s a => s.scratchWrite b.id.lnum b.id.felt a.ea.toNat (b.storeBytes f a.lane) false) s).scratchWhole
      b.id.lnum b.id.felt (accRanges accs (widthOf f.wd)))

/-- STS (R265). -/
def execSts (f : MForm) (s : State) : Host.Outcome State Fault Refusal := runWord (.sts f) (stsBody f) s

/-- PREF (R270). -/
def prefBody (f : MForm) : Iss → State → Body := fun x s =>
  let b := s.battAt x.core x.slot
  .done ((lanesOf x.active).foldl (fun s l =>
    let ea := memEa f true b l
    match s.translate x.core b.space l ea with
    | .ok loc _ _ =>
      if loc.target == .dev && !loc.quar && !s.pageQuarantined loc.pa then
        let s := s.l2Fill loc b.space ea.toNat
        (if f.cp = 2 then s else s.l1Fill x.core loc).tlbFill x.core b.space ea
      else s
    | _ => s) s)

/-- PREF (R270). -/
def execPref (f : MForm) (s : State) : Host.Outcome State Fault Refusal := runWord (.pref f) (prefBody f) s

/-! ### Ordering and draining (R271 to R276) -/

/-- ACQ (R273): a late one ends its wait by an event (R249). -/
def acqBody (f : RForm) : Iss → State → Body := fun x s =>
  if s.choice.late then .done (s.addOp x.core x.slot fun id => { x.op id with num := s.dev.granted })
  else .done (s.acquireAt x.core (f.mf 1 0))

/-- ACQ (R273). -/
def execAcq (f : RForm) (s : State) : Host.Outcome State Fault Refusal := runWord (.acq f) (acqBody f) s

/-- The release of a REL (R246, R258, R273) and its number. -/
def State.relAt (s : State) (core slot space sc : Nat) : Nat × State :=
  (if sc = 0 then s else s.hardenOpen core slot).releaseAt core space sc

/-- Write the number of a REL with NR. -/
def Batt.putRel (b : Batt) (f : RForm) (q : Nat) : Batt := if f.mb 2 then b.setS f.d.toNat (BitVec.ofNat 64 q) else b

/-- REL (R273): a late one at cluster scope or wider waits in the core's queue for its grant (R245). It hardens open regions as it
issues; one that the batt opens while it waits has no cause of its own to harden (R258). -/
def relBody (f : RForm) : Iss → State → Body := fun x s =>
  let b := s.battAt x.core x.slot
  if s.choice.late && f.mf 1 0 != 0 then
    let id := b.nextOp
    .done (((s.hardenOpen x.core x.slot).addOp x.core x.slot fun id => x.op id).modCore x.core fun c =>
      { c with pubQueue := c.pubQueue ++ [some (x.slot, id)] })
  else
    let (q, s) := s.relAt x.core x.slot b.space (f.mf 1 0)
    .done (s.modBatt x.core x.slot fun b => b.putRel f q)

/-- REL (R273). -/
def execRel (f : RForm) (s : State) : Host.Outcome State Fault Refusal := runWord (.rel f) (relBody f) s

/-- Does a 128-bit core mask held in two doublewords name a core (R247)? -/
def namesCore (lo hi : DWord) (c : Nat) : Bool := if c < 64 then lo.getLsbD c else hi.getLsbD (c - 64)

/-- ACQR (R247, R274): a late one sends its promotion requests by events of their own. -/
def acqrBody (f : RForm) : Iss → State → Body := fun x s =>
  let b := s.battAt x.core x.slot
  let lo := b.s f.a.toNat
  let hi := b.s f.b.toNat
  if s.choice.late then .done (s.addOp x.core x.slot fun id => { x.op id with vals := [lo, hi] })
  else
    let s := (List.range 128).foldl (fun s c => if namesCore lo hi c then s.promote c b.space else s) s
    .done (s.acquireAt x.core 2)

/-- ACQR (R274). -/
def execAcqr (f : RForm) (s : State) : Host.Outcome State Fault Refusal := runWord (.acqr f) (acqrBody f) s

/-- FENCE (R275): what it waits for held it at issue (R276). -/
def execFence (f : RForm) (s : State) : Host.Outcome State Fault Refusal := runWord (.fence f) (fun _ s => .done s) s

/-- FENCEO (R256, R275). -/
def execFenceo (f : RForm) (s : State) : Host.Outcome State Fault Refusal :=
  runWord (.fenceo f) (fun x s => .done ((s.drainUpTo (s.core x.core).view).fullEntries x.core fun _ => true)) s

/-- FULL (R275). -/
def execFull (f : RForm) (s : State) : Host.Outcome State Fault Refusal :=
  runWord (.full f) (fun x s => let sp := (s.battAt x.core x.slot).space; .done (s.fullEntries x.core fun e => e.space == sp)) s

/-- FLUSHH (R275): a release at system scope; the units write back (R285). -/
def execFlushh (f : RForm) (s : State) : Host.Outcome State Fault Refusal :=
  runWord (.flushh f) (fun x s => .done ((s.relAt x.core x.slot (s.battAt x.core x.slot).space 3).2)) s

/-! ### Residency (R277) -/

/-- HBIND (R277): the lines of an earlier binding of the number are no longer its lines. -/
def hbindBody (f : RForm) : Iss → State → Body := fun x s =>
  let b := s.battAt x.core x.slot
  let h := (b.s f.a.toNat).toNat
  let base := (b.s f.b.toNat).toNat
  let len := (b.s f.c.toNat).toNat
  if 64 ≤ h then .done s
  else if base % 65536 != 0 || len % 65536 != 0 || len = 0 || 2 ^ 49 < base + len then
    .trap (causesOf x.active cRANGE (BitVec.ofNat 64 base)) s
  else
    let hd : Handle := { num := h, base := base, len := len, prio := f.mf 2 0 }
    .done ((s.unmark b.space h).modCtx b.space fun c => { c with handles := insertBy (fun a b => a.num < b.num) (c.handles.filter fun y => y.num != h) hd })

/-- HBIND (R277). -/
def execHbind (f : RForm) (s : State) : Host.Outcome State Fault Refusal := runWord (.hbind f) (hbindBody f) s

/-- HPRIO (R277). -/
def execHprio (f : RForm) (s : State) : Host.Outcome State Fault Refusal :=
  runWord (.hprio f) (fun x s =>
    let b := s.battAt x.core x.slot
    let one (y : Handle) : Handle := if y.num == (b.s f.a.toNat).toNat then { y with prio := f.mf 2 0, demoted := false } else y
    .done (s.modCtx b.space fun c => { c with handles := c.handles.map one })) s

/-- HDROP (R277). -/
def hdropBody (f : RForm) : Iss → State → Body := fun x s =>
  let b := s.battAt x.core x.slot
  let h := (b.s f.a.toNat).toNat
  .done ((s.modCtx b.space fun c => { c with handles := c.handles.filter fun y => y.num != h }).unmark b.space h)

/-- HDROP (R277). -/
def execHdrop (f : RForm) (s : State) : Host.Outcome State Fault Refusal := runWord (.hdrop f) (hdropBody f) s

end Sys2Proof.Machine
end

