-- ==== Sys2Proof/Machine/AtomicWords.lean ====
section
/-! DEFINITION. ATOM, RED, WAITA and PUTS, and the completion of those that the device finishes later (R278 to R294, R306). -/

namespace Sys2Proof.Machine

/-- SCOPE of the control field (R279). -/
def atomScope (f : RForm) : Nat := fld f.c 2 0
/-- ORD. -/
def atomOrd (f : RForm) : Nat := fld f.c 4 3
/-- OP. -/
def atomOp (f : RForm) : Nat := f.mf 7 4

/-- Size of the location in bytes (R281). -/
def atomSize (f : RForm) : Nat := if atomOp f = 11 then 288 else if f.mb 0 then 8 else 4

/-- The memory scope that SCOPE implies (R284): 0 core, 2 device, 3 system. -/
def atomSc (f : RForm) : Nat := if atomScope f ≤ 1 then 0 else if atomScope f = 4 then 3 else 2

/-- Check 4 of R281 on a page. -/
def atomPage (f : RForm) (pte : DWord) (x : Loc) : Nat :=
  let op := atomOp f
  let allowed := match x.target with
    | .dev => true
    | .sluice => atomScope f == 4
    | .host => atomScope f == 4 && (op == 0 || op == 8 || op == 9)
  if writeCause pte != 0 || !allowed || (op == 11 && atomScope f == 3 && !x.comp) then cPROT else 0

/-- The bytes of an object, each through its own page (R281): check 3 of both pages comes before check 4 of either, and the first byte
whose page fails is the fault address. -/
def State.checkObject (s : State) (core space lane : Nat) (ea : DWord) (size : Nat) (page : DWord → Loc → Nat) : LaneRes :=
  let room := min size (65536 - ea.toNat % 65536)
  let va2 := ea + BitVec.ofNat 64 room
  let second := if room = size then .ok { lane := lane, ea := va2, locs := [] } else s.checkPage core space lane va2 va2 page
  match s.checkPage core space lane ea ea page, second with
  | .bad c r l, .bad c2 r2 l2 => if c.cause = cPROT && c2.cause != cPROT then .bad c2 r2 l2 else .bad c r l
  | .bad c r l, _ => .bad c r l
  | _, .bad c r l => .bad c r l
  | .ok a, .ok a2 => .ok { a with locs := (a.locs.map fun x => x.run room).flatten ++ (a2.locs.map fun x => x.run (size - room)).flatten }

/-- The reads of an object as loads of the core make them: a sector whose former copy waits settles (R238), and level two is read, where a
sector that it has not whole is fetched and merged (R236, R240). -/
def State.objectReads (s : State) (core space : Nat) (va : DWord) (n : Nat) : State :=
  match s.checkObject core space 0 va n fun _ _ => 0 with
  | .ok a => ((a.locs.map Loc.sector).eraseDups.foldl (fun s k => s.settleGone core k) s).l2ReadAll space va.toNat a.locs
  | .bad _ _ _ => s

/-- The checks of R281 on a lane. -/
def State.atomLaneCheck (s : State) (x : Iss) (f : RForm) (l : Nat) : LaneRes :=
  let b := s.battAt x.core x.slot
  let scope := atomScope f
  let ea : DWord := if scope = 0 then (b.v f.a.toNat l).setWidth 64 else b.w f.a.toNat l
  let unit := if atomOp f = 11 then (if scope = 3 then 512 else 32) else atomSize f
  if ea.toNat % unit != 0 then .bad { lane := l, cause := cALIGN, faddr := ea } false 0
  else if scope = 0 then
    if s.battScratch b < ea.toNat + atomSize f then .bad { lane := l, cause := cRANGE, faddr := ea } false 0
    else .ok { lane := l, ea := ea, locs := [] }
  else s.checkObject x.core b.space l ea (atomSize f) (atomPage f)

/-- The entries of other cores for these sectors that the core's view covers are applied, with what must come before them: an acquire may
have replayed them into the L1 only, and what acts at the home must act after them (R249, R261, R289; log 97). -/
def State.viewDrain (s : State) (core : Nat) (sectors : List Nat) : State :=
  match (s.publishedOrder.filter fun x => x.1 != core && sectors.contains x.2.sector && serialLe x.2.num (s.core core).view).getLast? with
  | some x => s.drainUpTo x.2.num
  | none => s

/-- The entries that an atomic drains: those of the issuing core for the sectors named (R283), and those that its view covers. -/
def State.atomDrain (s : State) (core space scope : Nat) (accs : List LaneAcc) : State :=
  if scope = 0 then s else
  let sectors := ((accs.map fun a => a.locs.map Loc.sector).flatten).eraseDups
  (s.viewDrain core sectors).fullEntries core fun e => e.space == space && sectors.contains e.sector

/-- Does the word make open regions non-revocable (R425): an atomic at SCOPE 1 to 4, or a RED that arrives at a cluster or launch
barrier? -/
def atomHardens (i : Instr) (f : RForm) : Bool :=
  atomScope f != 0 || (match i with | .red _ => bit1 f.d 9 && fld f.d 5 4 != 0 | _ => false)

/-- What stands before the performance of an atomic: an ATOM takes over D (R147), the non-revocable region (R283, R425), the release
(R284), the drain. -/
def State.atomBefore (s : State) (x : Iss) (f : RForm) (accs : List LaneAcc) : State :=
  let space := (s.battAt x.core x.slot).space
  let s := match x.instr with | .atom _ => s.takeDests x.core x.slot (vNums (regUse x.instr).writes) | _ => s
  let s := if atomHardens x.instr f then s.hardenOpen x.core x.slot else s
  let s := if 2 ≤ atomOrd f then (s.relAt x.core x.slot space (atomSc f)).2 else s
  s.atomDrain x.core space (atomScope f) accs

/-- Operand lanes: the low n bits of B, and of D for cas. -/
def atomVals (b : Batt) (f : RForm) (n : BitVec 10) : List DWord :=
  laneIds.map fun l => if f.mb 0 then b.w n.toNat l else (b.v n.toNat l).setWidth 64

/-- Write D of an ATOM in the lanes that returned clean (R282, R287). -/
def Batt.putAtom (b : Batt) (f : RForm) (m : Mask) (v : Nat → DWord) : Batt :=
  if f.mb 0 then b.setW f.d.toNat m v else b.setV f.d.toNat m fun l => (v l).setWidth 32

/-- An ATOM has returned (R282, R287): D is written in the clean lanes, poisoned lanes are named, and without one ORD's acquire is made. -/
def State.atomReturned (s : State) (core slot : Nat) (f : RForm) (active bad : Mask) (v : Nat → DWord) : State :=
  let m := active &&& ~~~bad
  let s := s.modBatt core slot fun b => if m = 0 then b.untake (vNums (regUse (.atom f)).writes) else b.putAtom f m v
  if bad = 0 && atomOrd f % 2 = 1 then s.acquireAt core (atomSc f) else s

/-- POISON causes of an ATOM. -/
def atomCauses (bad : Mask) (accs : List LaneAcc) : List LaneCause :=
  (accs.filter fun a => inMask bad a.lane).map fun a => { lane := a.lane, cause := cPOISON, faddr := a.ea }

/-- The results of lanes: poison, and the values returned. -/
def laneVals (rs : List (Nat × DWord × Bool)) : Mask × List DWord :=
  (maskOf fun l => rs.any fun r => r.1 == l && r.2.2,
   laneIds.map fun l => ((rs.find? fun r => r.1 == l).map (·.2.1)).getD 0)

/-- The scratchpad ranges of an atomic. -/
def atomLocked (s : State) (x : Iss) (f : RForm) (accs : List LaneAcc) : Bool :=
  let b := s.battAt x.core x.slot
  atomScope f == 0 && (s.core x.core).storeLocked b.id.lnum b.id.felt (accRanges accs (atomSize f))

/-- NONREPRO (R282). -/
def nonRepro (s : State) (x : Iss) (f : RForm) : Bool := atomOp f == 10 && (s.recOf (s.battAt x.core x.slot)).flag 0

/-- ATOM (R282). -/
def atomBody (f : RForm) : Iss → State → Body := fun x s =>
  if nonRepro s x f then .trap (causesOf x.active cNONREPRO 0) s else
  reportOr ((lanesOf x.active).map (s.atomLaneCheck x f)) 1 s fun accs =>
    if atomLocked s x f accs then .stall false else
    let s := s.atomBefore x f accs
    let b := s.battAt x.core x.slot
    let bv := atomVals b f f.b
    let dv := atomVals b f f.d
    if s.choice.late then .done (s.addOp x.core x.slot fun id => { x.op id with accs := accs, bvals := bv, dvals := dv })
    else
      let (rs, s) := s.atomAll b (atomScope f) (atomOp f) (f.mb 0) (atomSize f) accs bv dv
      let (bad, vals) := laneVals rs
      let s := s.atomReturned x.core x.slot f x.active bad fun l => vals.getD l 0
      if bad != 0 then .trap (atomCauses bad accs) s else .done s

/-- ATOM (R282). -/
def execAtom (f : RForm) (s : State) : Host.Outcome State Fault Refusal := runWord (.atom f) (atomBody f) s

/-- The barrier reference of a field (R279). -/
def barKind (v : BitVec 10) : Nat := fld v 5 4
/-- Its number. -/
def barNum (v : BitVec 10) : Nat := fld v 3 0

/-- BARMEM (R282, R300): not a member, or a number not below the count. -/
def barDenied (s : State) (b : Batt) (v : BitVec 10) : Bool :=
  let r := s.recOf b
  r.barCount (barKind v) ≤ barNum v || !b.isMember r (barKind v)

/-- The lanes of an outstanding ATOM or RED are performed at their homes (R282). -/
def State.performOp (s : State) (core slot : Nat) (f : RForm) (o : Op) : List (Nat × DWord × Bool) × State :=
  s.atomAll (s.battAt core slot) (atomScope f) (atomOp f) (f.mb 0) (atomSize f) (o.accs.filter fun a => !inMask o.poison a.lane) o.bvals o.dvals

/-- The arrival of a RED at its barrier (R288, R306). -/
def State.redArrive (s : State) (core slot : Nat) (f : RForm) : State :=
  let (n, s) := s.barArrive ((s.battAt core slot).barRef (barKind f.d) (barNum f.d)) .red 0
  (s.noteRefusals [n]).settleHalted

/-- The outstanding REDs of a batt that exits are performed, and their arrivals delivered (R230, R306). -/
def State.finishReds (s : State) (core slot : Nat) : State :=
  (s.battAt core slot).ops.foldl (fun s o => match o.instr with
    | .red f =>
      let s := if o.phase == .sent then (s.performOp core slot f o).2 else s
      let s := s.modBatt core slot fun b => { b with ops := b.ops.filter fun x => x.id != o.id }
      if bit1 f.d 9 then s.redArrive core slot f else s
    | _ => s) s

/-- RED (R282, R287, R288). -/
def redBody (f : RForm) : Iss → State → Body := fun x s =>
  if nonRepro s x f then .trap (causesOf x.active cNONREPRO 0) s else
  reportOr ((lanesOf x.active).map (s.atomLaneCheck x f)) 1 s fun accs =>
    let b := s.battAt x.core x.slot
    if bit1 f.d 9 && barDenied s b f.d then .trap (causesOf x.active cBARMEM 0) s
    else if atomLocked s x f accs then .stall false else
    let s := s.atomBefore x f accs
    let bv := atomVals b f f.b
    if s.choice.late then .done (s.addOp x.core x.slot fun id => { x.op id with accs := accs, bvals := bv })
    else
      let (_, s) := s.atomAll b (atomScope f) (atomOp f) (f.mb 0) (atomSize f) accs bv []
      .done (if bit1 f.d 9 then s.redArrive x.core x.slot f else s)

/-- RED (R282). -/
def execRed (f : RForm) (s : State) : Host.Outcome State Fault Refusal := runWord (.red f) (redBody f) s

/-! ### WAITA (R290, R291) -/

/-- Location size of a WAITA. -/
def waitaSize (f : RForm) : Nat := if f.mb 3 then 8 else 4

/-- Cond of R290. -/
def waitaCond (cc v k : Nat) : Bool :=
  match cc with
  | 0 => v == k
  | 1 => v != k
  | 2 => decide (k ≤ v)
  | _ => decide (v < k)

/-- The check of a WAITA's address. -/
def State.waitaCheck (s : State) (core space : Nat) (f : RForm) (ea : DWord) : LaneRes :=
  let n := waitaSize f
  if ea.toNat % n != 0 then .bad { lane := 0, cause := cALIGN, faddr := ea } false 0
  else s.checkRun core space 0 n ea fun _ x => if f.mf 5 4 ≤ 2 && x.target != .dev then cPROT else 0

/-- The location as WAITA reads it: at SC 1 the cluster's store where it holds it, else the home or target. -/
def State.waitaRead (s : State) (core : Nat) (f : RForm) (a : LaneAcc) : List (Byte × Bool) :=
  if f.mf 5 4 = 1 then a.locs.map (s.unitByte core 2) else a.locs.map s.homeByte

/-- What a WAITA's read leaves behind: level two is read where the cluster's store does not hold the location (R236, R240), and host
memory answers each read anew. -/
def State.waitaFills (s : State) (core space : Nat) (f : RForm) (a : LaneAcc) : State :=
  let inStore := f.mf 5 4 == 1 && a.locs.all fun x => (s.unitOf core 2).any fun y => y.addr == x.pa
  (if inStore then s else s.l2ReadAll space a.ea.toNat a.locs).drewHost [a]

/-- One read of a WAITA. -/
inductive WaitRead where
  | poison
  | done (v : Nat)
  | fail
  deriving DecidableEq, Repr

/-- Read and compare. -/
def State.waitaTry (s : State) (core slot : Nat) (f : RForm) (a : LaneAcc) : WaitRead :=
  let bs := s.waitaRead core f a
  let v := numOf (bs.map (·.1))
  let k := ((s.battAt core slot).s f.b.toNat).toNat % 2 ^ (8 * waitaSize f)
  if bs.any (·.2) then .poison else if waitaCond (f.mf 2 0) v k then .done v else .fail

/-- Free the batt's entry of the monitor table (R291). -/
def State.freeMonitor (s : State) (core slot : Nat) : State :=
  s.modCluster (clusterOf core) fun k => { k with monitors := k.monitors.filter fun m => !(m.core == core && m.slot == slot) }

/-- A failed read takes a free entry of the table of 128, or waits for a timed re-read (R291). -/
def State.takeMonitor (s : State) (core slot : Nat) (i : Instr) (a : LaneAcc) : State :=
  let x := (a.locs.head?).getD {}
  let k := s.cluster (clusterOf core)
  if x.target != .host && k.monitors.length < 128 then
    let s := s.modCluster (clusterOf core) fun k => { k with monitors := k.monitors ++ [{ core := core, slot := slot, target := x.target, sector := x.sector }] }
    s.modBatt core slot fun b => { b with wait := .watch false i }
  else s.modBatt core slot fun b => { b with wait := .watch true i }

/-- WAITA (R290). -/
def waitaBody (f : RForm) : Iss → State → Body := fun x s =>
  let b := s.battAt x.core x.slot
  let ea := b.s f.a.toNat
  match s.waitaCheck x.core b.space f ea with
  | .bad c true lv => .fault (causesOf x.active cXLAT c.faddr) 0 lv s
  | .bad c false _ => .trap (causesOf x.active c.cause c.faddr) s
  | .ok a =>
    match s.waitaTry x.core x.slot f a with
    | .poison => .trap (causesOf x.active cPOISON ea) (s.waitaFills x.core b.space f a)
    | .done v => .done ((s.waitaFills x.core b.space f a).modBatt x.core x.slot fun b => b.setS f.d.toNat (BitVec.ofNat 64 v))
    | .fail => .wait ((s.waitaFills x.core b.space f a).takeMonitor x.core x.slot x.instr a)

/-- WAITA (R290). -/
def execWaita (f : RForm) (s : State) : Host.Outcome State Fault Refusal := runWord (.waita f) (waitaBody f) s

/-- A re-read of a waiting WAITA (R291): it completes, traps, or waits on; a timed one that fails takes a free entry. Its address is translated
and checked anew, and a monitor entry keeps the sector that it was made for (log 107). -/
def State.waitaAgain (s : State) (core slot : Nat) (i : Instr) : State :=
  match i with
  | .waita f =>
    let b := s.battAt core slot
    let active := b.waitM
    let pc := (b.lane ((lowLane active).getD 0)).pc
    let word := (encode i).getD 0
    let free (s : State) : State := (s.freeMonitor core slot).modBatt core slot fun b => { b with wait := .none }
    let count (s : State) : State := s.modBatt core slot Batt.finishTurn
    match s.waitaCheck core b.space f (b.s f.a.toNat) with
    | .bad c true lv => (free s).takeFault core slot word pc (causesOf active cXLAT c.faddr) 0 lv false 0
    | .bad c false _ => (count (free s)).takeTrap core slot word pc b.waitS 0 (causesOf active c.cause c.faddr)
    | .ok a =>
      let r := s.waitaTry core slot f a
      let s := s.waitaFills core b.space f a
      match r with
      | .poison => (count (free s)).takeTrap core slot word pc b.waitS 0 (causesOf active cPOISON (b.s f.a.toNat))
      | .done v => (free s).modBatt core slot fun b => (b.setS f.d.toNat (BitVec.ofNat 64 v)).endWait
      | .fail => match b.wait with | .watch true _ => s.takeMonitor core slot i a | _ => s
  | _ => s

/-! ### PUTS (R292, R293) -/

/-- Payload length. -/
def putsLen (f : RForm) : Nat := 16 * (f.m + 1)

/-- The two pages at most that a range of up to 4,104 bytes touches: each byte's location, or the first failing byte. -/
def State.putsRange (s : State) (core space : Nat) (va : DWord) (n : Nat) (page : DWord → Loc → Nat) : LaneRes :=
  s.checkObject core space 0 va n page

/-- Send a run of bytes to the host in posted writes, one for each 64 B sector (R293, R443, R444); none through a quarantined
translation (R421). -/
def State.putsSend (s : State) (locs : List Loc) (bytes : List Byte) : State :=
  (sectorWrites ((locs.zip bytes).filter fun p => !p.1.quar)).foldl (fun s w => s.hostWrite w.loc.pa w.mask w.data false) s

/-- The payload that a PUTS reads, as loads issued at the PUTS would read it (R238, R239, R293). -/
def State.putsRead (s : State) (core slot : Nat) (src : LaneAcc) : List (Byte × Bool) × State :=
  let s := (src.locs.map Loc.sector).eraseDups.foldl (fun s k => s.settleGone core k) s
  (src.locs.map (s.loadByte core slot 0), (s.l2ReadAll (s.battAt core slot).space src.ea.toNat src.locs).drewHost [src])

/-- The payload is sent, then the flag (R293). -/
def State.putsDeliver (s : State) (len : Nat) (dst : List Loc) (payload : List Byte) (flag : DWord) : State :=
  (s.putsSend (dst.take len) payload).putsSend (dst.drop len) (bytesOf 8 flag.toNat)

/-- A destination page that a PUTS may write: of the host, writable, and not executable (R62, R292). -/
def putsPage (pte : DWord) : Nat := if !pteBit pte 5 || writeCause pte != 0 then cPROT else 0

/-- Is a PUTS of the batt still to be delivered? The PUTS of one batt reach their destinations in issue order (R293). -/
def Batt.putsOut (b : Batt) : Bool := b.ops.any fun o => match o.instr with | .puts _ => true | _ => false

/-- A range that fails check 2 of R292: the failing byte of the source comes first, and the fault is replayable when both ranges'
failures are. -/
def putsFail (x : Iss) (s : State) (c : LaneCause) (rep : Bool) (access level : Nat) : Body :=
  if rep then .fault (causesOf x.active cXLAT c.faddr) access level s else .trap (causesOf x.active c.cause c.faddr) s

/-- PUTS (R292): checks 1 to 3 over both ranges, then the payload is read; a late one has its read decided, and is sent, by an
event. -/
def putsBody (f : RForm) : Iss → State → Body := fun x s =>
  let b := s.battAt x.core x.slot
  let va := b.s f.a.toNat
  let vb := b.s f.b.toNat
  let len := putsLen f
  let named (c : LaneCause) (s : State) : Body := .trap (causesOf x.active c.cause c.faddr) s
  if va.toNat % 16 != 0 then .trap (causesOf x.active cALIGN va) s
  else if vb.toNat % 16 != 0 then .trap (causesOf x.active cALIGN vb) s
  else
    let xs := s.putsRange x.core b.space va len fun _ _ => 0
    let xd := s.putsRange x.core b.space vb (len + 8) fun _ _ => 0
    match xs, xd with
    | .bad c rep lv, .bad _ rep2 _ => putsFail x s c (rep && rep2) 0 lv
    | .bad c rep lv, .ok _ => putsFail x s c rep 0 lv
    | .ok _, .bad c rep lv => putsFail x s c rep 1 lv
    | .ok a, .ok d =>
      match s.putsRange x.core b.space va len (fun pte _ => if pteBit pte 5 then cPROT else 0),
            s.putsRange x.core b.space vb (len + 8) (fun pte _ => putsPage pte) with
      | .bad c _ _, _ => named c s
      | .ok _, .bad c _ _ => named c s
      | .ok _, .ok _ =>
        let (bs, s) := (s.hardenOpen x.core x.slot).putsRead x.core x.slot { lane := 0, ea := va, locs := a.locs }
        let bad := (findIdx (·.2) bs 0).map fun i => va + BitVec.ofNat 64 i
        if s.choice.late || b.putsOut then
          .done (s.addOp x.core x.slot fun id => { x.op id with
            accs := [{ lane := 0, ea := va, locs := a.locs }, { lane := 1, ea := vb, locs := d.locs }]
            bvals := [b.s f.c.toNat], dvals := bad.toList, vals := bs.map fun y => y.1.setWidth 64 })
        else match bad with
          | some e => .trap (causesOf x.active cPOISON e) s
          | none => .done (s.putsDeliver len d.locs (bs.map (·.1)) (b.s f.c.toNat))

/-- PUTS (R292). -/
def execPuts (f : RForm) (s : State) : Host.Outcome State Fault Refusal := runWord (.puts f) (putsBody f) s

end Sys2Proof.Machine
end

