-- ==== Sys2Proof/Machine/BarrierWords.lean ====
section
/-! DEFINITION. BARV, BARW, BARS, BART and BARQ (R300 to R305). -/

namespace Sys2Proof.Machine

/-- Check 1 of R301: NUM is not below the launch's count of its kind. -/
def barMissing (s : State) (b : Batt) (v : BitVec 10) : Bool := (s.recOf b).barCount (barKind v) ≤ barNum v

/-- The barrier that a batt's word names. -/
def Batt.namedBar (b : Batt) (v : BitVec 10) : BarRef := b.barRef (barKind v) (barNum v)

/-- The batt waits at a barrier: its active lanes take state 3, the others of the split advance (R301, R215). -/
def State.waitAtBar (s : State) (x : Iss) (w : Waiting) : Body :=
  .wait (s.modBatt x.core x.slot fun b =>
    { (b.advance (x.split &&& ~~~x.active)).modLanes x.active (fun l => { l with st := .barrier }) with wait := w })

/-- The release of an arrival at the barrier's scope (R302); one at a cluster or launch barrier hardens open regions (R425). -/
def State.barRelease (s : State) (x : Iss) (kind : Nat) : State :=
  let space := (s.battAt x.core x.slot).space
  ((if kind = 0 then s else s.hardenOpen x.core x.slot).releaseAt x.core space (barScope kind)).2

/-- What became of an arrival: counted in a generation with its phase, refused, or held; other batts' refusals are noted. -/
inductive ArriveRes where
  | counted (gen : Nat) (phase : Bool)
  | refused
  | held
  deriving DecidableEq, Repr

/-- An arrival of the issuing batt (R302): the release, then the event of R298. -/
def State.arriveAt (s : State) (x : Iss) (v : BitVec 10) (bytes : Int) : ArriveRes × State :=
  let s := s.barRelease x (barKind v)
  let b := s.battAt x.core x.slot
  let (n, s) := s.barArrive (b.namedBar v) (.batt b.id bytes) bytes
  let others : BarNews := { n with refused := n.refused.filter (· != b.id) }
  let s := (s.noteRefusals [others]).settleHalted
  match n.counted.find? fun c => c.1 == b.id with
  | some c => (.counted c.2.1 c.2.2, s)
  | none => if n.refused.contains b.id then (.refused, s) else (.held, s)

/-- BARMEM of checks 1 and 2 (R301). -/
def barmemTrap (x : Iss) (s : State) : Body := .trap (causesOf x.active cBARMEM 0) s

/-- BARV (R302). -/
def barvBody (f : RForm) : Iss → State → Body := fun x s =>
  if barDenied s (s.battAt x.core x.slot) f.a then barmemTrap x s else
  match s.arriveAt x f.a 0 with
  | (.counted _ ph, s) => .done (if f.mb 0 then s.modBatt x.core x.slot fun b => b.setS f.d.toNat (if ph then 1 else 0) else s)
  | (.refused, s) => .trap (causesOf x.active cBARTX 0) s
  | (.held, s) => s.waitAtBar x (.held (barKind f.a) (barNum f.a) 0 x.instr)

/-- BARV (R302). -/
def execBarv (f : RForm) (s : State) : Host.Outcome State Fault Refusal := runWord (.barv f) (barvBody f) s

/-- BARS (R302): released at once when its own arrival completed the generation. -/
def barsBody (f : RForm) : Iss → State → Body := fun x s =>
  let b := s.battAt x.core x.slot
  if barDenied s b f.a then barmemTrap x s else
  match s.arriveAt x f.a 0 with
  | (.counted g _, s) =>
    if g < (s.bar (b.namedBar f.a)).gen then .done (s.acquireAt x.core (barScope (barKind f.a)))
    else s.waitAtBar x (.counted (barKind f.a) (barNum f.a) g)
  | (.refused, s) => .trap (causesOf x.active cBARTX 0) s
  | (.held, s) => s.waitAtBar x (.held (barKind f.a) (barNum f.a) 0 x.instr)

/-- BARS (R302). -/
def execBars (f : RForm) (s : State) : Host.Outcome State Fault Refusal := runWord (.bars f) (barsBody f) s

/-- BART (R302, R303). -/
def bartBody (f : RForm) : Iss → State → Body := fun x s =>
  let b := s.battAt x.core x.slot
  let v := sval 64 (b.s f.b.toNat).toNat
  if barDenied s b f.a then barmemTrap x s else
  if f.mb 0 then
    match s.arriveAt x f.a v with
    | (.counted _ _, s) => .done s
    | (.refused, s) => .trap (causesOf x.active cBARTX 0) s
    | (.held, s) => s.waitAtBar x (.held (barKind f.a) (barNum f.a) v x.instr)
  else
    match s.barBytes (b.namedBar f.a) v with
    | some (n, s) => .done ((s.noteRefusals [n]).settleHalted)
    | none => .trap (causesOf x.active cBARTX 0) s

/-- BART (R302, R303). -/
def execBart (f : RForm) (s : State) : Host.Outcome State Fault Refusal := runWord (.bart f) (bartBody f) s

/-- BARW (R304). -/
def barwBody (f : RForm) : Iss → State → Body := fun x s =>
  let b := s.battAt x.core x.slot
  let ph := (b.s f.b.toNat).getLsbD 0
  if barMissing s b f.a then barmemTrap x s
  else if (s.bar (b.namedBar f.a)).phase != ph then .done (s.acquireAt x.core (barScope (barKind f.a)))
  else s.waitAtBar x (.phase (barKind f.a) (barNum f.a) ph)

/-- BARW (R304). -/
def execBarw (f : RForm) (s : State) : Host.Outcome State Fault Refusal := runWord (.barw f) (barwBody f) s

/-- BARQ (R305). -/
def barqBody (f : RForm) : Iss → State → Body := fun x s =>
  let b := s.battAt x.core x.slot
  if barMissing s b f.a then barmemTrap x s
  else .done (s.modBatt x.core x.slot fun b => b.setS f.d.toNat (s.bar (b.namedBar f.a)).word)

/-- BARQ (R305). -/
def execBarq (f : RForm) (s : State) : Host.Outcome State Fault Refusal := runWord (.barq f) (barqBody f) s

end Sys2Proof.Machine
end

