-- ==== Sys2Proof/Machine/BankWords.lean ====
section
/-! DEFINITION. Accumulator banks: ABALLOC, ABFREE, ALD, AST, AZERO (R311 to R317). -/

namespace Sys2Proof.Machine

/-- Physical banks of a core that no batt holds (R311). -/
def State.freeBanks (s : State) (core : Nat) : Nat :=
  16 - ((s.batts.filter fun b => b.core == core && !b.claim).map fun b => b.banks.length).foldl (· + ·) 0

/-- Banks 0 to n − 1, zero and clean (R312). -/
def newBanks (n : Nat) : List Bank := (List.range n).map fun k => { num := k }

/-- ABALLOC (R312): granted at once at the head of the core's queue, or it waits. -/
def aballocBody (f : RForm) : Iss → State → Body := fun x s =>
  let b := s.battAt x.core x.slot
  let n := f.mf 3 0 + 1
  if !b.banks.isEmpty then .trap (causesOf x.active cNESTALLOC 0) s
  else if (s.core x.core).bankQueue.isEmpty && n ≤ s.freeBanks x.core then
    .done (s.modBatt x.core x.slot fun b => { b with banks := newBanks n })
  else
    .wait ((s.modCore x.core fun c => { c with bankQueue := c.bankQueue ++ [x.slot] }).modBatt x.core x.slot fun b => { b with wait := .banks n })

/-- ABALLOC (R312). -/
def execAballoc (f : RForm) (s : State) : Host.Outcome State Fault Refusal := runWord (.aballoc f) (aballocBody f) s

/-- The grant at the head of a core's bank queue, when its banks are free (R312, R140). -/
def State.grantBanks (s : State) (core : Nat) : State :=
  match (s.core core).bankQueue with
  | [] => s
  | slot :: rest =>
    let b := s.battAt core slot
    let pop := s.modCore core fun c => { c with bankQueue := rest }
    if b.claim then
      if b.banks.length ≤ s.freeBanks core then pop.modBatt core slot fun b => { b with claim := false } else s
    else match b.wait with
      | .banks n => if n ≤ s.freeBanks core then pop.modBatt core slot fun b => { b.endWait with banks := newBanks n } else s
      | _ => pop

/-- ABFREE (R314). -/
def execAbfree (f : RForm) (s : State) : Host.Outcome State Fault Refusal :=
  runWord (.abfree f) (fun x s => .done (s.modBatt x.core x.slot fun b =>
    { b with banks := b.banks.filter fun k => !(b.s f.a.toNat).getLsbD k.num })) s

/-- ABFREE under ALL (R314). -/
def execAbfreeAll (f : RForm) (s : State) : Host.Outcome State Fault Refusal :=
  runWord (.abfreeAll f) (fun x s => .done (s.modBatt x.core x.slot fun b => { b with banks := [] })) s

/-- Accumulator address of a lane (R315). -/
def aldAddr (f : RForm) (b : Batt) (l : Nat) : Nat :=
  if f.mb 1 then ((b.s f.a.toNat).toNat + (if f.mb 0 then 8 else 4) * l) % 2 ^ 64 else (b.v f.a.toNat l).toNat

/-- Bytes per lane. -/
def aldSize (f : RForm) : Nat := if f.mb 0 then 8 else 4

/-- ALIGN and RANGE causes of R315. -/
def aldCauses (f : RForm) (b : Batt) (active : Mask) : List LaneCause :=
  (lanesOf active).filterMap fun l =>
    let aa := aldAddr f b l
    let z := aldSize f
    if aa % z != 0 then some { lane := l, cause := cALIGN, faddr := BitVec.ofNat 64 aa }
    else if 262144 < aa + z || (b.bankMiss aa z).isSome then some { lane := l, cause := cRANGE, faddr := BitVec.ofNat 64 aa }
    else none

/-- ALD (R315). -/
def aldBody (f : RForm) : Iss → State → Body := fun x s =>
  let b := s.battAt x.core x.slot
  let z := aldSize f
  match aldCauses f b x.active with
  | c :: cs => .trap (c :: cs) s
  | [] =>
    match (lanesOf x.active).filter fun l => (b.bankBad (aldAddr f b l) z).isSome with
    | l :: ls => .trap ((l :: ls).map fun l => { lane := l, cause := cPOISON, faddr := BitVec.ofNat 64 (aldAddr f b l) }) s
    | [] =>
      let val (l : Nat) : Nat := numOf (b.bankRead (aldAddr f b l) z)
      .done (s.modBatt x.core x.slot fun b =>
        if f.mb 0 then b.setW f.d.toNat x.active fun l => BitVec.ofNat 64 (val l)
        else b.setV f.d.toNat x.active fun l => BitVec.ofNat 32 (val l))

/-- ALD (R315). -/
def execAld (f : RForm) (s : State) : Host.Outcome State Fault Refusal := runWord (.ald f) (aldBody f) s

/-- AST (R315): the highest lane's byte stands. -/
def astBody (f : RForm) : Iss → State → Body := fun x s =>
  let b := s.battAt x.core x.slot
  match aldCauses f b x.active with
  | c :: cs => .trap (c :: cs) s
  | [] => .done (s.modBatt x.core x.slot fun b => (lanesOf x.active).foldl (fun c l =>
      c.bankStore (aldAddr f b l) (bytesOf (aldSize f) (b.rdD f (f.mb 0) l)) false) b)

/-- AST (R315). -/
def execAst (f : RForm) (s : State) : Host.Outcome State Fault Refusal := runWord (.ast f) (astBody f) s

/-- The checks of R316 on the values sA, sC and, for a scratchpad form, sB: the cause and its fault address. -/
def spCheck (b : Batt) (scratch aa n : Nat) (off : Option Nat) : Option (Nat × Nat) :=
  let vals := match off with | some o => [aa, o, n] | none => [aa, n]
  match vals.find? fun v => v % 4 != 0 with
  | some v => some (cALIGN, v)
  | none =>
    if 262144 < n then some (cRANGE, n)
    else match b.bankMiss aa n with
      | some a => some (cRANGE, a)
      | none => match off with
        | some o => if 0 < n && scratch < o + n then some (cRANGE, max o scratch) else none
        | none => none

/-- The words of a bank range with their poison. -/
def Batt.bankWords (b : Batt) (aa n : Nat) : List (List Byte × Bool) :=
  (List.range (n / 4)).map fun i => (b.bankRead (aa + 4 * i) 4, (b.bankBad (aa + 4 * i) 4).isSome)

/-- ALD.SP (R316). -/
def aldSpBody (f : RForm) : Iss → State → Body := fun x s =>
  let b := s.battAt x.core x.slot
  let aa := (b.s f.a.toNat).toNat
  let o := (b.s f.b.toNat).toNat
  let n := (b.s f.c.toNat).toNat
  match spCheck b (s.battScratch b) aa n (some o) with
  | some (c, a) => .trap (causesOf x.active c (BitVec.ofNat 64 a)) s
  | none =>
    if (s.core x.core).storeLocked b.id.lnum b.id.felt [(o, n)] then .stall false
    else .done (s.scratchPut b.id.lnum b.id.felt o ((b.bankWords aa n).map fun w => taint w.2 w.1).flatten)

/-- ALD.SP (R316). -/
def execAldSp (f : RForm) (s : State) : Host.Outcome State Fault Refusal := runWord (.aldSp f) (aldSpBody f) s

/-- AST.SP (R316). -/
def astSpBody (f : RForm) : Iss → State → Body := fun x s =>
  let b := s.battAt x.core x.slot
  let aa := (b.s f.a.toNat).toNat
  let o := (b.s f.b.toNat).toNat
  let n := (b.s f.c.toNat).toNat
  match spCheck b (s.battScratch b) aa n (some o) with
  | some (c, a) => .trap (causesOf x.active c (BitVec.ofNat 64 a)) s
  | none =>
    if (s.core x.core).loadLocked x.slot b.id.lnum b.id.felt [(o, n)] then .stall false
    else
      let ws := chunksOf 4 n (s.scratchBytes b.id.lnum b.id.felt o n)
      .done (s.modBatt x.core x.slot fun b =>
        (ws.foldl (fun (acc : Batt × Nat) w => (acc.1.bankStore acc.2 (w.map (·.1)) (w.any (·.2)), acc.2 + 4)) (b, aa)).1)

/-- AST.SP (R316). -/
def execAstSp (f : RForm) (s : State) : Host.Outcome State Fault Refusal := runWord (.astSp f) (astSpBody f) s

/-- AZERO (R316). -/
def azeroBody (f : RForm) : Iss → State → Body := fun x s =>
  let b := s.battAt x.core x.slot
  let aa := (b.s f.a.toNat).toNat
  let n := (b.s f.c.toNat).toNat
  match spCheck b 0 aa n none with
  | some (c, a) => .trap (causesOf x.active c (BitVec.ofNat 64 a)) s
  | none => .done (s.modBatt x.core x.slot fun b => b.bankStore aa (List.replicate n 0) false)

/-- AZERO (R316). -/
def execAzero (f : RForm) (s : State) : Host.Outcome State Fault Refusal := runWord (.azero f) (azeroBody f) s

/-- AZERO under ALL (R316). -/
def execAzeroAll (f : RForm) (s : State) : Host.Outcome State Fault Refusal :=
  runWord (.azeroAll f) (fun x s => .done (s.modBatt x.core x.slot fun b => { b with banks := b.banks.map fun k => { num := k.num } })) s

end Sys2Proof.Machine
end

