-- ==== Sys2Proof/Machine/ControlWords.lean ====
section
/-! DEFINITION. Control flow, rejoin masks, SYNCB, EXIT, NOP, YIELD (R116, R117, R214 to R230, R308). -/

namespace Sys2Proof.Machine

/-- NOP (R116). -/
def execNop (f : RForm) (s : State) : Host.Outcome State Fault Refusal := runWord (.nop f) (fun _ s => .done s) s

/-- YIELD (R117): the lanes advance, the turn passes to the next eligible split, and the batt gives up its active position when
others of its quarter are ready. -/
def yieldBody : Iss → State → Body := fun x s =>
  let s := s.modBatt x.core x.slot fun b => { b.advance x.split with cursor := (x.low + 1) % 32, quant := 0 }
  .yielded (if (s.quarter x.core (quarterOfSlot x.slot)).ready.isEmpty then s else (s.leaveActive x.core x.slot).joinReady x.core x.slot)

/-- YIELD (R117). -/
def execYield (f : RForm) (s : State) : Host.Outcome State Fault Refusal := runWord (.yield f) (fun x s => yieldBody x s) s

/-! ### Transfers (R217) -/

/-- The checks of R217 on a target. -/
def targetCause (t : DWord) : Nat :=
  if fld t 2 0 != 0 then cALIGN else if fld t 63 49 != 0 then cXLAT else 0

/-- A transfer: targets and links by lane; `extra` is a further cause of a target that passes (BUDGET). -/
def transfer (x : Iss) (s : State) (target : Nat → DWord) (extra : DWord → Nat) (link : Batt → Batt) : Body :=
  let cause (l : Nat) : Nat := let c := targetCause (target l); if c = 0 then extra (target l) else c
  match (lanesOf x.active).filter fun l => cause l != 0 with
  | l :: ls => .trap ((l :: ls).map fun l => { lane := l, cause := cause l, faddr := target l }) s
  | [] =>
    .moved (s.modBatt x.core x.slot fun b =>
      let b := link b
      { b with lanes := b.lanes.mapIdx fun i ln =>
          if inMask x.active i then { pc := target i, st := .ready }
          else if inMask x.split i then { pc := ln.pc + 8, st := .ready } else ln })

/-- The target of a word offset (R218). -/
def wordTarget (pc : DWord) (k : Int) : DWord := pc + BitVec.ofInt 64 (8 * k)

/-- BRA (R218). -/
def execBra (f : IForm) (s : State) : Host.Outcome State Fault Refusal :=
  runWord (.bra f) (fun x s => transfer x s (fun _ => wordTarget x.pc (sval 31 f.imm.toNat)) (fun _ => 0) id) s

/-- BRX (R218). -/
def execBrx (f : IForm) (s : State) : Host.Outcome State Fault Refusal :=
  runWord (.brx f) (fun x s =>
    let b := s.battAt x.core x.slot
    transfer x s (fun l => wordTarget x.pc (sval 31 f.imm.toNat + sval 32 (b.cv f.a l))) (fun _ => 0) id) s

/-- CALL (R219). -/
def execCall (f : IForm) (s : State) : Host.Outcome State Fault Refusal :=
  runWord (.call f) (fun x s => transfer x s (fun _ => wordTarget x.pc (sval 31 f.imm.toNat)) (fun _ => 0)
    fun b => b.setW f.d.toNat x.active fun _ => x.pc + 8) s

/-- The budget entries of the targets (R88, R220): the failing ones, or an unreadable table. R461 gives no order among targets: of several
unreadable entries the one of the last target counts, in the order of the lowest lanes that name them, and an unreadable one kills the context
though another lane's target fails R220 (log 101). -/
def State.budgetFails (s : State) (b : Batt) : List DWord → SideRes (List DWord)
  | [] => .ok []
  | t :: ts =>
    match s.budgetFails b ts with
    | .bad c a => .bad c a
    | .ok rest =>
      if targetCause t != 0 then .ok rest else
      let r := s.recOf b
      let n := ((s.launchOf b).map (·.budgets)).getD 0
      if r.budtab = 0 then .ok (t :: rest) else
      match s.findLast b.space r.budtab 16 n t with
      | .bad c a => .bad c a
      | .ok none => .ok (t :: rest)
      | .ok (some a) =>
        match s.sideRead b.space a 12 with
        | .bad c x => .bad c x
        | .ok bs =>
          let entry := numOf (bs.take 8)
          let high := numOf ((bs.drop 8).take 2)
          let pin := numOf ((bs.drop 10).take 2)
          .ok (if entry != t.toNat || b.regs ≤ high || b.pinned < pin then t :: rest else rest)

/-- What the budget lookups of distinct targets read. -/
def State.budgetRuns (s : State) (b : Batt) (ts : List DWord) : List (DWord × Nat) :=
  let n := ((s.launchOf b).map (·.budgets)).getD 0
  ((ts.filter fun t => targetCause t = 0).map fun t => s.lookupRuns b.space (s.recOf b).budtab 16 n t 12).flatten

/-- CALLX (R219, R220). -/
def callxBody (f : RForm) : Iss → State → Body := fun x s =>
  let b := s.battAt x.core x.slot
  let target (l : Nat) : DWord := b.w f.a.toNat l
  let ts := ((lanesOf x.active).map target).eraseDups
  match s.budgetFails b ts with
  | .bad c a => .yielded (s.killUnreadable b.space c a)
  | .ok bad => transfer x (s.fetchRuns b.space (s.budgetRuns b ts)) target (fun t => if bad.contains t then cBUDGET else 0) fun b => b.setW f.d.toNat x.active fun _ => x.pc + 8

/-- CALLX (R219). -/
def execCallx (f : RForm) (s : State) : Host.Outcome State Fault Refusal := runWord (.callx f) (callxBody f) s

/-- RET (R221). -/
def execRet (f : RForm) (s : State) : Host.Outcome State Fault Refusal :=
  runWord (.ret f) (fun x s => let b := s.battAt x.core x.slot; transfer x s (fun l => b.w f.a.toNat l) (fun _ => 0) id) s

/-! ### Rejoin masks (R222 to R226) -/

/-- E of a rejoin mask. -/
def Batt.rjE (b : Batt) (n : Nat) : Mask := b.rejoinE.getD n 0

/-- A of a rejoin mask. -/
def Batt.rjA (b : Batt) (n : Nat) : Mask := b.rejoinA.getD n 0

/-- Settle(n) of R222. -/
def Batt.settle (b : Batt) (n : Nat) : Batt :=
  let a := b.rjA n
  if a != 0 && (b.rjE n &&& ~~~b.exited) &&& ~~~a = 0 then { b.advance a with rejoinA := setAt b.rejoinA n 0 } else b

/-- RJSET (R223). -/
def rjsetBody (f : RForm) : Iss → State → Body := fun x s =>
  .moved (s.modBatt x.core x.slot fun b =>
    let n := f.d.toNat
    let m : Mask := if f.mb 0 then (b.s f.a.toNat).setWidth 32 else x.active
    ({ b.advance x.split with rejoinE := setAt b.rejoinE n (m ||| b.rjA n) }).settle n)

/-- RJSET (R223). -/
def execRjset (f : RForm) (s : State) : Host.Outcome State Fault Refusal := runWord (.rjset f) (rjsetBody f) s

/-- RJOIN (R224). -/
def rjoinBody (f : RForm) : Iss → State → Body := fun x s =>
  .moved (s.modBatt x.core x.slot fun b =>
    let n := f.d.toNat
    let g := x.active &&& b.rjE n
    let b := (b.advance (x.split &&& ~~~g)).modLanes g fun l => { l with st := .rejoin }
    ({ b with rejoinA := setAt b.rejoinA n (b.rjA n ||| g) }).settle n)

/-- RJOIN (R224). -/
def execRjoin (f : RForm) (s : State) : Host.Outcome State Fault Refusal := runWord (.rjoin f) (rjoinBody f) s

/-- RJDROP (R225). -/
def rjdropBody (f : RForm) : Iss → State → Body := fun x s =>
  .moved (s.modBatt x.core x.slot fun b =>
    let n := f.d.toNat
    ({ b.advance x.split with rejoinE := setAt b.rejoinE n (b.rjE n &&& ~~~x.active) }).settle n)

/-- RJDROP (R225). -/
def execRjdrop (f : RForm) (s : State) : Host.Outcome State Fault Refusal := runWord (.rjdrop f) (rjdropBody f) s

/-! ### SYNCB (R308) and EXIT (R229) -/

/-- The lanes that wait at SYNCB. -/
def Batt.atSync (b : Batt) : Mask := b.lanesWhere fun x => x.st == .syncb

/-- The completion test of SYNCB applied to SYNCM after an exit (R308). -/
def Batt.settleSync (b : Batt) : Batt :=
  let w := b.atSync
  if w != 0 && b.syncm &&& ~~~(w ||| b.exited) = 0 then b.advance (w &&& b.syncm) else b

/-- SYNCB (R308). -/
def syncbBody (f : RForm) : Iss → State → Body := fun x s =>
  let b := s.battAt x.core x.slot
  let m (l : Nat) : Mask := if f.mb 0 then (b.s f.a.toNat).setWidth 32 else b.v f.a.toNat l
  let m0 := m ((lowLane x.active).getD 0)
  let bad := (maskOf fun l => inMask x.active l && m l != m0) ||| (x.active &&& ~~~m0)
  let w := b.atSync
  let bad := if w != 0 && bad = 0 && m0 != b.syncm then x.active else bad
  if bad != 0 then .trap (causesOf bad cMASKMIS 0) s
  else
    .moved (s.modBatt x.core x.slot fun b =>
      let b := b.advance (x.split &&& ~~~x.active)
      if m0 &&& ~~~(x.active ||| b.exited ||| w) = 0 then (b.advance (m0 &&& w)).advance x.active
      else { b.modLanes x.active fun l => { l with st := .syncb } with syncm := m0 })

/-- SYNCB (R308). -/
def execSyncb (f : RForm) (s : State) : Host.Outcome State Fault Refusal := runWord (.syncb f) (syncbBody f) s

/-- The fragments that the exiting lanes of a pixel batt emit: lanes with a colour and nonzero coverage (R392). The manual does not say whether
this is v4 at the exit or the coverage the batt started with: it is the latter, which a write of v4 does not change (log 130). -/
def Batt.emits (b : Batt) (m : Mask) : List Fragment :=
  match b.pix with
  | none => []
  | some i =>
    (lanesOf m).filterMap fun l =>
      match i.pixels.getD l none, i.colours.getD l none with
      | some p, some c =>
        if i.cover.getD l 0 = 0 then none else
        some { owner := b.id, lane := l, draw := i.draw, tri := i.tri, tile := i.tile, x := p.1, y := p.2, cover := i.cover.getD l 0,
               colour := c, coords := i.coords, zs := i.zs }
      | _, _ => none

/-- Add fragments to the pass of a batt. -/
def State.emitFrags (s : State) (b : Batt) (fs : List Fragment) : State :=
  s.modLaunch b.id.lnum fun l => { l with pass := l.pass.map fun p => { p with frags := p.frags ++ fs } }

/-- The lanes of m exit, the others of the split advance; a batt whose lanes have all exited ends, its REDs first (R229, R230). -/
def State.exitLanes (s : State) (core slot : Nat) (split m : Mask) : State :=
  let b := s.battAt core slot
  let b1 := (b.advance (split &&& ~~~m)).modLanes m fun l => { l with st := .exited }
  let b2 := ((List.range 8).foldl Batt.settle b1).settleSync
  let s := s.modBatt core slot fun _ => b2
  if b2.exited != BitVec.allOnes 32 then s else
  let s := (s.completeEngines core slot).finishReds core slot
  if (s.batt? core slot).isSome then s.exitBatt core slot else s

/-- EXIT (R229): one that emits fragments waits for their commits (R391). -/
def exitBody : Iss → State → Body := fun x s =>
  let b := s.battAt x.core x.slot
  match b.emits x.active with
  | [] => .moved (s.exitLanes x.core x.slot x.split x.active)
  | fs => .wait ((s.emitFrags b fs).modBatt x.core x.slot fun b => { b with wait := .commit x.instr })

/-- EXIT (R229). -/
def execExit (f : RForm) (s : State) : Host.Outcome State Fault Refusal := runWord (.exit f) (fun x s => exitBody x s) s

end Sys2Proof.Machine
end

