-- ==== Sys2Proof/Machine/EngineWords.lean ====
section
/-! DEFINITION. MXI, MXQ and the copy instructions: their checks and what they enqueue (R318 to R322, R332, R334 to R336, R369). -/

namespace Sys2Proof.Machine

/-! ### Engine page checks (R318 check 7, R336 check 5) -/

/-- A failing page: class 0 not replayable (or poison in the walk), 1 replayable, 2 protection. -/
structure PageFail where
  cls : Nat
  cause : Nat
  addr : Nat
  level : Nat := 0
  deriving DecidableEq, Repr

/-- The pages of a range: number and first byte in it. -/
def rangePages (a n : Nat) : List (Nat × Nat) :=
  if n = 0 then [] else (List.range ((a + n - 1) / 65536 - a / 65536 + 1)).map fun i => (a / 65536 + i, max a ((a / 65536 + i) * 65536))

/-- One page of a range: its translation, or how it fails. `bad` is the range's protection check. -/
def State.enginePage (s : State) (core space : Nat) (bad : DWord → Bool) (p : Nat × Nat) : Sum (Nat × Loc) PageFail :=
  if 2 ^ 49 ≤ p.2 then .inr { cls := 0, cause := cXLAT, addr := p.2 } else
  match s.translate core space 33 (BitVec.ofNat 64 p.2) with
  | .xlat true lv => .inr { cls := 1, cause := cXLAT, addr := p.2, level := lv }
  | .xlat false _ => .inr { cls := 0, cause := cXLAT, addr := p.2 }
  | .poison => .inr { cls := 0, cause := cPOISON, addr := p.2 }
  | .ok loc pte _ =>
    if bad pte then .inr { cls := 2, cause := cPROT, addr := p.2 }
    else .inl (p.1, { loc with pa := loc.pa - p.2 % 65536 })

/-- All pages of the ranges: translations and failures. -/
def State.enginePages (s : State) (core space : Nat) (rs : List (Nat × Nat × (DWord → Bool))) : List (Nat × Loc) × List PageFail :=
  let all := (rs.map fun r => (rangePages r.1 r.2.1).map (s.enginePage core space r.2.2)).flatten
  (all.filterMap fun x => match x with | .inl p => some p | .inr _ => none,
   all.filterMap fun x => match x with | .inl _ => none | .inr f => some f)

/-- The report of failing pages: a halt when all are replayable, else the first class of the order that occurs, at its lowest
address (R318, R336). R336 does not say which lanes it names: all of ACTIVE (log 126). -/
def pageReport (x : Iss) (fails : List PageFail) (s : State) (k : Body) : Body :=
  let lowest (l : List PageFail) : Option PageFail := l.foldl (fun acc f => match acc with
    | none => some f
    | some g => if f.addr < g.addr then some f else some g) none
  if fails.isEmpty then k
  else if fails.all (·.cls == 1) then
    match lowest fails with
    | some f => .fault (causesOf x.active cXLAT (BitVec.ofNat 64 f.addr)) 3 f.level s
    | none => k
  else
    match lowest (fails.filter (·.cls == 0)), lowest (fails.filter (·.cls == 1)), lowest (fails.filter (·.cls == 2)) with
    | some f, _, _ => .trap (causesOf x.active f.cause (BitVec.ofNat 64 f.addr)) s
    | none, some f, _ => .trap (causesOf x.active f.cause (BitVec.ofNat 64 f.addr)) s
    | none, none, some f => .trap (causesOf x.active f.cause (BitVec.ofNat 64 f.addr)) s
    | none, none, none => k

/-- Mark a token pending (R322). -/
def State.pendToken (s : State) (core slot token : Nat) : State :=
  s.modBatt core slot fun b => { b with tokens := b.tokens ||| BitVec.ofNat 64 (2 ^ token) }

/-- What an operation takes from its issue. -/
def State.newOp (s : State) (x : Iss) (token : Nat) (params : List DWord) (pages : List (Nat × Loc)) : EngineOp :=
  let b := s.battAt x.core x.slot
  { id := (s.core x.core).nextEngine, slot := x.slot, owner := b.id, space := b.space, lnum := b.id.lnum, felt := b.id.felt,
    instr := x.instr, active := x.active, params := params, depth := b.pinDepth, token := token, pages := pages }

/-! ### MXI and MXQ -/

/-- Checks 1 to 6 of R318: the failing check's lanes, cause and fault address; or the format word and the block. Of several values that fail
check 5 or 6 the manual does not say which the fault address names: the model takes the first of AADDR, BADDR, ASTR, BSTR and ACCADDR, and of
operands, accumulator and scales (log 117). -/
def State.mxiChecks (s : State) (x : Iss) (f : RForm) : Sum (List LaneCause) (Nat × List DWord) :=
  let b := s.battAt x.core x.slot
  let l0 := (lowLane x.active).getD 0
  let all (c a : Nat) : List LaneCause := causesOf x.active c (BitVec.ofNat 64 a)
  let differ := maskOf fun l => inMask x.active l && (b.v f.a.toNat l != b.v f.a.toNat l0 || b.v f.b.toNat l != b.v f.b.toNat l0)
  if differ != 0 then .inl (causesOf differ cFMTDIV 0) else
  let w := (b.v f.b.toNat l0).toNat
  let p := (b.v f.a.toNat l0).toNat
  let size := s.battScratch b
  match mxFmt w with
  | none => .inl (all cFMTDIV 0)
  | some m =>
    if p % 64 != 0 then .inl (all cALIGN p)
    else if size < p + 64 then .inl (all cRANGE p)
    else if s.scratchBad b.id.lnum b.id.felt p 64 then .inl (all cPOISON p)
    else
      let d := (List.range 8).map fun i => (BitVec.ofNat 64 (numOf (s.scratchRead b.id.lnum b.id.felt (p + 8 * i) 8)) : DWord)
      let q := mxParams d
      if mxBad d m then .inl (all cFMTDIV p) else
      match mxMisaligned q m with
      | some a => .inl (all cALIGN a)
      | none =>
        let rs := [0, 1, 2, 3].map fun i => (i, q.range m i)
        match rs.find? fun r => !q.global r.1 && 0 < r.2.2 && size < r.2.1 + r.2.2 with
        | some r => .inl (all cRANGE r.2.1)
        | none =>
          if (b.bankMiss q.acc (q.accBytes m)).isSome then .inl (all cRANGE q.acc)
          else if m.scale && q.global 0 == q.global 2 && shareSector (q.range m 0) (q.range m 2) then .inl (all cRANGE q.saaddr)
          else if m.scale && q.global 1 == q.global 3 && shareSector (q.range m 1) (q.range m 3) then .inl (all cRANGE q.sbaddr)
          else .inr (w, d)

/-- Pages that the array may not read: host and remote ones (R318). -/
def arrayBars (pte : DWord) : Bool := pteBit pte 5 || pteBit pte 6

/-- The pages of an MXI's operands in memory (R318 check 7). -/
def State.mxiPages (s : State) (x : Iss) (w : Nat) (d : List DWord) : List (Nat × Loc) × List PageFail :=
  let q := mxParams d
  let m := mxFmtAt w
  s.enginePages x.core (s.battAt x.core x.slot).space (([0, 1, 2, 3].filter q.global).map fun i => ((q.range m i).1, (q.range m i).2, arrayBars))

/-- Enqueue an MXI with its token pending (R322). -/
def State.enqueueMxi (s : State) (x : Iss) (token w : Nat) (d : List DWord) (pages : List (Nat × Loc)) : State :=
  let m := mxFmtAt w
  let o := { s.newOp x token d pages with fmt := w, mode := rndMode m.rnd (s.battAt x.core x.slot).fpcr }
  (s.modCore x.core fun c => { c with mxiq := c.mxiq ++ [o], nextEngine := c.nextEngine + 1 }).pendToken x.core x.slot token

/-- MXI (R318, R322). -/
def mxiBody (f : RForm) : Iss → State → Body := fun x s =>
  match s.mxiChecks x f with
  | .inl cs => .trap cs s
  | .inr (w, d) =>
    let r := s.mxiPages x w d
    pageReport x r.2 s <| .done (s.enqueueMxi x f.d.toNat w d r.1)

/-- MXI (R318). -/
def execMxi (f : RForm) (s : State) : Host.Outcome State Fault Refusal := runWord (.mxi f) (mxiBody f) s

/-- The engine status word of a core (R332). BUSY reads 1 also while the head of the queue only waits for a lock or its fetch, of which the
manual does not say whether it is running (log 120). -/
def State.engineStatus (s : State) (core : Nat) : DWord :=
  let c := s.core core
  BitVec.ofNat 64 (c.mmCount.toNat * 2 ^ 48 + c.mmCol.toNat * 2 ^ 38 + c.mmRow.toNat * 2 ^ 32 + c.pinKib * 2 ^ 20 +
    c.retired.toNat * 2 ^ 18 + (if s.narrowed core then 2 ^ 17 else 0) + (if c.mxiq.isEmpty then 0 else 2 ^ 16) +
    min 255 c.copyq.length * 2 ^ 8 + min 255 c.mxiq.length)

/-- MXQ (R332). -/
def execMxq (f : RForm) (s : State) : Host.Outcome State Fault Refusal :=
  runWord (.mxq f) (fun x s => .done (s.modBatt x.core x.slot fun b => b.setS f.d.toNat (s.engineStatus x.core))) s

/-! ### Copies (R336) -/

/-- Check 3 of R336: the first group value that is not aligned, else each lane's first failing element address; of several the model takes the
first of DST, DSTR, SRC and SSTR, and in a lane the destination before the source, where the manual names no order (log 118). -/
def copyMisaligned (g : CopyGroup) (ps : List Piece) (active : Mask) : List LaneCause :=
  let (_, _, sa, da) := g.units
  let noSrc := 10 ≤ g.xf
  let vals : List (Nat × Nat) :=
    (g.dst, da) :: (if g.kind = 1 then [(g.dstr, da)] else []) ++
    (if noSrc then [] else (g.src, sa) :: (if g.kind = 1 then [(g.sstr, sa)] else []))
  match vals.find? fun v => v.1 % v.2 != 0 with
  | some v => causesOf active cALIGN (BitVec.ofNat 64 v.1)
  | none =>
    ps.filterMap fun p =>
      match p.lane with
      | none => none
      | some l =>
        let at' : Option Int := if p.dst % (da : Int) != 0 then some p.dst else if p.src % (sa : Int) != 0 then some p.src else none
        at'.map fun a => { lane := l, cause := cALIGN, faddr := BitVec.ofInt 64 a }

/-- Does an exact range pass SCRATCH? -/
def passesScratch (size : Nat) (a : Int) (n : Nat) : Bool := 0 < n && (a < 0 || (size : Int) < a + n)

/-- Check 4 of R336: pieces or scales that pass SCRATCH, then overlaps in one space, which name DST. The range of a CPY2D is taken to be its rows,
without the gaps between them, on which the manual is silent (log 119). It does not say which lanes a failure names: a piece of a GATH or
SCAT its own, anything else all of ACTIVE (log 126). -/
def copyRange (g : CopyGroup) (ps : List Piece) (size : Nat) (active : Mask) : List LaneCause :=
  let named (p : Piece) (a : Int) : List LaneCause :=
    match p.lane with
    | some l => [{ lane := l, cause := cRANGE, faddr := BitVec.ofInt 64 a }]
    | none => causesOf active cRANGE (BitVec.ofInt 64 a)
  let outside := ps.filterMap fun p =>
    if g.ssp && passesScratch size p.src p.nin then some (p, p.src)
    else if g.dsp && passesScratch size p.dst p.nout then some (p, p.dst) else none
  match outside with
  | (p, a) :: rest =>
    if p.lane.isSome then ((p, a) :: rest).flatMap fun q => named q.1 q.2 else named p a
  | [] =>
    match g.scales with
    | some (a, n, true, _) => if passesScratch size a n then causesOf active cRANGE (BitVec.ofNat 64 a) else overlap
    | _ => overlap
where
  overlap : List LaneCause :=
    let src := ps.map fun p => (p.src.toNat, p.nin)
    let dst := ps.map fun p => (p.dst.toNat, p.nout)
    let met := (g.ssp == g.dsp && rangesMeet src dst) ||
      (match g.scales with
       | some (a, n, sp, _) => (sp == g.ssp && rangesMeet [(a, n)] src) || (sp == g.dsp && rangesMeet [(a, n)] dst)
       | none => false)
    if met then causesOf active cRANGE (BitVec.ofNat 64 g.dst) else []

/-- The global ranges of a copy with their protection checks (R336 check 5). -/
def copyGlobals (g : CopyGroup) (ps : List Piece) : List (Nat × Nat × (DWord → Bool)) :=
  let rd (_ : DWord) : Bool := false
  let wr (pte : DWord) : Bool := writeCause pte != 0
  (if g.ssp then [] else ps.map fun p => (p.src.toNat, p.nin, rd)) ++
  (if g.dsp then [] else ps.map fun p => (p.dst.toNat, p.nout, wr)) ++
  (match g.scales with
   | some (a, n, false, w) => [(a, n, if w then wr else rd)]
   | _ => [])

/-- The rounding mode of a copy's transform (R335). -/
def copyMode (g : CopyGroup) (fpcr : Word) : Nat :=
  if g.xf = 1 ∨ g.xf = 2 ∨ g.xf = 6 then rndMode (g.xp % 8) fpcr else 0

/-- Enqueue a copy (R339): one that names a cluster or launch barrier hardens open regions first (R425). -/
def State.enqueueCopy (s : State) (x : Iss) (bar : BitVec 10) (o : EngineOp) : State :=
  let s := if bit1 bar 9 && barKind bar != 0 then s.hardenOpen x.core x.slot else s
  let o := { o with depth := (s.battAt x.core x.slot).pinDepth }
  (s.modCore x.core fun c => { c with copyq := c.copyq ++ [o], nextEngine := c.nextEngine + 1 }).pendToken x.core x.slot o.token

/-- The group of a copy (R334): its scalars. -/
def Batt.copyParams (b : Batt) (kind : Nat) (f : RForm) : List DWord := (List.range (if kind = 1 then 5 else 4)).map fun i => b.s (f.a.toNat + i)

/-- The vector operand of GATH and SCAT. -/
def Batt.copyVec (b : Batt) (kind : Nat) (f : RForm) : List Word := if 2 ≤ kind then laneIds.map (b.v f.b.toNat) else []

/-- The checks of R336 in order, then the operation. -/
def copyBody (kind : Nat) (f : RForm) : Iss → State → Body := fun x s =>
  let b := s.battAt x.core x.slot
  let params := b.copyParams kind f
  let g := copyGroup kind f.mod params
  let vec := b.copyVec kind f
  if g.bad then .trap (causesOf x.active cFMTDIV 0) s
  else if bit1 f.c 9 && barMissing s b f.c then .trap (causesOf x.active cBARMEM 0) s
  else
    let ps := g.pieces x.active vec
    match copyMisaligned g ps x.active with
    | c :: cs => .trap (c :: cs) s
    | [] =>
      match copyRange g ps (s.battScratch b) x.active with
      | c :: cs => .trap (c :: cs) s
      | [] =>
        let r := s.enginePages x.core b.space (copyGlobals g ps)
        pageReport x r.2 s <|
          .done (s.enqueueCopy x f.c { s.newOp x f.d.toNat params r.1 with mode := copyMode g b.fpcr, vec := vec })

/-- CPY (R337). -/
def execCpy (f : RForm) (s : State) : Host.Outcome State Fault Refusal := runWord (.cpy f) (copyBody 0 f) s

/-- CPY2D (R337). -/
def execCpy2d (f : RForm) (s : State) : Host.Outcome State Fault Refusal := runWord (.cpy2d f) (copyBody 1 f) s

/-- GATH (R337). -/
def execGath (f : RForm) (s : State) : Host.Outcome State Fault Refusal := runWord (.gath f) (copyBody 2 f) s

/-- SCAT (R337). -/
def execScat (f : RForm) (s : State) : Host.Outcome State Fault Refusal := runWord (.scat f) (copyBody 3 f) s

/-! ### TXSIG (R369, R395) -/

/-- Bytes of a texel (R395); none for an undefined FMT. -/
def texelSize (fmt : Nat) : Option Nat :=
  match fmt with
  | 0 => some 4
  | 1 => some 1
  | 2 => some 8
  | 3 => some 4
  | 4 => some 8
  | 5 => some 16
  | 6 => some 4
  | _ => none

/-- A texture descriptor from its 48 bytes (R395); none when a field breaks the rule. -/
def texDesc (d : List Byte) : Option TexDesc :=
  let n (lo k : Nat) : Nat := numOf ((d.drop lo).take k)
  let t : TexDesc := { base := BitVec.ofNat 64 (n 8 8), width := n 6 2, height := n 4 2, levels := n 3 1, fmt := n 2 1,
                       modeU := n 1 1 % 4, modeV := n 1 1 / 4 % 4 }
  if (texelSize t.fmt).isNone || t.width < 1 || 16384 < t.width || t.height < 1 || 16384 < t.height || t.levels < 1 || 15 < t.levels ||
     t.base.toNat % 256 != 0 || t.modeU == 3 || t.modeV == 3 || 16 ≤ n 1 1 || n 0 1 != 0 || n 16 16 != 0 then none else some t

/-- Width of level k. -/
def TexDesc.levelW (t : TexDesc) (k : Nat) : Nat := max 1 (t.width / 2 ^ k)

/-- Height of level k. -/
def TexDesc.levelH (t : TexDesc) (k : Nat) : Nat := max 1 (t.height / 2 ^ k)

/-- Row pitch of level k (R395). -/
def TexDesc.pitch (t : TexDesc) (k : Nat) : Nat := 256 * ceilDiv (t.levelW k * (texelSize t.fmt).getD 0) 256

/-- Byte offset of level k from BASE. -/
def TexDesc.levelOffset (t : TexDesc) (k : Nat) : Nat := ((List.range k).map fun i => t.pitch i * t.levelH i).foldl (· + ·) 0

/-- The descriptor of a TXSIG, or how the word ends (R369). -/
def State.textureAt (s : State) (x : Iss) (a : DWord) : Sum Body TexDesc :=
  let b := s.battAt x.core x.slot
  if a.toNat % 16 != 0 then .inl (.trap (causesOf x.active cALIGN a) s) else
  match s.checkObject x.core b.space 0 a 48 fun _ _ => 0 with
  | .bad c true lv => .inl (.fault (causesOf x.active cXLAT c.faddr) 3 lv s)
  | .bad c false _ => .inl (.trap (causesOf x.active c.cause c.faddr) s)
  | .ok acc =>
    let bs := (s.objectReads x.core b.space a 48).loadBytes x.core x.slot 0 acc
    match findIdx (·.2) bs 0 with
    | some i => .inl (.trap (causesOf x.active cPOISON (a + BitVec.ofNat 64 i)) s)
    | none =>
      match texDesc (bs.map (·.1)) with
      | none => .inl (.trap (causesOf x.active cFMTDIV a) s)
      | some t => .inr t

/-- TXSIG (R369). Where the barrier check, check 2 of R336, falls among its six checks the manual does not say: the model makes it after check 4
(log 121). -/
def txsigBody (f : RForm) : Iss → State → Body := fun x s =>
  let b := s.battAt x.core x.slot
  let a := b.s f.a.toNat
  match s.textureAt x a with
  | .inl r => r
  | .inr t =>
    if bit1 f.c 9 && barMissing s b f.c then .trap (causesOf x.active cBARMEM 0) s else
    let len := t.levelOffset t.levels
    -- check 4 of R336: the data range and the signature field share a byte
    if shareByte (t.base.toNat, len) (a.toNat + 32, 16) then .trap (causesOf x.active cRANGE (a + 32)) s else
    let r1 := s.enginePages x.core b.space [(t.base.toNat, len, fun _ => false)]
    pageReport x r1.2 s <|
      let r2 := s.enginePages x.core b.space [(a.toNat + 32, 16, fun pte => writeCause pte != 0)]
      pageReport x r2.2 s <|
        .done ((s.objectReads x.core b.space a 48).enqueueCopy x f.c { s.newOp x f.d.toNat [a + 32, t.base, BitVec.ofNat 64 len] (r1.1 ++ r2.1) with mode := 0 })

/-- TXSIG (R369). -/
def execTxsig (f : RForm) (s : State) : Host.Outcome State Fault Refusal := runWord (.txsig f) (txsigBody f) s

end Sys2Proof.Machine
end

