-- ==== Sys2Proof/Machine/IntegerWords.lean ====
section
/-! DEFINITION. The integer, logic, shift, bit-field, address and move instructions (R160, R167 to R185): each is the lane
function of Machine/Alu.lean at its destination. -/

namespace Sys2Proof.Machine

/-- IADD (R172). -/
def execIadd (f : RForm) (s : State) : Host.Outcome State Fault Refusal :=
  runWord (.iadd f) (laneBody (laneIadd f) (f.dst false)) s

/-- IADDI (R176). -/
def execIaddi (f : IForm) (s : State) : Host.Outcome State Fault Refusal :=
  runWord (.iaddi f) (laneBody (laneIaddi f) f.dst) s

/-- ISUB (R172). -/
def execIsub (f : RForm) (s : State) : Host.Outcome State Fault Refusal :=
  runWord (.isub f) (laneBody (laneIsub f) (f.dst false)) s

/-- IMUL (R172). -/
def execImul (f : RForm) (s : State) : Host.Outcome State Fault Refusal :=
  runWord (.imul f) (laneBody (laneImul f) (f.dst false)) s

/-- IMULHI (R173). -/
def execImulhi (f : RForm) (s : State) : Host.Outcome State Fault Refusal :=
  runWord (.imulhi f) (laneBody (laneImulhi f) (f.dst (f.mb 0))) s

/-- IMAD (R172). -/
def execImad (f : RForm) (s : State) : Host.Outcome State Fault Refusal :=
  runWord (.imad f) (laneBody (laneImad f) (f.dst false)) s

/-- IMADW (R172). -/
def execImadw (f : RForm) (s : State) : Host.Outcome State Fault Refusal :=
  runWord (.imadw f) (laneBody (laneImadw f) (f.dst true)) s

/-- IDIV (R174). -/
def execIdiv (f : RForm) (s : State) : Host.Outcome State Fault Refusal :=
  runWord (.idiv f) (laneBody (laneIdiv f) (f.dst (f.mb 0))) s

/-- IREM (R174). -/
def execIrem (f : RForm) (s : State) : Host.Outcome State Fault Refusal :=
  runWord (.irem f) (laneBody (laneIrem f) (f.dst (f.mb 0))) s

/-- IMIN (R175). -/
def execImin (f : RForm) (s : State) : Host.Outcome State Fault Refusal :=
  runWord (.imin f) (laneBody (laneImin f) (f.dst (f.mb 0))) s

/-- IMAX (R175). -/
def execImax (f : RForm) (s : State) : Host.Outcome State Fault Refusal :=
  runWord (.imax f) (laneBody (laneImax f) (f.dst (f.mb 0))) s

/-- IABS (R175). -/
def execIabs (f : RForm) (s : State) : Host.Outcome State Fault Refusal :=
  runWord (.iabs f) (laneBody (laneIabs f) (f.dst (f.mb 0))) s

/-- INEG (R175). -/
def execIneg (f : RForm) (s : State) : Host.Outcome State Fault Refusal :=
  runWord (.ineg f) (laneBody (laneIneg f) (f.dst (f.mb 0))) s

/-- IADD64 (R172). -/
def execIadd64 (f : RForm) (s : State) : Host.Outcome State Fault Refusal :=
  runWord (.iadd64 f) (laneBody (laneIadd64 f) (f.dst true)) s

/-- ISUB64 (R172). -/
def execIsub64 (f : RForm) (s : State) : Host.Outcome State Fault Refusal :=
  runWord (.isub64 f) (laneBody (laneIsub64 f) (f.dst true)) s

/-- IMUL64 (R172). -/
def execImul64 (f : RForm) (s : State) : Host.Outcome State Fault Refusal :=
  runWord (.imul64 f) (laneBody (laneImul64 f) (f.dst true)) s

/-- AND (R177). -/
def execAnd (f : RForm) (s : State) : Host.Outcome State Fault Refusal :=
  runWord (.and f) (laneBody (laneAnd f) (f.dst (f.mb 0))) s

/-- OR (R177). -/
def execOr (f : RForm) (s : State) : Host.Outcome State Fault Refusal :=
  runWord (.or f) (laneBody (laneOr f) (f.dst (f.mb 0))) s

/-- XOR (R177). -/
def execXor (f : RForm) (s : State) : Host.Outcome State Fault Refusal :=
  runWord (.xor f) (laneBody (laneXor f) (f.dst (f.mb 0))) s

/-- ANDN (R177). -/
def execAndn (f : RForm) (s : State) : Host.Outcome State Fault Refusal :=
  runWord (.andn f) (laneBody (laneAndn f) (f.dst (f.mb 0))) s

/-- LOGI (R176). -/
def execLogi (f : IForm) (s : State) : Host.Outcome State Fault Refusal :=
  runWord (.logi f) (laneBody (laneLogi f) f.dst) s

/-- SHL (R178). -/
def execShl (f : RForm) (s : State) : Host.Outcome State Fault Refusal :=
  runWord (.shl f) (laneBody (laneShl f) (f.dst (f.mb 0))) s

/-- SHR (R178). -/
def execShr (f : RForm) (s : State) : Host.Outcome State Fault Refusal :=
  runWord (.shr f) (laneBody (laneShr f) (f.dst (f.mb 0))) s

/-- SAR (R178). -/
def execSar (f : RForm) (s : State) : Host.Outcome State Fault Refusal :=
  runWord (.sar f) (laneBody (laneSar f) (f.dst (f.mb 0))) s

/-- ROTL (R178). -/
def execRotl (f : RForm) (s : State) : Host.Outcome State Fault Refusal :=
  runWord (.rotl f) (laneBody (laneRotl f) (f.dst (f.mb 0))) s

/-- POPC (R179). -/
def execPopc (f : RForm) (s : State) : Host.Outcome State Fault Refusal :=
  runWord (.popc f) (laneBody (lanePopc f) (f.dst false)) s

/-- CLZ (R179). -/
def execClz (f : RForm) (s : State) : Host.Outcome State Fault Refusal :=
  runWord (.clz f) (laneBody (laneClz f) (f.dst false)) s

/-- BREV (R179). -/
def execBrev (f : RForm) (s : State) : Host.Outcome State Fault Refusal :=
  runWord (.brev f) (laneBody (laneBrev f) (f.dst (f.mb 0))) s

/-- BFE (R180). -/
def execBfe (f : RForm) (s : State) : Host.Outcome State Fault Refusal :=
  runWord (.bfe f) (laneBody (laneBfe f) (f.dst (f.mb 0))) s

/-- BFI (R180). -/
def execBfi (f : RForm) (s : State) : Host.Outcome State Fault Refusal :=
  runWord (.bfi f) (laneBody (laneBfi f) (f.dst (f.mb 0))) s

/-- LEA (R182). -/
def execLea (f : RForm) (s : State) : Host.Outcome State Fault Refusal :=
  runWord (.lea f) (laneBody (laneLea f) (f.dst (f.mb 0))) s

/-- BSEL (R181). -/
def execBsel (f : RForm) (s : State) : Host.Outcome State Fault Refusal :=
  runWord (.bsel f) (laneBody (laneBsel f) (f.dst false)) s

/-- MOV (R160). -/
def execMov (f : RForm) (s : State) : Host.Outcome State Fault Refusal :=
  runWord (.mov f) (laneBody (laneMov f) (f.dst (f.mb 0))) s

/-- MOVI (R160). -/
def execMovi (f : IForm) (s : State) : Host.Outcome State Fault Refusal :=
  runWord (.movi f) (laneBody (laneMovi f) f.dst) s

/-- MOVHI (R160). -/
def execMovhi (f : IForm) (s : State) : Host.Outcome State Fault Refusal :=
  runWord (.movhi f) (laneBody (laneMovhi f) f.dst) s

/-! ### Compare and select (R183, R184) -/

/-- A comparison's predicate: the active lanes of p[D], or under U every lane of the split with the one comparison of the
lowest lane (R65, R183). -/
def cmpBody (fn : LaneFn) (u : Bool) (d : Nat) : Iss → State → Body := fun x s =>
  let b := s.battAt x.core x.slot
  let m := if u then lane1 x.low else x.active
  let rs := laneList fn m b
  let bad := trapLanes rs m b.fpcr
  if bad != 0 then .trap (fpxCauses rs m bad) s
  else
    let bits := if u then (if (resAt rs x.low).bits = 1 then BitVec.allOnes 32 else 0) else maskOf fun l => (resAt rs l).bits == 1
    .done (s.modBatt x.core x.slot fun b =>
      { b.setP d (if u then x.split else x.active) bits with fpsr := b.fpsr ||| flagsOver rs m })

/-- ICMP (R183). -/
def execIcmp (f : RForm) (s : State) : Host.Outcome State Fault Refusal :=
  runWord (.icmp f) (cmpBody (laneIcmp f) f.u f.d.toNat) s

/-- SEL (R184). -/
def execSel (f : RForm) (s : State) : Host.Outcome State Fault Refusal :=
  runWord (.sel f) (laneBody (laneSel f) (f.dst (f.mb 0))) s

end Sys2Proof.Machine
end

