-- ==== Sys2Proof/Machine/FloatWords.lean ====
section
/-! DEFINITION. The floating-point instructions (R190 to R213). -/

namespace Sys2Proof.Machine

/-- FADD (R190). -/
def execFadd (f : RForm) (s : State) : Host.Outcome State Fault Refusal :=
  runWord (.fadd f) (laneBody (laneFadd f) (f.dst false)) s

/-- FSUB (R190). -/
def execFsub (f : RForm) (s : State) : Host.Outcome State Fault Refusal :=
  runWord (.fsub f) (laneBody (laneFsub f) (f.dst false)) s

/-- FMUL (R190). -/
def execFmul (f : RForm) (s : State) : Host.Outcome State Fault Refusal :=
  runWord (.fmul f) (laneBody (laneFmul f) (f.dst false)) s

/-- FFMA (R190). -/
def execFfma (f : RForm) (s : State) : Host.Outcome State Fault Refusal :=
  runWord (.ffma f) (laneBody (laneFfma f) (f.dst false)) s

/-- FMIN (R192). -/
def execFmin (f : RForm) (s : State) : Host.Outcome State Fault Refusal :=
  runWord (.fmin f) (laneBody (laneFmin f) (f.dst false)) s

/-- FMAX (R192). -/
def execFmax (f : RForm) (s : State) : Host.Outcome State Fault Refusal :=
  runWord (.fmax f) (laneBody (laneFmax f) (f.dst false)) s

/-- FDIV (R190). -/
def execFdiv (f : RForm) (s : State) : Host.Outcome State Fault Refusal :=
  runWord (.fdiv f) (laneBody (laneFdiv f) (f.dst false)) s

/-- FSQRT (R190). -/
def execFsqrt (f : RForm) (s : State) : Host.Outcome State Fault Refusal :=
  runWord (.fsqrt f) (laneBody (laneFsqrt f) (f.dst false)) s

/-- FCLASS (R194). -/
def execFclass (f : RForm) (s : State) : Host.Outcome State Fault Refusal :=
  runWord (.fclass f) (laneBody (laneFclass f) (f.dst false)) s

/-- FSCALE (R190). -/
def execFscale (f : RForm) (s : State) : Host.Outcome State Fault Refusal :=
  runWord (.fscale f) (laneBody (laneFscale f) (f.dst false)) s

/-- HFMA2 (R195). -/
def execHfma2 (f : RForm) (s : State) : Host.Outcome State Fault Refusal :=
  runWord (.hfma2 f) (laneBody (laneHfma2 f) (f.dst false)) s

/-- FRCPA (R196). -/
def execFrcpa (f : RForm) (s : State) : Host.Outcome State Fault Refusal :=
  runWord (.frcpa f) (laneBody (laneFrcpa f) (f.dst false)) s

/-- FRSQA (R196). -/
def execFrsqa (f : RForm) (s : State) : Host.Outcome State Fault Refusal :=
  runWord (.frsqa f) (laneBody (laneFrsqa f) (f.dst false)) s

/-- FEX2A (R196). -/
def execFex2a (f : RForm) (s : State) : Host.Outcome State Fault Refusal :=
  runWord (.fex2a f) (laneBody (laneFex2a f) (f.dst false)) s

/-- FLG2A (R196). -/
def execFlg2a (f : RForm) (s : State) : Host.Outcome State Fault Refusal :=
  runWord (.flg2a f) (laneBody (laneFlg2a f) (f.dst false)) s

/-- DADD (R190). -/
def execDadd (f : RForm) (s : State) : Host.Outcome State Fault Refusal :=
  runWord (.dadd f) (laneBody (laneDadd f) (f.dst true)) s

/-- DSUB (R190). -/
def execDsub (f : RForm) (s : State) : Host.Outcome State Fault Refusal :=
  runWord (.dsub f) (laneBody (laneDsub f) (f.dst true)) s

/-- DMUL (R190). -/
def execDmul (f : RForm) (s : State) : Host.Outcome State Fault Refusal :=
  runWord (.dmul f) (laneBody (laneDmul f) (f.dst true)) s

/-- DFMA (R190). -/
def execDfma (f : RForm) (s : State) : Host.Outcome State Fault Refusal :=
  runWord (.dfma f) (laneBody (laneDfma f) (f.dst true)) s

/-- DMIN (R192). -/
def execDmin (f : RForm) (s : State) : Host.Outcome State Fault Refusal :=
  runWord (.dmin f) (laneBody (laneDmin f) (f.dst true)) s

/-- DMAX (R192). -/
def execDmax (f : RForm) (s : State) : Host.Outcome State Fault Refusal :=
  runWord (.dmax f) (laneBody (laneDmax f) (f.dst true)) s

/-- DDIV (R190). -/
def execDdiv (f : RForm) (s : State) : Host.Outcome State Fault Refusal :=
  runWord (.ddiv f) (laneBody (laneDdiv f) (f.dst true)) s

/-- DSQRT (R190). -/
def execDsqrt (f : RForm) (s : State) : Host.Outcome State Fault Refusal :=
  runWord (.dsqrt f) (laneBody (laneDsqrt f) (f.dst true)) s

/-- DCLASS (R194). -/
def execDclass (f : RForm) (s : State) : Host.Outcome State Fault Refusal :=
  runWord (.dclass f) (laneBody (laneDclass f) (f.dst false)) s

/-- DSCALE (R190). -/
def execDscale (f : RForm) (s : State) : Host.Outcome State Fault Refusal :=
  runWord (.dscale f) (laneBody (laneDscale f) (f.dst true)) s

/-- FSINA (R196). -/
def execFsina (f : RForm) (s : State) : Host.Outcome State Fault Refusal :=
  runWord (.fsina f) (laneBody (laneFsina f) (f.dst false)) s

/-- FCOSA (R196). -/
def execFcosa (f : RForm) (s : State) : Host.Outcome State Fault Refusal :=
  runWord (.fcosa f) (laneBody (laneFcosa f) (f.dst false)) s

/-- CVT (R202). -/
def execCvt (f : RForm) (s : State) : Host.Outcome State Fault Refusal :=
  runWord (.cvt f) (laneBody (laneCvt f) (f.dst ((cvtWidth (fld f.c 6 0)).getD 32 == 64))) s

/-- FCMP (R193). -/
def execFcmp (f : RForm) (s : State) : Host.Outcome State Fault Refusal :=
  runWord (.fcmp f) (cmpBody (laneFcmp f) false f.d.toNat) s

/-- DCMP (R193). -/
def execDcmp (f : RForm) (s : State) : Host.Outcome State Fault Refusal :=
  runWord (.dcmp f) (cmpBody (laneDcmp f) false f.d.toNat) s

/-! ### Block scaling, exact accumulators and reductions (R199, R205 to R213) -/

/-- The outcome of R199 over the lanes of ACTIVE: FPX, or the effect with the flags ORed into FPSR. `once`: the instruction writes
once for the split, so an exception in one lane puts every lane of ACTIVE into E. -/
def flagBody (x : Iss) (s : State) (once : Bool) (r : Nat → FRes) (f : Batt → Batt) : Body :=
  let rs := laneIds.map r
  let bad := trapLanes rs x.active (s.battAt x.core x.slot).fpcr
  if bad != 0 then .trap (fpxCauses rs x.active (if once then x.active else bad)) s
  else .done (s.modBatt x.core x.slot fun b => { f b with fpsr := b.fpsr ||| flagsOver rs x.active })

/-- QMX (R206): its scale sC is written once for the split, so E is every lane of ACTIVE (R199, log 17). -/
def qmxBody (f : RForm) : Iss → State → Body := fun x s =>
  let b := s.battAt x.core x.slot
  let ls := lanesOf x.active
  let (c, rs) := qmxBlock (ls.map fun l => decodeF f32 (b.v f.a.toNat l).toNat)
  let at' (l : Nat) : FRes := match findIdx (· == l) ls 0 with | some i => rs.getD i { bits := 0 } | none => { bits := 0 }
  let sh := 2 ^ (8 * f.mf 1 0)
  let put (old : Word) (q : Nat) : Word := BitVec.ofNat 32 (old.toNat - old.toNat / sh % 256 * sh + q * sh)
  flagBody x s true at' fun b => (b.setV f.d.toNat x.active fun l => put (b.v f.d.toNat l) (at' l).bits).setS f.c.toNat (BitVec.ofNat 64 c)

/-- QMX (R206). -/
def execQmx (f : RForm) (s : State) : Host.Outcome State Fault Refusal := runWord (.qmx f) (qmxBody f) s

/-- One lane of DQMX (R207). -/
def laneDqmx (f : RForm) : LaneFn := fun b _ l =>
  dqmxElem (fld (b.s f.c.toNat) 7 0) ((b.v f.a.toNat l).toNat / 2 ^ (8 * f.mf 1 0) % 256)

/-- DQMX (R207). -/
def execDqmx (f : RForm) (s : State) : Host.Outcome State Fault Refusal :=
  runWord (.dqmx f) (laneBody (laneDqmx f) (.v f.d.toNat)) s

/-- The accumulator address of the object of a lane (R208). -/
def accAddr (f : RForm) (l : Nat) : Nat := fld f.b 9 6 * bankBytes + 288 * (fld f.b 5 0 + if f.mb 1 then 0 else l)

/-- RANGE of R209: the bank is not held. -/
def accRange (b : Batt) (f : RForm) (active : Mask) : List LaneCause :=
  if (b.bank? (fld f.b 9 6)).isSome then [] else causesOf active cRANGE (BitVec.ofNat 64 (fld f.b 9 6))

/-- POISON of R209: a poisoned word of the object that a lane reads. -/
def accPoison (b : Batt) (f : RForm) (active : Mask) : List LaneCause :=
  (lanesOf active).filterMap fun l =>
    (b.bankBad (accAddr f l) 288).map fun a => { lane := l, cause := cPOISON, faddr := BitVec.ofNat 64 a }

/-- Both checks of R209, the bank first. -/
def accChecks (b : Batt) (f : RForm) (active : Mask) : List LaneCause :=
  match accRange b f active with
  | [] => accPoison b f active
  | l => l

/-- Add a value to an object (R52). -/
def Batt.accAddAt (b : Batt) (aa : Nat) (v : FVal) : Batt :=
  b.bankStore aa (accAdd (accOf (b.bankRead aa 288)) v).bytes false

/-- XACC (R210). -/
def xaccBody (f : RForm) : Iss → State → Body := fun x s =>
  let b := s.battAt x.core x.slot
  match accChecks b f x.active with
  | c :: cs => .trap (c :: cs) s
  | [] =>
    let v (l : Nat) : FVal := if f.mb 0 then decodeF f64 (b.w f.a.toNat l).toNat else decodeF f32 (b.v f.a.toNat l).toNat
    flagBody x s false (fun l => { bits := 0, flags := if (v l).isSig then NV else 0 })
      fun b => (lanesOf x.active).foldl (fun b l => b.accAddAt (accAddr f l) (v l)) b

/-- XACC (R210). -/
def execXacc (f : RForm) (s : State) : Host.Outcome State Fault Refusal := runWord (.xacc f) (xaccBody f) s

/-- XRND (R211). -/
def xrndBody (f : RForm) : Iss → State → Body := fun x s =>
  let b := s.battAt x.core x.slot
  match accChecks b f x.active with
  | c :: cs => .trap (c :: cs) s
  | [] =>
    let r (l : Nat) : FRes := accRound (rndMode (f.mf 7 5) b.fpcr) (accOf (b.bankRead (accAddr f l) 288))
    flagBody x s false r fun b => b.setW f.d.toNat x.active fun l => BitVec.ofNat 64 (r l).bits

/-- XRND (R211). -/
def execXrnd (f : RForm) (s : State) : Host.Outcome State Fault Refusal := runWord (.xrnd f) (xrndBody f) s

/-- XCLR (R212). -/
def xclrBody (f : RForm) : Iss → State → Body := fun x s =>
  match accRange (s.battAt x.core x.slot) f x.active with
  | c :: cs => .trap (c :: cs) s
  | [] => .done (s.modBatt x.core x.slot fun b =>
      (lanesOf x.active).foldl (fun b l => b.bankStore (accAddr f l) (List.replicate 288 0) false) b)

/-- XCLR (R212). -/
def execXclr (f : RForm) (s : State) : Host.Outcome State Fault Refusal := runWord (.xclr f) (xclrBody f) s

/-- LRED (R213). -/
def lredBody (f : RForm) : Iss → State → Body := fun x s =>
  let b := s.battAt x.core x.slot
  let w := f.mb 0
  let t := lredTree (if w then f64 else f32) (rndMode (f.mf 7 5) b.fpcr) (laneIds.map fun l =>
    if inMask x.active l then some (b.rd false w f.a.toNat l) else none)
  flagBody x s (f.mb 1) (fun _ => t) fun b =>
    if f.mb 1 then b.setS f.d.toNat (BitVec.ofNat 64 t.bits)
    else if w then b.setW f.d.toNat x.active fun _ => BitVec.ofNat 64 t.bits
    else b.setV f.d.toNat x.active fun _ => BitVec.ofNat 32 t.bits

/-- LRED (R213). -/
def execLred (f : RForm) (s : State) : Host.Outcome State Fault Refusal := runWord (.lred f) (lredBody f) s

end Sys2Proof.Machine
end

