-- ==== Sys2Proof/Machine/Fetch.lean ====
section
/-! DEFINITION. Fetching and decoding the next word of a batt (R60 to R62, R79), and placing a word where the next fetch reads it. -/

namespace Sys2Proof.Machine

/-- What a fetch comes to (R62). -/
inductive FetchRes where
  | ok (w : DWord) (loc : Loc)
  | xlat (replayable : Bool) (level : Nat)
  | prot
  | poison
  deriving DecidableEq, Repr

/-- The word at a physical address as level two, the sluice window or the host holds it. What a fetch from an executable page of the sluice window or
of the host aperture reads the manual does not say, for level two holds none of their sectors (R62, R233): the target itself (log 141). -/
def State.homeWord (s : State) (loc : Loc) : DWord × Bool :=
  let bs := (List.range 8).map fun i => s.homeByte { loc with pa := loc.pa + i }
  (BitVec.ofNat 64 (numOf (bs.map (·.1))), bs.any (·.2))

/-- The word that a fetch finds in the core's instruction cache, where the choice of the issue uses it (log 1). -/
def State.cachedWord (s : State) (core space : Nat) (loc : Loc) : Option DWord :=
  if s.choice.useICache then ((s.core core).icache.find? fun e => e.1 == space && e.2.1 == loc.pa / 8).map (·.2.2) else none

/-- Fetch at an address (R62, R411): translation, protection, poison, then the word, from the core's instruction cache where
it holds it and the choice of the issue says so. -/
def State.fetch (s : State) (core space : Nat) (pc : DWord) : FetchRes :=
  match s.translate core space 32 pc with
  | .xlat r lv => .xlat r lv
  | .poison => .poison
  | .ok loc pte _ =>
    if !pteBit pte 2 then .prot
    else
      match s.cachedWord core space loc with
      | some w => if loc.quar || (loc.target == .dev && s.pageQuarantined loc.pa) then .poison else .ok w loc
      | none =>
        let (w, p) := s.homeWord loc
        if p then .poison else .ok w loc

/-- What a fetch reads of memory, whatever it comes to: the entries of its walk, which the TLBs keep (R411, R413), and where it may execute
and finds no word in the instruction cache the word itself, through level two (R62, R236, R240). -/
def State.fetchReads (s : State) (core space : Nat) (pc : DWord) : State :=
  let t := if fld pc 63 49 != 0 then s else s.tlbFill core space pc
  match s.translate core space 32 pc with
  | .ok loc pte _ =>
    if !pteBit pte 2 || (s.cachedWord core space loc).isSome then t
    else t.l2Read loc (0xFF <<< (loc.pa % 64)) (s.handlesFor space pc.toNat)
  | _ => t

/-- A word has been fetched: the instruction cache keeps it (the manual gives the cache no capacity), in the place of an older one, which no
later fetch of the core finds again (log 140); the lookup of the word's pure region reads level two as well (R347, R461). -/
def State.icacheFill (s : State) (core space : Nat) (pc : DWord) (loc : Loc) (w : DWord) : State :=
  let at' (e : Nat × Nat × DWord) : Bool := e.1 == space && e.2.1 == loc.pa / 8
  let t := s.fetchReads core space pc
  let t := if (s.cachedWord core space loc).isSome then t
    else t.modCore core fun c => { c with icache := (c.icache.filter fun e => !at' e) ++ [(space, loc.pa / 8, w)] }
  match decode w with
  | some i => t.regionReads t.cur.1 t.cur.2 i pc
  | none => t

/-- What the front of the pipeline hands on: an instruction to execute, or a state in which the issue has ended. -/
inductive Front where
  | noIssuer
  | ended (s : State)
  | run (i : Instr) (s : State)
  deriving DecidableEq, Repr

/-- Stages 1 and 2 of R79 for the turn-holding split of the batt of `cur`: a fetch fault and an illegal word trap for the whole
split, and the first line of R125 has taken effect. -/
def State.frontEnd (s : State) : Front :=
  match s.theTurn with
  | .none => .noIssuer
  | .idle => .ended s
  | .go b0 low _ =>
    let b := b0.takeTurn low
    let split := b.splitOf low
    let pc := (b.lane low).pc
    let s1 := (s.fetchReads b.core b.space pc).modBatt b.core b.slot fun _ => b
    match s.fetch b.core b.space pc with
    | .xlat true lv => .ended (s1.takeFault b.core b.slot 0 pc (causesOf split cXLAT pc) 2 lv false 0)
    | .xlat false _ => .ended (s1.takeTrap b.core b.slot 0 pc split 0 (causesOf split cXLAT pc))
    | .prot => .ended (s1.takeTrap b.core b.slot 0 pc split 0 (causesOf split cPROT pc))
    | .poison => .ended (s1.takeTrap b.core b.slot 0 pc split 0 (causesOf split cPOISON pc))
    | .ok w loc =>
      match decode w with
      | none => .ended (((s.icacheFill b.core b.space pc loc w).modBatt b.core b.slot fun _ => b).takeTrap b.core b.slot w pc split 0
          (causesOf split cUNDEF 0))
      | some i => .run i (s.icacheFill b.core b.space pc loc w)

/-! ### The next word of a batt (R121 to R124) -/

/-- The word at which the turn-holder of a batt stands, as its core fetches it. -/
def State.wordOf (s : State) (b : Batt) : Option Instr :=
  match s.fetch b.core b.space (b.lane (b.turn.getD 0)).pc with
  | .ok w _ => decode w
  | _ => none

/-- Does the turn-holder's next word wait for something that no event has resolved (R122, R124)? A word that cannot be fetched or
decoded is issued to take its trap. -/
def State.mustWait (s : State) (b : Batt) : Bool :=
  match b.turn, s.wordOf b with
  | some l, some i => s.wordWaits b i l
  | some _, none => false
  | none, _ => true

/-- Can the batt issue a word? -/
def State.canIssue (s : State) (b : Batt) : Bool :=
  b.free && (match b.turn with | some l => (b.lane l).st == .ready | none => false) && !s.mustWait b

/-- Does the turn-holder's next word meet a long-latency dependence (R121, R122)? -/
def State.meetsLong (s : State) (b : Batt) : Bool :=
  b.free && (match b.turn, s.wordOf b with
    | some l, some i => (b.lane l).st == .ready && longWait b (s.wordUse b i) i
    | _, _ => false)

/-! ### A word placed for the next fetch (log 10) -/

/-- The page tables that map virtual page 4 of context 0 to physical page 4, executable and readable: a root, a second and a
third level (R411, R412). -/
def bootTables (m : Memory) : Memory :=
  ((m.write 0x10000 (bytesOf 8 0x20001)).write 0x20000 (bytesOf 8 0x30001)).write (0x30000 + 32) (bytesOf 8 0x40085)

/-- The address at which the placed word stands. -/
def bootPc : DWord := 0x40000

/-- The batt that runs it. -/
def bootBatt : Batt :=
  { core := 0, slot := 1, id := .batt 0 0 0, space := 0, regs := 1024, params := 0, lanes := List.replicate 32 { pc := bootPc } }

/-- A machine brought up, with one launch of one batt on core 0 that is about to fetch the given bytes. -/
def State.placeWord (s : State) (bytes : List Byte) : State :=
  let recd : LaunchRec := { entry := bootPc, regs := 1024, fbar := 16, cbar := 16, lbar := 4, fbmem := 1, cbmem := 1, lbmem := 1, scratch := 4096 }
  let bar : Barrier := { count := 1 }
  let s : State := { s with
    mem := (bootTables s.mem).write 0x40000 bytes
    launches := [{ lnum := 0, recd := recd, next := 1, owner := .ctl, token := 0, started := true, claimed := true, left := 1,
                   lbars := List.replicate 4 bar, cbars := [(0, List.replicate 16 bar)] }]
    felts := [{ lnum := 0, felt := 0, core := 0, left := 1, bars := List.replicate 16 bar }]
    batts := [bootBatt], cur := (0, 1), choice := {}, inputs := [.issue 0 1 {}] }
  let s := s.modDev fun d => { d with ready := true, inReset := false, launchCounter := 1 }
  let s := s.modCtx 0 fun c => { c with root := 0x10000 }
  s.modQuarter 0 0 fun q => { q with active := some 1 :: List.replicate 7 none, freed := [1, 2, 3, 4, 5, 6, 7], ready := [] }

end Sys2Proof.Machine
end

