-- ==== Sys2Proof/Machine/PeatWords.lean ====
section
/-! DEFINITION. Signature and peat-store words: SIGI, SIGA, SIGQ, SIGF, MLOOK, MFILL and MINV (R340 to R365, R368). -/

namespace Sys2Proof.Machine

/-! ### Signatures (R345, R346) -/

/-- H1 and H2, or F1 and F2, of a quad in a lane (R340). -/
def Batt.quad (b : Batt) (n l : Nat) : DWord × DWord := (b.w n l, b.w (n + 2) l)

/-- Write a quad. -/
def Batt.setQuad (b : Batt) (n : Nat) (m : Mask) (v : Nat → DWord × DWord) : Batt :=
  (b.setW n m fun l => (v l).1).setW (n + 2) m fun l => (v l).2

/-- SIGI (R345). -/
def sigiBody (f : RForm) : Iss → State → Body := fun x s =>
  .done (s.modBatt x.core x.slot fun b =>
    (b.setQuad f.d.toNat x.active fun _ => (({} : Sig).h1, ({} : Sig).h2)).setV f.c.toNat x.active fun _ => 0)

/-- SIGI (R345). -/
def execSigi (f : RForm) (s : State) : Host.Outcome State Fault Refusal := runWord (.sigi f) (sigiBody f) s

/-- The effective class (R343). -/
def State.effClass (s : State) (b : Batt) (k : Nat) : Nat := if (s.recOf b).flag 1 then 0 else k

/-- One lane of SIGA: the quad and the count word (R345). -/
def sigaLane (k : Nat) (q : DWord × DWord) (a c : Word) : (DWord × DWord) × Word :=
  let cnt := fld c 15 0
  let g : Sig := ({ h1 := q.1, h2 := q.2, count := cnt } : Sig).absorb (sigQuant k a.toNat) k
  ((g.h1, g.h2), BitVec.ofNat 32 ((cnt + 1) % 2 ^ 16 + (fld c 23 16 ||| 2 ^ k) * 2 ^ 16))

/-- SIGA (R345): every source is read before a register is written (R9). -/
def sigaBody (f : RForm) : Iss → State → Body := fun x s =>
  let b := s.battAt x.core x.slot
  let k := s.effClass b (f.mf 2 0)
  let r (l : Nat) : (DWord × DWord) × Word := sigaLane k (b.quad f.d.toNat l) (b.v f.a.toNat l) (b.v f.c.toNat l)
  .done (s.modBatt x.core x.slot fun _ =>
    (b.setQuad f.d.toNat x.active fun l => (r l).1).setV f.c.toNat x.active fun l => (r l).2)

/-- SIGA (R345). -/
def execSiga (f : RForm) (s : State) : Host.Outcome State Fault Refusal := runWord (.siga f) (sigaBody f) s

/-- SIGF (R345). -/
def sigfBody (f : RForm) : Iss → State → Body := fun x s =>
  let b := s.battAt x.core x.slot
  .done (s.modBatt x.core x.slot fun _ => b.setQuad f.d.toNat x.active fun l =>
    let q := b.quad f.d.toNat l
    sigFinal q.1 q.2 (fld (b.v f.c.toNat l) 23 0))

/-- SIGF (R345). -/
def execSigf (f : RForm) (s : State) : Host.Outcome State Fault Refusal := runWord (.sigf f) (sigfBody f) s

/-- The lanes of a fragment quad. -/
def quadLanes (g : Nat) : List Nat := [4 * g, 4 * g + 1, 4 * g + 2, 4 * g + 3]

/-- The fold of a fragment quad (R346). -/
def sigqFold (b : Batt) (a : Nat) (active : Mask) (g : Nat) : DWord × DWord :=
  ((quadLanes g).foldl (fun (h : Sig) l =>
    if inMask active l then h.absorbAll (1 :: [0, 1, 2, 3].map fun i => (b.v (a + i) l).toNat) else h.absorb 0 0) {}).final

/-- SIGQ (R346). -/
def sigqBody (f : RForm) : Iss → State → Body := fun x s =>
  let b := s.battAt x.core x.slot
  .done (s.modBatt x.core x.slot fun _ => b.setQuad f.d.toNat x.active fun l => sigqFold b f.a.toNat x.active (l / 4))

/-- SIGQ (R346). -/
def execSigq (f : RForm) (s : State) : Host.Outcome State Fault Refusal := runWord (.sigq f) (sigqBody f) s

/-! ### Lookups (R356, R358, R363, R365, R368) -/

/-- %memo with counts added (R365): HITS, MISSES, FILLS and AUDFAIL, each modulo its width. -/
def Batt.memoAdd (b : Batt) (hits misses fills fails : Nat) : Batt :=
  let m := b.memo
  { b with memo := BitVec.ofNat 64 (fld m 7 0 + (fld m 15 8 + fails) % 2 ^ 8 * 2 ^ 8 + (fld m 31 16 + fills) % 2 ^ 16 * 2 ^ 16 +
      (fld m 47 32 + misses) % 2 ^ 16 * 2 ^ 32 + (fld m 63 48 + hits) % 2 ^ 16 * 2 ^ 48) }

/-- A lane, or a quad group under Q: its lanes in ACTIVE and its index. -/
structure MemoUnit where
  quad : Bool
  idx : Nat
  lanes : List Nat
  deriving DecidableEq, Repr

/-- The units of a word (R358). -/
def memoUnits (q : Bool) (active : Mask) : List MemoUnit :=
  if q then ((List.range 8).map fun g => ({ quad := true, idx := g, lanes := (quadLanes g).filter (inMask active) } : MemoUnit)).filter fun u => !u.lanes.isEmpty
  else (lanesOf active).map fun l => { quad := false, idx := l, lanes := [l] }

/-- LEN of MLOOK and MFILL, in words for each lane. -/
def memoLen (f : RForm) : Nat := f.mf 5 0 + 1

/-- The key of a lane (R358). -/
def memoKey (b : Batt) (f : RForm) (ident : DWord) (q : Bool) (l : Nat) : PeatKey :=
  let k := b.quad f.a.toNat l
  { space := b.space, f1 := k.1, f2 := k.2, ident := ident, mix := fld (b.v f.c.toNat l) 23 16,
    len := (if q then 16 else 4) * memoLen f, kind := if q then 1 else 0 }

/-- The key of a unit: none when the lanes of a group differ. -/
def unitKey (b : Batt) (f : RForm) (ident : DWord) (u : MemoUnit) : Option PeatKey :=
  match u.lanes.map (memoKey b f ident u.quad) with
  | [] => none
  | k :: ks => if ks.all (· == k) then some k else none

/-- What the lookups of an MLOOK have found: hits with their payloads, audits, counts. -/
structure LookAcc where
  hits : List (MemoUnit × List Byte) := []
  audits : List Audit := []
  nhit : Nat := 0
  nmiss : Nat := 0
  store : Cluster

/-- One lookup. -/
def lookUnit (b : Batt) (f : RForm) (r : PureRegion) (a : Nat) (acc : LookAcc) (u : MemoUnit) : LookAcc :=
  match unitKey b f r.ident u with
  | none => { acc with nmiss := acc.nmiss + 1 }
  | some k =>
    let (h, c) := acc.store.peatLook k a
    match h with
    | .miss => { acc with store := c, nmiss := acc.nmiss + 1 }
    | .audit e =>
      { acc with store := c, nmiss := acc.nmiss + 1, audits := acc.audits ++ [{ quad := u.quad, idx := u.idx, key := k, payload := e.payload }] }
    | .hit e => { acc with store := c.credit r.cost, nhit := acc.nhit + 1, hits := acc.hits ++ [(u, e.payload)] }

/-- Is a pending audit dropped by a new MLOOK of these lanes (R358)? -/
def auditOf (active : Mask) (p : Audit) : Bool :=
  if p.quad then (quadLanes p.idx).any (inMask active) else inMask active p.idx

/-- The payload word i of a lane in a hit (R358). -/
def payloadWord (f : RForm) (u : MemoUnit) (bytes : List Byte) (l i : Nat) : Word :=
  let k := if u.quad then l % 4 * memoLen f + i else i
  BitVec.ofNat 32 (numOf ((bytes.drop (4 * k)).take 4))

/-- The registers after the lookups: hit lanes take predicate 1 and the payload, the others predicate 0; without a hit no payload register is
written (R147). -/
def Batt.putHits (b : Batt) (f : RForm) (active : Mask) (hits : List (MemoUnit × List Byte)) : Batt :=
  let hm := maskOf fun l => hits.any fun h => h.1.lanes.contains l
  let word (i l : Nat) : Word := match hits.find? fun h => h.1.lanes.contains l with
    | some h => payloadWord f h.1 h.2 l i
    | none => 0
  let b := b.setP f.b.toNat active hm
  if hm = 0 then b.unreserve else (List.range (memoLen f)).foldl (fun b i => b.setV (f.d.toNat + i) hm (word i)) b

/-- MLOOK (R358). -/
def mlookBody (f : RForm) : Iss → State → Body := fun x s =>
  let b := s.battAt x.core x.slot
  let units := memoUnits (f.mb 6) x.active
  match s.regionAt b x.pc with
  | .bad c a => .yielded (s.killUnreadable b.space c a)
  | .ok none =>
    .done (s.modBatt x.core x.slot fun b =>
      { b with audits := b.audits.filter fun p => !auditOf x.active p }.putHits f x.active [])
  | .ok (some r) =>
    let k := clusterOf x.core
    let acc : LookAcc :=
      if bit1 b.memo 0 then { nmiss := units.length, store := s.cluster k }
      else units.foldl (lookUnit b f r (s.auditExp b)) { store := s.cluster k }
    let s := s.modCluster k fun _ => acc.store
    .done (s.modBatt x.core x.slot fun b =>
      ({ b with audits := (b.audits.filter fun p => !auditOf x.active p) ++ acc.audits }.putHits f x.active acc.hits).memoAdd acc.nhit acc.nmiss 0 0)

/-- MLOOK (R358). -/
def execMlook (f : RForm) (s : State) : Host.Outcome State Fault Refusal := runWord (.mlook f) (mlookBody f) s

/-! ### Fills and audits (R359, R360, R364) -/

/-- The payload that a unit would insert: LEN words of each of its lanes, in lane order. -/
def unitPayload (b : Batt) (f : RForm) (u : MemoUnit) : List Byte :=
  (u.lanes.map fun l => ((List.range (memoLen f)).map fun i => bytesOf 4 (b.v (f.b.toNat + i) l).toNat).flatten).flatten

/-- Does a payload register carry poison? -/
def unitPoison (b : Batt) (f : RForm) (u : MemoUnit) : Bool :=
  u.lanes.any fun l => (List.range (memoLen f)).any fun i => inMask (b.vpoison (f.b.toNat + i)) l

/-- What the units of an MFILL have done: lanes of unequal audits, entries inserted, audits still pending. -/
structure FillAcc where
  bad : List Nat := []
  fills : Nat := 0
  fails : Nat := 0
  audits : List Audit
  store : Cluster

/-- The audits a unit of MFILL handles: its own, and those of the other kind that its lanes hold. -/
def unitAudits (u : MemoUnit) (p : Audit) : Bool :=
  if p.quad then (if u.quad then p.idx == u.idx else u.lanes.any fun l => l / 4 == p.idx) else u.lanes.contains p.idx

/-- One unit of MFILL (R359, R364): an audit of its own kind with every lane active is decided, others are dropped. A unit that held an
audit when the word issued inserts nothing. -/
def fillUnit (b : Batt) (f : RForm) (core slot : Nat) (ident : Option DWord) (acc : FillAcc) (u : MemoUnit) : FillAcc :=
  let full := !u.quad || u.lanes.length == 4
  match b.audits.filter (unitAudits u) with
  | p :: ps =>
    let acc := { acc with audits := acc.audits.filter fun p => !unitAudits u p }
    match (p :: ps).find? fun p => p.quad == u.quad && full with
    | none => acc
    | some p =>
      if unitPoison b f u then acc else
      if p.payload == unitPayload b f u then acc
      else { acc with bad := acc.bad ++ u.lanes, fails := acc.fails + 1, store := acc.store.peatMismatch p.key p.payload }
  | [] =>
    match ident with
    | none => acc
    | some i =>
      match unitKey b f i u with
      | none => acc
      | some k =>
        if !full || bit1 b.memo 1 || unitPoison b f u || (acc.store.peatFind k).isSome then acc
        else
          let e : PeatEntry := { key := k, depth := b.pinDepth, core := core, slot := slot, owner := b.id, payload := unitPayload b f u }
          { acc with fills := acc.fills + 1, store := acc.store.peatInsert e }

/-- MFILL (R359): after every unit, an unequal audit under AUDITTRAP traps past the word (R364). One that lies in no region counts nothing in
%memo (R347), an unequal audit among it. -/
def mfillBody (f : RForm) : Iss → State → Body := fun x s =>
  let b := s.battAt x.core x.slot
  match s.regionAt b x.pc with
  | .bad c a => .yielded (s.killUnreadable b.space c a)
  | .ok reg =>
    let k := clusterOf x.core
    let acc := (memoUnits (f.mb 6) x.active).foldl (fillUnit b f x.core x.slot (reg.map (·.ident))) { audits := b.audits, store := s.cluster k }
    let s := (s.modCluster k fun _ => acc.store).modBatt x.core x.slot fun b => { b with audits := acc.audits }.memoAdd 0 0 acc.fills (if reg.isSome then acc.fails else 0)
    if acc.fails != 0 && (s.recOf b).flag 3 then
      let m := maskOf fun l => acc.bad.contains l
      .trap (causesOf m cAUDIT 0) (s.modBatt x.core x.slot fun b => b.advance x.split)
    else .done s

/-- MFILL (R359). -/
def execMfill (f : RForm) (s : State) : Host.Outcome State Fault Refusal := runWord (.mfill f) (mfillBody f) s

/-! ### MINV (R361) -/

/-- A MINV reaches every store: at once, or by an event for each store (log 12). One that follows another of its batt waits behind it
(R362). -/
def State.sendMinv (s : State) (x : Iss) (kind : MinvKind) : State :=
  let b := s.battAt x.core x.slot
  let m : Minv := { owner := b.id, space := b.space, kind := kind }
  let reach (k : Cluster) : Cluster :=
    if s.choice.late || k.minvPending.any (fun p => p.owner == b.id) then { k with minvPending := k.minvPending ++ [m] } else k.applyMinv m
  { s with clusters := s.clusters.map reach }

/-- The keys of MINV's key form: lane and quad entries (R361). -/
def minvKeys (b : Batt) (f : RForm) (active : Mask) : List PeatKey :=
  ((lanesOf active).map fun l =>
    let q := b.quad f.a.toNat l
    [0, 1].map fun kind => ({ space := b.space, f1 := q.1, f2 := q.2, ident := b.s f.b.toNat, mix := fld (b.v f.c.toNat l) 23 16,
                              len := 4 * (f.mf 7 2 + 1), kind := kind } : PeatKey)).flatten

/-- MINV by key (R361). -/
def execMinvKey (f : RForm) (s : State) : Host.Outcome State Fault Refusal :=
  runWord (.minvKey f) (fun x s => .done (s.sendMinv x (.keys (minvKeys (s.battAt x.core x.slot) f x.active)))) s

/-- MINV by region (R361). -/
def execMinvRegion (f : RForm) (s : State) : Host.Outcome State Fault Refusal :=
  runWord (.minvRegion f) (fun x s => .done (s.sendMinv x (.region ((s.battAt x.core x.slot).s f.b.toNat)))) s

/-- MINV of the context (R361). -/
def execMinvCtx (f : RForm) (s : State) : Host.Outcome State Fault Refusal :=
  runWord (.minvCtx f) (fun x s => .done (s.sendMinv x .all)) s

/-- A store applies the oldest MINV that has reached it (R361, R362). -/
def execMinvStoreApply (cluster : Nat) (s : State) : Host.Outcome State Fault Refusal :=
  match (s.cluster cluster).minvPending with
  | m :: rest => .next (s.modCluster cluster fun k => ({ k with minvPending := rest }).applyMinv m)
  | [] => .next s

end Sys2Proof.Machine
end

