-- ==== Sys2Proof/Machine/SystemWords.lean ====
section
/-! DEFINITION. TRAP, BRK and the containment words CONTO, CONTC, CONTS (R424 to R426). -/

namespace Sys2Proof.Machine

/-- TRAP (R424): TRAPI with fault address k. -/
def execTrap (f : RForm) (s : State) : Host.Outcome State Fault Refusal :=
  runWord (.trap f) (fun x s => .trap (causesOf x.active cTRAPI (f.mod.setWidth 64)) s) s

/-- BRK (R424). -/
def execBrk (f : RForm) (s : State) : Host.Outcome State Fault Refusal :=
  runWord (.brk f) (fun x s => .trap (causesOf x.active cBRKPT 0) s) s

/-- Conto(h) of R425. -/
def contoBody (f : RForm) : Iss → State → Body := fun x s =>
  let b := s.battAt x.core x.slot
  let h := b.s f.a.toNat
  if 4 ≤ b.regions.length then .trap (causesOf x.active cRANGE 4) s
  else if fld h 2 0 != 0 then .trap (causesOf x.active cALIGN h) s
  else if fld h 63 49 != 0 then .trap (causesOf x.active cXLAT h) s
  else .done (s.modBatt x.core x.slot fun b => { b with regions := b.regions ++ [{ handler := h }] })

/-- CONTO (R425). -/
def execConto (f : RForm) (s : State) : Host.Outcome State Fault Refusal := runWord (.conto f) (contoBody f) s

/-- Contc() of R425. -/
def contcBody : Iss → State → Body := fun x s =>
  if (s.battAt x.core x.slot).regions.isEmpty then .trap (causesOf x.active cRANGE 0) s
  else .done (s.closeRegion x.core x.slot)

/-- CONTC (R425). -/
def execContc (f : RForm) (s : State) : Host.Outcome State Fault Refusal := runWord (.contc f) (fun x s => contcBody x s) s

/-- Conts(COMMIT) of R425: what it waits for held it at issue. -/
def contsBody (f : RForm) : Iss → State → Body := fun x s =>
  let s := if f.mb 0 && (s.battAt x.core x.slot).revocable then s.harden x.core x.slot else s
  .done (s.modBatt x.core x.slot fun b => b.setS f.d.toNat (BitVec.ofNat 64 b.cont))

/-- CONTS (R425). -/
def execConts (f : RForm) (s : State) : Host.Outcome State Fault Refusal := runWord (.conts f) (contsBody f) s

end Sys2Proof.Machine
end

