-- ==== Sys2Proof/Machine/LaunchWords.lean ====
section
/-! DEFINITION. LAUNCH and DRAW: their records, checks and enqueue, and the retirement of a launch
(R109 to R114, R85, R370, R372, R375, R376, R21). -/

namespace Sys2Proof.Machine

/-! ### Reading what the issuer sees (R110, R112) -/

/-- n little-endian bytes of a record, as a number. -/
def recNum (r : List Byte) (lo n : Nat) : Nat := numOf ((r.drop lo).take n)

/-- A read by LAUNCH or DRAW: bytes, or why there are none. -/
inductive ViewRes where
  | ok (bs : List Byte)
  | unreadable
  | poison (addr : DWord)
  deriving DecidableEq, Repr

/-- Read bytes of an address space as a load of the core finds them, after its acquire (R112); poison comes with the address of its first
byte, or the address whose walk read it (R407, R411). -/
def State.viewRead (s : State) (core slot space : Nat) (va : DWord) (n : Nat) : ViewRes :=
  match s.checkObject core space 0 va n fun _ _ => 0 with
  | .bad c _ _ => if c.cause = cPOISON then .poison c.faddr else .unreadable
  | .ok a =>
    let bs := (s.objectReads core space va n).loadBytes core slot 0 a
    match findIdx (·.2) bs 0 with
    | some i => .poison (va + BitVec.ofNat 64 i)
    | none => .ok (bs.map (·.1))

/-! ### Table headers (R85) -/

/-- Does a header fail R85? -/
def headerBad (kind esize : Nat) (h : List Byte) : Bool :=
  recNum h 0 4 != kind || recNum h 8 4 != esize || recNum h 12 4 != 0 || (kind == 6 && 64 < recNum h 4 4)

/-- What checking a record comes to: LAUNCHX or POISON with an address, or the thing checked. -/
inductive RecordRes (α : Type) where
  | launchx (addr : DWord)
  | poison (addr : DWord)
  | ok (x : α)
  deriving DecidableEq, Repr

/-- COUNT of each named table, in ascending kind; 0 for a table that is not named. -/
def State.readHeaders (s : State) (core slot space : Nat) : List (Nat × Nat × DWord) → RecordRes (List Nat)
  | [] => .ok []
  | (kind, esize, a) :: rest =>
    let next (n : Nat) : RecordRes (List Nat) := match s.readHeaders core slot space rest with
      | .ok ns => .ok (n :: ns)
      | r => r
    if a = 0 then next 0
    else if a.toNat % 16 != 0 then .launchx a
    else match s.viewRead core slot space a 16 with
      | .unreadable => .launchx a
      | .poison p => .poison p
      | .ok h => if headerBad kind esize h then .launchx a else next (recNum h 4 4)

/-- The four tables of a record, with their kinds and entry sizes. -/
def LaunchRec.tables (r : LaunchRec) : List (Nat × Nat × DWord) :=
  [(4, 32, r.pretab), (5, 16, r.budtab), (6, 40, r.rectab), (7, 32, r.puretab)]

/-! ### The launch record (R109, R110) -/

/-- The record of 128 bytes. -/
def launchRec (r : List Byte) : LaunchRec :=
  let d (lo : Nat) : DWord := BitVec.ofNat 64 (recNum r lo 8)
  { entry := d 0, params := d 8, nfelt := recNum r 16 4, nbatt := recNum r 20 1, prio := recNum r 21 1, ctx := recNum r 22 1,
    flags := recNum r 23 1, audit := recNum r 24 1, fbar := recNum r 25 1, cbar := recNum r 26 1, lbar := recNum r 27 1,
    regs := recNum r 28 2, pinned := recNum r 30 2, scratch := recNum r 32 4, fbmem := recNum r 36 4, cbmem := recNum r 40 4,
    lbmem := recNum r 44 4, pretab := d 48, budtab := d 56, rectab := d 64, puretab := d 72 }

/-- Fields shared by launch and pass records: reserved bits, AUDIT, and what the issuer may name (R110). -/
def commonBad (r : LaunchRec) (issuer : Option (Nat × Nat)) : Bool :=
  4 ≤ r.prio || 16 ≤ r.ctx || 16 ≤ r.flags || 16 < r.audit ||
  (match issuer with | some (ctx, prio) => r.ctx != ctx || prio < r.prio | none => false)

/-- A member mask that breaks R110. -/
def maskBad (mask nbatt count : Nat) : Bool := 2 ^ nbatt ≤ mask || (mask != 0 && count == 0)

/-- The checks of R110 on the record's own fields. -/
def launchBad (bs : List Byte) (r : LaunchRec) (issuer : Option (Nat × Nat)) : Bool :=
  recNum bs 80 48 != 0 || commonBad r issuer ||
  r.nfelt < 1 || 2 ^ 24 < r.nfelt || r.nbatt < 1 || 32 < r.nbatt ||
  r.regs < 8 || 1024 < r.regs || r.regs % 8 != 0 || r.regs < r.pinned ||
  262144 < r.scratch || r.scratch % 16 != 0 || 16 < r.fbar || 16 < r.cbar || 4 < r.lbar ||
  r.entry.toNat % 8 != 0 || fld r.entry 63 49 != 0 ||
  maskBad r.fbmem r.nbatt r.fbar || maskBad r.cbmem r.nbatt r.cbar || maskBad r.lbmem r.nbatt r.lbar ||
  256 < ceilDiv r.nbatt 4 * r.regs / 8

/-- Context and priority that an issuer may name; the control batt may name any (R19, R110). -/
def State.issuerLimits (s : State) (b : Batt) : Option (Nat × Nat) :=
  match b.id with
  | .ctl => none
  | .batt _ _ _ => some (b.space, (s.recOf b).prio)

/-- A launch built from a record, before it has a number. -/
def newLaunch (r : LaunchRec) (counts : List Nat) (point token : Nat) (owner : BattId) : Launch :=
  { lnum := 0, recd := r, points := counts.getD 0 0, budgets := counts.getD 1 0, recipes := counts.getD 2 0, pures := counts.getD 3 0,
    point := point, owner := owner, token := token }

/-- Read and check a launch record (R110). -/
def State.readLaunch (s : State) (b : Batt) (addr : DWord) (point token : Nat) : RecordRes Launch :=
  if addr.toNat % 64 != 0 then .launchx addr else
  match s.viewRead b.core b.slot b.space addr 128 with
  | .unreadable => .launchx addr
  | .poison p => .poison p
  | .ok bs =>
    let r := launchRec bs
    if launchBad bs r (s.issuerLimits b) then .launchx addr else
    match s.readHeaders b.core b.slot r.ctx r.tables with
    | .launchx a => .launchx a
    | .poison a => .poison a
    | .ok ns => .ok (newLaunch r ns point token b.id)

/-! ### The pass record and the target descriptor (R370, R372, R376) -/

/-- A target descriptor whose fields R372 allows. -/
def targetDesc (addr : DWord) (bs : List Byte) : Option TargetDesc :=
  let d (lo : Nat) : DWord := BitVec.ofNat 64 (recNum bs lo 8)
  let kind := recNum bs 39 1
  let mode := recNum bs 36 1
  let layer := recNum bs 35 1
  let status := d 120
  let t : TargetDesc :=
    { addr := addr, raw := bs, sigPlane := d 112, resolve := d 104, depths := d 96, colour := d 88, heads := d 80, pool := d 72,
      poolNodes := recNum bs 68 4, clearD := BitVec.ofNat 32 (recNum bs 64 4),
      clearC := [48, 52, 56, 60].map fun i => BitVec.ofNat 32 (recNum bs i 4),
      width := recNum bs 42 2, height := recNum bs 40 2, layered := kind == 1, cfmt := recNum bs 38 1, samples := recNum bs 37 1,
      load := mode.testBit 0, retain := mode.testBit 1, layers := layer % 8 + 1, rule := layer / 8 % 4, policy := layer / 32 % 4,
      pages := fld status 21 0, drops := fld status 63 32 }
  let common := recNum bs 0 35 != 0 || recNum bs 44 4 != 0 || t.width < 1 || 16384 < t.width || t.height < 1 || 16384 < t.height ||
    2 ≤ kind || !(t.samples == 1 || t.samples == 4) || 4 ≤ mode || fld status 31 22 != 0 || t.sigPlane.toNat % 16 != 0
  let plain := !(t.cfmt == 0 || t.cfmt == 2 || t.cfmt == 5) || layer != 0 || t.heads != 0 || t.pool != 0 || t.poolNodes != 0
  let layd := t.cfmt != 0 || mode != 0 || 128 ≤ layer || t.policy == 3 || t.resolve != 0 || t.depths != 0 || t.colour != 0 ||
    t.heads.toNat % 4 != 0 || t.pool.toNat % 1024 != 0 || t.poolNodes < 128 || 2 ^ 28 < t.poolNodes || t.poolNodes % 64 != 0
  if common || (if t.layered then layd else plain) then none else some t

/-- Tiles across the target. -/
def TargetDesc.tilesX (t : TargetDesc) : Nat := ceilDiv t.width 32

/-- Tile count T (R370). -/
def TargetDesc.tiles (t : TargetDesc) : Nat := t.tilesX * ceilDiv t.height 32

/-- H0 of R384. -/
def paramHeader (tiles : Nat) : Nat := 256 * ceilDiv (256 + 16 * tiles) 256

/-- Capacity of the parameter memory in chunks (R384). -/
def paramCapacity (size tiles : Nat) : Nat := (size * 65536 - paramHeader tiles) / 256

/-- The launch fields of a pass record (R370): PINNED and SCRATCH 0, no barriers. -/
def passRec (bs : List Byte) : LaunchRec :=
  let d (lo : Nat) : DWord := BitVec.ofNat 64 (recNum bs lo 8)
  { nfelt := 0, nbatt := 1, prio := recNum bs 21 1, ctx := recNum bs 22 1, flags := recNum bs 23 1, audit := recNum bs 24 1,
    regs := recNum bs 28 2, pretab := d 32, budtab := d 40, rectab := d 48, puretab := d 56 }

/-- Is a quota at least `lo`, at most 1,024 and a multiple of 8? -/
def quotaBad (n lo : Nat) : Bool := n < lo || 1024 < n || n % 8 != 0

/-- The checks of R376 on the record's own fields. -/
def passBad (bs : List Byte) (r : LaunchRec) (issuer : Option (Nat × Nat)) : Bool :=
  recNum bs 96 32 != 0 || recNum bs 0 21 != 0 || recNum bs 25 1 != 0 || commonBad r issuer || quotaBad r.regs 8 ||
  quotaBad (recNum bs 30 2) 16 || recNum bs 88 8 % 65536 != 0 || recNum bs 84 4 < 16 || 65535 < recNum bs 84 4 ||
  recNum bs 72 8 % 64 != 0 || recNum bs 64 8 % 64 != 0

/-- The pass that a record and its target start. -/
def newPass (bs : List Byte) (t : TargetDesc) : Pass :=
  { paramBase := BitVec.ofNat 64 (recNum bs 88 8), paramSize := recNum bs 84 4, chunkMax := recNum bs 80 4,
    draws := BitVec.ofNat 64 (recNum bs 64 8), fregs := recNum bs 30 2, vregs := recNum bs 28 2, ndraw := recNum bs 26 2 + 1,
    target := t, tiles := List.replicate t.tiles {} }

/-- Read and check a pass record (R376). -/
def State.readPass (s : State) (b : Batt) (addr : DWord) (point token : Nat) : RecordRes Launch :=
  if addr.toNat % 64 != 0 then .launchx addr else
  match s.viewRead b.core b.slot b.space addr 128 with
  | .unreadable => .launchx addr
  | .poison p => .poison p
  | .ok bs =>
    let r := passRec bs
    if passBad bs r (s.issuerLimits b) then .launchx addr else
    let ta : DWord := BitVec.ofNat 64 (recNum bs 72 8)
    match s.viewRead b.core b.slot r.ctx ta 128 with
    | .unreadable => .launchx addr
    | .poison p => .poison p
    | .ok tb =>
      match targetDesc ta tb with
      | none => .launchx addr
      | some t =>
        let cap := paramCapacity (recNum bs 84 4) t.tiles
        let cm := recNum bs 80 4
        if cap < t.tiles || (cm != 0 && (cm < t.tiles || cap < cm)) then .launchx addr else
        match s.readHeaders b.core b.slot r.ctx r.tables with
        | .launchx a => .launchx a
        | .poison a => .poison a
        | .ok ns => .ok { newLaunch r ns point token b.id with pass := some (newPass bs t) }

/-! ### LAUNCH and DRAW (R112, R375) -/

/-- Every core discards a context's instruction and constant lines (R62, R269). -/
def State.discardCode (s : State) (space : Nat) : State :=
  { s with cores := s.cores.map fun c =>
      if c.icache.isEmpty && c.ccache.isEmpty then c else
      { c with icache := c.icache.filter fun e => e.1 != space, ccache := c.ccache.filter fun e => e.1 != space } }

/-- Enqueue a launch after every other, with the next number and a pending token (R112). -/
def State.enqueue (s : State) (core slot : Nat) (l : Launch) : State :=
  let n := s.dev.launchCounter
  let s : State := { s with launches := s.launches ++ [{ l with lnum := n.toNat }] }
  (s.modDev fun d => { d with launchCounter := n + 1 }).pendToken core slot l.token

/-- What the reads of a LAUNCH or DRAW see: an acquire at the moment of the reads, which a wait on the outstanding limit may have put long
after the release (R112, R249). -/
def State.launchView (s : State) (core point : Nat) : State :=
  let s := s.acquireDevice core s.dev.granted
  if s.choice.late then s else s.drainUpTo point

/-- What reading the record of a launch, its target and its table headers leaves behind. -/
def State.recordReads (s : State) (b : Batt) (addr : DWord) (l : Launch) : State :=
  let s := s.objectReads b.core b.space addr 128
  let s := match l.pass with | some p => s.objectReads b.core l.recd.ctx p.target.addr 128 | none => s
  (l.recd.tables.filter fun t => t.2.2 != 0).foldl (fun s t => s.objectReads b.core l.recd.ctx t.2.2 16) s

/-- Read and check the record of a LAUNCH, or of a DRAW. -/
def State.readRecord (s : State) (b : Batt) (addr : DWord) (point token : Nat) (draw : Bool) : RecordRes Launch :=
  if draw then s.readPass b addr point token else s.readLaunch b addr point token

/-- The part of Launch that follows the wait on the outstanding limit: the reads as an acquire, the checks, the enqueue (R112). -/
def State.launchRest (s : State) (x : Iss) (token addrReg point : Nat) (draw : Bool) : Body :=
  let s := s.launchView x.core point
  let b := s.battAt x.core x.slot
  match s.readRecord b (b.s addrReg) point token draw with
  | .launchx a => .trap (causesOf x.active cLAUNCHX a) s
  | .poison a => .trap (causesOf x.active cPOISON a) s
  | .ok l => .done (((s.recordReads b (b.s addrReg) l).discardCode l.recd.ctx).enqueue x.core x.slot l)

/-- Launch(sD, sA) of R112: the hardening of R425, the release at device scope, the wait while 256 launches are outstanding. -/
def launchBody (f : RForm) (draw : Bool) : Iss → State → Body := fun x s =>
  let space := (s.battAt x.core x.slot).space
  let (p, s) := (s.hardenOpen x.core x.slot).releaseDevice x.core space 2
  if s.launches.length < 256 then s.launchRest x f.d.toNat f.a.toNat p draw
  else .wait (s.modBatt x.core x.slot fun b => { b with wait := .launch p x.instr })

/-- LAUNCH (R112). -/
def execLaunch (f : RForm) (s : State) : Host.Outcome State Fault Refusal := runWord (.launch f) (launchBody f false) s

/-- DRAW (R375). -/
def execDraw (f : RForm) (s : State) : Host.Outcome State Fault Refusal := runWord (.draw f) (launchBody f true) s

/-- The issue context of a waiting batt's word: its split as it issued, of which the lanes of ACTIVE stand at the word still (R215). -/
def Batt.waitingIss (b : Batt) (i : Instr) : Iss :=
  let low := (lowLane b.waitM).getD 0
  { core := b.core, slot := b.slot, instr := i, word := (encode i).getD 0, pc := (b.lane low).pc, split := b.waitS, low := low,
    active := b.waitM }

/-- A waiting word ends: with its effect, or by a trap. -/
def endWaiting (x : Iss) (r : Body) (s0 : State) : State :=
  match r with
  | .done s => s.modBatt x.core x.slot Batt.endWait
  | .trap lanes s => (s.modBatt x.core x.slot fun b => { b.finishTurn with wait := .none }).takeTrap x.core x.slot x.word x.pc x.split 0 lanes
  | _ => s0

/-- LAUNCH_ENQUEUE (R112): a LAUNCH or DRAW that waited on the limit goes on once fewer than 256 launches are outstanding. -/
def execLaunchEnqueue (core slot : Nat) (s : State) : Host.Outcome State Fault Refusal :=
  match s.batt? core slot with
  | none => .next s
  | some b =>
    match b.wait with
    | .launch point instr =>
      if 256 ≤ s.launches.length then .next s else
      match instr with
      | .launch f => let x := b.waitingIss instr; .next (endWaiting x (s.launchRest x f.d.toNat f.a.toNat point false) s)
      | .draw f => let x := b.waitingIss instr; .next (endWaiting x (s.launchRest x f.d.toNat f.a.toNat point true) s)
      | _ => .next s
    | _ => .next s

/-! ### Device writes at virtual addresses (R139, R377) -/

/-- Where the bytes of a device write lie, or the cause and address at which it fails. -/
def State.sideLocs (s : State) (space : Nat) (va : DWord) (n : Nat) : Sum (Nat × DWord) (List Loc) :=
  let one (i : Nat) : Sum (Nat × DWord) Loc :=
    let a := va + BitVec.ofNat 64 i
    if fld a 63 49 != 0 then .inl (cXLAT, a) else
    match s.walk space a with
    | .ok loc pte _ => if writeCause pte = 0 then .inr loc else .inl (cPROT, a)
    | .xlat _ _ => .inl (cXLAT, a)
    | .poison => .inl (cPOISON, a)
  (List.range n).foldl (fun acc i => match acc with
    | .inl e => .inl e
    | .inr l => match one i with | .inl e => .inl e | .inr x => .inr (l ++ [x])) (.inr [])

/-- An external write of bytes at a virtual address of a context (R252, R377); its lines take their handles (R240). -/
def State.sideWrite (s : State) (space : Nat) (va : DWord) (bs : List Byte) : Sum (Nat × DWord) State :=
  match s.sideLocs space va bs.length with
  | .inl e => .inl e
  | .inr locs =>
    .inr (((sectorWrites ((locs.zip bs).filter fun x => !x.1.quar)).foldl (fun s w => s.applyAt w.loc w.mask w.data false true) s).l2HitAll
      space va.toNat locs)

/-- The same where a failure leaves memory as it was. -/
def State.sideStore (s : State) (space : Nat) (va : DWord) (bs : List Byte) : State :=
  match s.sideWrite space va bs with
  | .inl _ => s
  | .inr s => s

/-! ### Retirement (R21, R114, R247) -/

/-- Write a token of LAUNCH or DRAW to the batt that issued it, resident or saved; a batt that has exited gets none (R114, R132, R230). -/
def State.giveToken (s : State) (owner : BattId) (token : Nat) (v : DWord) : State :=
  match s.battOf? owner with
  | some b => s.writeToken b.core b.slot token v
  | none =>
    let mine (m : BattImage) : Bool := owner == .batt m.lnum m.felt m.b && m.tokPend.getLsbD token
    let patch (m : BattImage) : BattImage :=
      let pend := m.tokPend &&& ~~~(BitVec.ofNat 64 (2 ^ token))
      let put (l : List Byte) (at' : Nat) (v : DWord) : List Byte := l.take at' ++ bytesOf 8 v.toNat ++ l.drop (at' + 8)
      { m with bytes := if m.bytes.isEmpty then [] else put (put m.bytes 120 pend) (512 + 8 * token) v
               tokPend := pend }
    let saved := ((s.ctxs.mapIdx fun x c => (c.battImages.filter fun m => mine m && m.addr != 0).map fun m => (x, patch m)).flatten)
    let s : State := { s with ctxs := s.ctxs.map fun c => if c.battImages.isEmpty then c else { c with battImages := mapIf mine patch c.battImages } }
    saved.foldl (fun s m =>
      (s.sideStore m.1 (m.2.addr + BitVec.ofNat 64 (512 + 8 * token)) (bytesOf 8 v.toNat)).sideStore m.1 (m.2.addr + 120) (bytesOf 8 m.2.tokPend.toNat)) s

/-- The token word (R114). -/
def Launch.tokenWord (l : Launch) : DWord := BitVec.ofNat 64 (l.lnum * 2 ^ 32 + l.cause % 256 * 2 ^ 8 + l.status % 256)

/-- Has every batt exited, with no felt left to place or restore? A pass must have retired (R377). -/
def Launch.finished (l : Launch) : Bool :=
  l.killed || (l.left == 0 && l.saved.isEmpty &&
    (match l.pass with | some p => p.stage == .retired | none => l.next == l.recd.nfelt))

/-- The stores of a context are published and applied, and its units written back (R21, R285). -/
def State.settleContext (s : State) (space : Nat) : State :=
  (List.range s.cores.length).foldl (fun s c => if (s.core c).log.isEmpty then s else s.fullEntries c fun e => e.space == space) (s.writeBackAll space)

/-- LAUNCH_RETIREMENT (R114). -/
def execLaunchRetirement (lnum : Nat) (s : State) : Host.Outcome State Fault Refusal :=
  match s.launch? lnum with
  | none => .next s
  | some l =>
    if !l.finished then .next s else
    let s := (if l.killed then s else s.settleContext l.recd.ctx).dropMarks l.recd.ctx
    let s : State := { s with launches := s.launches.filter fun x => x.lnum != lnum }
    .next (s.giveToken l.owner l.token l.tokenWord)

end Sys2Proof.Machine
end

