-- ==== Sys2Proof/Machine/Save.lean ====
section
/-! DEFINITION. Pre-emption: rest, the saving of a batt, the save area and its completion (R128 to R139, R310, R401). -/

namespace Sys2Proof.Machine

/-! ### Layout helpers -/

/-- n zero bytes. -/
def zeroBytes (n : Nat) : List Byte := List.replicate n 0

/-- Pad to a multiple of k. -/
def padTo (k : Nat) (l : List Byte) : List Byte := l ++ zeroBytes ((k - l.length % k) % k)

/-! ### Pre-emption points (R85 to R87) -/

/-- The pre-emption entry of a program counter: its address, when the search returns an entry of that key. -/
def State.pointAt (s : State) (b : Batt) (pc : DWord) : SideRes (Option DWord) :=
  match s.launchOf b with
  | none => .ok none
  | some l =>
    match s.findLast b.space l.recd.pretab 32 l.points pc with
    | .bad c a => .bad c a
    | .ok none => .ok none
    | .ok (some a) =>
      match s.sideNum b.space a 8 with
      | .bad c x => .bad c x
      | .ok k => .ok (if k = pc.toNat then some a else none)

/-- The registers of a run word, cut at v1023 (R87). -/
def runRegs (w : Nat) : List Nat := ((List.range (w / 2 ^ 16)).map fun i => w % 2 ^ 16 + i).filter (· < 1024)

/-- The vector live mask of a pre-emption entry (R87): 0 in MKIND is a bitmap, and how a value other than 0 and 1 reads the manual does not
say: the model takes every nonzero one as a run list (log 114). -/
def State.liveMask (s : State) (b : Batt) (entry : DWord) : SideRes (List Nat) :=
  match s.sideRead b.space entry 32 with
  | .bad c a => .bad c a
  | .ok e =>
    let body := (s.recOf b).pretab + BitVec.ofNat 64 (recNum e 20 4)
    if recNum e 17 1 = 0 then
      match s.sideRead b.space body 128 with
      | .bad c a => .bad c a
      | .ok m => .ok ((List.range 1024).filter fun n => (m.getD (n / 8) 0).getLsbD (n % 8))
    else
      match s.sideRead b.space body (4 * recNum e 18 2) with
      | .bad c a => .bad c a
      | .ok m => .ok (((words32 m).map fun w => runRegs w.toNat).flatten)

/-- What a lookup of a pre-emption entry reads, its live mask too. -/
def State.pointRuns (s : State) (b : Batt) (pc : DWord) : List (DWord × Nat) :=
  match s.launchOf b with
  | none => []
  | some l => s.lookupRuns b.space l.recd.pretab 32 l.points pc 8 ++ match s.pointAt b pc with
    | .ok (some e) => match s.sideRead b.space e 32 with
      | .ok x => [(e, 32), (l.recd.pretab + BitVec.ofNat 64 (recNum x 20 4), if recNum x 17 1 = 0 then 128 else 4 * recNum x 18 2)]
      | .bad _ _ => []
    | _ => []

/-! ### Rest (R129) -/

/-- Does the turn-holding split's next word await a token? -/
def State.awaitsToken (s : State) (b : Batt) : Bool :=
  b.tokens != 0 &&
  (match s.wordOf b with
   | some i => let u := s.wordUse b i; (u.reads ++ u.writes).any fun r => match r with | .s n => b.tokens.getLsbD n | _ => false
   | none => false)

/-- Is a batt at rest at this issue boundary (R129, R131)? One that a late check halted while its word waits at a barrier, WAITA or ABALLOC
is, once every other word has completed: nothing else ends such a wait while its launch is saved (R310). -/
def State.atRest (s : State) (b : Batt) : SideRes Bool :=
  if b.kind == .pixel || b.id == .ctl then .ok false
  else if b.resting then .ok true
  else if b.halted then .ok (b.trapped.isEmpty || (b.allBack && match b.wait with | .none => false | .launch _ _ => false | .commit _ => false | _ => true))
  else if b.faulted then .ok true
  else match b.wait with
    | .launch _ _ => .ok false
    | .none =>
      match b.turn with
      | none => .ok true
      | some l =>
        if s.awaitsToken b then .ok true else
        match s.pointAt b (b.lane l).pc with
        | .bad c a => .bad c a
        | .ok p => .ok p.isSome
    | _ => .ok true

/-! ### The saved set (R138, R157) -/

/-- The lowest lanes of a batt's splits, whatever their state; exited lanes belong to none. -/
def Batt.splitLows (b : Batt) : List Nat :=
  laneIds.filter fun l => (b.lane l).st != .exited && lowLane (b.splitOf l) == some l

/-- The registers that the splits contribute (R138). A split that waits, at whatever word, is taken as one that is not at a listed
point: it contributes every register (log 82). -/
def State.contributed (s : State) (b : Batt) : List Nat → SideRes (List Nat)
  | [] => .ok []
  | l :: ls =>
    match s.contributed b ls with
    | .bad c a => .bad c a
    | .ok rest =>
      let all := (b.vregs.filter fun r => r.backed || r.tag.isSome).map (·.num)
      if (b.lane l).st != .ready then .ok (all ++ rest) else
      match s.pointAt b (b.lane l).pc with
      | .bad c a => .bad c a
      | .ok none => .ok (all ++ rest)
      | .ok (some e) =>
        match s.liveMask b e with
        | .bad c a => .bad c a
        | .ok m => .ok (m ++ rest)

/-- Sources of tagged registers of the set join it (R157). -/
def State.closeSet (s : State) (b : Batt) : Nat → List Nat → List Nat
  | 0, l => l
  | fuel + 1, l =>
    let src := (b.vregs.filterMap fun r => if l.contains r.num then (r.tag.bind fun t => s.recipeOf b t.1).map fun x => recipeSources x.1 x.2 else none).flatten
    s.closeSet b fuel (l ++ src.filter fun n => !l.contains n)

/-- A vector register's place in the image: none, tagged with a recipe, or imaged. -/
inductive VImage where
  | tagged (n recipe : Nat)
  | image (r : VReg)
  deriving DecidableEq, Repr

/-- The images of the saved set, in ascending register number (R138). -/
def vImages (b : Batt) (set : List Nat) : List VImage :=
  (b.vregs.filter fun r => set.contains r.num).filterMap fun r =>
    match r.tag with
    | some (n, _) => if r.poison = 0 then some (.tagged r.num n) else some (.image r)
    | none => if r.backed then some (.image r) else none

/-! ### The batt block (R137) -/

/-- The lane state code of R137. -/
def LaneSt.code : LaneSt → Nat
  | .ready => 0
  | .rejoin => 1
  | .syncb => 2
  | .barrier => 3
  | .exited => 4

/-- The register map byte of R137. -/
def mapByte (vs : List VImage) (n : Nat) : Byte :=
  match vs.find? fun v => match v with | .tagged m _ => m == n | .image r => r.num == n with
  | some (.tagged _ k) => BitVec.ofNat 8 (2 ^ 6 + k)
  | some (.image _) => 2 ^ 7
  | none => 0

/-- A poison entry (R137). -/
def poisonEntry (kind bank first mask : Nat) : List Byte := bytesOf 8 (mask * 2 ^ 32 + kind * 2 ^ 30 + bank * 2 ^ 16 + first)

/-- The poison entries of a list of poisoned words, 32 words to an entry. -/
def wordEntries (kind bank : Nat) (words : List Nat) : List (List Byte) :=
  ((words.map (· / 32)).eraseDups).map fun g =>
    poisonEntry kind bank (32 * g) ((words.filter fun w => w / 32 == g).foldl (fun m w => m + 2 ^ (w % 32)) 0)

/-- The poison entries of a batt: register lanes, then bank words. -/
def battPoison (b : Batt) (vs : List VImage) : List (List Byte) :=
  (vs.filterMap fun v => match v with
    | .image r => if r.poison = 0 then none else some (poisonEntry 0 0 r.num r.poison.toNat)
    | _ => none) ++ (b.banks.map fun k => wordEntries 1 k.num k.poison).flatten

/-- A log entry as a save area holds it (R241). -/
def logImage (e : LogEntry) : List Byte :=
  bytesOf 8 (e.sector % 2 ^ 34 * 2 ^ 30 + e.seq % 2 ^ 20 * 2 ^ 10 + e.scope * 2 ^ 8 + e.depth * 2 ^ 5 + (if e.pois then 2 ^ 4 else 0) + e.space % 16) ++
  bytesOf 8 e.mask.toNat ++ (List.range 64).map fun i => if e.mask.getLsbD i then e.data.getD i 0 else 0

/-- The body of a batt block, after its header. -/
def battBody (b : Batt) (vs : List VImage) (log : List LogEntry) : List Byte :=
  (laneIds.map fun l => let x := b.lane l; bytesOf 8 (x.pc.toNat / 8 * 8 + x.st.code)).flatten ++
  ((List.range 64).map fun n => bytesOf 8 (b.s n).toNat).flatten ++
  ((List.range 1024).map (mapByte vs)) ++
  (vs.map fun v => match v with
    | .image r => (laneIds.map fun l => bytesOf 4 (r.lanes.getD l 0).toNat).flatten
    | _ => []).flatten ++
  (b.banks.map fun k => k.data.read 0 bankBytes).flatten ++
  (log.map logImage).flatten ++ (battPoison b vs).flatten

/-- The batt block (R137): header and body, a multiple of 256 bytes. -/
def battBlock (b : Batt) (vs : List VImage) (log : List LogEntry) : List Byte :=
  let body := battBody b vs log
  let size := 256 * ceilDiv (256 + body.length) 256
  let nvec := (vs.filter fun v => match v with | .image _ => true | _ => false).length
  let header : List Byte :=
    zeroBytes 56 ++ bytesOf 1 b.id.b ++ bytesOf 1 b.cursor ++ bytesOf 1 b.quant ++ bytesOf 1 (if b.halted then 1 else 0) ++
    bytesOf 8 b.sPoison.toNat ++ zeroBytes 24 ++ bytesOf 4 size ++ bytesOf 2 (battPoison b vs).length ++
    bytesOf 2 ((b.banks.map fun k => 2 ^ k.num).foldl (· + ·) 0) ++ bytesOf 2 log.length ++ bytesOf 2 nvec ++
    bytesOf 4 b.fpcr.toNat ++ bytesOf 4 b.fpsr.toNat ++ bytesOf 8 b.cont ++ bytesOf 8 b.tokens.toNat ++
    ([0, 1, 2, 3].map fun i => bytesOf 8 ((b.regions[i]?).map (·.handler.toNat) |>.getD 0)).flatten ++
    bytesOf 4 b.exited.toNat ++ ((List.range 7).map fun i => bytesOf 4 (b.p i).toNat).flatten ++
    ((List.range 8).map fun i => bytesOf 8 ((b.rejoinE.getD i 0).toNat + (b.rejoinA.getD i 0).toNat * 2 ^ 32)).flatten
  padTo 256 (header ++ body)

/-! ### BATT_SAVE (R130) -/

/-- The state between rest and save: engines complete, held arrivals, registrations and a queued ABALLOC are withdrawn, the
context's unpinned entries of the core are fulled (R130, R310). A held BART that a copy of the batt itself gets refused traps first
(R298), and a trap that waited for the word at the barrier takes its effect. What the core's atomic unit has changed for the context is
written back, for the batt's later FLUSHH may be on another core (R275, R285; log 98). -/
def State.battSettle (s : State) (core slot : Nat) : State :=
  let s := (s.completeEngines core slot).settleHalted
  let b := s.battAt core slot
  let s := s.withdraw b
  let s := s.modBatt core slot fun b =>
    match b.wait with
    | .held _ _ _ _ => { b.modLanes (b.lanesWhere fun l => l.st == .barrier) (fun l => { l with st := .ready }) with wait := .none }
    | _ => b
  let s := s.settleTrapIf true core slot
  (s.writeBackL1Unit core b.space).fullEntries core fun e => e.space == b.space

/-- A backed register without its value, of which a lane is poisoned: it is saved with an image (R138, R149, R151). -/
def VReg.unvalued (r : VReg) : Bool := r.backed && r.lanes.isEmpty && r.poison != 0

/-- Save a batt: its image is kept until the save area is written; its resources are released. -/
def State.saveBatt (s : State) (core slot : Nat) (set : List Nat) : State :=
  let b0 := (s.battAt core slot).unreserve
  let b := { b0 with vregs := mapIf VReg.unvalued (fun r => { r with lanes := s.takenLanes b0 r }) b0.vregs }
  let vs := vImages b (s.closeSet b 4 set)
  let mine (e : LogEntry) : Bool := e.owner == slot && e.depth != 0
  let log := (s.core core).log.filter mine
  let img : BattImage :=
    { lnum := b.id.lnum, felt := b.id.felt, b := b.id.b, bytes := battBlock b vs log, tokPend := b.tokens, kind := b.kind,
      feltNo := b.feltNo, draw := b.draw, deferred := b.deferred, comps := log.map (·.comp), core := core, slot := slot,
      kept63 := b.vregs.filterMap fun r => r.kept63.map fun k => (r.num, k) }
  let s : State := { s with free := if b0.vregs.any VReg.unvalued then s.free + 32 else s.free }
  let s := s.modCore core fun c => { c with log := c.log.filter fun e => !mine e }
  let s := s.modCtx b.space fun c => { c with battImages := c.battImages ++ [img] }
  let s := s.modLaunch b.id.lnum fun l => { l with frozen := true }
  let s := s.modFelt b.id.lnum b.id.felt fun f => { f with left := f.left - 1 }
  s.dropBatt b

/-- What the save of a batt reads: the pre-emption entries of its ready splits. -/
def State.saveRuns (s : State) (b : Batt) : List (DWord × Nat) :=
  ((b.splitLows.filter fun l => (b.lane l).st == .ready).map fun l => s.pointRuns b (b.lane l).pc).flatten

/-- BATT_SAVE (R130): a batt of a context that is being pre-empted, at rest, with every outstanding register write complete. An
unreadable pre-emption table kills the context (R461). -/
def execBattSave (core slot : Nat) (s : State) : Host.Outcome State Fault Refusal :=
  match s.batt? core slot with
  | none => .next s
  | some b =>
    if b.space = 16 || (s.ctx b.space).ctxst != 1 || !b.ops.isEmpty then .next s else
    match s.atRest b with
    | .bad c a => .next (s.killUnreadable b.space c a)
    | .ok false => .next s
    | .ok true =>
      let s := s.battSettle core slot
      if (s.batt? core slot).isNone then .next s else
      let b := s.battAt core slot
      match s.contributed b b.splitLows with
      | .bad c a => .next (s.killUnreadable b.space c a)
      | .ok set => .next ((s.saveBatt core slot set).fetchRuns b.space (s.saveRuns b))

/-! ### The save area (R133 to R136, R139) -/

/-- The barrier state word as saved: HELD exact up to 127 (R134, R310). -/
def barWords (n : Nat) (l : List Barrier) : List Byte :=
  ((List.range n).map fun i => bytesOf 8 ((l[i]?).map (·.word.toNat) |>.getD 0)).flatten

/-- Too many RED arrivals held (R310). -/
def Barrier.overHeld (x : Barrier) : Bool := 127 < (x.held.filter (· == .red)).length

/-- The felt block without its batt blocks, and its length with them (R136). -/
def feltBlock (f : Felt) (scratch : Nat) (batts : List BattImage) : List Byte :=
  let pois := wordEntries 2 0 f.scratchPoison
  let image := padTo 256 (f.scratch.read 0 scratch ++ pois.flatten)
  let blocks := (batts.map (·.bytes)).flatten
  let size := 256 + image.length + blocks.length
  bytesOf 4 f.felt ++ zeroBytes 1 ++ bytesOf 1 batts.length ++ bytesOf 1 (clusterOf f.core) ++ zeroBytes 1 ++ bytesOf 4 scratch ++
    bytesOf 4 size ++ bytesOf 4 pois.length ++ zeroBytes 108 ++ barWords 16 f.bars ++ image ++ blocks

/-- The launch block (R135). -/
def launchBlock (l : Launch) (nfelts : Nat) : List Byte :=
  padTo 256 (bytesOf 4 l.lnum ++ zeroBytes 4 ++ bytesOf 4 nfelts ++ zeroBytes 84 ++ barWords 4 l.lbars ++
    ((List.range 16).map fun k => barWords 16 (((l.cbars.find? fun x => x.1 == k).map (·.2)).getD [])).flatten)

/-- What a save area will hold: bytes by offset from the base, where each launch's block and felts and batts lie. -/
structure SavePlan where
  next : Nat := 256
  parts : List (Nat × List Byte) := []
  launches : List (Nat × Nat) := []
  felts : List (Nat × Nat × Nat × Nat) := []
  batts : List (Nat × Nat × Nat × Nat) := []

/-- Lay a felt and its batts. -/
def SavePlan.addFelt (p : SavePlan) (f : Felt) (scratch : Nat) (batts : List BattImage) : SavePlan :=
  let bytes := feltBlock f scratch batts
  let start := p.next + (bytes.length - ((batts.map (·.bytes.length)).foldl (· + ·) 0))
  let places := (batts.foldl (fun (acc : Nat × List (Nat × Nat × Nat × Nat)) m =>
    (acc.1 + m.bytes.length, acc.2 ++ [(m.lnum, m.felt, m.b, acc.1)])) (start, [])).2
  { p with next := p.next + bytes.length, parts := p.parts ++ [(p.next, bytes)],
           felts := p.felts ++ [(f.lnum, f.felt, clusterOf f.core, p.next)], batts := p.batts ++ places }

/-- Lay again the block of a felt that an earlier save left and no restore has placed: its bytes as they stand, its batts at their
distances (R133, R140). -/
def SavePlan.addKept (p : SavePlan) (f : SavedFelt) (bytes : List Byte) (batts : List BattImage) : SavePlan :=
  { p with next := p.next + bytes.length, parts := p.parts ++ [(p.next, bytes)], felts := p.felts ++ [(f.lnum, f.felt, f.cluster, p.next)],
           batts := p.batts ++ batts.map fun m => (m.lnum, m.felt, m.b, p.next + (m.addr - f.addr).toNat) }

/-- The block of a felt that no restore has placed, by its SIZE (R136). -/
def State.keptBlock (s : State) (space : Nat) (f : SavedFelt) : SideRes (List Byte) :=
  match s.sideNum space (f.addr + 12) 4 with
  | .bad c a => .bad c a
  | .ok n => s.sideRead space f.addr n

/-- The launch block of a launch whose barriers no restore has read yet. -/
def State.keptLaunch (s : State) (l : Launch) : SideRes (List Byte) :=
  match l.savedBlock with
  | some a => if l.claimed then .ok [] else s.sideRead l.recd.ctx a 2176
  | none => .ok []

/-- What was read, where it could be. -/
def SideRes.bytes (r : SideRes (List Byte)) : List Byte := match r with | .ok bs => bs | .bad _ _ => []

/-- The cause and address of a read that failed. -/
def SideRes.error {α : Type} (r : SideRes α) : Option (Nat × DWord) := match r with | .ok _ => none | .bad c a => some (c, a)

/-- Lay a launch, its felts in ascending index and their batts in ascending b: felts on cores, and felts of an earlier save that are not
placed again. Of a launch whose barriers are still in its block the block is laid again, with the count of its felts. -/
def State.planLaunch (s : State) (space : Nat) (p : SavePlan) (l : Launch) : SavePlan :=
  let felts : List (Nat × Sum Felt SavedFelt) := sortBy (fun a b => a.1 < b.1)
    (((s.felts.filter fun f => f.lnum == l.lnum).map fun f => (f.felt, .inl f)) ++ l.saved.map fun f => (f.felt, .inr f))
  let kept := (s.keptLaunch l).bytes
  let bytes := if kept.isEmpty then launchBlock l felts.length else padTo 256 (kept.take 8 ++ bytesOf 4 felts.length ++ kept.drop 12)
  let p := { p with next := p.next + bytes.length, parts := p.parts ++ [(p.next, bytes)], launches := p.launches ++ [(l.lnum, p.next)] }
  let images (n : Nat) : List BattImage :=
    sortBy (fun a b => a.b < b.b) ((s.ctx space).battImages.filter fun m => m.lnum == l.lnum && m.felt == n)
  felts.foldl (fun p x => match x.2 with
    | .inl f => p.addFelt f l.recd.scratch (images f.felt)
    | .inr f => p.addKept f (s.keptBlock space f).bytes (images f.felt)) p

/-- The launches of a context that the save area describes, in ascending number: those of which a felt has been placed, or waits in an
earlier save to be placed again. The manual does not say whether an outstanding launch without one gets a block; here it gets none, and
starts anew after the restore (R133, log 83). -/
def State.startedLaunches (s : State) (space : Nat) : List Launch :=
  sortBy (fun a b => a.lnum < b.lnum) (s.launches.filter fun l => l.recd.ctx == space && (l.claimed || l.savedBlock.isSome) && !l.killed)

/-- The first block of an earlier save, to be laid again, that cannot be read: its cause and the failing address. -/
def State.keptFails (s : State) (space : Nat) : Option (Nat × DWord) :=
  (s.startedLaunches space).findSome? fun l =>
    ((s.keptLaunch l).error).orElse fun _ => l.saved.findSome? fun f => (s.keptBlock space f).error

/-- What laying blocks of an earlier save again reads. -/
def State.keptRuns (s : State) (space : Nat) : List (DWord × Nat) :=
  ((s.startedLaunches space).map fun l =>
    (match l.savedBlock with | some a => if l.claimed then [] else [(a, 2176)] | none => []) ++
    l.saved.map fun f => (f.addr, (s.keptBlock space f).bytes.length)).flatten

/-- What a restore, or a save that follows it, reads of a save area cannot be read: the context is killed, and the record names the
poisoned sector (R422). The manual names only poison in a save block; a failing translation is taken as R461 takes one (log 86). -/
def State.restoreFails (s : State) (space cause : Nat) (addr : DWord) : State :=
  s.killUnreadable space cause (if cause = cPOISON then addr &&& ~~~(63 : DWord) else addr)

/-- The whole save area. -/
def State.savePlan (s : State) (space : Nat) : SavePlan :=
  let ls := s.startedLaunches space
  let p := ls.foldl (s.planLaunch space) {}
  { p with parts := (0, bytesOf 4 ls.length ++ zeroBytes 4 ++ bytesOf 8 p.next ++ zeroBytes 48) :: p.parts }

/-- A barrier of the context that holds too many RED arrivals: its reference (R310). -/
def State.overHeldRef (s : State) (space : Nat) : Option Nat :=
  let tooMany (kind : Nat) (bs : List Barrier) : Option Nat := (findIdx Barrier.overHeld bs 0).map fun n => 2 ^ 9 + kind * 16 + n
  (s.startedLaunches space).findSome? fun l =>
    ((s.felts.filter fun f => f.lnum == l.lnum).findSome? fun f => tooMany 0 f.bars).orElse fun _ =>
      ((l.cbars.findSome? fun c => tooMany 1 c.2).orElse fun _ => tooMany 2 l.lbars)

/-- Write the parts from a base; the first failure and its cause. -/
def State.writeParts (s : State) (space base : Nat) : List (Nat × List Byte) → Sum (Nat × DWord) State
  | [] => .inr s
  | (o, bs) :: rest =>
    match s.sideWrite space (BitVec.ofNat 64 (base + o)) bs with
    | .inl e => .inl e
    | .inr s => s.writeParts space base rest

/-- The batt that the record of a failed save names (R422): the one whose block holds the place, else the last before it, else the first
of the save (log 84). -/
def State.failedBatt (s : State) (space : Nat) (p : SavePlan) (off : Nat) : Option BattImage :=
  let at' := ((p.batts.filter fun x => x.2.2.2 ≤ off).getLast?).orElse fun _ => p.batts.head?
  at'.bind fun x => (s.ctx space).battImages.find? fun m => m.lnum == x.1 && m.felt == x.2.1 && m.b == x.2.2.1

/-- A save fails: the context is killed with STATUS 0x03, and a record names the batt and the address (R139, R422). -/
def State.saveFails (s : State) (space cause : Nat) (addr : DWord) (who : Option BattImage) : State :=
  let r := plainRecord space cause addr
  let r : TrapRecord := match who with
    | some m => { r with owner := .batt m.lnum m.felt m.b, core := m.core, slot := m.slot, b := m.b, lnum := m.lnum, felt := m.feltNo }
    | none => r
  (s.addRecord (windowOf space) r).killContext space 3 0

/-- The message of a completed command or of a saved context (R441). -/
def State.cmdMessage (s : State) : State := if s.dev.cmdIe then s.emit (.msix s.dev.cmdVec) else s

/-- The context is saved: CTXST 2, its launches keep where their blocks lie, its felts and barriers are released. -/
def State.markSaved (s : State) (space base : Nat) (p : SavePlan) : State :=
  let at' (o : Nat) : DWord := BitVec.ofNat 64 (base + o)
  let s := (s.felts.filter fun f => p.felts.any fun x => x.1 == f.lnum && x.2.1 == f.felt).foldl (fun s f => s.dropFelt f.lnum f.felt f.core) s
  let keep (l : Launch) : Launch :=
    { l with started := false, claimed := false, lbars := [], cbars := [], savedBlock := ((p.launches.find? fun x => x.1 == l.lnum).map fun x => at' x.2)
             saved := (p.felts.filter fun x => x.1 == l.lnum).map fun x => { lnum := x.1, felt := x.2.1, cluster := x.2.2.1, addr := at' x.2.2.2 } }
  let s : State := { s with launches := mapIf (fun l => p.launches.any fun x => x.1 == l.lnum) keep s.launches }
  let s : State := { s with launches := mapIf (fun l => l.recd.ctx == space && !l.killed) (fun l => { l with started := false }) s.launches }
  let place (m : BattImage) : BattImage :=
    match p.batts.find? fun x => x.1 == m.lnum && x.2.1 == m.felt && x.2.2.1 == m.b with
    | some x => { m with addr := at' x.2.2.2, bytes := [] }
    | none => m
  (s.modCtx space fun c => { c with ctxst := 2, battImages := c.battImages.map place }).cmdMessage

/-- Pre-emption completes when no batt of the context is resident and its passes are at rest (R128, R139). A context without a save base
and with nothing to save is saved at once, as R442 says of one without a resident batt; R139, which kills for the lack of a base, is
taken to speak of a save that writes (log 83). R139 does not say whether parts written before a save write that faults stay in memory: the
model leaves none of them written (log 127). -/
def State.completePreempt (s : State) (ctx : Nat) : State :=
  if (s.ctx ctx).ctxst != 1 || (s.batts.any fun b => b.space == ctx) || 16 ≤ ctx ||
     !(s.launches.all fun l => l.recd.ctx != ctx || l.killed || l.passAtRest) then s
  else
    let p := s.savePlan ctx
    match s.overHeldRef ctx with
    | some r => s.saveFails ctx cBARTX (BitVec.ofNat 64 r) (s.failedBatt ctx p 0)
    | none =>
      match (s.ctx ctx).saveBase with
      | none => if p.launches.isEmpty then s.markSaved ctx 0 p else s.saveFails ctx cXLAT 0 (s.failedBatt ctx p 0)
      | some base =>
        match s.keptFails ctx with
        | some (c, a) => s.restoreFails ctx c a
        | none =>
          match s.writeParts ctx base p.parts with
          | .inl (c, a) => s.saveFails ctx (if c = cPROT then cPROT else cXLAT) a (s.failedBatt ctx p (a.toNat - base))
          | .inr t => (t.markSaved ctx base p).fetchRuns ctx (s.keptRuns ctx)

/-- PREEMPT_COMPLETE (R128). -/
def execPreemptComplete (ctx : Nat) (s : State) : Host.Outcome State Fault Refusal := .next (s.completePreempt ctx)

/-! ### PREEMPT and RESTORE as state changes (R128, R140, R442) -/

/-- A batt that is at rest issues nothing more (R129). -/
def State.restNow (s : State) (b : Batt) : State :=
  match s.atRest b with
  | .ok true => s.modBatt b.core b.slot fun b => { b with resting := true }
  | _ => s

/-- Start pre-emption (R128): batts that are at rest stay there. A context with no resident batt becomes saved at once (R442). -/
def State.startPreempt (s : State) (ctx : Nat) : State :=
  let s := s.modCtx ctx fun c => { c with ctxst := 1 }
  (((s.batts.filter fun b => b.space == ctx).foldl State.restNow s).shelve ctx).completePreempt ctx

/-- Start restore: a launch stays frozen until every saved felt of it has been placed (R310). -/
def State.startRestore (s : State) (ctx : Nat) : State :=
  let s := s.modCtx ctx fun c => { c with ctxst := 0 }
  { s with launches := mapIf (fun l => l.recd.ctx == ctx) (fun l => { l with frozen := !l.saved.isEmpty }) s.launches }

end Sys2Proof.Machine
end

