-- ==== Sys2Proof/Machine/Dispatcher.lean ====
section
/-! DEFINITION. The dispatcher and the issue queues: fit, placement, restored felts, DISPATCH_CYCLE, ACTIVE_POSITION_FILL,
DEPENDENCE_RESOLVED (R14 to R18, R89, R113, R118 to R123, R140, R141, R144, R231, R297, R378). -/

namespace Sys2Proof.Machine

/-! ### Fit (R14, R15) -/

/-- What a felt asks of a core: its launch, its index, batts, quota, and its number for R16. -/
structure FeltAsk where
  l : Launch
  felt : Nat
  feltNo : Nat
  batts : List Nat
  regs : Nat

/-- Batts that the felt would put into a quarter (R16). -/
def FeltAsk.inQuarter (a : FeltAsk) (q : Nat) : Nat := (a.batts.filter fun b => (a.feltNo + b) % 4 == q).length

/-- Is a launch resident on a core, or in a cluster? -/
def State.launchOn (s : State) (lnum core : Nat) : Bool := s.felts.any fun f => f.lnum == lnum && f.core == core
/-- In a cluster. -/
def State.launchIn (s : State) (lnum k : Nat) : Bool := s.felts.any fun f => f.lnum == lnum && clusterOf f.core == k

/-- Sum of a count. -/
def sumOf {α : Type} (l : List α) (f : α → Nat) : Nat := (l.map f).foldl (· + ·) 0

/-- SCRATCH and FBAR of the launch of a resident felt. -/
def State.feltRec (s : State) (f : Felt) : LaunchRec := ((s.launch? f.lnum).map (·.recd)).getD {}

/-- What a quarter does not offer because the HKC holds it for the control program, whether its batt stands or has exited: one batt slot
and REGS / 8 granules of quarter 0 of core 0 (R19). -/
def State.ctlHold (s : State) (c q : Nat) : Nat × Nat := if c = 0 ∧ q = 0 ∧ s.dev.ctlRegs ≠ 0 then (1, s.dev.ctlRegs / 8) else (0, 0)

/-- Does the felt fit the core (R15)? A partition that would take a held sector of the L1 waits until it is not held (R17): so does the
placement that asks for it (log 80). -/
def State.fits (s : State) (a : FeltAsk) (c : Nat) : Bool :=
  let here := s.batts.filter fun b => b.core == c
  let felts := s.felts.filter fun f => f.core == c
  let r := a.l.recd
  let quarter (q : Nat) : Bool :=
    let mine := here.filter fun b => b.quarter == q && b.id != .ctl
    let n := a.inQuarter q
    let ctl := s.ctlHold c q
    mine.length + n + ctl.1 ≤ 48 && sumOf mine (fun b => b.regs / 8) + n * (a.regs / 8) + ctl.2 ≤ 256
  [0, 1, 2, 3].all quarter && s.scratchHeld c + r.scratch ≤ 262144 &&
  ((s.core c).l1.filter fun x => !x.held.isEmpty).length ≤ l1Sectors (partitionFor (s.scratchHeld c + r.scratch)) &&
  sumOf felts (fun f => (s.feltRec f).fbar) + r.fbar ≤ 64 &&
  (s.launchOn a.l.lnum c || (s.core c).recipes.length + a.l.recipes ≤ 512) &&
  (s.launchIn a.l.lnum (clusterOf c) ||
    sumOf (s.launches.filter fun l => l.started && s.launchIn l.lnum (clusterOf c)) (fun l => l.recd.cbar) + r.cbar ≤ 16)

/-- The cores in the order of R118. -/
def State.coreOrder (s : State) : List Nat := (List.range 128).map fun i => (s.dev.dispatchLast + 1 + i) % 128

/-! ### Claims of a placement -/

/-- Member batts of a kind in one felt. -/
def LaunchRec.members (r : LaunchRec) (kind : Nat) : Nat := ((List.range r.nbatt).filter fun b => Nat.testBit (r.barMem kind) b).length

/-- Launch-barrier slots in use (R14). -/
def State.lbarsUsed (s : State) : Nat := sumOf (s.launches.filter fun l => l.started && !l.killed) fun l => l.recd.lbar

/-- Is the control batt halted by a trap? Then no further launch starts (R19). -/
def State.ctlHalted (s : State) : Bool := ((s.battOf? .ctl).map (·.halted)).getD false

/-- May a launch start: claim its launch-barrier slots (R14)? Its context must run; while the control batt is halted only a launch that
had started before its save may (R19). -/
def State.mayStart (s : State) (l : Launch) : Bool :=
  !l.started && !l.killed && (s.ctx l.recd.ctx).ctxst == 0 && (!s.ctlHalted || l.savedBlock.isSome) && s.lbarsUsed + l.recd.lbar ≤ 64

/-- Launches that can start do so, in enqueue order; one whose slots are not free is passed over (R14, R118; log 85). -/
def State.startLaunches (s : State) : State :=
  s.launches.foldl (fun s l =>
    if s.mayStart l then s.modLaunch l.lnum fun l => { l with started := true } else s) s

/-- The launch's barriers as it starts (R14, R295); they are laid out when its first felt is placed, before which nothing reads them. -/
def State.claimLaunch (s : State) (l : Launch) : State :=
  s.modLaunch l.lnum fun l =>
    { l with claimed := true, lbars := List.replicate l.recd.lbar { count := l.recd.members 2 * l.recd.nfelt } }

/-- The recipe entries of a launch, copied at its first felt on a core (R18, R89). -/
def State.readRecipes (s : State) (l : Launch) : Nat → SideRes (List RecipeSlot)
  | 0 => .ok []
  | n + 1 =>
    match s.readRecipes l n with
    | .bad c a => .bad c a
    | .ok rest =>
      match s.sideRead l.recd.ctx (l.recd.rectab + BitVec.ofNat 64 (16 + 40 * n)) 40 with
      | .bad c a => .bad c a
      | .ok e => .ok (rest ++ [{ lnum := l.lnum, num := n, len := recNum e 0 3,
                                 words := [0, 1, 2, 3].map fun i => BitVec.ofNat 64 (recNum e (8 + 8 * i) 8) }])

/-- Cluster barriers: fresh at the launch's first felt in the cluster, raised by every later one (R295, R297). `n` is the felt's
member batts. -/
def State.claimCbars (s : State) (l : Launch) (c n : Nat) : State :=
  let k := clusterOf c
  s.modLaunch l.lnum fun l =>
    if l.cbars.any fun x => x.1 == k then
      { l with cbars := mapIf (fun x => x.1 == k) (fun x => (x.1, x.2.map fun b => { b with count := b.count + n })) l.cbars }
    else { l with cbars := l.cbars ++ [(k, List.replicate l.recd.cbar { count := n })] }

/-- The lowest free slot of a quarter that the HKC does not hold (R19). -/
def State.freeSlotOf (s : State) (c q : Nat) : Nat :=
  let held (slot : Nat) : Bool := c == 0 && s.dev.ctlRegs != 0 && slot == s.dev.ctlSlot
  (((List.range 48).map fun i => 48 * q + i).find? fun slot => (s.batt? c slot).isNone && !held slot).getD (48 * q)

/-- A batt takes its slot, which no other batt holds, and joins the tail of its quarter's ready queue (R121), unless it is a restored one
that waits or is halted. -/
def State.seat (s : State) (b : Batt) : State :=
  if (s.batt? b.core b.slot).isSome then s else
  let s : State := { s with batts := s.batts ++ [b] }
  if b.free && !(b.tokens != 0 && s.meetsLong b) then s.joinReady b.core b.slot else s

/-- What the copying of recipes for a placement on a core reads. -/
def State.recipeRuns (s : State) (l : Launch) (c : Nat) : List (DWord × Nat) :=
  if s.launchOn l.lnum c || l.recipes = 0 then [] else [(l.recd.rectab + 16, 40 * l.recipes)]

/-- A felt takes its place on a core, without its batts: recipes, cluster barriers, partition, the acquire of R113. -/
def State.seatFelt (s : State) (l : Launch) (f : Felt) (recipes : List RecipeSlot) (members : Nat) : State :=
  let s := (s.fetchRuns l.recd.ctx (s.recipeRuns l f.core)).claimCbars l f.core members
  let s := s.modCore f.core fun c => { c with recipes := c.recipes ++ recipes }
  let s : State := { s with felts := s.felts ++ [f] }
  (s.setPartition f.core).acquireDevice f.core l.point

/-- Registers backed from placement (R144). -/
def pinnedRegs (n : Nat) : List VReg := (List.range n).map fun i => { num := i }

/-- The batts of a new compute felt (R120, R144). -/
def newBatt (l : Launch) (f c slot b : Nat) : Batt :=
  let r := l.recd
  { core := c, slot := slot, id := .batt l.lnum f b, space := r.ctx, quarter := quarterOfSlot slot, regs := r.regs, pinned := r.pinned,
    params := r.params, nfelt := r.nfelt, nbatt := r.nbatt, lanes := List.replicate 32 { pc := r.entry }, vregs := pinnedRegs r.pinned, feltNo := f }

/-- Recipes that a placement on a core has to copy. -/
def State.recipesFor (s : State) (l : Launch) (c : Nat) : SideRes (List RecipeSlot) :=
  if s.launchOn l.lnum c then .ok [] else s.readRecipes l l.recipes

/-- Place felt NEXT of a launch on a core (R118, R120). -/
def State.placeFelt (s : State) (l : Launch) (c : Nat) : State :=
  let r := l.recd
  match s.recipesFor l c with
  | .bad cause a => s.killUnreadable r.ctx cause a
  | .ok rs =>
    let f : Felt := { lnum := l.lnum, felt := l.next, core := c, left := r.nbatt, bars := List.replicate r.fbar { count := r.members 0 } }
    let s := s.seatFelt l f rs (r.members 1)
    let s := (List.range r.nbatt).foldl (fun s b => s.seat (newBatt l l.next c (s.freeSlotOf c ((l.next + b) % 4)) b)) s
    (s.modLaunch l.lnum fun l => { l with next := l.next + 1, left := l.left + r.nbatt }).modDev fun d => { d with dispatchLast := c }

/-! ### Felts of a pass (R378) -/

/-- A draw that has not started. -/
def emptyDraw : DrawInfo :=
  { raw := [], const := 0, vcache := 0, ventry := 0, fentry := 0, ntri := 0, nout := 0, depthTest := false, depthWrite := false,
    blend := false, cullBack := false, qmemo := false, vpure := none, fpure := none }

/-- Vertex felts of a draw. -/
def vertexFelts (ntri : Nat) : Nat := ceilDiv (3 * ntri) 32

/-- Lane values of a register that starts backed. -/
def laneReg (n : Nat) (v : Nat → Word) : VReg := { num := n, lanes := laneIds.map v }

/-- The batt of vertex felt m. -/
def vertexBatt (l : Launch) (p : Pass) (d : DrawInfo) (m c slot : Nat) : Batt :=
  { core := c, slot := slot, id := .batt l.lnum m 0, kind := .vertex, space := l.recd.ctx, quarter := quarterOfSlot slot, regs := p.vregs,
    params := d.const, nfelt := 0, nbatt := 1, feltNo := m, draw := p.draw
    lanes := laneIds.map fun i => { pc := d.ventry, st := if 32 * m + i < 3 * d.ntri then .ready else .exited }
    vregs := [laneReg 0 fun i => BitVec.ofNat 32 (32 * m + i)] }

/-- Place the next vertex felt of a draw. -/
def State.placeVertex (s : State) (l : Launch) (p : Pass) (d : DrawInfo) (c : Nat) : State :=
  match s.recipesFor l c with
  | .bad cause a => s.killUnreadable l.recd.ctx cause a
  | .ok rs =>
    let s := s.seatFelt l { lnum := l.lnum, felt := l.next, core := c, left := 1 } rs 0
    let s := s.seat (vertexBatt l p d l.next c (s.freeSlotOf c (l.next % 4)))
    (s.modLaunch l.lnum fun l => { l with next := l.next + 1, left := l.left + 1 }).modDev fun x => { x with dispatchLast := c }

/-- A felt number of a pixel felt that no vertex felt of the pass has: NTRI is at most 2^24. -/
def pixelFelt (n : Nat) : Nat := 2 ^ 24 + n

/-- The registers of a pixel batt that start backed (R378): λ1, λ2 and the depth are those of the pixel centre. -/
def pixelRegs (info : PixelInfo) (d : DrawInfo) (lam : Nat → Word × Word) (depth : Nat → Word) : List VReg :=
  let px (l : Nat) : Nat × Nat := (info.pixels.getD l none).getD (0, 0)
  [laneReg 0 (fun l => BitVec.ofNat 32 (px l).1), laneReg 1 (fun l => BitVec.ofNat 32 (px l).2), laneReg 2 (fun l => (lam l).1),
   laneReg 3 (fun l => (lam l).2), laneReg 4 (fun l => BitVec.ofNat 32 (info.cover.getD l 0)), laneReg 5 depth,
   laneReg 6 (fun _ => BitVec.ofNat 32 info.tri), laneReg 7 (fun _ => BitVec.ofNat 32 info.draw)] ++
  (if d.qmemo then
    [laneReg 8 (fun _ => d.fstate.1.setWidth 32), laneReg 9 (fun _ => (d.fstate.1 >>> 32).setWidth 32),
     laneReg 10 (fun _ => d.fstate.2.setWidth 32), laneReg 11 (fun _ => (d.fstate.2 >>> 32).setWidth 32),
     laneReg 12 (fun _ => BitVec.ofNat 32 (d.fcount % 2 ^ 16 + 2 ^ 16))]
   else [])

/-- The batt of a pixel felt; `regs` are its backed registers. -/
def pixelBatt (l : Launch) (p : Pass) (d : DrawInfo) (info : PixelInfo) (regs : List VReg) (c slot : Nat) : Batt :=
  { core := c, slot := slot, id := .batt l.lnum (pixelFelt p.nextPixel) 0, kind := .pixel, space := l.recd.ctx, quarter := quarterOfSlot slot,
    regs := p.fregs, params := d.const, nfelt := 0, nbatt := 1, feltNo := info.tile, draw := info.draw, pix := some info
    lanes := laneIds.map fun i => { pc := d.fentry, st := if (info.pixels.getD i none).isSome then .ready else .exited }
    vregs := regs }

/-- Place a pixel felt. -/
def State.placePixel (s : State) (l : Launch) (p : Pass) (info : PixelInfo) (regs : List VReg) (c : Nat) : State :=
  match s.recipesFor l c with
  | .bad cause a => s.killUnreadable l.recd.ctx cause a
  | .ok rs =>
    let d := p.infos.getD info.draw emptyDraw
    let s := s.seatFelt l { lnum := l.lnum, felt := pixelFelt p.nextPixel, core := c, left := 1 } rs 0
    let s := s.seat (pixelBatt l p d info regs c (s.freeSlotOf c (info.tile % 4)))
    (s.modLaunch l.lnum fun l =>
      { l with left := l.left + 1, pass := some { p with specs := p.specs.drop 1, nextPixel := p.nextPixel + 1 } }).modDev
        fun x => { x with dispatchLast := c }

/-! ### Restored felts (R140, R141, R309, R310) -/

/-- A barrier restored from its state word, which does not say whether anything has reached it since its last completion (R298): taken to be
so where ARRIVED or PEND is not 0 (log 109). -/
def barOfWord (w count : Nat) : Barrier :=
  { arrived := w / 2 ^ 32, phase := Nat.testBit w 24, pend := sval 24 (w % 2 ^ 24), count := count
    held := List.replicate (w / 2 ^ 25 % 2 ^ 7) .red, touched := w / 2 ^ 32 != 0 || w % 2 ^ 24 != 0 }

/-- Barriers from consecutive words. -/
def barsOf (n count : Nat) (bs : List Byte) : List Barrier := (List.range n).map fun i => barOfWord (recNum bs (8 * i) 8) count

/-- The lane of a saved lane word. -/
def laneOfWord (w : Nat) : Lane :=
  { pc := BitVec.ofNat 64 (w / 8 * 8)
    st := match w % 8 with | 0 => .ready | 1 => .rejoin | 2 => .syncb | 3 => .barrier | _ => .exited }

/-- Vector registers from the map and the images (R141). -/
def restoreRegs (map images : List Byte) : List VReg :=
  ((List.range 1024).foldl (fun (acc : List VReg × Nat) n =>
    let m := map.getD n 0
    if m.getLsbD 7 then
      (acc.1 ++ [{ num := n, lanes := laneIds.map fun l => BitVec.ofNat 32 (recNum images (128 * acc.2 + 4 * l) 4) }], acc.2 + 1)
    else if m.getLsbD 6 then (acc.1 ++ [{ num := n, backed := false, tag := some (m.toNat % 64, 1) }], acc.2)
    else acc) ([], 0)).1

/-- Bits of a mask, as word numbers from `first`. -/
def maskWords (first mask : Nat) : List Nat := ((List.range 32).filter fun i => Nat.testBit mask i).map fun i => first + i

/-- Set the poison of one entry (R137, R141). -/
def Batt.restorePoison (b : Batt) (e : Nat) : Batt :=
  let mask := e / 2 ^ 32
  if e / 2 ^ 30 % 4 = 0 then b.poisonV (e % 2 ^ 16) (BitVec.ofNat 32 mask)
  else b.modBank (e / 2 ^ 16 % 16) fun k => { k with poison := sortBy (· < ·) (k.poison ++ maskWords (e % 2 ^ 16) mask) }

/-- A saved log entry (R241), with what the image does not hold. -/
def logOfImage (bs : List Byte) (comp : Bool) (slot : Nat) : LogEntry :=
  let h := recNum bs 0 8
  { pos := 0, sector := h / 2 ^ 30, seq := 0, scope := h / 2 ^ 8 % 4, depth := h / 2 ^ 5 % 8, pois := Nat.testBit h 4, space := h % 16,
    mask := BitVec.ofNat 64 (recNum bs 8 8), data := (bs.drop 16).take 64, comp := comp, owner := slot }

/-- Append a restored entry with a fresh sequence number (R141). -/
def State.restoreEntry (s : State) (c : Nat) (e : LogEntry) : State :=
  let s := if (s.core c).log.length < 768 then s else s.fullLog c
  s.modCore c fun k => { k with log := k.log ++ [{ e with pos := k.nextPos, seq := k.seq }], nextPos := k.nextPos + 1, seq := (k.seq + 1) % 2 ^ 20 }

/-- The batt of a block, before it waits for anything (R141). -/
def battOfBlock (l : Launch) (m : BattImage) (regs : Nat) (params : DWord) (bs : List Byte) (c slot : Nat) : Batt :=
  let nvec := recNum bs 102 2
  let bankSet := (List.range 16).filter fun k => Nat.testBit (recNum bs 98 2) k
  let bankAt := 2048 + 128 * nvec
  let logAt := bankAt + 16384 * bankSet.length
  let poisAt := logAt + 80 * recNum bs 100 2
  let cont := recNum bs 112 8
  let b : Batt :=
    { core := c, slot := slot, id := .batt l.lnum m.felt m.b, kind := m.kind, space := l.recd.ctx, quarter := quarterOfSlot slot, regs := regs,
      pinned := l.recd.pinned, params := params, nfelt := l.recd.nfelt, nbatt := l.recd.nbatt, feltNo := m.feltNo, draw := m.draw,
      lanes := laneIds.map fun i => laneOfWord (recNum bs (256 + 8 * i) 8),
      scalars := (List.range 64).map fun i => BitVec.ofNat 64 (recNum bs (512 + 8 * i) 8), sPoison := BitVec.ofNat 64 (recNum bs 60 8),
      preds := (List.range 7).map fun i => BitVec.ofNat 32 (recNum bs (164 + 4 * i) 4),
      rejoinE := (List.range 8).map fun i => BitVec.ofNat 32 (recNum bs (192 + 8 * i) 4),
      rejoinA := (List.range 8).map fun i => BitVec.ofNat 32 (recNum bs (196 + 8 * i) 4),
      cursor := recNum bs 57 1 % 32, quant := recNum bs 58 1 % 32, fpcr := BitVec.ofNat 32 (recNum bs 104 4), fpsr := BitVec.ofNat 32 (recNum bs 108 4),
      regions := (List.range (cont % 8)).map fun i => { handler := BitVec.ofNat 64 (recNum bs (128 + 8 * i) 8), hard := Nat.testBit cont (3 + i) },
      vregs := restoreRegs ((bs.drop 1024).take 1024) (bs.drop 2048),
      banks := bankSet.mapIdx fun i k => { num := k, data := Memory.write [] 0 ((bs.drop (bankAt + 16384 * i)).take bankBytes) },
      tokens := BitVec.ofNat 64 (recNum bs 120 8), halted := recNum bs 59 1 % 2 == 1, claim := !bankSet.isEmpty, tag := .any, deferred := m.deferred }
  let b := { b with vregs := (pinnedRegs b.pinned).foldl (fun l r => if l.any (fun x => x.num == r.num) then l else putVReg l r) b.vregs }
  (List.range (recNum bs 96 2)).foldl (fun b i => b.restorePoison (recNum bs (poisAt + 8 * i) 8)) b

/-- The tagged registers keep the s63 that their recipes are to read (log 100). -/
def Batt.keep63 (b : Batt) (l : List (Nat × DWord × Bool)) : Batt :=
  { b with vregs := b.vregs.map fun r => if r.tag.isSome then { r with kept63 := (l.find? fun k => k.1 == r.num).map (·.2) } else r }

/-- The depths of tagged registers, from their recipes (R151): the map byte of R137 saves the recipe's number alone, so that a restored tag
has the depth that its recipe gives among the restored tags, and not that which it was given when the register was tagged (log 137). -/
def State.retag (s : State) : Nat → Batt → Batt
  | 0, b => b
  | fuel + 1, b =>
    s.retag fuel { b with vregs := b.vregs.map fun r => match r.tag with
      | some (n, d) => match s.recipeOf b n with
        | some (is, t) => { r with tag := some (n, recipeDepth b is t) }
        | none => { r with tag := some (n, d) }
      | none => r }

/-- What a restored batt waits for: the barrier whose word stands at its lanes in state 3, and SYNCM from the word at its lanes in
state 2 (R309, R310). Where the word there cannot be fetched, or is no such word, the manual says nothing: SYNCM then stays 0, and the batt
has no barrier wait, its lanes staying in state 3 (log 116). -/
def State.rewait (s : State) (b : Batt) : Batt :=
  let wordAt (l : Nat) : Option Instr := match s.fetch b.core b.space (b.lane l).pc with | .ok w _ => decode w | _ => none
  -- a mask register that the save left to its recipe is read as any read of it is: rematerialised (R147)
  let value (n l : Nat) : Word := if b.dropped n then ((s.recipeLanes b n).getD []).getD l 0 else b.v n l
  let b := match lowLane (b.lanesWhere fun x => x.st == .syncb) with
    | none => b
    | some l => match wordAt l with
      | some (.syncb f) => { b with syncm := if f.mb 0 then (b.s f.a.toNat).setWidth 32 else value f.a.toNat l }
      | _ => b
  match lowLane (b.lanesWhere fun x => x.st == .barrier) with
  | none => b
  | some l => match wordAt l with
    | some (.bars f) => { b with wait := .counted (fld f.a 5 4) (fld f.a 3 0) (s.bar (b.barRef (fld f.a 5 4) (fld f.a 3 0))).gen }
    | some (.barw f) => { b with wait := .phase (fld f.a 5 4) (fld f.a 3 0) ((b.s f.b.toNat).getLsbD 0) }
    | _ => b

/-- A restored batt takes its slot; the peat entries of its open regions are its own there too (R355, R360): OCORE and OSLOT follow it, where
the manual is silent on fields that a fill has set (R353; log 122). -/
def State.seatRestored (s : State) (l : Launch) (m : BattImage) (bs : List Byte) (c q : Nat) : State :=
  let slot := s.freeSlotOf c q
  let (regs, params) := match l.pass with
    | some p => (p.vregs, (p.infos.getD m.draw emptyDraw).const)
    | none => (l.recd.regs, l.recd.params)
  let b := s.rewait (s.retag 4 ((battOfBlock l m regs params bs c slot).keep63 m.kept63))
  let logAt := 2048 + 128 * recNum bs 102 2 + 16384 * b.banks.length
  let s := s.seat b
  let s := s.modCluster (clusterOf c) fun k =>
    { k with peat := mapIf (fun e => e.owner == b.id && e.depth != 0) (fun e => { e with core := c, slot := slot }) k.peat }
  let s := if b.claim then s.modCore c fun k => { k with bankQueue := k.bankQueue ++ [slot] } else s
  let s := (List.range (recNum bs 100 2)).foldl (fun s i =>
    s.restoreEntry c (logOfImage ((bs.drop (logAt + 80 * i)).take 80) (m.comps.getD i false) slot)) s
  match m.cmd with
  | some (i, past) => s.resumeTrap (windowOf l.recd.ctx) i past
  | none => s

/-- Read the batt blocks of a felt, one after another. -/
def State.readBlocks (s : State) (space : Nat) : Nat → DWord → SideRes (List (List Byte))
  | 0, _ => .ok []
  | n + 1, a =>
    match s.sideNum space (a + 92) 4 with
    | .bad c x => .bad c x
    | .ok size =>
      match s.sideRead space a size with
      | .bad c x => .bad c x
      | .ok bs =>
        match s.readBlocks space n (a + BitVec.ofNat 64 size) with
        | .bad c x => .bad c x
        | .ok rest => .ok (bs :: rest)

/-- Member batts among the batts of a felt's blocks. -/
def savedMembers (r : LaunchRec) (kind : Nat) (blocks : List (List Byte)) : Nat :=
  (blocks.filter fun bs => Nat.testBit (r.barMem kind) (recNum bs 56 1)).length

/-- A launch's barriers return before its first restored felt is placed (R140): launch barriers count the members that have not
exited. Whether saved felts that are not back yet count in a cluster barrier the manual does not say: the model starts COUNT at 0 and raises
it with each felt that is placed (log 115). -/
def State.claimSaved (s : State) (l : Launch) (block : DWord) : SideRes State :=
  match s.sideRead l.recd.ctx block 2176 with
  | .bad c a => .bad c a
  | .ok bs =>
    let r := l.recd
    let members (kind : Nat) : Nat :=
      ((s.ctx r.ctx).battImages.filter fun m => m.lnum == l.lnum && Nat.testBit (r.barMem kind) m.b).length
    let count := members 2 + r.members 2 * (r.nfelt - l.next)
    let ks := ((l.saved.map (·.cluster)).eraseDups)
    .ok ((s.fetchRuns r.ctx [(block, 2176)]).modLaunch l.lnum fun l =>
      { l with claimed := true, savedBlock := none, lbars := barsOf r.lbar count (bs.drop 96),
               cbars := ks.map fun k => (k, barsOf r.cbar 0 (bs.drop (128 + 128 * k))) })

/-- When the last saved felt of a launch is back, its barriers act again: each is checked (R310). -/
def State.thaw (s : State) (lnum : Nat) : State :=
  match s.launch? lnum with
  | none => s
  | some l =>
    if !l.frozen || !l.saved.isEmpty then s else
    let s := s.modLaunch lnum fun l => { l with frozen := false }
    let refs : List BarRef :=
      ((s.felts.filter fun f => f.lnum == lnum).map fun f =>
        (List.range f.bars.length).map fun n => ({ kind := 0, num := n, lnum := lnum, felt := f.felt, cluster := 0 } : BarRef)).flatten ++
      (l.cbars.map fun x => (List.range x.2.length).map fun n => ({ kind := 1, num := n, lnum := lnum, felt := 0, cluster := x.1 } : BarRef)).flatten ++
      (List.range l.lbars.length).map fun n => { kind := 2, num := n, lnum := lnum, felt := 0, cluster := 0 }
    refs.foldl (fun s r =>
      let (x, n) := checkBar false (s.bar r)
      (s.putBar r x n).noteRefusals [n]) s

/-- The header, the scratchpad image with its poison entries, and the batt blocks of a saved felt. -/
def State.readSaved (s : State) (l : Launch) (sf : SavedFelt) : SideRes (List Byte × List Byte × List (List Byte)) :=
  let r := l.recd
  match s.sideRead r.ctx sf.addr 256 with
  | .bad x a => .bad x a
  | .ok h =>
    let n := r.scratch + 8 * recNum h 16 4
    match s.sideRead r.ctx (sf.addr + 256) n with
    | .bad x a => .bad x a
    | .ok img =>
      match s.readBlocks r.ctx (recNum h 5 1) (sf.addr + BitVec.ofNat 64 (256 + 256 * ceilDiv n 256)) with
      | .bad x a => .bad x a
      | .ok blocks => .ok (h, img, blocks)

/-- What reading a saved felt reads of memory: its block, of the SIZE of its header. -/
def savedRuns (sf : SavedFelt) (header : List Byte) : List (DWord × Nat) := [(sf.addr, recNum header 12 4)]

/-- Place a restored felt on a core (R140, R141): an unreadable recipe entry kills as at any placement (R461). The batts go on with what
they knew, whatever core they come to: the core acquires all that is published (R141, log 99). -/
def State.placeSaved (s : State) (l : Launch) (sf : SavedFelt) (c : Nat) : State :=
  let r := l.recd
  match s.recipesFor l c, s.readSaved l sf with
  | .bad x a, _ => s.killUnreadable r.ctx x a
  | .ok _, .bad x a => s.restoreFails r.ctx x a
  | .ok rs, .ok (h, img, blocks) =>
    let pois := ((List.range (recNum h 16 4)).map fun i =>
      let e := recNum img (r.scratch + 8 * i) 8
      maskWords (e % 2 ^ 16) (e / 2 ^ 32)).flatten
    let f : Felt := { lnum := l.lnum, felt := sf.felt, core := c, left := blocks.length, scratch := Memory.write [] 0 (img.take r.scratch),
                      scratchPoison := sortBy (· < ·) pois, bars := barsOf r.fbar (savedMembers r 0 blocks) (h.drop 128) }
    let s := (s.fetchRuns r.ctx (savedRuns sf h)).seatFelt l f rs (savedMembers r 1 blocks)
    let s := (s.drainUpTo s.dev.granted).acquireSystem c s.dev.granted
    let s := blocks.foldl (fun s bs =>
      match (s.ctx r.ctx).battImages.find? fun m => m.lnum == l.lnum && m.felt == sf.felt && m.b == recNum bs 56 1 with
      | some m => s.seatRestored l m bs c ((m.feltNo + m.b) % 4)
      | none => s) s
    let s := s.modCtx r.ctx fun x => { x with battImages := x.battImages.filter fun m => !(m.lnum == l.lnum && m.felt == sf.felt) }
    let s := s.modLaunch l.lnum fun l => { l with saved := l.saved.filter fun x => x.felt != sf.felt }
    (s.modDev fun d => { d with dispatchLast := c }).thaw l.lnum

/-! ### DISPATCH_CYCLE (R118) -/

/-- Have the publications that R113 requires all been applied? -/
def State.applied (s : State) (p : Nat) : Bool :=
  s.cores.all fun c => c.log.all fun e => !(e.published && e.depth == 0 && serialLe e.num p)

/-- What a launch would place next. -/
inductive NextFelt where
  | saved (f : SavedFelt)
  | compute
  | vertex (p : Pass) (d : DrawInfo)
  | pixel (p : Pass) (i : PixelInfo)
  deriving DecidableEq, Repr

/-- The felt that a launch would place: a restored one first (R118, R140), then its own. -/
def Launch.nextFelt (l : Launch) : Option NextFelt :=
  match sortBy (fun a b => a.felt < b.felt) l.saved with
  | f :: _ => some (.saved f)
  | [] =>
    match l.pass with
    | none => if l.next < l.recd.nfelt then some .compute else none
    | some p =>
      match p.specs, p.infos[p.draw]? with
      | i :: _, _ => if p.work.any fun w => w.tile == i.tile then some (.pixel p i) else none
      | [], some d => if p.stage == .vertices && !d.reused && l.next < vertexFelts d.ntri then some (.vertex p d) else none
      | [], none => none

/-- May the dispatcher place for the launch at all: its context runs, it has started, R113 holds (R118), and no POOLX has stopped the
context's passes (R399). -/
def State.mayPlace (s : State) (l : Launch) : Bool :=
  !l.killed && (s.ctx l.recd.ctx).ctxst == 0 && !(l.pass.isSome && (s.ctx l.recd.ctx).poolStop) && s.applied l.point && l.started

/-- The felt asked for. -/
def State.askOf (s : State) (l : Launch) (n : NextFelt) : FeltAsk :=
  match n with
  | .saved f =>
    let ms := (s.ctx l.recd.ctx).battImages.filter fun m => m.lnum == l.lnum && m.felt == f.felt
    { l := l, felt := f.felt, feltNo := ((ms.head?).map (·.feltNo)).getD f.felt, batts := ms.map (·.b), regs := match l.pass with | some p => p.vregs | none => l.recd.regs }
  | .compute => { l := l, felt := l.next, feltNo := l.next, batts := List.range l.recd.nbatt, regs := l.recd.regs }
  | .vertex p _ => { l := l, felt := l.next, feltNo := l.next, batts := [0], regs := p.vregs }
  | .pixel p i => { l := l, felt := pixelFelt p.nextPixel, feltNo := i.tile, batts := [0], regs := p.fregs }

/-- The first core in the order of R118 on which the felt fits; a restored felt only in its cluster (R140). -/
def State.coreFor (s : State) (l : Launch) (n : NextFelt) : Option Nat :=
  let a := s.askOf l n
  s.coreOrder.find? fun c => s.fits a c && (match n with | .saved f => clusterOf c == f.cluster | _ => true)

/-- The launches in the order of R118. -/
def State.dispatchOrder (s : State) : List Launch := ([3, 2, 1, 0].map fun p => s.launches.filter fun l => l.recd.prio == p).flatten

/-- What the dispatcher places in this cycle. -/
def State.dispatchPick (s : State) : Option (Launch × NextFelt × Nat) :=
  s.dispatchOrder.findSome? fun l =>
    if !s.mayPlace l then none else
    match l.nextFelt with
    | none => none
    | some n => (s.coreFor l n).map fun c => (l, n, c)

/-- The launch with its barrier slots claimed, before its first placement. Lines that other batts of its context have cached since its LAUNCH
hold bytes from before its start, and the cores discard them too (R62, R113, R269). -/
def State.claimFirst (s : State) (l : Launch) : SideRes State :=
  if l.claimed then .ok s else
  let s := s.discardCode l.recd.ctx
  match l.savedBlock with
  | some a => s.claimSaved l a
  | none => .ok (s.claimLaunch l)

end Sys2Proof.Machine
end

