-- ==== Sys2Proof/Machine/Raster.lean ====
section
/-! DEFINITION. Setup, coverage, interpolation, texel and pixel formats, filtering and blending, exactly (R383, R391 to R396). -/

namespace Sys2Proof.Machine

/-! ### Exact helpers -/

/-- Floor of n x 2^e. -/
def floorDy (n e : Int) : Int := if 0 ≤ e then n * 2 ^ e.toNat else n / 2 ^ (-e).toNat

/-- num / den to the nearest integer, ties to even; den positive. -/
def roundQ (num den : Int) : Int :=
  let q := num / den
  let r := num % den
  if 2 * r < den then q else if den < 2 * r then q + 1 else if q % 2 = 0 then q else q + 1

/-- RoundTo(integers, rn, n x 2^e) (R383, R392). -/
def roundInt (n e : Int) : Int := if 0 ≤ e then n * 2 ^ e.toNat else roundQ n (2 ^ (-e).toNat)

/-- The binary32 code of a quotient of dyadics, rounded once in rn; a zero keeps the sign given. -/
def quot32 (n : Int) (e : Int) (d : Int) (zeroNeg : Bool) : Word :=
  if n = 0 then BitVec.ofNat 32 (f32.zeroCode zeroNeg) else
  let q := divDy n.natAbs d.natAbs
  let neg := decide (n < 0) != decide (d < 0)
  BitVec.ofNat 32 (roundTo f32 0 false (if neg then -(q.1 : Int) else q.1) (q.2 + e)).bits

/-- A binary32 word as a value. -/
def val32 (w : Word) : FVal := decodeF f32 w.toNat

/-- The code of a fused sum in binary32, rn. -/
def sum32 (terms : List FVal) : Word := BitVec.ofNat 32 (fusedSum f32 0 terms).bits

/-- 1 as a value. -/
def oneVal : FVal := .fin 1 0

/-! ### Setup (R383) -/

/-- A window coordinate: RoundTo(integers, rn, (w ± v) / w x size x 128) for w positive. -/
def windowCoord (plus : Bool) (v w : FVal) (size : Nat) : Int :=
  let a := w.dyadic
  let b := v.dyadic
  let sum := addDy (if plus then b else (-b.1, b.2)) a
  let num := sum.1 * (size * 128 : Nat)
  let k := sum.2 - a.2
  if 0 ≤ k then roundQ (num * 2 ^ k.toNat) a.1 else roundQ num (a.1 * 2 ^ (-k).toNat)

/-- Is a position word finite? -/
def isFiniteW (w : Word) : Bool := match val32 w with | .nan _ => false | .inf _ => false | _ => true

/-- A triangle set up: its window coordinates X0, Y0, X1, Y1, X2, Y2 and depths; none when a vertex has w ≤ 0 or a NaN or infinite
position word. -/
def setupTri (t : TargetDesc) (pos : List (List Word)) : Option (List Int × List Word) :=
  let ok (p : List Word) : Bool := p.all isFiniteW && decide (0 < (val32 (p.getD 3 0)).dyadic.1)
  if !pos.all ok then none else
  let one (p : List Word) : List Int × Word :=
    let v (i : Nat) : FVal := val32 (p.getD i 0)
    ([windowCoord true (v 0) (v 3) t.width, windowCoord false (v 1) (v 3) t.height], BitVec.ofNat 32 (divRes f32 0 (v 2) (v 3)).bits)
  let rs := pos.map one
  some ((rs.map (·.1)).flatten, rs.map (·.2))

/-- Vertex i of a list of coordinates. -/
def vertAt (c : List Int) (i : Nat) : Int × Int := (c.getD (2 * i) 0, c.getD (2 * i + 1) 0)

/-- Twice the signed area of (a, b, c). -/
def area2 (a b c : Int × Int) : Int := (b.1 - a.1) * (c.2 - a.2) - (c.1 - a.1) * (b.2 - a.2)

/-- Area of R383. -/
def triArea (c : List Int) : Int := area2 (vertAt c 0) (vertAt c 1) (vertAt c 2)

/-- Is a triangle that was set up culled (R383)? -/
def culledTri (cullBack : Bool) (c : List Int) : Bool :=
  c.any (fun x => 2 ^ 28 ≤ x.natAbs) || triArea c == 0 || (cullBack && decide (triArea c < 0))

/-! ### Coverage and interpolation (R391) -/

/-- The signed area of (point, vertex i + 1, vertex i + 2), indices mod 3: λi is its ratio to Area. -/
def edgeArea (c : List Int) (i : Nat) (p : Int × Int) : Int := area2 p (vertAt c ((i + 1) % 3)) (vertAt c ((i + 2) % 3))

/-- Is the edge opposite vertex i a top edge or a left edge? -/
def topLeft (c : List Int) (i : Nat) : Bool :=
  let a := vertAt c ((i + 1) % 3)
  let b := vertAt c ((i + 2) % 3)
  let v := vertAt c i
  if a.2 = b.2 then decide (a.2 < v.2)
  else
    let u := if a.2 < b.2 then a else b
    let l := if a.2 < b.2 then b else a
    decide (0 < (v.1 - u.1) * (l.2 - u.2) - (v.2 - u.2) * (l.1 - u.1))

/-- Is a point covered? -/
def coversPoint (c : List Int) (p : Int × Int) : Bool :=
  [0, 1, 2].all fun i =>
    let e := if triArea c < 0 then -(edgeArea c i p) else edgeArea c i p
    decide (0 < e) || (e == 0 && topLeft c i)

/-- Sample positions in 1/256 pixel from the pixel's corner. -/
def samplePos (samples : Nat) : List (Int × Int) :=
  if samples = 1 then [(128, 128)] else [(96, 32), (224, 96), (32, 160), (160, 224)]

/-- A point of a pixel in 1/256 pixel. -/
def pixelPoint (x y : Nat) (o : Int × Int) : Int × Int := (256 * (x : Int) + o.1, 256 * (y : Int) + o.2)

/-- The pixel centre. -/
def pixelCentre (x y : Nat) : Int × Int := pixelPoint x y (128, 128)

/-- Coverage bits of a pixel; 0 outside the target. -/
def coverOf (t : TargetDesc) (c : List Int) (x y : Nat) : Nat :=
  if t.width ≤ x ∨ t.height ≤ y then 0
  else ((samplePos t.samples).mapIdx fun s o => if coversPoint c (pixelPoint x y o) then 2 ^ s else 0).foldl (· + ·) 0

/-- λi at a point, rounded once to binary32. -/
def lambda32 (c : List Int) (i : Nat) (p : Int × Int) : Word := quot32 (edgeArea c i p) 0 (triArea c) false

/-- Depth at a point from the exact λi. -/
def depthAt (c : List Int) (zs : List Word) (p : Int × Int) : Word :=
  let a := triArea c
  let term (i : Nat) : FVal :=
    let e := edgeArea c i p
    mulVal (FVal.ofInt (if a < 0 then -e else e) 0) (val32 (zs.getD i 0))
  let ts := [term 0, term 1, term 2]
  if ts.any FVal.isNan || ts.any (fun x => match x with | .inf _ => true | _ => false) then sum32 ts
  else let x := sumDy ts; quot32 x.1 x.2 a.natAbs (ts.all fun v => v == .zero true)

/-! ### Pixel felts (R378, R391) -/

/-- Pixels of quad q of a tile in the order of R378. -/
def quadPixels (tx ty q : Nat) : List (Nat × Nat) :=
  let x := 32 * tx + 2 * (q % 16)
  let y := 32 * ty + 2 * (q / 16)
  [(x, y), (x + 1, y), (x, y + 1), (x + 1, y + 1)]

/-- The pixel felts of an entry of a tile's list: quads that run, in row-major order, 8 to a batt. -/
def pixelFelts (t : TargetDesc) (tile pos : Nat) (e : TileEntry) (zs : List Word) : List PixelInfo :=
  let tx := tile % t.tilesX
  let ty := tile / t.tilesX
  let quads := ((List.range 256).map fun q => (quadPixels tx ty q).map fun p => (p, coverOf t e.coords p.1 p.2)).filter
    fun q => q.any fun p => p.2 != 0
  (chunksOf 8 256 quads).map fun g =>
    let lanes := g.flatten
    { draw := e.draw, tri := e.tri, tile := tile, pos := pos, coords := e.coords, zs := zs
      pixels := laneIds.map fun l => (lanes[l]?).map (·.1), cover := laneIds.map fun l => ((lanes[l]?).map (·.2)).getD 0 }

/-- The registers of a pixel felt (R378). For the exited lanes of unused quad slots the manual gives no contents: the model computes them as for
pixel (0, 0) (log 124). -/
def PixelInfo.regs (i : PixelInfo) (d : DrawInfo) : List VReg :=
  let at' (l : Nat) : Int × Int := let p := (i.pixels.getD l none).getD (0, 0); pixelCentre p.1 p.2
  pixelRegs i d (fun l => (lambda32 i.coords 1 (at' l), lambda32 i.coords 2 (at' l))) (fun l => depthAt i.coords i.zs (at' l))

/-! ### Pixel and texel formats (R392, R395) -/

/-- Bytes of a sample of a plain target's colour (R393). -/
def pixelSize (fmt : Nat) : Nat := if fmt = 0 then 4 else if fmt = 2 then 8 else 16

/-- A value as a binary32 code, exactly or rounded in rn; NaNs become canonical. -/
def code32 (v : FVal) : Nat :=
  match v with
  | .nan _ => f32.nanCode
  | .inf n => f32.infCode n
  | .zero n => f32.zeroCode n
  | .fin n e => (roundTo f32 0 false n e).bits

/-- A value as a binary16 code, rounded in rn. -/
def code16 (v : FVal) : Nat :=
  match v with
  | .nan _ => h16.nanCode
  | .inf n => h16.infCode n
  | .zero n => h16.zeroCode n
  | .fin n e => (roundTo h16 0 false n e).bits

/-- A channel of RGBA8 (R392). -/
def code8 (v : FVal) : Nat :=
  match v with
  | .nan _ => 0
  | .inf n => if n then 0 else 255
  | .zero _ => 0
  | .fin n e => (max 0 (min 255 (roundInt (n * 255) e))).toNat

/-- A byte k of a unorm format as binary32: RoundTo(binary32, rn, k / 255). -/
def unorm32 (k : Nat) : Word := quot32 k 0 255 false

/-- A binary16 code as binary32, exactly. -/
def half32 (x : Nat) : Word := BitVec.ofNat 32 (code32 (decodeF h16 x))

/-- A stored binary32, its NaN canonical. -/
def canon32 (x : Nat) : Word := BitVec.ofNat 32 (code32 (decodeF f32 x))

/-- A texel or a colour sample decoded to red, green, blue and alpha (R395). -/
def decodeTexel (fmt : Nat) (bs : List Byte) : List Word :=
  let b (i : Nat) : Nat := (bs.getD i 0).toNat
  let h (i : Nat) : Word := half32 (numOf ((bs.drop (2 * i)).take 2))
  let w (i : Nat) : Word := canon32 (numOf ((bs.drop (4 * i)).take 4))
  let one : Word := 0x3F800000
  match fmt with
  | 0 => [unorm32 (b 0), unorm32 (b 1), unorm32 (b 2), unorm32 (b 3)]
  | 1 => [unorm32 (b 0), 0, 0, one]
  | 2 => [h 0, h 1, h 2, h 3]
  | 4 => [w 0, w 1, 0, one]
  | 5 => [w 0, w 1, w 2, w 3]
  | _ => [w 0, 0, 0, one]

/-- A colour of values encoded into a target format (R392). -/
def encodeVals (fmt : Nat) (c : List FVal) : List Byte :=
  match fmt with
  | 0 => c.map fun v => BitVec.ofNat 8 (code8 v)
  | 2 => (c.map fun v => bytesOf 2 (code16 v)).flatten
  | _ => (c.map fun v => bytesOf 4 (code32 v)).flatten

/-- A colour of binary32 words encoded into a target format: RGBA32F keeps the bits (R392). -/
def encodeColour (fmt : Nat) (c : List Word) : List Byte :=
  if fmt = 0 ∨ fmt = 2 then encodeVals fmt (c.map val32) else (c.map fun w => bytesOf 4 w.toNat).flatten

/-- The exact mean of 1 or 4 values, by the rules of R56 for special values. -/
def meanVal (l : List FVal) : FVal :=
  let pinf := l.contains (.inf false)
  let ninf := l.contains (.inf true)
  if l.any FVal.isNan || (pinf && ninf) then .nan false
  else if pinf then .inf false
  else if ninf then .inf true
  else
    let x := sumDy l
    if x.1 = 0 then .zero (l.all fun v => v == .zero true) else .fin x.1 (if l.length = 4 then x.2 - 2 else x.2)

/-- The resolved pixel (R393). R392 keeps the bits of a binary32 colour and does not say how an exact mean that is none is encoded in RGBA32F:
it is rounded once, in rn (log 133). -/
def resolveColour (fmt : Nat) (samples : List (List Byte)) : List Byte :=
  let ds := samples.map fun b => (decodeTexel fmt b).map val32
  encodeVals fmt ([0, 1, 2, 3].map fun c => meanVal (ds.map fun d => d.getD c (.zero false)))

/-- One minus a word, rounded to binary32 in rn. -/
def oneMinus (w : Word) : FVal := val32 (sum32 [oneVal, (val32 w).negate])

/-- A colour over what a sample holds (R393). -/
def blend (fmt : Nat) (c : List Word) (sample : List Byte) : List Word :=
  let t := oneMinus (c.getD 3 0)
  let d := decodeTexel fmt sample
  [0, 1, 2, 3].map fun i => sum32 [val32 (c.getD i 0), mulVal (val32 (d.getD i 0)) t]

/-! ### Interpolation (R394) -/

/-- λ0 as IPA forms it. -/
def lambda0 (l1 l2 : Word) : Word := sum32 [oneVal, (val32 l1).negate, (val32 l2).negate]

/-- Is the value a NaN or infinite? -/
def FVal.special : FVal → Bool
  | .nan _ => true
  | .inf _ => true
  | _ => false

/-- IPA (R394): m 0 perspective, 1 linear, 2 flat; `ws` and `as` are w and the output word at the three vertices. -/
def interpolate (m : Nat) (l1 l2 : Word) (ws as : List Word) : Word :=
  let nan : Word := BitVec.ofNat 32 f32.nanCode
  let ls := [val32 (lambda0 l1 l2), val32 l1, val32 l2]
  let a (i : Nat) : FVal := val32 (as.getD i 0)
  let l (i : Nat) : FVal := ls.getD i (.zero false)
  if m = 2 then as.getD 0 0
  else if m = 1 then
    let ts := [0, 1, 2].map fun i => mulVal (l i) (a i)
    if ts.any FVal.special then nan else sum32 ts
  else
    let q (i : Nat) : FVal := decodeF f32 (divRes f32 0 oneVal (val32 (ws.getD i 0))).bits
    let den := [0, 1, 2].map fun i => mulVal (l i) (q i)
    let num := [0, 1, 2].map fun i => mulVal (den.getD i (.zero false)) (a i)
    if (den ++ num).any FVal.special then nan
    else
      let d := sumDy den
      let n := sumDy num
      if d.1 = 0 then nan
      else quot32 n.1 (n.2 - d.2) d.1 ((num.all fun v => v == .zero true) != decide (d.1 < 0))

/-! ### Filtering (R396) -/

/-- A texel position of a level. -/
structure TexelAt where
  level : Nat
  i : Nat
  j : Nat
  deriving DecidableEq, Repr

/-- Wrap(i, n) (R396). -/
def wrapTexel (mode : Nat) (i : Int) (n : Nat) : Nat :=
  match mode with
  | 0 => (i % (n : Int)).toNat
  | 1 => (min (max i 0) ((n : Int) - 1)).toNat
  | _ => let m := i % (2 * n : Nat); (if m < n then m else 2 * (n : Int) - 1 - m).toNat

/-- A texel of a texture with its coordinates wrapped. -/
def TexDesc.texelAt (t : TexDesc) (k : Nat) (i j : Int) : TexelAt :=
  { level := k, i := wrapTexel t.modeU i (t.levelW k), j := wrapTexel t.modeV j (t.levelH k) }

/-- The virtual address of a texel (R395). -/
def TexDesc.texelAddr (t : TexDesc) (p : TexelAt) : DWord :=
  t.base + BitVec.ofNat 64 (t.levelOffset p.level + p.j * t.pitch p.level + p.i * (texelSize t.fmt).getD 0)

/-- x at a quarter of a level: u x size - 1/2 as a dyadic. -/
def halfTexel (u : Int × Int) (size : Nat) : Int × Int := addDy (u.1 * (size : Int), u.2) (-1, -1)

/-- The texels that Bil(ℓ) accumulates, with their weights in 1/65,536; a weight of 0 reads no texel. -/
def TexDesc.bil (t : TexDesc) (k : Nat) (u v : Int × Int) : List (TexelAt × Nat) :=
  let x := halfTexel u (t.levelW k)
  let y := halfTexel v (t.levelH k)
  let i := floorDy x.1 x.2
  let j := floorDy y.1 y.2
  let a := (floorDy (x.1 * 256) x.2 - 256 * i).toNat
  let b := (floorDy (y.1 * 256) y.2 - 256 * j).toNat
  [(t.texelAt k i j, (256 - a) * (256 - b)), (t.texelAt k (i + 1) j, a * (256 - b)), (t.texelAt k i (j + 1), (256 - a) * b),
   (t.texelAt k (i + 1) (j + 1), a * b)].filter fun x => x.2 != 0

/-- What a lane of TEX does: nothing to read, one texel, or one or two filtered levels with f in 1/256. -/
inductive TexPlan where
  | zero
  | near (p : TexelAt)
  | bil (l : List (TexelAt × Nat))
  | tri (l0 l1 : List (TexelAt × Nat)) (f : Nat)
  deriving DecidableEq, Repr

/-- The plan of a lane (R396): f 0 near, 1 bil, 2 tri. -/
def TexDesc.plan (t : TexDesc) (f : Nat) (u v lod : Word) : TexPlan :=
  if !(isFiniteW u && isFiniteW v && isFiniteW lod) then .zero else
  let du := (val32 u).dyadic
  let dv := (val32 v).dyadic
  let dl := (val32 lod).dyadic
  let top := t.levels - 1
  let lf : Int × Int := if dl.1 ≤ 0 then (0, 0) else if (top : Int) ≤ floorDy dl.1 dl.2 then (top, 0) else dl
  let half := addDy lf (1, -1)
  let near := (floorDy half.1 half.2).toNat
  match f with
  | 0 => .near (t.texelAt near (floorDy (du.1 * t.levelW near) du.2) (floorDy (dv.1 * t.levelH near) dv.2))
  | 1 => .bil (t.bil near du dv)
  | _ =>
    let l0 := floorDy lf.1 lf.2
    let fr := (floorDy (lf.1 * 256) lf.2 - 256 * l0).toNat
    .tri (t.bil l0.toNat du dv) (t.bil (min (l0.toNat + 1) top) du dv) fr

/-- The texels of a plan, in the order in which they are read. -/
def TexPlan.texels : TexPlan → List TexelAt
  | .zero => []
  | .near p => [p]
  | .bil l => l.map (·.1)
  | .tri a b _ => (a ++ b).map (·.1)

/-- Accumulate weighted texels, one rounding each. -/
def bilSum (l : List (Nat × List Word)) : List Word :=
  [0, 1, 2, 3].map fun c => l.foldl (fun acc x => sum32 [val32 acc, mulVal (FVal.ofInt x.1 (-16)) (val32 (x.2.getD c 0))]) 0

/-- The result of a plan from the decoded texels it read. -/
def TexPlan.result (p : TexPlan) (texels : List (List Word)) : List Word :=
  let weigh (l : List (TexelAt × Nat)) (ts : List (List Word)) : List Word := bilSum ((l.map (·.2)).zip ts)
  match p with
  | .zero => [0, 0, 0, 0]
  | .near _ => texels.getD 0 [0, 0, 0, 0]
  | .bil l => weigh l texels
  | .tri a b f =>
    let x := weigh a texels
    let y := weigh b (texels.drop a.length)
    [0, 1, 2, 3].map fun c =>
      let acc := sum32 [mulVal (FVal.ofInt (256 - f) (-8)) (val32 (x.getD c 0))]
      sum32 [val32 acc, mulVal (FVal.ofInt f (-8)) (val32 (y.getD c 0))]

end Sys2Proof.Machine
end

