-- ==== Sys2Proof/Machine/FrameWords.lean ====
section
/-! DEFINITION. VOUT, IPA, TEX, TLD, FOUT, MLRES, MLRD and MLCLR (R373, R374, R382, R392, R394 to R400). -/

namespace Sys2Proof.Machine

/-! ### The draw of a batt -/

/-- The draw of a vertex or pixel batt. -/
def State.drawOf (s : State) (b : Batt) : Option DrawInfo :=
  match b.kind with
  | .vertex | .pixel => ((s.launchOf b).bind (·.pass)).bind fun p => p.infos[b.draw]?
  | _ => none

/-- UNDEF at the execution stage, naming every lane of ACTIVE (R374). -/
def undefTrap (x : Iss) (s : State) : Body := .trap (causesOf x.active cUNDEF 0) s

/-- Address of output word k of a vertex (R379). -/
def DrawInfo.outAddr (d : DrawInfo) (v k : Nat) : DWord := d.vcache + BitVec.ofNat 64 (64 + 128 * v + 4 * k)

/-- Bytes that the frame pipeline reads of a context's memory through level two; none where a byte has no translation. What is
poisoned reads as the bytes held: R417 names no pipeline read. -/
def State.pipeRead (s : State) (space : Nat) : DWord → Nat → Option (List Byte)
  | _, 0 => some []
  | va, n + 1 =>
    match (if fld va 63 49 != 0 then TransRes.xlat false 0 else s.walk space va) with
    | .ok loc _ _ => (s.pipeRead space (va + 1) n).map fun bs => (s.homeByte loc).1 :: bs
    | _ => none

/-- n words of a context's memory. -/
def State.pipeWords (s : State) (space : Nat) (va : DWord) (n : Nat) : Option (List Word) := (s.pipeRead space va (4 * n)).map words32

/-- One output word at the three vertices of a triangle. -/
def State.triWord (s : State) (space : Nat) (d : DrawInfo) (tri k : Nat) : Option (List Word) :=
  match s.pipeWords space (d.outAddr (3 * tri) k) 1, s.pipeWords space (d.outAddr (3 * tri + 1) k) 1,
        s.pipeWords space (d.outAddr (3 * tri + 2) k) 1 with
  | some a, some b, some c => some (a ++ b ++ c)
  | _, _, _ => none

/-- What reading n words from word k of a triangle's vertices reads. -/
def DrawInfo.triRuns (d : DrawInfo) (tri k n : Nat) : List (DWord × Nat) := [0, 1, 2].map fun i => (d.outAddr (3 * tri + i) k, 4 * n)

/-! ### VOUT (R382) -/

/-- The lanes of a VOUT (R382): a lane's cause is that of its first failing word. -/
def State.voutLane (s : State) (x : Iss) (f : RForm) (d : DrawInfo) (l : Nat) : LaneRes :=
  let b := s.battAt x.core x.slot
  let v := 32 * b.feltNo + l
  let rs := (List.range (fld f.c 4 0 + 1)).map fun i =>
    s.checkObject x.core b.space l (d.outAddr v (f.mf 4 0 + i)) 4 fun pte _ => writeCause pte
  match rs.find? fun r => match r with | .bad _ _ _ => true | _ => false with
  | some r => r
  | none => .ok { lane := l, ea := d.outAddr v (f.mf 4 0), locs := ((okAccs rs).map (·.locs)).flatten }

/-- The words that a lane of VOUT sends. -/
def Batt.voutData (b : Batt) (f : RForm) (l : Nat) : List Byte :=
  ((List.range (fld f.c 4 0 + 1)).map fun i => bytesOf 4 (b.v (f.a.toNat + i) l).toNat).flatten

/-- The draw of a vertex batt. -/
def State.vertexDraw (s : State) (b : Batt) : Option DrawInfo := if b.kind == .vertex then s.drawOf b else none

/-- VOUT (R382). -/
def voutBody (f : RForm) : Iss → State → Body := fun x s =>
  let b := s.battAt x.core x.slot
  match s.vertexDraw b with
  | none => undefTrap x s
  | some d =>
    reportOr ((lanesOf x.active).map (s.voutLane x f d)) 1 s fun accs =>
      let bytes := storedBytes accs (b.voutData f)
      if s.logWait x bytes then .stall true else .done (s.storeDone x accs bytes)

/-- VOUT (R382). -/
def execVout (f : RForm) (s : State) : Host.Outcome State Fault Refusal := runWord (.vout f) (voutBody f) s

/-! ### IPA (R394) and FOUT (R392) -/

/-- IPA (R394): outputs that cannot be read keep the word from issuing. -/
def ipaBody (f : RForm) : Iss → State → Body := fun x s =>
  let b := s.battAt x.core x.slot
  match (if b.kind == .pixel then s.drawOf b else none), b.pix with
  | some d, some i =>
    match s.triWord b.space d i.tri 3, s.triWord b.space d i.tri (f.mf 4 0) with
    | some ws, some as =>
      .done ((s.fetchRuns b.space (d.triRuns i.tri 3 1 ++ d.triRuns i.tri (f.mf 4 0) 1)).modBatt x.core x.slot fun b =>
        b.setV f.d.toNat x.active fun l => interpolate (f.mf 7 6) (b.v f.a.toNat l) (b.v (f.a.toNat + 1) l) ws as)
    | _, _ => .stall true
  | _, _ => undefTrap x s

/-- IPA (R394). -/
def execIpa (f : RForm) (s : State) : Host.Outcome State Fault Refusal := runWord (.ipa f) (ipaBody f) s

/-- The colour of a lane of FOUT (R392). -/
def foutColour (f : RForm) (b : Batt) (l : Nat) : List Word :=
  let a := f.a.toNat
  if f.mb 0 then
    let p := (b.v a l).toNat
    let q := (b.v (a + 1) l).toNat
    [half32 (p % 2 ^ 16), half32 (p / 2 ^ 16), half32 (q % 2 ^ 16), half32 (q / 2 ^ 16)]
  else [b.v a l, b.v (a + 1) l, b.v (a + 2) l, b.v (a + 3) l]

/-- FOUT (R392). -/
def foutBody (f : RForm) : Iss → State → Body := fun x s =>
  let b := s.battAt x.core x.slot
  match (if b.kind == .pixel then b.pix else none) with
  | none => undefTrap x s
  | some i =>
    let colours := laneIds.map fun l => if inMask x.active l then some (foutColour f b l) else i.colours.getD l none
    .done (s.modBatt x.core x.slot fun b => { b with pix := some { i with colours := colours } })

/-- FOUT (R392). -/
def execFout (f : RForm) (s : State) : Host.Outcome State Fault Refusal := runWord (.fout f) (foutBody f) s

/-! ### Results of four words in each lane -/

/-- Write four words to vD to vD+3. -/
def Batt.putFour (b : Batt) (d : Nat) (m : Mask) (v : Nat → List Word) : Batt :=
  [0, 1, 2, 3].foldl (fun b j => b.setV (d + j) m fun l => (v l).getD j 0) b

/-- A lane's four words in the form an operation keeps. -/
def packFour (v : List Word) : DWord × DWord := (v.getD 1 0 ++ v.getD 0 0, v.getD 3 0 ++ v.getD 2 0)

/-- The words of an operation's lane. -/
def unpackFour (lo hi : DWord) : List Word := [lo.setWidth 32, (lo >>> 32).setWidth 32, hi.setWidth 32, (hi >>> 32).setWidth 32]

/-- A result read from memory: late ones wait for their return (R403), the others are written or consume poison (R417). -/
def fourResult (x : Iss) (d : Nat) (bad : List LaneCause) (v : Nat → List Word) (s : State) : Body :=
  if s.choice.late then
    .done (s.addOp x.core x.slot fun id =>
      { x.op id with vals := laneIds.map fun l => (packFour (v l)).1, bvals := laneIds.map fun l => (packFour (v l)).2
                     poison := maskOf fun l => bad.any fun c => c.lane == l
                     accs := bad.map fun c => { lane := c.lane, ea := c.faddr, locs := [] } })
  else match bad with
    | c :: cs => .trap (c :: cs) s
    | [] => .done (s.modBatt x.core x.slot fun b => b.putFour d x.active v)

/-- The return of a late one (R403). -/
def State.fourReturn (s : State) (core slot : Nat) (d : Nat) (o : Op) : State :=
  let s :=
    if o.poison != 0 then
      (s.giveBack core slot o).noteTrap core slot o.word o.pc o.mask 0 (o.accs.map fun a => { lane := a.lane, cause := cPOISON, faddr := a.ea }) o.id
    else s.modBatt core slot fun b => b.putFour d o.active fun l => unpackFour (o.vals.getD l 0) (o.bvals.getD l 0)
  s.endOp core slot o.id

/-! ### TEX and TLD (R396) -/

/-- Texture t of the batt's draw, or how the word ends (R374, R396). RANGE of a t of NTEX or more has fault address 0, for the manual names none
(log 129). -/
def State.textureOf (s : State) (x : Iss) (f : RForm) : Sum Body TexDesc :=
  match s.drawOf (s.battAt x.core x.slot) with
  | none => .inl (undefTrap x s)
  | some d => match d.texs[f.mf 3 0]? with
    | none => .inl (.trap (causesOf x.active cRANGE 0) s)
    | some t => .inr t

/-- The texels that a lane reads, and its result from them. -/
structure LaneTexels where
  lane : Nat
  texels : List TexelAt
  result : List (List Word) → List Word

/-- The checks of every texel of every lane (R266). -/
def State.texLooks (s : State) (x : Iss) (t : TexDesc) (lanes : List LaneTexels) : List (LaneTexels × List LaneRes) :=
  let b := s.battAt x.core x.slot
  let checked := s.isChecked b x.instr x.pc
  lanes.map fun a => (a, a.texels.map fun p =>
    s.checkRun x.core b.space a.lane ((texelSize t.fmt).getD 1) (t.texelAddr p) fun pte _ => sealCause checked pte)

/-- What a lane reports: its first failing texel. -/
def texReport (a : LaneTexels × List LaneRes) : LaneRes :=
  match a.2.find? fun r => match r with | .bad _ _ _ => true | _ => false with
  | some r => r
  | none => .ok { lane := a.1.lane, ea := 0, locs := [] }

/-- The bytes of every texel that passed, each with its poison. -/
def State.texSeen (s : State) (x : Iss) (all : List (LaneTexels × List LaneRes)) : List (LaneTexels × List (LaneAcc × List (Byte × Bool))) :=
  all.map fun a => (a.1, (okAccs a.2).map fun c => (c, s.loadBytes x.core x.slot 0 c))

/-- The lanes that consume poison, at their first poisoned texel (R417). -/
def texBad (read : List (LaneTexels × List (LaneAcc × List (Byte × Bool)))) : List LaneCause :=
  read.filterMap fun a => a.2.findSome? fun c => poisonedByte c.1 c.2

/-- A lane's result. -/
def texValue (t : TexDesc) (read : List (LaneTexels × List (LaneAcc × List (Byte × Bool)))) (l : Nat) : List Word :=
  match read.find? fun a => a.1.lane == l with
  | some a => a.1.result (a.2.map fun c => decodeTexel t.fmt (c.2.map (·.1)))
  | none => []

/-- The accesses of texels that passed. -/
def texAccs (all : List (LaneTexels × List LaneRes)) : List LaneAcc := (all.map fun a => okAccs a.2).flatten

/-- What reading texels leaves in the caches. -/
def State.texFills (s : State) (x : Iss) (accs : List LaneAcc) : State :=
  (s.loadFills x.core (s.battAt x.core x.slot).space 0 accs).drewHost accs

/-- Read the texels of every lane as LD reads them (R239), with the checks and the report of R266 and R267. -/
def State.texRead (s : State) (x : Iss) (f : RForm) (t : TexDesc) (lanes : List LaneTexels) : Body :=
  let all := s.texLooks x t lanes
  reportOr (all.map texReport) 0 s fun _ =>
    let s := s.loadSettle x.core (texAccs all)
    let read := s.texSeen x all
    fourResult x f.d.toNat (texBad read) (texValue t read) (s.texFills x (texAccs all))

/-- The texels of a lane of TEX (R396). -/
def texLane (f : RForm) (b : Batt) (t : TexDesc) (l : Nat) : LaneTexels :=
  let a := f.a.toNat
  let p := t.plan (f.mf 7 6) (b.v a l) (b.v (a + 1) l) (b.v (a + 2) l)
  { lane := l, texels := p.texels, result := p.result }

/-- The texel of a lane of TLD: zeros outside the level (R396). -/
def tldLane (f : RForm) (b : Batt) (t : TexDesc) (l : Nat) : LaneTexels :=
  let i := (b.v f.a.toNat l).toNat
  let j := (b.v (f.a.toNat + 1) l).toNat
  let k := (b.v (f.a.toNat + 2) l).toNat
  if t.levels ≤ k ∨ t.levelW k ≤ i ∨ t.levelH k ≤ j then { lane := l, texels := [], result := fun _ => [0, 0, 0, 0] }
  else { lane := l, texels := [{ level := k, i := i, j := j }], result := fun ts => ts.getD 0 [] }

/-- TEX (R396). -/
def texBody (f : RForm) : Iss → State → Body := fun x s =>
  match s.textureOf x f with
  | .inl r => r
  | .inr t => s.texRead x f t ((lanesOf x.active).map (texLane f (s.battAt x.core x.slot) t))

/-- TEX (R396). -/
def execTex (f : RForm) (s : State) : Host.Outcome State Fault Refusal := runWord (.tex f) (texBody f) s

/-- TLD (R396). -/
def tldBody (f : RForm) : Iss → State → Body := fun x s =>
  match s.textureOf x f with
  | .inl r => r
  | .inr t => s.texRead x f t ((lanesOf x.active).map (tldLane f (s.battAt x.core x.slot) t))

/-- TLD (R396). -/
def execTld (f : RForm) (s : State) : Host.Outcome State Fault Refusal := runWord (.tld f) (tldBody f) s

/-! ### Layered lists (R397, R400) -/

/-- A node of a layered list (R397): its slot, depth, colour words and coverage. -/
structure Node where
  slot : Nat
  depth : Word
  rg : Word
  ba : Word
  cover : Nat
  deriving DecidableEq, Repr

/-- The colour of a node, decoded to binary32. -/
def Node.colour (n : Node) : List Word :=
  let c (w : Word) (hi : Bool) : Word := half32 (if hi then w.toNat / 2 ^ 16 else w.toNat % 2 ^ 16)
  [c n.rg false, c n.rg true, c n.ba false, c n.ba true]

/-- The address of the head of a pixel. -/
def TargetDesc.headAddr (t : TargetDesc) (x y : Nat) : DWord := t.heads + BitVec.ofNat 64 (4 * (y * t.width + x))

/-- The address of a node. -/
def TargetDesc.nodeAddr (t : TargetDesc) (n : Nat) : DWord := t.pool + BitVec.ofNat 64 (16 * n)

/-- A node from its bytes, and the number of the next. -/
def nodeOf (slot : Nat) (bs : List Byte) : Node × Nat :=
  let w (i : Nat) : Nat := recNum bs (4 * i) 4
  ({ slot := slot, depth := BitVec.ofNat 32 (w 0), rg := BitVec.ofNat 32 (w 1), ba := BitVec.ofNat 32 (w 2), cover := w 3 % 16 }, w 3 / 16)

/-- The bytes of a node. -/
def Node.bytes (n : Node) (next : Nat) : List Byte :=
  bytesOf 4 n.depth.toNat ++ bytesOf 4 n.rg.toNat ++ bytesOf 4 n.ba.toNat ++ bytesOf 4 (next * 16 + n.cover)

/-- What a lane's walk finds: the count and the nodes with what it read, a failing check, or poison. -/
inductive WalkRes where
  | ok (count : Nat) (nodes : List Node)
  | bad (c : LaneCause) (rep : Bool) (level : Nat)
  | poison (c : LaneCause)
  deriving DecidableEq, Repr

/-- Read n bytes of a lane as LD with cache policy 2 reads them, once the waits of R238 are over (R239, R400), and go on with them; the
accesses made come with the result. -/
def State.walkBytes (s : State) (x : Iss) (l : Nat) (va : DWord) (n : Nat) (k : List Byte → List LaneAcc × WalkRes) : List LaneAcc × WalkRes :=
  match s.checkRun x.core (s.battAt x.core x.slot).space l n va fun _ _ => 0 with
  | .bad c rep lv => ([], .bad c rep lv)
  | .ok a =>
    let bs := (s.loadSettle x.core [a]).loadBytes x.core x.slot 2 a
    match poisonedByte a bs with
    | some c => ([a], .poison c)
    | none =>
      let r := k (bs.map (·.1))
      (a :: r.1, r.2)

/-- Walk at most `fuel` nodes from node n (R400). Which fault address its RANGE has the manual does not say: the node's (log 129). -/
def State.walkNodes (s : State) (x : Iss) (t : TargetDesc) (l count : Nat) : Nat → Nat → List Node → List LaneAcc × WalkRes
  | 0, _, acc => ([], .ok count acc)
  | fuel + 1, n, acc =>
    if n = 0 then ([], .ok count acc)
    else if t.poolNodes ≤ n then ([], .bad { lane := l, cause := cRANGE, faddr := t.nodeAddr n } false 0)
    else s.walkBytes x l (t.nodeAddr n) 16 fun bs =>
      let r := nodeOf n bs
      s.walkNodes x t l count fuel r.2 (acc ++ [r.1])

/-- The list of a pixel as a lane reads it: a head whose first node is 0 is an empty list (R397). RANGE of a pixel outside the target has
fault address 0, for the manual names none (log 129). -/
def State.walkList (s : State) (x : Iss) (t : TargetDesc) (l px py : Nat) : List LaneAcc × WalkRes :=
  if t.width ≤ px ∨ t.height ≤ py then ([], .bad { lane := l, cause := cRANGE } false 0)
  else s.walkBytes x l (t.headAddr px py) 4 fun bs =>
    let h := numOf bs
    if h % 2 ^ 28 = 0 then ([], .ok 0 []) else s.walkNodes x t l (h / 2 ^ 28) (h / 2 ^ 28) (h % 2 ^ 28) []

/-- Checks 1 to 4 of R400 on the descriptor: how the word ends, or the descriptor. -/
def State.targetAt (s : State) (x : Iss) (a : DWord) (access : Nat) : Sum Body TargetDesc :=
  let b := s.battAt x.core x.slot
  if a.toNat % 64 != 0 then .inl (.trap (causesOf x.active cALIGN a) s) else
  match s.checkObject x.core b.space 0 a 128 fun _ _ => 0 with
  | .bad c true lv => .inl (.fault (causesOf x.active cXLAT c.faddr) access lv s)
  | .bad c false _ => .inl (.trap (causesOf x.active c.cause c.faddr) s)
  | .ok acc =>
    let bs := (s.objectReads x.core b.space a 128).loadBytes x.core x.slot 0 acc
    match findIdx (·.2) bs 0 with
    | some i => .inl (.trap (causesOf x.active cPOISON (a + BitVec.ofNat 64 i)) s)
    | none =>
      match targetDesc a (bs.map (·.1)) with
      | some t => if t.layered then .inr t else .inl (.trap (causesOf x.active cFMTDIV 0) s)
      | none => .inl (.trap (causesOf x.active cFMTDIV 0) s)

/-- What follows the checks of a descriptor. -/
def State.withTarget (s : State) (x : Iss) (a : DWord) (access : Nat) (k : TargetDesc → Body) : Body :=
  match s.targetAt x a access with
  | .inl r => r
  | .inr t => k t

/-- The walks of the active lanes. -/
def State.listWalks (s : State) (x : Iss) (f : RForm) (t : TargetDesc) : List (Nat × List LaneAcc × WalkRes) :=
  let b := s.battAt x.core x.slot
  (lanesOf x.active).map fun l => (l, s.walkList x t l (b.v f.a.toNat l).toNat (b.v (f.a.toNat + 1) l).toNat)

/-- What a walk reports (R267). -/
def walkReport (r : Nat × List LaneAcc × WalkRes) : LaneRes :=
  match r.2.2 with
  | .bad c rep lv => .bad c rep lv
  | _ => .ok { lane := r.1, ea := 0, locs := [] }

/-- The lanes whose walk met poison. -/
def walkBad (rs : List (Nat × List LaneAcc × WalkRes)) : List LaneCause := rs.filterMap fun r => match r.2.2 with | .poison c => some c | _ => none

/-- A lane's value from its list. -/
def walkValue (rs : List (Nat × List LaneAcc × WalkRes)) (value : Nat → List Node → List Word) (l : Nat) : List Word :=
  match rs.find? fun r => r.1 == l with
  | some (_, _, .ok n ns) => value n ns
  | _ => []

/-- What walking lists leaves behind, as LD under cache policy 2 does (R239). -/
def State.listFills (s : State) (x : Iss) (accs : List LaneAcc) : State :=
  ((s.loadSettle x.core accs).loadFills x.core (s.battAt x.core x.slot).space 2 accs).drewHost accs

/-- MLRES and MLRD over the lanes: the report of R267, then poison, then the values; the descriptor has been read before. -/
def State.listResult (s : State) (x : Iss) (f : RForm) (t : TargetDesc) (value : Nat → List Node → List Word) : Body :=
  let rs := s.listWalks x f t
  let s := (s.objectReads x.core (s.battAt x.core x.slot).space t.addr 128).listFills x (rs.map (·.2.1)).flatten
  reportOr (rs.map walkReport) 0 s fun _ => fourResult x f.d.toNat (walkBad rs) (walkValue rs value) s

/-- Front-to-back composition (R400). -/
def composeNodes (ns : List Node) : List Word :=
  ns.foldl (fun acc n =>
    let t := oneMinus (acc.getD 3 0)
    let c := n.colour
    [0, 1, 2, 3].map fun i => sum32 [val32 (acc.getD i 0), mulVal t (val32 (c.getD i 0))]) [0, 0, 0, 0]

/-- MLRES without L (R400). -/
def mlresBody (f : RForm) : Iss → State → Body := fun x s =>
  s.withTarget x ((s.battAt x.core x.slot).s f.b.toNat) 0 fun t => s.listResult x f t fun _ ns => composeNodes ns

/-- The layer that MLRES decodes under L (R400). -/
def layerWords (k : Nat) (_ : Nat) (ns : List Node) : List Word := match ns[k]? with | some n => n.colour | none => [0, 0, 0, 0]

/-- The node that MLRD gives, with the count (R400). -/
def nodeWords (k count : Nat) (ns : List Node) : List Word :=
  match ns[k]? with
  | some n => [n.depth, n.rg, n.ba, BitVec.ofNat 32 (n.cover + count * 2 ^ 8)]
  | none => [0, 0, 0, BitVec.ofNat 32 (count * 2 ^ 8)]

/-- MLRES without L (R400). -/
def execMlres (f : RForm) (s : State) : Host.Outcome State Fault Refusal := runWord (.mlres f) (mlresBody f) s

/-- MLRES under L (R400): layer k decoded exactly. -/
def mlresLayerBody (f : RForm) : Iss → State → Body := fun x s =>
  s.withTarget x ((s.battAt x.core x.slot).s f.b.toNat) 0 fun t => s.listResult x f t (layerWords (f.mf 2 0))

/-- MLRES under L (R400). -/
def execMlresLayer (f : RForm) (s : State) : Host.Outcome State Fault Refusal := runWord (.mlresLayer f) (mlresLayerBody f) s

/-- MLRD (R400). -/
def mlrdBody (f : RForm) : Iss → State → Body := fun x s =>
  s.withTarget x ((s.battAt x.core x.slot).s f.b.toNat) 0 fun t => s.listResult x f t (nodeWords (f.mf 2 0))

/-- MLRD (R400). -/
def execMlrd (f : RForm) (s : State) : Host.Outcome State Fault Refusal := runWord (.mlrd f) (mlrdBody f) s

/-- MLCLR (R400): transform 10 over the heads, queued in the copy engine with the address of STATUS; its pages and the
descriptor's must be writable (R336, R372). -/
def mlclrBody (f : RForm) : Iss → State → Body := fun x s =>
  let b := s.battAt x.core x.slot
  let a := b.s f.a.toNat
  s.withTarget x a 3 fun t =>
    let len := 4 * t.width * t.height
    let wr (pte : DWord) : Bool := writeCause pte != 0
    let r := s.enginePages x.core b.space [(t.heads.toNat, len, wr), ((a + 120).toNat, 8, wr)]
    pageReport x r.2 s <|
      .done ((s.objectReads x.core b.space a 128).enqueueCopy x 0 { s.newOp x f.d.toNat [t.heads, a + 120, BitVec.ofNat 64 len] r.1 with mode := 0 })

/-- MLCLR (R400). -/
def execMlclr (f : RForm) (s : State) : Host.Outcome State Fault Refusal := runWord (.mlclr f) (mlclrBody f) s

end Sys2Proof.Machine
end

