-- ==== Sys2Proof/Machine/PassWords.lean ====
section
/-! DEFINITION. The steps of a render pass: draw start, vertex caches, binning, tiles, the output merge unit, retirement
(R376 to R401). -/

namespace Sys2Proof.Machine

/-! ### The pipeline's memory and its passes -/

/-- An external write of the pipeline; none where a page is not writable (R377). -/
def State.pipeWrite (s : State) (space : Nat) (va : DWord) (bs : List Byte) : Option State :=
  match s.sideWrite space va bs with
  | .inl _ => none
  | .inr s => some s

/-- Several writes in order. -/
def State.pipeWrites (s : State) (space : Nat) : List (DWord × List Byte) → Option State
  | [] => some s
  | (a, bs) :: rest => (s.pipeWrite space a bs).bind fun s => s.pipeWrites space rest

/-- Replace the pass of a launch. -/
def State.putPass (s : State) (lnum : Nat) (p : Pass) : State := s.modLaunch lnum fun l => { l with pass := some p }

/-- A pass that may go on: not killed, and its context not stopped by a POOLX (R399). -/
def State.livePass (s : State) (lnum : Nat) : Option (Launch × Pass) :=
  match s.launch? lnum with
  | some l => if l.killed || (s.ctx l.recd.ctx).poolStop then none else l.pass.map fun p => (l, p)
  | none => none

/-- A live pass whose raster gate is open (R128, R401). -/
def State.openPass (s : State) (lnum : Nat) : Option (Launch × Pass) :=
  match s.livePass lnum with
  | some (l, p) => if (s.ctx l.recd.ctx).ctxst = 0 then some (l, p) else none
  | none => none

/-- Where an access of the pipeline has no translation the step does not take place. -/
def orStay (s : State) (r : Option State) : Host.Outcome State Fault Refusal := .next (r.getD s)

/-- The cluster whose SGU and OMU serve a pass: the manual names none. -/
def passCluster (lnum : Nat) : Nat := lnum % 16

/-! ### Draw start (R371, R376, R380, R381) -/

/-- A draw entry's fields, with its texture table, texture count and constant bytes. -/
structure DrawEntry where
  info : DrawInfo
  textab : DWord
  ntex : Nat
  constLen : Nat

/-- The fields of a draw entry. -/
def drawEntry (bs : List Byte) : DrawEntry :=
  let d (lo : Nat) : DWord := BitVec.ofNat 64 (recNum bs lo 8)
  let st := recNum bs 31 1
  { info := { raw := bs, const := d 88, vcache := d 72, ventry := d 56, fentry := d 64, ntri := recNum bs 36 4, nout := recNum bs 32 1,
              depthTest := st.testBit 0, depthWrite := st.testBit 1, blend := st.testBit 2, cullBack := st.testBit 3, qmemo := st.testBit 4 }
    textab := d 80, ntex := recNum bs 33 1, constLen := recNum bs 34 2 }

/-- Is an entry address one that a batt can start at, as R110 asks of ENTRY? -/
def entryBad (a : DWord) : Bool := a.toNat % 8 != 0 || fld a 63 49 != 0

/-- Does a draw entry break R371? -/
def drawEntryBad (bs : List Byte) : Bool :=
  let e := drawEntry bs
  recNum bs 112 16 != 0 || recNum bs 40 16 != 0 || recNum bs 0 31 != 0 || 32 ≤ recNum bs 31 1 || e.info.ntri < 1 || 2 ^ 24 < e.info.ntri ||
  4096 < e.constLen || 16 < e.ntex || 28 < e.info.nout || e.textab.toNat % 16 != 0 || e.info.vcache.toNat % 64 != 0 ||
  entryBad e.info.ventry || entryBad e.info.fentry

/-- The texture descriptors of a draw with their bytes, or the address of the first that fails (R376, R395). -/
def State.readTexs (s : State) (space : Nat) (a : DWord) : Nat → Sum DWord (List (TexDesc × List Byte))
  | 0 => .inr []
  | n + 1 =>
    match s.sideRead space a 48 with
    | .bad _ _ => .inl a
    | .ok bs =>
      match texDesc bs with
      | none => .inl a
      | some t =>
        match s.readTexs space (a + 48) n with
        | .inl x => .inl x
        | .inr ts => .inr ((t, bs) :: ts)

/-- The pure region that starts at an address: identity and COST (R380). -/
def State.pureAt (s : State) (l : Launch) (pc : DWord) : SideRes (Option (DWord × Nat)) :=
  match s.findLast l.recd.ctx l.recd.puretab 32 l.pures pc with
  | .bad c a => .bad c a
  | .ok none => .ok none
  | .ok (some a) =>
    match s.pureEntry l.recd.ctx a with
    | .bad c x => .bad c x
    | .ok r => .ok (if r.start = pc then some (r.ident, r.cost) else none)

/-- The signatures of a draw (R380). Which identity the key of a draw absorbs for which no region starts at its entry the manual does not say:
0 (log 132). -/
def signDraw (d : DrawInfo) (const : List Byte) (sigs : List (List Byte)) : DrawInfo :=
  let ident (o : Option (DWord × Nat)) : List Byte := bytesOf 8 ((o.map Prod.fst).getD 0).toNat
  let g := ((({} : Sig).absorbBytes (d.raw.take 112)).absorbBytes const).absorbBytes (ident d.vpure)
  let k := sigs.foldl (fun (g : Sig) b => g.absorbBytes b) ((({} : Sig).absorbBytes (ident d.fpure)).absorbBytes const)
  { d with sig := g.final, fkey := k.final, fstate := (k.h1, k.h2), fcount := k.count }

/-- The draw entry or descriptor at an address fails: its context is killed with STATUS 1 and CAUSE 0x15 (R376, R422). -/
def State.drawFails (s : State) (space : Nat) (a : DWord) : State :=
  (s.addRecord (windowOf space) (plainRecord space cLAUNCHX a)).killContext space 1 cLAUNCHX

/-- A draw that has been read starts: reuse, or VALID ← 0 and its vertex felts (R381). -/
def State.beginDraw (s : State) (l : Launch) (p : Pass) (d : DrawInfo) : Option State :=
  let space := l.recd.ctx
  match s.pipeRead space d.vcache 64 with
  | none => none
  | some h =>
    let held := recNum h 24 1 % 2 == 1 && h.take 16 == bytesOf 8 d.sig.1.toNat ++ bytesOf 8 d.sig.2.toNat && recNum h 16 8 == 3 * d.ntri
    match d.vpure with
    | some (_, cost) =>
      if held then
        some ((s.putPass l.lnum { p with infos := p.infos ++ [{ d with reused := true }], stage := .binning, tri := 0 }).modCluster
          (passCluster l.lnum) fun k => k.credit (cost * vertexFelts d.ntri))
      else run s
    | none => run s
where
  run (s : State) : Option State :=
    (s.pipeWrite l.recd.ctx (d.vcache + 24) [0]).map fun s =>
      s.modLaunch l.lnum fun l => { l with next := 0, pass := some { p with infos := p.infos ++ [d], stage := .vertices, tri := 0 } }

/-- What the start of a draw reads: its entry, texture descriptors, pure regions, constants and the header of its vertex cache. -/
def State.drawRuns (s : State) (l : Launch) (a : DWord) (e : DrawEntry) : List (DWord × Nat) :=
  let region (pc : DWord) : List (DWord × Nat) := s.lookupRuns l.recd.ctx l.recd.puretab 32 l.pures pc 32
  [(a, 128), (e.textab, 48 * e.ntex)] ++ region e.info.ventry ++ region e.info.fentry ++ [(e.info.const, 16 * e.constLen), (e.info.vcache, 64)]

/-- DRAW_START (R376, R380, R381). -/
def execDrawStart (lnum : Nat) (s : State) : Host.Outcome State Fault Refusal :=
  match s.openPass lnum with
  | none => .next s
  | some (l, p) =>
    if p.stage != .start || !s.applied l.point then .next s else
    let space := l.recd.ctx
    let a := p.draws + BitVec.ofNat 64 (128 * p.draw)
    match s.sideRead space a 128 with
    | .bad _ _ => .next (s.drawFails space a)
    | .ok bs =>
      if drawEntryBad bs then .next (s.drawFails space a) else
      let e := drawEntry bs
      match s.readTexs space e.textab e.ntex with
      | .inl x => .next (s.drawFails space x)
      | .inr ts =>
        match s.pureAt l e.info.ventry, s.pureAt l e.info.fentry with
        | .bad c x, _ => .next (s.killUnreadable space c x)
        | .ok _, .bad c x => .next (s.killUnreadable space c x)
        | .ok v, .ok f =>
          orStay s <| (s.pipeRead space e.info.const (16 * e.constLen)).bind fun const =>
            (s.beginDraw l p (signDraw { e.info with vpure := v, fpure := f, texs := ts.map (·.1) } const (ts.map fun t => t.2.drop 32))).map
              fun t => t.fetchRuns space (s.drawRuns l a e)

/-- VERTEX_CACHE_VALIDATE (R377, R381): when the vertex batts have exited, their entries are applied in level two, the header of a
memoisable draw is written, and binning begins. -/
def execVertexCacheValidate (lnum : Nat) (s : State) : Host.Outcome State Fault Refusal :=
  match s.openPass lnum with
  | none => .next s
  | some (l, p) =>
    match p.infos[p.draw]? with
    | none => .next s
    | some d =>
      if p.stage != .vertices || l.next != vertexFelts d.ntri || l.left != 0 || !l.saved.isEmpty then .next s else
      let s1 := (List.range s.cores.length).foldl (fun s c =>
        if (s.core c).log.isEmpty then s else s.fullEntries c fun e => e.space == l.recd.ctx) s
      let header := bytesOf 8 d.sig.1.toNat ++ bytesOf 8 d.sig.2.toNat ++ bytesOf 8 (3 * d.ntri) ++ [1] ++ zeroBytes 39
      orStay s <| (if d.vpure.isSome then s1.pipeWrite l.recd.ctx d.vcache header else some s1).map fun s =>
        s.putPass lnum { p with stage := .binning, tri := 0, infos := setAt p.infos p.draw { d with validated := true } }

/-! ### Binning (R384, R385, R388) -/

/-- STAGE of the pass state (R384). -/
def PassStage.code : PassStage → Nat
  | .rendering => 1
  | .retired => 2
  | _ => 0

/-- The pass state (R384). -/
def Pass.stateBytes (p : Pass) (lnum : Nat) : List Byte :=
  bytesOf 8 p.stage.code ++ bytesOf 8 lnum ++ bytesOf 4 p.draw ++ bytesOf 4 p.tri ++ bytesOf 4 p.nflush ++ bytesOf 4 p.chunks ++
    bytesOf 8 p.culled ++ zeroBytes 216

/-- A tile head (R384). -/
def Tile.headBytes (t : Tile) : List Byte :=
  bytesOf 4 t.first ++ bytesOf 4 t.last ++ bytesOf 4 t.list.length ++
    bytesOf 4 ((if t.stored then 1 else 0) + (if t.noSkip then 2 else 0) + t.resume * 2 ^ 8)

/-- Where a tile head lies. -/
def Pass.headAt (p : Pass) (tile : Nat) : DWord := p.paramBase + BitVec.ofNat 64 (256 + 16 * tile)

/-- Where chunk c lies. -/
def Pass.chunkAt (p : Pass) (c : Nat) : DWord := p.paramBase + BitVec.ofNat 64 (paramHeader p.target.tiles + 256 * (c - 1))

/-- LIMIT of R384. -/
def Pass.limit (p : Pass) : Nat := if p.chunkMax = 0 then paramCapacity p.paramSize p.target.tiles else p.chunkMax

/-- Store the pass in the launch and its pass state in parameter memory. -/
def State.savePass (s : State) (l : Launch) (p : Pass) : Option State :=
  (s.pipeWrite l.recd.ctx p.paramBase (p.stateBytes l.lnum)).map fun s => s.putPass l.lnum p

/-- Change a tile and write its head. -/
def State.saveTile (s : State) (l : Launch) (p : Pass) (tile : Nat) (t : Tile) : Option (State × Pass) :=
  (s.pipeWrite l.recd.ctx (p.headAt tile) t.headBytes).map fun s => (s, { p with tiles := setAt p.tiles tile t })

/-- An entry of a chunk (R384). -/
def TileEntry.bytes (e : TileEntry) : List Byte :=
  bytesOf 4 e.tri ++ bytesOf 4 e.draw ++ (e.coords.map fun c => bytesOf 4 (modPow c 32)).flatten

/-- The signature of a tile before its entries (R388). -/
def tileSeed (t : TargetDesc) (tile : Nat) : Sig :=
  (({} : Sig).absorbBytes ((t.raw.drop 32).take 36)).absorbAll [tile % t.tilesX, tile / t.tilesX]

/-- The words of an entry that a tile's signature absorbs (R388). -/
def entryWords (d : DrawInfo) (e : TileEntry) (verts : List (List Word)) : List Nat :=
  let two (x : DWord) : List Nat := [x.toNat % 2 ^ 32, x.toNat / 2 ^ 32]
  two d.sig.1 ++ two d.sig.2 ++ two ((d.fpure.map (·.1)).getD 0) ++ two d.fkey.1 ++ two d.fkey.2 ++ [e.tri] ++
    (e.coords.map fun c => modPow c 32) ++ (verts.flatten.map (·.toNat))

/-- Append an entry to a tile's list: the tile, the chunks in use, and what is written (R384, R385). -/
def Pass.appendEntry (p : Pass) (tile : Nat) (d : DrawInfo) (e : TileEntry) (verts : List (List Word)) : Pass × List (DWord × List Byte) :=
  let t := p.tiles.getD tile {}
  let n := t.list.length
  let g := ({ h1 := t.sig.1, h2 := t.sig.2, count := t.count } : Sig).absorbAll (entryWords d e verts)
  let t : Tile := { t with list := t.list ++ [e], sig := (g.h1, g.h2), count := g.count, pure := t.pure && d.vpure.isSome && d.fpure.isSome,
                           cost := t.cost + (d.fpure.map (·.2)).getD 0 }
  if n % 7 = 0 then
    let c := p.chunks + 1
    let t1 : Tile := { t with first := if n = 0 then c else t.first, last := c }
    let link := if n = 0 then [] else [(p.chunkAt t.last, bytesOf 4 c)]
    ({ p with chunks := c, tiles := setAt p.tiles tile t1 },
     link ++ [(p.chunkAt c, bytesOf 4 0 ++ bytesOf 4 1 ++ zeroBytes 24 ++ e.bytes), (p.headAt tile, t1.headBytes)])
  else
    ({ p with tiles := setAt p.tiles tile t },
     [(p.chunkAt t.last + 4, bytesOf 4 (n % 7 + 1)), (p.chunkAt t.last + BitVec.ofNat 64 (32 + 32 * (n % 7)), e.bytes), (p.headAt tile, t.headBytes)])

/-- The tiles whose rectangle meets a triangle's box within the target (R385). -/
def boxTiles (t : TargetDesc) (c : List Int) : List Nat :=
  let xs := [c.getD 0 0, c.getD 2 0, c.getD 4 0]
  let ys := [c.getD 1 0, c.getD 3 0, c.getD 5 0]
  let lo (l : List Int) : Int := l.foldl min (l.getD 0 0) / 256
  let hi (l : List Int) : Int := l.foldl max (l.getD 0 0) / 256
  let x0 := max 0 (lo xs)
  let x1 := min ((t.width : Int) - 1) (hi xs)
  let y0 := max 0 (lo ys)
  let y1 := min ((t.height : Int) - 1) (hi ys)
  if x1 < x0 ∨ y1 < y0 then [] else
  ((List.range ((y1 / 32 - y0 / 32).toNat + 1)).map fun j =>
    (List.range ((x1 / 32 - x0 / 32).toNat + 1)).map fun i => ((y0 / 32).toNat + j) * t.tilesX + (x0 / 32).toNat + i).flatten

/-- The output words of a triangle's vertices that signatures and setup read: words 0 to 3 + NOUT. -/
def State.triVerts (s : State) (space : Nat) (d : DrawInfo) (tri : Nat) : Option (List (List Word)) :=
  let one (i : Nat) : Option (List Word) := s.pipeWords space (d.outAddr (3 * tri + i) 0) (4 + d.nout)
  match one 0, one 1, one 2 with
  | some a, some b, some c => some [a, b, c]
  | _, _, _ => none

/-- Binning of a pass begins (R377, R384): after the pass before it on the same target; STATUS is read as it stands, the pass state
and the heads become 0. -/
def State.beginBinning (s : State) (l : Launch) (p : Pass) : Option (State × Pass) :=
  if p.begun then some (s, p) else
  let earlier := s.launches.takeWhile fun x => x.lnum != l.lnum
  if earlier.any fun x => x.recd.ctx == l.recd.ctx && (match x.pass with | some q => q.target.addr == p.target.addr | none => false) then none
  else
    (s.pipeRead l.recd.ctx (p.target.addr + 120) 8).bind fun st =>
      let status : DWord := BitVec.ofNat 64 (numOf st)
      let target := { p.target with pages := fld status 21 0, drops := fld status 63 32 }
      let seeded (i : Nat) : Tile := let g := tileSeed target i; { sig := (g.h1, g.h2), count := g.count }
      let p : Pass := { p with begun := true, target := target, tiles := (List.range target.tiles).map seeded }
      (s.pipeWrite l.recd.ctx p.paramBase (p.stateBytes l.lnum ++ zeroBytes (16 * target.tiles))).map fun s =>
        (s.fetchRuns l.recd.ctx [(target.addr + 120, 8)], p)

/-- What follows a triangle (R377): after the last of a draw the next draw starts, and not before it; after the last of all BDRAW stays and
BTRI is the draw's NTRI (R384; log 146). -/
def Pass.nextTri (p : Pass) (d : DrawInfo) : Pass :=
  if p.tri + 1 < d.ntri then { p with tri := p.tri + 1 }
  else if p.draw + 1 < p.ndraw then { p with draw := p.draw + 1, tri := 0, stage := .start }
  else { p with tri := p.tri + 1, stage := .rendering }

/-- One triangle is binned, or calls for a partial flush (R385). -/
def State.binTri (s : State) (l : Launch) (p : Pass) (d : DrawInfo) : Option State :=
  (s.triVerts l.recd.ctx d p.tri).bind fun vs =>
    match setupTri p.target (vs.map fun v => v.take 4) with
    | none => s.savePass l ({ p with culled := p.culled + 1 }.nextTri d)
    | some (c, _) =>
      if culledTri d.cullBack c then s.savePass l ({ p with culled := p.culled + 1 }.nextTri d) else
      let tiles := boxTiles p.target c
      let need := (tiles.filter fun i => (p.tiles.getD i {}).list.length % 7 == 0).length
      if p.limit < p.chunks + need then some (s.putPass l.lnum { p with stage := .flushing })
      else
        let e : TileEntry := { draw := p.draw, tri := p.tri, coords := c }
        let (p, ws) := tiles.foldl (fun (acc : Pass × List (DWord × List Byte)) i =>
          let (q, w) := acc.1.appendEntry i d e vs
          (q, acc.2 ++ w)) (p, [])
        (s.pipeWrites l.recd.ctx ws).bind fun s => s.savePass l (p.nextTri d)

/-- TRIANGLE_BIN (R385). -/
def execTriangleBin (lnum : Nat) (s : State) : Host.Outcome State Fault Refusal :=
  match s.openPass lnum with
  | none => .next s
  | some (l, p) =>
    if p.stage != .binning then .next s else
    orStay s <| (s.beginBinning l p).bind fun (s, p) =>
      match p.infos[p.draw]? with
      | none => none
      | some d => (s.binTri l p d).map fun t => t.fetchRuns l.recd.ctx (d.triRuns p.tri 0 (4 + d.nout))

/-! ### Tiles (R386, R387, R389, R393, R401) -/

/-- Rows of a tile within the target: the row of the tile, the pixel row, the first pixel and how many. -/
def tileRows (t : TargetDesc) (tile : Nat) : List (Nat × Nat × Nat × Nat) :=
  let x := 32 * (tile % t.tilesX)
  let y := 32 * (tile / t.tilesX)
  (List.range (min 32 (t.height - y))).map fun r => (r, y + r, x, min 32 (t.width - x))

/-- Samples of the first n pixels of row r. -/
def rowSamples {α : Type} (samples r n : Nat) (l : List α) : List α := (l.drop (32 * r * samples)).take (n * samples)

/-- A tile's samples as cleared (R387). -/
def clearWork (t : TargetDesc) (tile upto : Nat) : TileWork :=
  { tile := tile, upto := upto
    depth := if t.layered then [] else List.replicate (1024 * t.samples) t.clearD
    colour := if t.layered then [] else List.replicate (1024 * t.samples) (encodeColour t.cfmt t.clearC) }

/-- A tile's samples reloaded from the surfaces (R387). -/
def State.loadWork (s : State) (space : Nat) (t : TargetDesc) (tile upto : Nat) : Option TileWork :=
  let size := pixelSize t.cfmt
  (tileRows t tile).foldl (fun acc r =>
    acc.bind fun w =>
      let (row, y, x, n) := r
      let o := (y * t.width + x) * t.samples
      match s.pipeRead space (t.depths + BitVec.ofNat 64 (4 * o)) (4 * n * t.samples),
            s.pipeRead space (t.colour + BitVec.ofNat 64 (size * o)) (size * n * t.samples) with
      | some d, some c =>
        let put {α : Type} (l v : List α) : List α := l.take (32 * row * t.samples) ++ v ++ l.drop (32 * row * t.samples + v.length)
        some { w with depth := put w.depth (words32 d), colour := put w.colour (chunksOf size (n * t.samples) c) }
      | _, _ => none) (some (clearWork t tile upto))

/-- What the reload of a tile reads. -/
def TargetDesc.loadRuns (t : TargetDesc) (tile : Nat) : List (DWord × Nat) :=
  ((tileRows t tile).map fun r =>
    let (_, y, x, n) := r
    let o := (y * t.width + x) * t.samples
    [(t.depths + BitVec.ofNat 64 (4 * o), 4 * n * t.samples),
     (t.colour + BitVec.ofNat 64 (pixelSize t.cfmt * o), pixelSize t.cfmt * n * t.samples)]).flatten

/-- What storing a tile writes (R393). -/
def storeRows (t : TargetDesc) (w : TileWork) : List (DWord × List Byte) :=
  if t.layered then [] else
  ((tileRows t w.tile).map fun r =>
    let (row, y, x, n) := r
    let o := (y * t.width + x) * t.samples
    [(t.depths + BitVec.ofNat 64 (4 * o), ((rowSamples t.samples row n w.depth).map fun d => bytesOf 4 d.toNat).flatten),
     (t.colour + BitVec.ofNat 64 (pixelSize t.cfmt * o), (rowSamples t.samples row n w.colour).flatten)]).flatten

/-- What resolving a tile writes (R387, R393). -/
def resolveRows (t : TargetDesc) (w : TileWork) : List (DWord × List Byte) :=
  if t.layered ∨ t.resolve = 0 then [] else
  (tileRows t w.tile).map fun r =>
    let (row, y, x, n) := r
    (t.resolve + BitVec.ofNat 64 (pixelSize t.cfmt * (y * t.width + x)),
     ((chunksOf t.samples n (rowSamples t.samples row n w.colour)).map (resolveColour t.cfmt)).flatten)

/-- A tile's signature (R388). -/
def Tile.signature (t : Tile) : DWord × DWord := ({ h1 := t.sig.1, h2 := t.sig.2, count := t.count } : Sig).final

/-- The bytes of a plane entry: F1 in the low 8 (R389). -/
def Tile.planeBytes (t : Tile) : List Byte := let g := t.signature; bytesOf 8 g.1.toNat ++ bytesOf 8 g.2.toNat

/-- Where a plane entry lies. -/
def TargetDesc.planeAt (t : TargetDesc) (tile : Nat) : DWord := t.sigPlane + BitVec.ofNat 64 (16 * tile)

/-- Is the plane entry of a tile compared: may the tile be skipped at all (R389)? -/
def Pass.mayMatch (p : Pass) (tile : Nat) : Bool :=
  let t := p.tiles.getD tile {}
  p.target.retain && !p.target.load && p.target.sigPlane != 0 && !t.stored && !t.flushed && t.pure

/-- What the comparison of a tile with its plane entry reads. -/
def Pass.planeRuns (p : Pass) (tile : Nat) : List (DWord × Nat) := if p.mayMatch tile then [(p.target.planeAt tile, 16)] else []

/-- Is a tile skipped (R389)? -/
def State.skips (s : State) (l : Launch) (p : Pass) (tile : Nat) : Option Bool :=
  let t := p.tiles.getD tile {}
  if !p.mayMatch tile then some false
  else (s.pipeRead l.recd.ctx (p.target.planeAt tile) 16).map fun bs => bs.any (· != 0) && bs == t.planeBytes

/-- A tile begins: reloaded where it is stored or INIT is 1, else cleared (R387, R401). -/
def State.startTile (s : State) (l : Launch) (p : Pass) (tile : Nat) : Option State :=
  let t := p.tiles.getD tile {}
  let upto := if p.specs.any fun i => i.tile == tile then t.resume + 1 else t.resume
  let reload := !p.target.layered && (t.stored || p.target.load)
  let w := if reload then s.loadWork l.recd.ctx p.target tile upto else some (clearWork p.target tile upto)
  w.map fun w => (s.putPass l.lnum { p with work := p.work ++ [w] }).fetchRuns l.recd.ctx (if reload then p.target.loadRuns tile else [])

/-- The quads of the tile's next entry become pixel felts (R387, R391). -/
def State.formEntry (s : State) (l : Launch) (p : Pass) (w : TileWork) : Option State :=
  match (p.tiles.getD w.tile {}).list[w.upto]? with
  | none => none
  | some e =>
    match p.infos[e.draw]? with
    | none => none
    | some d =>
      (s.triVerts l.recd.ctx d e.tri).map fun vs =>
        let zs := ((setupTri p.target (vs.map fun v => v.take 4)).map (·.2)).getD []
        let felts := pixelFelts p.target w.tile w.upto e zs
        (s.putPass l.lnum { p with specs := p.specs ++ felts, work := mapIf (fun x => x.tile == w.tile) (fun x => { x with upto := x.upto + 1 }) p.work }).fetchRuns
          l.recd.ctx (d.triRuns e.tri 0 (4 + d.nout))

/-- Are pixel batts or fragments of a tile outstanding? -/
def State.tileBusy (s : State) (lnum : Nat) (p : Pass) (tile : Nat) : Bool :=
  (s.batts.any fun b => b.kind == .pixel && b.id.lnum == lnum && (match b.pix with | some i => i.tile == tile | none => false)) ||
  p.frags.any fun g => g.tile == tile

/-- The end of a partial flush: no list is left (R386). -/
def Pass.endFlush (p : Pass) : Pass :=
  if p.tiles.all fun t => t.list.isEmpty then { p with stage := .binning, chunks := 0, nflush := p.nflush + 1 } else p

/-- A tile whose list has been rendered ends: stored, in a flush its list reset, else resolved (R386, R387). The manual does not say whether
the store at the end of a pass sets STORED in the tile's head: the head stays as it is (log 131). -/
def State.endTile (s : State) (l : Launch) (p : Pass) (w : TileWork) : Option State :=
  let t := p.tiles.getD w.tile {}
  let p1 : Pass := { p with work := p.work.filter fun x => x.tile != w.tile }
  if p.stage == .flushing then
    let t1 : Tile := { t with stored := !p.target.layered, flushed := !p.target.layered, list := [], first := 0, last := 0, resume := 0 }
    (s.pipeWrites l.recd.ctx (storeRows p.target w)).bind fun s =>
      (s.saveTile l p1 w.tile t1).bind fun (s, p) => s.savePass l p.endFlush
  else
    (s.pipeWrites l.recd.ctx (storeRows p.target w ++ resolveRows p.target w)).map fun s =>
      s.putPass l.lnum { p1 with tiles := setAt p.tiles w.tile { t with finished := true } }

/-- The raster gate closes on a tile in progress: it is stored, and RESUME holds where it continues (R401). -/
def State.restTile (s : State) (l : Launch) (p : Pass) (w : TileWork) : Option State :=
  let t := p.tiles.getD w.tile {}
  let left := p.specs.any fun i => i.tile == w.tile
  let t1 : Tile := { t with stored := !p.target.layered, resume := if left then w.upto - 1 else w.upto }
  let p1 : Pass := { p with work := p.work.filter fun x => x.tile != w.tile }
  (s.pipeWrites l.recd.ctx (storeRows p.target w)).bind fun s =>
    (s.saveTile l p1 w.tile t1).map fun (s, p) => s.putPass l.lnum p

/-- The tiles in progress of a pass are stored, one after the other (R401); one that cannot be written stays. -/
def State.restPass (s : State) (lnum : Nat) : State :=
  let works := (((s.launch? lnum).bind (·.pass)).map (·.work)).getD []
  works.foldl (fun s w => match s.launch? lnum with
    | some l => match l.pass with
      | some p => (s.restTile l p w).getD s
      | none => s
    | none => s) s

/-- PREEMPT (R128): a context with no resident batt becomes saved at once (R442), for which its passes are brought to rest at once (R401;
log 35). -/
def State.preempt (s : State) (ctx : Nat) : State :=
  (if s.batts.any fun b => b.space == ctx then s
   else (s.launches.filter fun l => l.recd.ctx == ctx && !l.killed).foldl (fun s l => s.restPass l.lnum) s).startPreempt ctx

/-- A tile that is not in progress: skipped or begun in the final rendering, begun in a flush (R386, R389). -/
def State.openTile (s : State) (l : Launch) (p : Pass) (tile : Nat) : Option State :=
  let t := p.tiles.getD tile {}
  if p.tiles.length ≤ tile then none
  else if p.stage == .flushing then (if t.list.isEmpty then none else s.startTile l p tile)
  else if p.stage == .rendering && !t.finished then
    (s.skips l p tile).bind fun skip =>
      (if skip then
        some ((s.putPass l.lnum { p with tiles := setAt p.tiles tile { t with finished := true } }).modCluster (passCluster l.lnum) fun k => k.credit t.cost)
      else s.startTile l p tile).map fun u => u.fetchRuns l.recd.ctx (p.planeRuns tile)
  else none

/-- TILE_RENDER (R386, R387, R389, R401): a tile begins, its next entry is rendered, or it ends. -/
def execTileRender (lnum tile : Nat) (s : State) : Host.Outcome State Fault Refusal :=
  match s.livePass lnum with
  | none => .next s
  | some (l, p) =>
    let gate := (s.ctx l.recd.ctx).ctxst != 0
    match p.work.find? fun w => w.tile == tile with
    | none => if gate then .next s else orStay s (s.openTile l p tile)
    | some w =>
      let left := p.specs.any fun i => i.tile == tile
      if gate then (if s.tileBusy lnum p tile then .next s else orStay s (s.restTile l p w))
      else if left then .next s
      else if w.upto < (p.tiles.getD tile {}).list.length then orStay s (s.formEntry l p w)
      else if s.tileBusy lnum p tile then .next s
      else orStay s (s.endTile l p w)

/-! ### The output merge unit (R391, R393, R397 to R399) -/

/-- Does (d, t) come before (d', t')? -/
def earlierTri (d t d' t' : Nat) : Bool := d < d' || (d == d' && t < t')

/-- May a fragment commit: its tile is in progress and no fragment of an earlier entry at its pixel is outstanding, emitted or
still to be emitted (R391)? -/
def State.mayCommit (s : State) (lnum : Nat) (p : Pass) (g : Fragment) : Bool :=
  let covers (i : PixelInfo) (l : Nat) : Bool := i.pixels.getD l none == some (g.x, g.y) && i.cover.getD l 0 != 0
  let before (i : PixelInfo) : Bool := earlierTri i.draw i.tri g.draw g.tri
  (p.work.any fun w => w.tile == g.tile) &&
  !(p.frags.any fun h => h.x == g.x && h.y == g.y && earlierTri h.draw h.tri g.draw g.tri) &&
  !(p.specs.any fun i => before i && laneIds.any (covers i)) &&
  !(s.batts.any fun b => b.kind == .pixel && b.id.lnum == lnum &&
    (match b.pix with | some i => before i && laneIds.any (fun l => (b.lane l).st != .exited && covers i l) | none => false))

/-- One sample of a plain fragment (R393): depth and colour after. -/
def mergeSample (fmt : Nat) (d : DrawInfo) (c : List Word) (z depth : Word) (colour : List Byte) : Word × List Byte :=
  let pass := !d.depthTest || (!(val32 z).isNan && !(val32 depth).isNan && decide (cmpVal (val32 z) (val32 depth) < 0))
  if pass then (if d.depthWrite then z else depth, encodeColour fmt (if d.blend then blend fmt c colour else c)) else (depth, colour)

/-- A plain fragment is merged into each covered sample (R393). -/
def mergePlain (t : TargetDesc) (d : DrawInfo) (g : Fragment) (w : TileWork) : TileWork :=
  let base := ((g.y % 32) * 32 + g.x % 32) * t.samples
  ((samplePos t.samples).mapIdx fun k o => (k, o)).foldl (fun w so =>
    if !Nat.testBit g.cover so.1 then w else
    let z := depthAt g.coords g.zs (pixelPoint g.x g.y so.2)
    let r := mergeSample t.cfmt d g.colour z (w.depth.getD (base + so.1) 0) (w.colour.getD (base + so.1) [])
    { w with depth := setAt w.depth (base + so.1) r.1, colour := setAt w.colour (base + so.1) r.2 }) w

/-- The list of a pixel as the pipeline reads it (R397). -/
def State.pixelNodes (s : State) (space : Nat) (t : TargetDesc) : Nat → Nat → Option (List Node)
  | 0, _ => some []
  | fuel + 1, n =>
    if n = 0 then some [] else
    (s.pipeRead space (t.nodeAddr n) 16).bind fun bs =>
      let r := nodeOf n bs
      (s.pixelNodes space t fuel r.2).map fun ns => r.1 :: ns

/-- What the commit of a layered fragment reads: the head of its pixel and the nodes of its list. -/
def Fragment.listRuns (g : Fragment) (t : TargetDesc) (ns : List Node) : List (DWord × Nat) :=
  (t.headAddr g.x g.y, 4) :: ns.map fun n => (t.nodeAddr n.slot, 16)

/-- What is written for a list: its nodes, linked, and its head. -/
def listWrites (t : TargetDesc) (x y : Nat) (ns : List Node) : List (DWord × List Byte) :=
  (ns.mapIdx fun i n => (t.nodeAddr n.slot, n.bytes ((ns[i + 1]?).map (·.slot) |>.getD 0))) ++
  [(t.headAddr x y, bytesOf 4 (ns.length * 2 ^ 28 + ((ns.head?).map (·.slot)).getD 0))]

/-- Two 16-bit codes in a word. -/
def pair16 (lo hi : Nat) : Word := BitVec.ofNat 32 (lo + hi * 2 ^ 16)

/-- The node of a fragment (R397); none for a NaN depth. -/
def fragNode (g : Fragment) : Option Node :=
  let z := depthAt g.coords g.zs (pixelCentre g.x g.y)
  let h (i : Nat) : Nat := code16 (val32 (g.colour.getD i 0))
  if (val32 z).isNan then none
  else some { slot := 0, depth := z, rg := pair16 (h 0) (h 1), ba := pair16 (h 2) (h 3), cover := g.cover }

/-- The new node is placed after every layer whose depth is at or below its own (R398). -/
def insertNode (ns : List Node) (n : Node) : List Node :=
  let k := ((ns.mapIdx fun i m => if cmpVal (val32 m.depth) (val32 n.depth) ≤ 0 then i + 1 else 0)).foldl max 0
  ns.take k ++ [n] ++ ns.drop k

/-- The exact gap between two depths; none when it is infinite. -/
def depthGap (a b : Node) : Option (Int × Int) :=
  let x := val32 a.depth
  let y := val32 b.depth
  if cmpVal x y = 0 then some (0, 0)
  else if x.special || y.special then none
  else some (addDy y.dyadic (-x.dyadic.1, x.dyadic.2))

/-- Is gap a smaller than gap b? -/
def gapLt (a b : Option (Int × Int)) : Bool :=
  match a, b with
  | some x, some y => decide ((addDy x (-y.1, y.2)).1 < 0)
  | some _, none => true
  | none, _ => false

/-- The position of the adjacent pair with the smallest gap, nearest the viewer on a tie (R398). -/
def mergePair (ns : List Node) : Nat :=
  let gap (i : Nat) : Option (Int × Int) := match ns[i]?, ns[i + 1]? with | some a, some b => depthGap a b | _, _ => none
  (List.range (ns.length - 1)).foldl (fun best i => if gapLt (gap i) (gap best) then i else best) 0

/-- The merge rules (R398), in n's slot. MAXA keeps n where an alpha is NaN, as none is the larger (log 148). -/
def mergeNodes (rule : Nat) (n f : Node) : Node :=
  let a (m : Node) (i : Nat) : FVal := val32 (m.colour.getD i 0)
  let made (ch : Nat → Nat) : Node := { n with rg := pair16 (ch 0) (ch 1), ba := pair16 (ch 2) (ch 3), cover := n.cover ||| f.cover }
  match rule with
  | 0 =>
    let t := oneMinus (n.colour.getD 3 0)
    made fun i => (fusedSum h16 0 [a n i, mulVal (a f i) t]).bits
  | 1 => n
  | 2 => made fun i => (fusedSum h16 0 [a n i, a f i]).bits
  | _ => if !(a n 3).isNan && !(a f 3).isNan && decide (0 < cmpVal (a f 3) (a n 3)) then { f with slot := n.slot } else n

/-- A list after its chosen pair is merged, and the slot that comes free. -/
def mergeList (rule : Nat) (ns : List Node) : List Node × Nat :=
  let i := mergePair ns
  match ns[i]?, ns[i + 1]? with
  | some n, some f => (ns.take i ++ [mergeNodes rule n f] ++ ns.drop (i + 2), f.slot)
  | _, _ => (ns, 0)

/-- A node for a tile: from its free list, its page, or a page granted (R397). -/
def takeNode (t : TargetDesc) (tile : Tile) : Option (Nat × Tile × TargetDesc) :=
  match tile.freeNodes with
  | n :: rest => some (n, { tile with freeNodes := rest }, t)
  | [] =>
    let fresh : Option (Nat × Tile × TargetDesc) :=
      let pages := max 1 t.pages
      if 64 * (pages + 1) ≤ t.poolNodes then some (64 * pages, { tile with page := some (pages, 1) }, { t with pages := pages + 1 }) else none
    match tile.page with
    | some (pg, k) => if k < 64 then some (64 * pg + k, { tile with page := some (pg, k + 1) }, t) else fresh
    | none => fresh

/-- CLAMP (R399): the fragment joins without a node and a pair is merged. -/
def clampList (rule : Nat) (ns : List Node) (n : Node) : List Node :=
  let l := insertNode ns n
  let i := mergePair l
  match l[i]?, l[i + 1]? with
  | some a, some b =>
    let m := mergeNodes rule a b
    if a.slot = 0 then l.take i ++ [{ m with slot := b.slot }] ++ l.drop (i + 2)
    else if b.slot = 0 then l.take i ++ [m] ++ l.drop (i + 2)
    else (l.take i ++ [m] ++ l.drop (i + 2)).map fun x => if x.slot = 0 then { x with slot := b.slot } else x
  | _, _ => ns

/-- What a layered fragment comes to: its list, tile and target, or POOLX. -/
inductive LayerRes where
  | list (ns : List Node) (tile : Tile) (t : TargetDesc)
  | keep (t : TargetDesc)
  | poolx
  deriving DecidableEq, Repr

/-- A layered fragment is inserted (R397 to R399). -/
def insertFragment (t : TargetDesc) (tile : Tile) (ns : List Node) (g : Fragment) : LayerRes :=
  let drop : LayerRes := .keep { t with drops := (t.drops + 1) % 2 ^ 32 }
  match fragNode g with
  | none => .keep t
  | some n =>
    match takeNode t tile with
    | some (slot, tile, t) =>
      let l := insertNode ns { n with slot := slot }
      if t.layers < l.length then
        let (l, free) := mergeList t.rule l
        .list l { tile with freeNodes := free :: tile.freeNodes } t
      else .list l tile t
    | none =>
      match t.policy with
      | 0 => .poolx
      | 1 => if ns.isEmpty then drop else .list (clampList t.rule ns n) tile t
      | _ => drop

/-- Write STATUS where PAGES or DROPS changed (R372). PAGES of 2^22, after the last page of the largest pool, does not fit its field, on which the
manual is silent: bit 22 is written (log 134). -/
def statusWrites (old new : TargetDesc) : List (DWord × List Byte) :=
  if old.pages = new.pages ∧ old.drops = new.drops then [] else [(new.addr + 120, bytesOf 8 (new.drops * 2 ^ 32 + new.pages))]

/-- Fragments of a batt that are emitted and not committed. -/
def State.fragsOut (s : State) (b : Batt) : Bool :=
  match (s.launchOf b).bind (·.pass) with
  | some p => p.frags.any fun g => g.owner == b.id
  | none => false

/-- A pixel batt whose last fragment was committed completes its EXIT (R391). -/
def State.endExit (s : State) (owner : BattId) : State :=
  match s.battOf? owner with
  | none => s
  | some b =>
    match b.wait with
    | .commit i =>
      if s.fragsOut b then s else
      let x := b.waitingIss i
      (s.modBatt b.core b.slot fun b => { b.finishTurn with wait := .none }).exitLanes b.core b.slot x.active x.active
    | _ => s

/-- POOLX at the EXIT of the batt that needed the node; the context's passes stop (R399). The lanes named are those of the batt whose fragments
are not committed and need a node: none can be taken for any of them, for they fall in one tile (log 54). -/
def State.poolExhausted (s : State) (space : Nat) (p : Pass) (g : Fragment) : State :=
  let short (l : Nat) : Bool := p.frags.any fun h => h.owner == g.owner && h.lane == l && (fragNode h).isSome
  let s := s.modCtx space fun c => { c with poolStop := true }
  match s.battOf? g.owner with
  | none => s
  | some b =>
    match b.wait with
    | .commit i =>
      let x := b.waitingIss i
      (s.modBatt b.core b.slot fun b => { b.finishTurn with wait := .none }).takeTrap b.core b.slot x.word x.pc x.split 0
        (causesOf (maskOf short) cPOOLX 0)
    | _ => s

/-- Commit a fragment (R391): into samples (R393) or a layered list (R397). -/
def State.commitFragment (s : State) (l : Launch) (p : Pass) (g : Fragment) : Option State :=
  let space := l.recd.ctx
  let p1 : Pass := { p with frags := p.frags.filter fun h => !(h.owner == g.owner && h.lane == g.lane) }
  let t := p.target
  if t.layered then
    (s.pipeRead space (t.headAddr g.x g.y) 4).bind fun h =>
      let head := numOf h
      (s.pixelNodes space t (head / 2 ^ 28) (head % 2 ^ 28)).bind fun ns =>
        let put : Option State := match insertFragment t (p.tiles.getD g.tile {}) ns g with
          | .poolx => some (s.poolExhausted space p g)
          | .keep t1 => (s.pipeWrites space (statusWrites t t1)).map fun s => (s.putPass l.lnum { p1 with target := t1 }).endExit g.owner
          | .list ms tile t1 =>
            (s.pipeWrites space (statusWrites t t1 ++ listWrites t g.x g.y ms)).map fun s =>
              (s.putPass l.lnum { p1 with target := t1, tiles := setAt p.tiles g.tile tile }).endExit g.owner
        put.map fun u => u.fetchRuns space (g.listRuns t ns)
  else
    let d := p.infos.getD g.draw emptyDraw
    some ((s.putPass l.lnum { p1 with work := mapIf (fun w => w.tile == g.tile) (mergePlain t d g) p.work }).endExit g.owner)

/-- FRAGMENT_COMMIT (R391): the first fragment that may commit. -/
def execFragmentCommit (lnum : Nat) (s : State) : Host.Outcome State Fault Refusal :=
  match s.livePass lnum with
  | none => .next s
  | some (l, p) =>
    match p.frags.find? fun g => s.mayCommit lnum p g with
    | none => .next s
    | some g => orStay s (s.commitFragment l p g)

/-! ### Retirement (R377, R389) -/

/-- A pass retires: plane entries, NOSKIP, STAGE 2 (R384, R389). -/
def execPassRetirement (lnum : Nat) (s : State) : Host.Outcome State Fault Refusal :=
  match s.openPass lnum with
  | none => .next s
  | some (l, p) =>
    if p.stage != .rendering || !p.tiles.all (·.finished) || !p.work.isEmpty || !p.specs.isEmpty || !p.frags.isEmpty || l.left != 0 then .next s
    else
      let keep (t : Tile) : Bool := t.pure && !t.flushed
      let tiles := if p.target.sigPlane = 0 then p.tiles else p.tiles.map fun t => if keep t then t else { t with noSkip := true }
      let plane := if p.target.sigPlane = 0 then [] else
        tiles.mapIdx fun i t => (p.target.planeAt i, if keep t then t.planeBytes else zeroBytes 16)
      let heads := if p.target.sigPlane = 0 then [] else
        ((tiles.mapIdx fun i t => (i, t)).filter fun x => x.2.noSkip).map fun x => (p.headAt x.1, x.2.headBytes)
      orStay s <| (s.pipeWrites l.recd.ctx (plane ++ heads)).bind fun s => s.savePass l { p with tiles := tiles, stage := .retired }

/-! ### DISPATCH_CYCLE (R118) -/

/-- Place what the dispatcher picked. -/
def State.place (s : State) (l : Launch) (n : NextFelt) (c : Nat) : State :=
  match n with
  | .saved f => s.placeSaved l f c
  | .compute => s.placeFelt l c
  | .vertex p d => s.placeVertex l p d c
  | .pixel p i => s.placePixel l p i (i.regs (p.infos.getD i.draw emptyDraw)) c

/-- DISPATCH_CYCLE (R118): launches that can start do so, then the dispatcher places at most one felt. -/
def execDispatchCycle (s : State) : Host.Outcome State Fault Refusal :=
  let s := s.startLaunches
  match s.dispatchPick with
  | none => .next s
  | some (l, n, c) =>
    match s.claimFirst l with
    | .bad x a => .next (s.restoreFails l.recd.ctx x a)
    | .ok s =>
      match s.launch? l.lnum with
      | some l => .next (s.place l n c)
      | none => .next s

end Sys2Proof.Machine
end

