-- ==== Sys2Proof/Machine/MemorySteps.lean ====
section
/-! DEFINITION. The steps that the memory system, the engines and the issue queues take of their own
(R17, R121, R236 to R260, R282 to R294, R306, R312, R322 to R339, R352, R403, R409, R411, R414). A step whose condition does not
hold changes nothing. -/

namespace Sys2Proof.Machine

/-! ### Issue queues (R121, R122, R257) -/

/-- Does the next word of a batt, with its dropped operands brought back, wait for room in the log (R257): an ST or a VOUT whose parts do
not fit? -/
def State.storeStalls (s : State) (b : Batt) : Bool :=
  match b.turn, s.wordOf b with
  | some low, some i =>
    let x : Iss := { core := b.core, slot := b.slot, instr := i, word := 0, pc := (b.lane low).pc, low := low,
                     split := b.splitOf low, active := b.activeFor i low }
    let t := s.modBatt b.core b.slot fun _ => s.readied b i low
    let lacks (rs : List LaneRes) (data : Nat → List Byte) : Bool :=
      let ws := sectorWrites (((storedBytes (okAccs rs) data).filter fun p => !p.1.quar).map fun p => (p.1, p.2.1))
      (okAccs rs).length == rs.length && !logRoom (s.core b.core) ws b.slot b.space b.pinDepth false s.choice.noCoalesce
    match i with
    | .st f => lacks ((lanesOf x.active).map (t.stLane x f)) ((t.battAt b.core b.slot).storeBytes f)
    | .vout f => match t.vertexDraw b with
      | some d => lacks ((lanesOf x.active).map (t.voutLane x f d)) ((t.battAt b.core b.slot).voutData f)
      | none => false
    | _ => false
  | _, _ => false

/-- Has every long-latency dependence of a batt's next word resolved (R121, R122)? What else the word waits for it waits for in place, in
the active set. -/
def State.isResolved (s : State) (b : Batt) : Bool :=
  b.free && (match b.turn with | some l => (b.lane l).st == .ready | none => false) && !s.meetsLong b && !s.storeStalls b

/-- A batt whose dependence is resolved joins the tail of its quarter's ready queue (R121). -/
def State.resolve (s : State) (core slot : Nat) : State :=
  match s.batt? core slot with
  | none => s
  | some b => if s.isResolved b && !s.isActive core slot && !s.isQueued core slot then s.joinReady core slot else s

/-- DEPENDENCE_RESOLVED (R121). -/
def execDependenceResolved (core slot : Nat) (s : State) : Host.Outcome State Fault Refusal := .next (s.resolve core slot)

/-- ACTIVE_POSITION_FILL (R121): the head of the ready queue takes the active position that was freed first. Which of several positions that
are free when a batt reaches an empty queue takes it the manual does not say: the one free the longest (log 125). -/
def execActivePositionFill (core quarter : Nat) (s : State) : Host.Outcome State Fault Refusal :=
  let q := s.quarter core quarter
  match q.ready, q.nextFree with
  | b :: rest, some i =>
    .next (s.modQuarter core quarter fun q => { q with ready := rest, active := setAt q.active i (some b), freed := q.freed.filter (· != i) })
  | _, _ => .next s


/-! ### Returns of loads and atomics (R282, R403) -/

/-- An outstanding operation of a batt. -/
def State.opAt (s : State) (core slot op : Nat) : Option Op := (s.batt? core slot).bind fun b => b.op? op

/-- LOAD_RETURN (R403). -/
def execLoadReturn (core slot op : Nat) (s : State) : Host.Outcome State Fault Refusal :=
  match s.opAt core slot op with
  | none => .next s
  | some o =>
    match o.instr with
    | .ld f | .ldc f => .next (s.loadReturnOf core slot f o)
    | .tex f | .tld f | .mlres f | .mlresLayer f | .mlrd f => .next (s.fourReturn core slot f.d.toNat o)
    | _ => .next s

/-- ATOMIC_AT_HOME (R282, R287): every lane is performed. A RED without a barrier is then finished. -/
def execAtomicAtHome (core slot op : Nat) (s : State) : Host.Outcome State Fault Refusal :=
  match s.opAt core slot op with
  | none => .next s
  | some o =>
    if o.phase != .sent then .next s else
    match o.instr with
    | .atom f =>
      let (rs, s) := s.performOp core slot f o
      let (bad, vals) := laneVals rs
      .next (s.modOp core slot op fun o => { o with phase := .performed, vals := vals, poison := o.poison ||| bad })
    | .red f =>
      let (_, s) := s.performOp core slot f o
      if bit1 f.d 9 then .next (s.modOp core slot op fun o => { o with phase := .performed }) else .next (s.endOp core slot op)
    | _ => .next s

/-- ATOM_RETURN (R282, R287). -/
def execAtomReturn (core slot op : Nat) (s : State) : Host.Outcome State Fault Refusal :=
  match s.opAt core slot op with
  | none => .next s
  | some o =>
    match o.instr, o.phase with
    | .atom f, .performed =>
      let s := s.atomReturned core slot f o.active o.poison fun l => o.vals.getD l 0
      let s := if o.poison = 0 then s else s.noteTrap core slot o.word o.pc o.mask 0 (atomCauses o.poison o.accs) o.id
      .next (s.endOp core slot op)
    | _, _ => .next s

/-- RED_ARRIVAL (R288, R306): the one arrival of a RED whose lanes have been performed. -/
def execRedArrival (core slot op : Nat) (s : State) : Host.Outcome State Fault Refusal :=
  match s.opAt core slot op with
  | none => .next s
  | some o =>
    match o.instr, o.phase with
    | .red f, .performed => .next ((s.redArrive core slot f).endOp core slot op)
    | _, _ => .next s

/-- PUTS_PAYLOAD_READ (R293): the read of a late PUTS has returned: the payload is sent, then the flag; a poisoned byte traps (R403).
The PUTS of a batt are taken in issue order. -/
def execPutsPayloadRead (core slot op : Nat) (s : State) : Host.Outcome State Fault Refusal :=
  match s.opAt core slot op with
  | none => .next s
  | some o =>
    let first := (s.battAt core slot).ops.find? fun x => match x.instr with | .puts _ => true | _ => false
    match o.instr with
    | .puts f =>
      if (first.map (·.id)) != some op then .next s else
      let dst := (o.accs[1]?).getD { lane := 1, ea := 0, locs := [] }
      match o.dvals with
      | bad :: _ => .next ((s.noteTrap core slot o.word o.pc o.mask 0 (causesOf o.active cPOISON bad) o.id).endOp core slot op)
      | [] => .next ((s.putsDeliver (putsLen f) dst.locs (o.vals.map fun v => v.setWidth 8) (o.bvals.getD 0 0)).endOp core slot op)
    | _ => .next s

/-! ### Trap and fault records (R409, R414), page walks (R411, R413) -/

/-- TRAP_RECORD_WRITE (R409): halted batts whose words have all completed form their records; waiting records take free slots. -/
def execTrapRecordWrite (s : State) : Host.Outcome State Fault Refusal :=
  .next ((List.range 17).foldl State.flushWindow s.settleHalted)

/-- FAULT_RECORD_WRITE (R414). -/
def execFaultRecordWrite (cluster : Nat) (s : State) : Host.Outcome State Fault Refusal := .next (s.flushFaults cluster)

/-- PAGE_WALK (R411): a valid leaf fills both TLB levels (R413). -/
def execPageWalk (core space : Nat) (va : DWord) (s : State) : Host.Outcome State Fault Refusal :=
  .next (if fld va 63 49 = 0 && space ≤ 16 then s.tlbFill core space va else s)

/-! ### Publication, promotion, acquires and fulling (R245 to R257) -/

/-- A store stalls on the log of a core: the log is full, or has not the room that a batt's next word needs (R257). -/
def State.logStalls (s : State) (core : Nat) : Bool :=
  768 ≤ (s.core core).log.length || s.batts.any fun b => b.core == core && s.storeStalls b

/-- LOG_FULL_RELEASE (R257): room is made in a log, and a batt that stalled on it may issue again. -/
def execLogFullRelease (core slot : Nat) (s : State) : Host.Outcome State Fault Refusal :=
  let s := if s.logStalls core then s.fullLog core else s.fullEntries core fun _ => true
  .next (s.resolve core slot)

/-- LOG_PINNED_RELIEF (R257). -/
def execLogPinnedRelief (core : Nat) (s : State) : Host.Outcome State Fault Refusal :=
  .next (if s.logStalls core then s.relievePinned core else s)

/-- PROMOTION_REQUEST (R247): a request of an outstanding ACQR reaches a core. -/
def execPromotionRequest (core slot target : Nat) (s : State) : Host.Outcome State Fault Refusal :=
  match s.batt? core slot with
  | none => .next s
  | some b =>
    match b.ops.find? fun o => (match o.instr with | .acqr _ => true | _ => false) && namesCore (o.vals.getD 0 0) (o.vals.getD 1 0) target with
    | none => .next s
    | some o =>
      let clear (w : DWord) (k : Nat) : DWord := w &&& ~~~(BitVec.ofNat 64 (2 ^ k))
      let left := if target < 64 then [clear (o.vals.getD 0 0) target, o.vals.getD 1 0] else [o.vals.getD 0 0, clear (o.vals.getD 1 0) (target - 64)]
      .next ((s.promote target b.space).modOp core slot o.id fun o => { o with vals := left })

/-- PUBLICATION_GRANT (R245): the head of a core's queue of requests is granted the next number. -/
def execPublicationGrant (core : Nat) (s : State) : Host.Outcome State Fault Refusal :=
  match (s.core core).pubQueue with
  | [] => .next s
  | h :: rest =>
    let s := s.modCore core fun c => { c with pubQueue := rest }
    match h with
    | none => .next s
    | some (slot, id) =>
      match s.opAt core slot id with
      | none => .next s
      | some o =>
        match o.instr with
        | .rel f =>
          let (q, s) := s.releaseAt core (s.battAt core slot).space (f.mf 1 0)
          .next ((s.modBatt core slot fun b => b.putRel f q).endOp core slot id)
        | _ => .next s

/-- EARLY_PUBLICATION (R253): of the log up to an entry that is unpinned and not published. -/
def execEarlyPublication (core entry : Nat) (s : State) : Host.Outcome State Fault Refusal :=
  if (s.core core).log.any fun e => e.pos == entry && e.depth == 0 && e.scope ≤ 1 then .next (s.publish core (entry + 1) 2).2 else .next s

/-- The entry that a core takes next: the lowest number, then log order (R253). -/
def CoreSt.nextTaken (c : CoreSt) (granted : Nat) : Option LogEntry :=
  (c.log.filter fun e => e.published && e.depth == 0 && !e.taken).foldl
    (fun acc e => match acc with | none => some e | some x => if e.before granted x then some e else some x) none

/-- FULLING (R238, R253): the core takes its next entry: the bytes go into its own L1 copy first, then on their way. -/
def execFulling (core : Nat) (s : State) : Host.Outcome State Fault Refusal :=
  match (s.core core).nextTaken s.dev.granted with
  | none => .next s
  | some e =>
    .next (s.modCore core fun c =>
      { c with l1 := mapIf (fun x => x.sector == e.sector && !x.gone) (fun x => x.own e) c.l1
               log := mapIf (fun x => x.pos == e.pos) (fun x => { x with taken := true }) c.log })

/-- ENTRY_APPLY (R254): a taken entry is applied once every entry for its sector with a lower number has been. -/
def execEntryApply (core entry : Nat) (s : State) : Host.Outcome State Fault Refusal :=
  match (s.core core).log.find? fun e => e.pos == entry && e.taken && e.depth == 0 with
  | none => .next s
  | some e =>
    match s.publishedOrder.find? fun x => x.2.sector == e.sector with
    | some x => if x.1 == core && x.2.pos == entry then .next (s.applyEntry core e) else .next s
    | none => .next s

/-- ACQUIRE_WAIT_END (R249): the acquire of a late ACQ, at the point that it took; that of an ACQR when every named core has
answered. -/
def execAcquireWaitEnd (core slot : Nat) (s : State) : Host.Outcome State Fault Refusal :=
  match s.batt? core slot with
  | none => .next s
  | some b =>
    match b.ops.find? fun o => match o.instr with | .acq _ => true | .acqr _ => o.vals.all (· == 0) | _ => false with
    | none => .next s
    | some o =>
      match o.instr with
      | .acq f => .next ((s.acquireTo core (f.mf 1 0) o.num).endOp core slot o.id)
      | _ => .next ((s.acquireAt core 2).endOp core slot o.id)

/-! ### Caches (R17, R236 to R240) -/

/-- L1_EVICTION (R238): a sector that is not held. -/
def execL1Eviction (core sector : Nat) (s : State) : Host.Outcome State Fault Refusal :=
  .next (s.modCore core fun c => { c with l1 := c.l1.filter fun x => !(x.sector == sector && x.held.isEmpty) })

/-- L1_PARTITION_CHANGE (R17). -/
def execL1PartitionChange (core : Nat) (s : State) : Host.Outcome State Fault Refusal := .next (s.setPartition core)

/-- L2_EVICTION (R236, R240): a slice that needs a frame in the set of a line gives up the line, where it is the victim that R240
chooses; a victim of rank 1 or more demotes its handle. The lines that stay of a compressed superblock take frames of their own, for which
further lines may leave (R11, R237). -/
def execL2Eviction (slice line : Nat) (s : State) : Host.Outcome State Fault Refusal :=
  .next (if s.l2Victim slice line = some line then (s.evictVictim slice line).l2Fit slice (4 * line) else s)

/-- SUPERBLOCK_COMPRESSION (R237): four lines whose sectors are all Valid go into 1, 2 or 3 frames, fewer than they take. -/
def execSuperblockCompression (slice block frames : Nat) (s : State) : Host.Outcome State Fault Refusal :=
  let mine (x : L2Sector) : Bool := x.slice == slice && x.sector / 16 == block && x.valid
  if 1 ≤ frames && frames ≤ 3 && (s.l2.filter mine).length == 16 &&
    (s.l2.filter mine).all (fun x => x.frames == 0 || frames < x.frames) then .next { s with l2 := mapIf mine (fun x => { x with frames := frames }) s.l2 }
  else .next s

/-- ATOMIC_UNIT_WRITEBACK (R285): a unit gives up an address space's locations. -/
def execAtomicUnitWriteback (unit : AtomUnitId) (space : Nat) (s : State) : Host.Outcome State Fault Refusal :=
  match unit with
  | .l1 core => .next (s.writeBackL1Unit core space)
  | .cluster k => .next (s.writeBackStore k space)

/-! ### WAITA (R291) and ABALLOC (R312) -/

/-- WAIT_MONITOR_NOTICE (R291): a noticed entry re-reads its location. -/
def execWaitMonitorNotice (cluster entry : Nat) (s : State) : Host.Outcome State Fault Refusal :=
  match (s.cluster cluster).monitors[entry]? with
  | none => .next s
  | some m =>
    if !m.noticed then .next s else
    let s := s.modCluster cluster fun k => { k with monitors := modAt k.monitors entry fun m => { m with noticed := false } }
    match (s.battAt m.core m.slot).wait with
    | .watch _ i => .next (s.waitaAgain m.core m.slot i)
    | _ => .next s

/-- WAITA_TIMED_RECHECK (R291): it counts in %wpoll. -/
def execWaitaTimedRecheck (core slot : Nat) (s : State) : Host.Outcome State Fault Refusal :=
  match s.batt? core slot with
  | none => .next s
  | some b =>
    match b.wait with
    | .watch true i => .next ((s.modBatt core slot fun b => { b with wpoll := b.wpoll + 1 }).waitaAgain core slot i)
    | _ => .next s

/-- ABALLOC_GRANT (R312). -/
def execAballocGrant (core : Nat) (s : State) : Host.Outcome State Fault Refusal := .next (s.grantBanks core)

/-! ### Engines (R322, R325, R328, R339) and the peat store's partition (R352) -/

/-- MATRIX_PASS (R328). -/
def execMatrixPass (core : Nat) (badCol : Option Nat) (s : State) : Host.Outcome State Fault Refusal := .next (s.arrayPass core badCol)

/-- TFU_FETCH (R325): a chunk of the operands of the operation that the TFU fetches next. -/
def execTfuFetch (core : Nat) (s : State) : Host.Outcome State Fault Refusal :=
  match (s.core core).nextFetch with
  | some o => let (o, s) := s.fetchChunk o; .next (s.putMxi core o)
  | none => .next s

/-- MXI_COMPLETION (R322): the head of the array's queue, its passes done. -/
def execMxiCompletion (core : Nat) (s : State) : Host.Outcome State Fault Refusal :=
  match (s.core core).mxiq with
  | [] => .next s
  | o :: _ => if o.looked && o.passes ≤ o.step then .next (s.finishMxi core o).settleHalted else .next s

/-- COPY_COMPLETION (R339): the head of the copy engine's queue, unless a lock holds it (R324). -/
def execCopyCompletion (core : Nat) (s : State) : Host.Outcome State Fault Refusal :=
  match (s.core core).copyq with
  | [] => .next s
  | o :: _ => if (s.core core).opBlocked o then .next s else .next (s.finishCopy core o).settleHalted

/-- PEAT_PARTITION_CHANGE (R352). -/
def execPeatPartitionChange (cluster : Nat) (s : State) : Host.Outcome State Fault Refusal := .next (s.settlePeat cluster)

end Sys2Proof.Machine
end

