-- ==== Sys2Proof/Machine/HostCommands.lean ====
section
/-! DEFINITION. The host's commands, trap windows and fault windows (R19, R128, R140, R330, R332, R352, R408 to R410, R413 to R415,
R436, R441, R442). -/

namespace Sys2Proof.Machine

/-! ### Answering the host (R431, R448, R449) -/

/-- Does the device answer accesses other than ID and STAT? -/
def State.answers (s : State) : Bool := s.dev.ready && !s.dev.tripped

/-- Bytes of device memory (R440). -/
def State.memTop (s : State) : Nat := s.dev.memGib * 2 ^ 30

/-! ### Starting and ending a command (R441) -/

/-- Results of R441. -/
def rDone : Nat := 0
/-- A bad argument. -/
def rBad : Nat := 1
/-- Refused in the current state. -/
def rRefused : Nat := 2
/-- Unknown OP. -/
def rUnknown : Nat := 3

/-- A command has run: its result waits to be reported. -/
def State.endCmd (s : State) (result : Nat) (cres : DWord) : State :=
  s.modDev fun d => { d with cmdResult := result, cmdCres := cres, cmdDone := true }

/-- A command that has no result value has run: what CRES then holds is open (log 7); a bad argument changes nothing. -/
def State.endPlain (s : State) (result : Nat) : State :=
  if result = rBad then s.endCmd result s.dev.cres
  else
    let (n, s) := s.draw
    s.endCmd result (Config.freeValue n)

/-- A write of CMD: discarded while BUSY is 1, which sets LOST; otherwise the command starts. -/
def State.startCmd (s : State) (op tgt : Nat) (run : State → State) : State :=
  if !s.answers then s
  else if s.dev.busy then s.modDev fun d => { d with lost := true }
  else run (s.modDev fun d => { d with busy := true, cmdOp := op, cmdTgt := tgt, cmdDone := false, cmdArg0 := d.arg0, cmdArg1 := d.arg1 })

/-- A command on a target below `n`, which answers a result and the state. -/
def State.cmdOn (s : State) (n tgt : Nat) (run : State → Nat × State) : State :=
  if n ≤ tgt then s.endPlain rBad else
  let (r, s) := run s
  s.endPlain r

/-! ### The commands (R442) -/

/-- SETROOT: a multiple of 65,536 in device memory, or 0. -/
def State.cmdSetroot (s : State) (tgt : Nat) : State :=
  s.cmdOn 16 tgt fun s =>
    let a := s.dev.arg0.toNat
    if a % 65536 != 0 || s.memTop ≤ a then (rBad, s) else (rDone, s.modCtx tgt fun c => { c with root := a })

/-- SETROOT (R442). -/
def execSetroot (tgt : Nat) (s : State) : Host.Outcome State Fault Refusal := .next (s.startCmd 0x01 tgt fun s => s.cmdSetroot tgt)

/-- The addresses of an invalidation: all of the context for a length of 0. -/
def invRange (va len : Nat) : Nat × Nat := if len = 0 then (0, 2 ^ 64) else (va, va + len)

/-- Does a translation lie in the range? -/
def TlbEntry.inRange (t : TlbEntry) (space : Nat) (r : Nat × Nat) : Bool :=
  let size := if t.big then 2 ^ 27 else 2 ^ 16
  t.space == space && t.vpage * size < r.2 && r.1 < (t.vpage + 1) * size

/-- Does an engine operation use a translation of the range (R413)? -/
def EngineOp.inRange (o : EngineOp) (space : Nat) (r : Nat × Nat) : Bool :=
  o.space == space && o.pages.any fun p => p.1 * 65536 < r.2 && r.1 < (p.1 + 1) * 65536

/-- Every TLB drops its translations of the range. -/
def State.dropTlbs (s : State) (space : Nat) (r : Nat × Nat) : State :=
  { s with cores := s.cores.map fun c => if c.tlb1.isEmpty then c else { c with tlb1 := c.tlb1.filter fun t => !t.inRange space r }
           clusters := s.clusters.map fun k => if k.tlb2.isEmpty then k else { k with tlb2 := k.tlb2.filter fun t => !t.inRange space r } }

/-- An invalidation completes when no engine operation that checked a page of the range is outstanding (R413). -/
def State.tryTlbinv (s : State) (tgt va len : Nat) : State :=
  let r := invRange va len
  let s := s.dropTlbs tgt r
  if s.cores.any fun c => c.engineOps.any fun o => o.inRange tgt r then s else s.endPlain rDone

/-- TLBINV. -/
def State.cmdTlbinv (s : State) (tgt : Nat) : State :=
  let va := s.dev.arg0.toNat
  let len := s.dev.arg1.toNat
  if 16 ≤ tgt || va % 65536 != 0 || len % 65536 != 0 then s.endPlain rBad else s.tryTlbinv tgt va len

/-- TLBINV (R413). -/
def execTlbinv (tgt : Nat) (s : State) : Host.Outcome State Fault Refusal := .next (s.startCmd 0x02 tgt fun s => s.cmdTlbinv tgt)

/-- SETSAVE: a multiple of 4 KiB, or 0 for none; refused while CTXST is not 0. -/
def State.cmdSetsave (s : State) (tgt : Nat) : State :=
  s.cmdOn 16 tgt fun s =>
    let a := s.dev.arg0.toNat
    if a % 4096 != 0 then (rBad, s)
    else if (s.ctx tgt).ctxst != 0 then (rRefused, s)
    else (rDone, s.modCtx tgt fun c => { c with saveBase := if a = 0 then none else some a })

/-- SETSAVE (R442). -/
def execSetsave (tgt : Nat) (s : State) : Host.Outcome State Fault Refusal := .next (s.startCmd 0x03 tgt fun s => s.cmdSetsave tgt)

/-- PREEMPT: refused unless CTXST is 0. -/
def State.cmdPreempt (s : State) (tgt : Nat) : State :=
  s.cmdOn 16 tgt fun s => if (s.ctx tgt).ctxst != 0 then (rRefused, s) else (rDone, s.preempt tgt)

/-- PREEMPT (R128). -/
def execPreempt (tgt : Nat) (s : State) : Host.Outcome State Fault Refusal := .next (s.startCmd 0x04 tgt fun s => s.cmdPreempt tgt)

/-- RESTORE: refused unless CTXST is 2. -/
def State.cmdRestore (s : State) (tgt : Nat) : State :=
  s.cmdOn 16 tgt fun s => if (s.ctx tgt).ctxst != 2 then (rRefused, s) else (rDone, s.startRestore tgt)

/-- RESTORE (R140). -/
def execRestore (tgt : Nat) (s : State) : Host.Outcome State Fault Refusal := .next (s.startCmd 0x05 tgt fun s => s.cmdRestore tgt)

/-- KILL: with STATUS 0x02; CTXST becomes 0. -/
def State.cmdKill (s : State) (tgt : Nat) : State := s.cmdOn 16 tgt fun s => (rDone, s.killContext tgt 2 0)

/-- KILL (R423). -/
def execKill (tgt : Nat) (s : State) : Host.Outcome State Fault Refusal := .next (s.startCmd 0x06 tgt fun s => s.cmdKill tgt)

/-- PEATSIZE: 1, 2 or 3. -/
def State.cmdPeatsize (s : State) (tgt : Nat) : State :=
  s.cmdOn 16 tgt fun s =>
    let n := s.dev.arg0.toNat
    if n < 1 || 3 < n then (rBad, s) else (rDone, (s.modCluster tgt fun k => { k with peatPending := some n }).settlePeat tgt)

/-- PEATSIZE (R352). -/
def execPeatsize (tgt : Nat) (s : State) : Host.Outcome State Fault Refusal := .next (s.startCmd 0x07 tgt fun s => s.cmdPeatsize tgt)

/-- RETIRE: half 0 or 1; refused when the other half is retired; the same half again changes nothing. -/
def State.cmdRetire (s : State) (tgt : Nat) : State :=
  s.cmdOn 128 tgt fun s =>
    let h := s.dev.arg0.toNat
    let r := (s.core tgt).retired
    if 1 < h then (rBad, s)
    else if r != 0 && r != BitVec.ofNat 2 (h + 1) then (rRefused, s)
    else (rDone, s.modCore tgt fun c => { c with retired := BitVec.ofNat 2 (h + 1) })

/-- RETIRE (R330). -/
def execRetire (tgt : Nat) (s : State) : Host.Outcome State Fault Refusal := .next (s.startCmd 0x08 tgt fun s => s.cmdRetire tgt)

/-- ENGSTAT: CRES is the engine status of the core. -/
def State.cmdEngstat (s : State) (tgt : Nat) : State :=
  if 128 ≤ tgt then s.endPlain rBad else s.endCmd rDone (s.engineStatus tgt)

/-- ENGSTAT (R332). -/
def execEngstat (tgt : Nat) (s : State) : Host.Outcome State Fault Refusal := .next (s.startCmd 0x09 tgt fun s => s.cmdEngstat tgt)

/-! ### CTLLOAD (R19, R81 to R83, R442) -/

/-- A little-endian number of a file. -/
def fileNum (rd : Nat → Byte) (a n : Nat) : Nat := numOf ((List.range n).map fun i => rd (a + i))

/-- A section: kind, offset and size, when its entry is well-formed (R82). -/
def jxoSection (rd : Nat → Byte) (len a : Nat) : Option (Nat × Nat × Nat) :=
  let kind := fileNum rd a 4
  let al := fileNum rd (a + 4) 1
  let off := fileNum rd (a + 8) 8
  let size := fileNum rd (a + 16) 8
  if kind < 1 || 8 < kind || al < 3 || 16 < al || fileNum rd (a + 5) 3 != 0 || fileNum rd (a + 24) 8 != 0 || off % 8 != 0 || len < off + size
  then none else some (kind, off, size)

/-- Is a NAME one of at most 39 characters, padded with NUL (R83)? -/
def jxoName (name : List Byte) : Bool := name.getD 39 0 == 0 && (name.dropWhile fun c => c != 0).all fun c => c == 0

/-- Is a symbol entry well-formed, each field in its range and the entry a word of a code section of `code` bytes (R83; PINNED and SCRATCH as
the directives that set them are bounded)? -/
def jxoSymbol (rd : Nat → Byte) (code a : Nat) : Bool :=
  let n (o k : Nat) : Nat := fileNum rd (a + o) k
  let kernel := n 8 1 == 1
  (kernel || n 8 1 == 2) && n 0 8 % 8 == 0 && n 0 8 < code && (if kernel then 1 ≤ n 9 1 && n 9 1 ≤ 32 else n 9 1 == 0) &&
  n 10 2 ≤ 1024 && n 10 2 % 8 == 0 && (!kernel || 8 ≤ n 10 2) && n 12 2 ≤ (if n 10 2 = 0 then 1024 else n 10 2) &&
  n 14 1 ≤ 16 && n 15 1 ≤ 16 && n 16 1 ≤ 4 && n 17 3 == 0 && n 20 4 ≤ 262144 && n 20 4 % 16 == 0 &&
  jxoName ((List.range 40).map fun i => rd (a + 24 + i))

/-- The first kernel among the symbol entries from a place on: FELT, REGS and OFFSET (R83). -/
def jxoKernel (rd : Nat → Byte) : Nat → Nat → Option (Nat × Nat × Nat)
  | 0, _ => none
  | n + 1, a => if fileNum rd (a + 8) 1 = 1 then some (fileNum rd (a + 9) 1, fileNum rd (a + 10) 2, fileNum rd a 8) else jxoKernel rd n (a + 64)

/-- What the HKC takes from a .jxo file: the first kernel's register quota and entry offset, and the sections that are loaded, as kind,
file offset and size (R82, R83). -/
structure JxoProgram where
  regs : Nat
  offset : Nat
  sections : List (Nat × Nat × Nat)
  deriving DecidableEq, Repr

/-- The control program in a .jxo file: none for a malformed file, one without a kernel, or a first kernel whose FELT is not 1
(R81 to R83, R442). -/
def jxoProgram (rd : Nat → Byte) (len : Nat) : Option JxoProgram :=
  let nsect := fileNum rd 8 4
  let secoff := fileNum rd 12 4
  if len < 32 || fileNum rd 0 4 != 0x014F584A || fileNum rd 4 4 != 1 || nsect < 1 || 64 < nsect || secoff % 8 != 0 ||
     fileNum rd 16 16 != 0 || len < secoff + 32 * nsect then none else
  match ((List.range nsect).map fun i => jxoSection rd len (secoff + 32 * i)).mapM id with
  | none => none
  | some secs =>
    let count (k : Nat) : Nat := (secs.filter fun x => x.1 == k).length
    if count 1 != 1 || ([4, 5, 6, 7, 8].any fun k => 1 < count k) then none else
    match secs.find? fun x => x.1 == 8 with
    | none => none
    | some (_, off, size) =>
      let code := ((secs.find? fun x => x.1 == 1).map (·.2.2)).getD 0
      let good := size % 64 == 0 && (List.range (size / 64)).all fun i => jxoSymbol rd code (off + 64 * i)
      match (if good then jxoKernel rd (size / 64) off else none) with
      | some (1, regs, entry) =>
        if regs < 8 || 1024 < regs || regs % 8 != 0 then none
        else some { regs := regs, offset := entry, sections := secs.filter fun x => x.1 != 8 }
      | _ => none

/-- The identity that no batt has: the owner of launches whose control program has ended. -/
def nobody : BattId := .batt 0 0 32

/-- The control batt ends (R19): its engine operations complete and its regions close as at an exit; tokens of its launches go
nowhere; its records with KIND 0 take KIND 1. -/
def State.endControl (s : State) : State :=
  let s := match s.battOf? .ctl with
    | some b =>
      let s := (s.completeEngines b.core b.slot).closeAll b.core b.slot
      s.dropBatt (s.battAt b.core b.slot)
    | none => s
  let s : State := { s with launches := mapIf (fun l => l.owner == .ctl) (fun l => { l with owner := nobody }) s.launches }
  (s.modWindow 16 Window.killRecords).flushWindow 16

/-- The batt of a new control program (R19). R19 takes REGS of the symbol entry and names no PINNED: it has none (log 102). -/
def controlBatt (slot : Nat) (image : CtlImage) (regs : Nat) : Batt :=
  { core := 0, slot := slot, id := .ctl, kind := .control, space := 16, quarter := 0, regs := regs, params := image.params,
    lanes := List.replicate 32 { pc := image.entry } }

/-- The slot that the HKC holds for the control program, or takes as it first loads one: a free one of quarter 0, or slot 0, where a
batt that holds it keeps it and none is seated (log 87). -/
def State.ctlPlace (s : State) : Nat := if s.dev.ctlRegs = 0 then s.freeSlotOf 0 0 else s.dev.ctlSlot

/-- The HKC writes the program's bytes, sets up the control address space, reserves the batt slot and the granules of the new program
in quarter 0 of core 0, and starts the control batt (R19). The manual does not say what happens where the quota of the new program
exceeds the granules that resident batts leave free: it is seated all the same, and the dispatcher places nothing in the quarter until
they are free again (log 87). -/
def State.startControl (s : State) (image : CtlImage) (regs : Nat) : State :=
  let bytes := (image.bytes.filter fun x => x.1 < s.memTop).map fun x => (locOf x.1 false, x.2)
  let s := (sectorWrites bytes).foldl (fun s w => s.applyAt w.loc w.mask w.data false true) s
  let s := ((s.discardCode 16).dropTlbs 16 (0, 2 ^ 64)).modDev fun d => { d with ctlRoot := image.root, ctlSlot := s.ctlPlace, ctlRegs := regs }
  s.seat (controlBatt s.dev.ctlSlot image regs)

/-- A leaf of the control address space for a page of a section (R82, R412): code V and X, data V and W, sealed data V and SEALED, a side
table V. -/
def sectionLeaf (kind pa : Nat) : Nat :=
  pa + 2 ^ 7 + 1 + match kind with | 1 => 2 ^ 2 | 2 => 2 | 3 => 2 ^ 3 | _ => 0

/-- The sections that are loaded, each with the number of its first page among theirs. -/
def sectionPages : Nat → List (Nat × Nat × Nat) → List (Nat × Nat × Nat × Nat)
  | _, [] => []
  | n, x :: rest => (n, x) :: sectionPages (n + ceilDiv x.2.2 65536) rest

/-- What the HKC writes for a file: the sections that are loaded, one after another from the pages of `addr` and of the virtual address
`entry` on, each on pages of its own, so that each has its load alignment, at most a page, and its kind's mapping in the level-3 table at
`table`; the entry is that of the first kernel in the code section (R82, R83). Where it puts them, and what else it sets up, the manual
leaves to it (log 88). -/
def loadImage (i : CtlImage) (rd : Nat → Byte) (p : JxoProgram) : CtlImage :=
  let va := i.entry.toNat / 65536
  let pa := i.addr / 65536
  let secs := sectionPages 0 p.sections
  let code := ((secs.find? fun x => x.2.1 == 1).map (·.1)).getD 0
  let bytes := (secs.map fun x => (List.range x.2.2.2).map fun k => (65536 * (pa + x.1) + k, rd (x.2.2.1 + k))).flatten
  let leaves := (secs.map fun x => (List.range (ceilDiv x.2.2.2 65536)).map fun k =>
    ((bytesOf 8 (sectionLeaf x.2.1 (65536 * (pa + x.1 + k)))).mapIdx fun j b => (i.table + 8 * ((va + x.1 + k) % 2048) + j, b))).flatten.flatten
  { i with entry := BitVec.ofNat 64 (65536 * (va + code) + p.offset), bytes := i.bytes ++ bytes ++ leaves }

/-- CTLLOAD: the file at ARG0, of ARG1 bytes, at most 16 MiB. `image` is where the HKC puts it. -/
def State.cmdCtlload (s : State) (image : CtlImage) : State :=
  let a := s.dev.cmdArg0.toNat
  let len := s.dev.cmdArg1.toNat
  if 2 ^ 24 < len || s.memTop < a + len then s.endPlain rBad else
  let rd (i : Nat) : Byte := s.l2ByteAny (a + i)
  match jxoProgram rd len with
  | none => s.endPlain rBad
  | some p => (s.endControl.startControl (loadImage image rd p) p.regs).endPlain rDone

/-- CTLLOAD (R442): it starts the command, or runs one that a write of CMD has started. -/
def execCtlload (image : CtlImage) (s : State) : Host.Outcome State Fault Refusal :=
  .next (if s.answers && s.dev.busy && s.dev.cmdOp == 0x0A && !s.dev.cmdDone then s.cmdCtlload image
    else s.startCmd 0x0A 0 fun s => s.cmdCtlload image)

/-! ### UNKNOWN_OP, COMMAND_COMPLETE, LOST_CLEAR (R441) -/

/-- UNKNOWN_OP (R441): an OP outside the table gives RESULT 3. -/
def execUnknownOp (s : State) : Host.Outcome State Fault Refusal := .next (s.startCmd 0 0 fun s => s.endPlain rUnknown)

/-- COMMAND_COMPLETE (R441): BUSY clears, RESULT and CRES are set, and the message goes out when IE is 1. A TLBINV that waited for
engine operations is tried again. -/
def execCommandComplete (s : State) : Host.Outcome State Fault Refusal :=
  if !s.dev.busy then .next s else
  let s := if !s.dev.cmdDone && s.dev.cmdOp == 0x02 then s.tryTlbinv s.dev.cmdTgt s.dev.cmdArg0.toNat s.dev.cmdArg1.toNat else s
  if !s.dev.cmdDone then .next s
  else .next (s.modDev fun d => { d with busy := false, cmdDone := false, result := d.cmdResult, cres := d.cmdCres }).cmdMessage

/-- A write of 1 to LOST. -/
def State.clearLost (s : State) : State := if s.answers then s.modDev fun d => { d with lost := false } else s

/-- LOST_CLEAR (R441). -/
def execLostClear (s : State) : Host.Outcome State Fault Refusal := .next s.clearLost

/-- A write of CMD by its fields: each command as its own row, CTLLOAD as far as its start. -/
def State.writeCmd (s : State) (op tgt : Nat) : State :=
  s.startCmd op tgt fun s =>
    match op with
    | 0x01 => s.cmdSetroot tgt
    | 0x02 => s.cmdTlbinv tgt
    | 0x03 => s.cmdSetsave tgt
    | 0x04 => s.cmdPreempt tgt
    | 0x05 => s.cmdRestore tgt
    | 0x06 => s.cmdKill tgt
    | 0x07 => s.cmdPeatsize tgt
    | 0x08 => s.cmdRetire tgt
    | 0x09 => s.cmdEngstat tgt
    | 0x0A => s
    | _ => s.endPlain rUnknown

/-! ### Trap windows (R408, R410) -/

/-- ACTION 0: takes effect only on KIND 1 or 2. -/
def State.releaseSlot (s : State) (w i : Nat) : State :=
  match ((s.window w).slots.getD i none) with
  | some r => if r.kind = 0 then s else s.freeSlot w i
  | none => s

/-- Guard of the host's actions: the device answers. -/
def State.ifAnswers (s : State) (t : State) : State := if s.answers then t else s

/-- TRAP_RELEASE (R410). -/
def execTrapRelease (window slot : Nat) (s : State) : Host.Outcome State Fault Refusal := .next (s.ifAnswers (s.releaseSlot window slot))

/-- RESUME_AT_WORD (R410). -/
def execResumeAtWord (window slot : Nat) (s : State) : Host.Outcome State Fault Refusal := .next (s.ifAnswers (s.resumeTrap window slot false))

/-- RESUME_PAST_WORD (R410). -/
def execResumePastWord (window slot : Nat) (s : State) : Host.Outcome State Fault Refusal := .next (s.ifAnswers (s.resumeTrap window slot true))

/-- ACTION 3: the context is killed with STATUS 0x02; ignored on the control trap window. -/
def State.killWindow (s : State) (w : Nat) : State := if w < 16 then s.killContext w 2 0 else s

/-- TRAP_KILL (R410). -/
def execTrapKill (window : Nat) (s : State) : Host.Outcome State Fault Refusal := .next (s.ifAnswers (s.killWindow window))

/-- A write of 1s to TWNEW. -/
def State.clearNew (s : State) (w : Nat) (bits : DWord) : State := s.modWindow w fun x => { x with new := x.new &&& ~~~bits }

/-- TWNEW_CLEAR (R408). -/
def execTwnewClear (window : Nat) (bits : DWord) (s : State) : Host.Outcome State Fault Refusal := .next (s.ifAnswers (s.clearNew window bits))

/-! ### Fault windows (R415) -/

/-- Free a slot of a fault buffer; a waiting record may take it (R414). -/
def State.freeFault (s : State) (k i : Nat) : State := (s.modCluster k fun c => { c with faults := setAt c.faults i none }).flushFaults k

/-- The batt that a fault record holds halted, where it still stands. -/
def State.faultedBatt (s : State) (r : FaultRecord) : Option Batt :=
  (s.batt? r.core r.slot).bind fun b => if b.id == r.owner && b.faulted then some b else none

/-- ACTION 1: the batt prepares its word again. -/
def State.retryFault (s : State) (k i : Nat) : State :=
  match (s.cluster k).faults.getD i none with
  | none => s
  | some r =>
    let s := match s.faultedBatt r with
      | some b => s.modBatt b.core b.slot fun b => { b with faulted := false }
      | none => s
    s.freeFault k i

/-- ACTION 2: the word that faulted traps XLAT, every lane of LMASK named, through the trap window (R405, R415). -/
def State.trapFault (s : State) (k i : Nat) : State :=
  match (s.cluster k).faults.getD i none with
  | none => s
  | some r =>
    let s := match s.faultedBatt r with
      | some b =>
        let split := b.splitOf ((r.lanes.head?.map LaneCause.lane).getD 0)
        let fetched := r.access = 2 && !r.replay
        let count (b : Batt) : Batt := if fetched then b else b.countTurn b.cursor b.eligibleLows.length
        (s.modBatt b.core b.slot fun b => { count b with faulted := false }).takeTrap b.core b.slot r.word r.pc split r.recipe r.lanes
      | none => s
    s.freeFault k i

/-- FAULT_RETRY (R415). -/
def execFaultRetry (cluster slot : Nat) (s : State) : Host.Outcome State Fault Refusal := .next (s.ifAnswers (s.retryFault cluster slot))

/-- FAULT_TO_TRAP (R415). -/
def execFaultToTrap (cluster slot : Nat) (s : State) : Host.Outcome State Fault Refusal := .next (s.ifAnswers (s.trapFault cluster slot))

/-- A write of 1s to FBNEW. -/
def State.clearFbnew (s : State) (k : Nat) (bits : DWord) : State := s.modCluster k fun c => { c with faultNew := c.faultNew &&& ~~~bits }

/-- FBNEW_CLEAR (R415). -/
def execFbnewClear (cluster : Nat) (bits : DWord) (s : State) : Host.Outcome State Fault Refusal := .next (s.ifAnswers (s.clearFbnew cluster bits))

/-- A write of STEPMAX: 0 and 13 to 15 are ignored. -/
def State.writeStepmax (s : State) (k v : Nat) : State :=
  if 1 ≤ v && v ≤ 12 then s.modCluster k fun c => { c with power := { c.power with stepMax := v } } else s

/-- STEPMAX_WRITE (R436). -/
def execStepmaxWrite (cluster value : Nat) (s : State) : Host.Outcome State Fault Refusal := .next (s.ifAnswers (s.writeStepmax cluster value))

end Sys2Proof.Machine
end

