-- ==== Sys2Proof/Machine/Registers.lean ====
section
/-! DEFINITION. The register map of BAR 0 as the host reads it (R405, R408, R414, R415, R420, R436, R439 to R441, R443, R444,
R446), and the rules of the display heads that a register write needs (R446). -/

namespace Sys2Proof.Machine

/-! ### Records (R405, R414, R420) -/

/-- A split entry (R405). -/
def TrapEntry.bytes (e : TrapEntry) : List Byte :=
  zeroBytes 6 ++ bytesOf 1 e.cause ++ bytesOf 1 (e.recipe % 64) ++ bytesOf 4 (maskOf fun l => e.lanes.any fun x => x.lane == l && x.cause != 0).toNat ++
  bytesOf 4 e.mask.toNat ++ bytesOf 8 e.pc.toNat ++ bytesOf 8 e.word.toNat

/-- The cause of a lane and the number of its entry: entries beyond the fourth count as 3 (R404, R405). -/
def TrapRecord.laneOf (r : TrapRecord) (l : Nat) : Option (Nat × LaneCause) :=
  if r.kind = 2 then (if l = 0 then some (0, { lane := 0, cause := r.cause, faddr := r.faddr }) else none)
  else (r.entries.mapIdx fun i e => (min i 3, e)).findSome? fun x => (x.2.lanes.find? fun c => c.lane == l).map fun c => (x.1, c)

/-- The 512 bytes of a trap record (R405). -/
def TrapRecord.bytes (r : TrapRecord) : List Byte :=
  let ents := r.entries.take 4
  zeroBytes 16 ++ bytesOf 1 r.ctx ++ bytesOf 1 r.core ++ bytesOf 1 r.slot ++ bytesOf 1 r.b ++ bytesOf 1 r.kind ++ bytesOf 1 ents.length ++
  bytesOf 1 (min 255 r.ntrap) ++ bytesOf 1 r.cont ++ zeroBytes 4 ++ bytesOf 4 r.exited.toNat ++ bytesOf 4 r.fpcr.toNat ++
  bytesOf 4 r.fpsr.toNat ++ bytesOf 4 r.felt ++ bytesOf 4 r.lnum ++ bytesOf 8 r.seq.toNat ++ bytesOf 8 r.ticks.toNat ++
  (ents.map TrapEntry.bytes).flatten ++ zeroBytes (32 * (4 - ents.length)) ++
  (laneIds.map fun l => match r.laneOf l with
    | some (i, c) => bytesOf 2 (i * 2 ^ 14 + c.flags % 64 * 2 ^ 8 + c.cause)
    | none => zeroBytes 2).flatten ++
  (laneIds.map fun l => match r.laneOf l with | some (_, c) => bytesOf 8 c.faddr.toNat | none => zeroBytes 8).flatten

/-- The 32 bytes of a fault record (R414). -/
def FaultRecord.bytes (r : FaultRecord) : List Byte :=
  zeroBytes 4 ++ bytesOf 1 (r.space % 16) ++ bytesOf 1 (r.access + 4 * r.level + (if r.replay then 16 else 0)) ++ bytesOf 1 r.slot ++
  bytesOf 1 r.core ++ bytesOf 4 r.lnum ++ bytesOf 4 (maskOf fun l => r.lanes.any fun x => x.lane == l).toNat ++
  bytesOf 8 (r.va.getD (lowestAddr r.lanes)).toNat ++ bytesOf 8 r.pc.toNat

/-- A word of a list of bytes. -/
def wordIn (bs : List Byte) (o : Nat) : DWord := BitVec.ofNat 64 (recNum bs o 8)

/-- A poison record entry (R420). -/
def PoisonEntry.word (e : PoisonEntry) : DWord := BitVec.ofNat 64 (2 ^ 63 + e.sector * 64 + e.origin)

/-- A quarantine entry; OVF stands in entry 63 (R420). -/
def Controller.quarWord (c : Controller) (i : Nat) : DWord :=
  BitVec.ofNat 64 ((match c.quarantine[i]? with | some p => 2 ^ 63 + p * 65536 + 3 | none => 0) + (if i = 63 && c.ovf then 2 ^ 62 else 0))

/-! ### Registers of windows, clusters and heads -/

/-- One bit per occupied slot. -/
def occMask {α : Type} (l : List (Option α)) : DWord :=
  BitVec.ofNat 64 ((l.mapIdx fun i o => if o.isSome then 2 ^ i else 0).foldl (· + ·) 0)

/-- VEC and IE as TWCTL lays them out (R408). -/
def ctlWord (vec : Nat) (ie : Bool) : DWord := BitVec.ofNat 64 (vec % 2048 * 32 + ie.toNat)

/-- A register of a trap window (R408). What a slot reads once its record is released the manual does not say: 0 (log 136). -/
def Window.reg (w : Window) (o : Nat) : DWord :=
  if o < 0x8000 then (match w.slots.getD (o / 512) none with | some r => wordIn r.bytes (o % 512) | none => 0)
  else match o with
    | 0x8000 => occMask w.slots
    | 0x8008 => w.new
    | 0x8018 => ctlWord w.vec w.ie
    | 0x8020 => BitVec.ofNat 64 (w.unwinds.toNat * 2 ^ 32 + min 127 w.waiting.length)
    | _ => 0

/-- A register of a fault window (R415); a released slot reads 0 (log 136). -/
def Cluster.faultReg (k : Cluster) (o : Nat) : DWord :=
  if o < 0x800 then (match k.faults.getD (o / 32) none with | some r => wordIn r.bytes (o % 32) | none => 0)
  else match o with
    | 0x800 => occMask k.faults
    | 0x808 => k.faultNew
    | 0x818 => ctlWord k.faultVec k.faultIe
    | _ => 0

/-- WDFROZEN (R435). -/
def Dev.frozen (d : Dev) : Bool := d.wdLapsed || d.hkcUpdate

/-- A register of a cluster's power block (R436). -/
def Power.reg (p : Power) (frozen : Bool) (o : Nat) : DWord :=
  BitVec.ofNat 64 (match o with
    | 0x00 => p.a % 2 ^ 32 * 2 ^ 32 + p.step % 16 * 2 ^ 20 + p.stepMax % 16 * 2 ^ 16 + p.tband % 8 * 2 ^ 13 + p.alarm.toNat * 2 ^ 12 +
              frozen.toNat * 2 ^ 11 + p.temp % 2 ^ 8
    | 0x08 => p.budgetU % 2 ^ 32 * 2 ^ 32 + p.ab % 2 ^ 32
    | 0x10 => p.amax % 2 ^ 32 * 2 ^ 32 + p.ilim % 2 ^ 16 * 2 ^ 16 + p.dthresh % 2 ^ 8 * 2 ^ 8 + p.tslack % 64
    | 0x18 => p.droops % 2 ^ 32 * 2 ^ 32 + p.dalarm % 2 ^ 16 * 2 ^ 16 + p.load % 2 ^ 8 * 2 ^ 8 + p.peats % 4 * 2 ^ 6 + p.slack % 64
    | 0x20 => p.ipeak % 2 ^ 16
    | _ => 0)

/-- A register of a display head (R446). -/
def Head.reg (h : Head) (o : Nat) : DWord :=
  BitVec.ofNat 64 (match o with
    | 0x00 => h.err % 4 * 8 + h.fmt % 4 * 2 + h.en.toNat
    | 0x08 => h.base
    | 0x10 => h.pitch % 2 ^ 32
    | 0x18 => h.vact % 2 ^ 16 * 2 ^ 16 + h.hact % 2 ^ 16
    | 0x20 => h.htot % 2 ^ 16 * 2 ^ 48 + h.hsync % 2 ^ 16 * 2 ^ 32 + h.hstart % 2 ^ 16 * 2 ^ 16 + h.hfp % 2 ^ 16
    | 0x28 => h.vtot % 2 ^ 16 * 2 ^ 48 + h.vsync % 2 ^ 16 * 2 ^ 32 + h.vstart % 2 ^ 16 * 2 ^ 16 + h.vfp % 2 ^ 16
    | 0x30 => h.pclk % 2 ^ 32
    | 0x38 => h.poisonPix % 2 ^ 32 * 2 ^ 32 + h.frame % 2 ^ 31 * 2 + h.vblank.toNat
    | _ => 0)

/-- STAT (R440). -/
def Dev.stat (d : Dev) : Nat := d.failch.toNat * 2 ^ 8 + d.warm.toNat * 4 + d.bootFail.toNat * 2 + d.ready.toNat

/-- A register of the host command block (R441). -/
def State.cmdReg (s : State) (o : Nat) : DWord :=
  if 0x40 ≤ o && o < 0xC0 then BitVec.ofNat 64 (s.ctx ((o - 0x40) / 8)).ctxst
  else match o with
    | 0x08 => s.dev.arg0
    | 0x10 => s.dev.arg1
    | 0x18 => BitVec.ofNat 64 (s.dev.result * 2 ^ 8 + s.dev.lost.toNat * 2 + s.dev.busy.toNat)
    | 0x20 => s.dev.cres
    | 0x28 => ctlWord s.dev.cmdVec s.dev.cmdIe
    | _ => 0

/-- A register of a memory controller's window (R420, R439). -/
def Controller.reg (c : Controller) (o : Nat) : DWord :=
  if o < 0x1000 then (match c.poison[o / 8]? with | some e => e.word | none => 0)
  else if o < 0x1200 then c.quarWord ((o - 0x1000) / 8) else 0

/-- The 8 bytes at an aligned offset of BAR 0 (R439). The HKC mailbox, which answers from READY on or when bring-up has failed (R448, R449),
holds what the manual leaves to the firmware: free values (log 7). No bit of the PBA is ever set (log 91). -/
def State.bar0Word (s : State) (a : Nat) : DWord :=
  let d := s.dev
  if a = 0 then BitVec.ofNat 64 (d.form % 2 ^ 8 * 2 ^ 32 + 0x0960 * 2 ^ 16 + d.memGib)
  else if a = 8 then BitVec.ofNat 64 d.stat
  else if 0x800000 ≤ a && a < 0x810000 then (if d.ready || d.bootFail then Config.bar0Foreign s.free a else 0)
  else if !d.ready then 0
  else if a = 0x100 then BitVec.ofNat 64 d.bar2Base
  else if a = 0x108 then d.hostErr
  else if a = 0x110 then ctlWord d.poisVec d.poisIe
  else if 0x10000 ≤ a && a < 0x20000 then s.cmdReg (a - 0x10000)
  else if 0x100000 ≤ a && a < 0x210000 then (s.window ((a - 0x100000) / 0x10000)).reg (a % 0x10000)
  else if 0x300000 ≤ a && a < 0x310000 then (s.cluster ((a - 0x300000) / 0x1000)).faultReg (a % 0x1000)
  else if 0x400000 ≤ a && a < 0x440000 then (s.controllers.getD ((a - 0x400000) / 0x2000) {}).reg (a % 0x2000)
  else if a = 0x5F0000 then BitVec.ofNat 64 d.railMv
  else if 0x600000 ≤ a && a < 0x601000 then ((s.cluster ((a - 0x600000) / 0x100)).power).reg d.frozen (a % 0x100)
  else if 0x700000 ≤ a && a < 0x704000 then (d.heads.getD ((a - 0x700000) / 0x1000) {}).reg (a % 0x1000)
  else if 0x900000 ≤ a && a < 0x900800 then
    (match d.apertures.getD ((a - 0x900000) / 8) (0, false) with | (bus, en) => BitVec.ofNat 64 (bus * 2 ^ 31 + en.toNat))
  else if 0xA00000 ≤ a && a < 0xA08000 then BitVec.ofNat 64 (numOf (d.msixTable.read (a - 0xA00000) 8))
  else 0

/-- Is an access to BAR 0 one that it takes: 4 or 8 bytes, naturally aligned (R438)? -/
def bar0Ok (off size : Nat) : Bool := (size == 4 || size == 8) && off % size == 0 && off + size ≤ 2 ^ 26

/-- What a read of BAR 0 returns; none is Completer Abort, or no answer after a trip (R431, R438). -/
def State.bar0Read (s : State) (off size : Nat) : Option DWord :=
  if s.dev.tripped || !bar0Ok off size then none
  else some ((s.bar0Word (off / 8 * 8) >>> (8 * (off % 8))) &&& BitVec.ofNat 64 (2 ^ (8 * size) - 1))

/-! ### Display heads (R446) -/

/-- Bytes of a pixel. -/
def scanSize (fmt : Nat) : Nat := if fmt = 0 then 4 else 8

/-- Timing refused (R446): the link carries linkRate thousand bytes of pixels a second. -/
def Head.timingBad (h : Head) : Bool :=
  h.hact == 0 || 8192 < h.hact || h.vact == 0 || 8192 < h.vact || h.htot ≤ h.hact || h.vtot ≤ h.vact || h.hsync == 0 || h.vsync == 0 ||
  h.hstart < h.hact + h.hfp || h.htot < h.hstart + h.hsync || h.vstart < h.vact + h.vfp || h.vtot < h.vstart + h.vsync ||
  h.pclk == 0 || h.linkRate < h.pclk * scanSize h.fmt

/-- Surface refused (R446); `top` is the end of device memory. -/
def Head.surfaceBad (h : Head) (top : Nat) : Bool :=
  let size := scanSize h.fmt
  h.base % 256 != 0 || h.pitch % 256 != 0 || h.pitch < h.hact * size || top < h.base + h.pitch * (h.vact - 1) + h.hact * size

/-- A latch point: the head checks the values that it is about to use (R446). -/
def Head.latch (h : Head) (top : Nat) : Head :=
  let vals := (h.fmt, h.base, h.pitch, h.hact, h.vact)
  if !h.en || 2 ≤ h.fmt then { h with stream := false, err := 0, used := vals }
  else if h.timingBad then { h with stream := false, err := 2, used := vals }
  else if h.surfaceBad top then { h with stream := true, err := 1, used := vals }
  else { h with stream := true, err := 0, used := vals }

/-- Change a head; while no stream runs a write to its registers is a latch point. -/
def State.writeHead (s : State) (i : Nat) (f : Head → Head) : State :=
  s.modDev fun d => { d with heads := modAt d.heads i fun h => let x := f h; if h.stream then x else x.latch s.memTop }

end Sys2Proof.Machine
end

