-- ==== Sys2Proof/Machine/HostAccess.lean ====
section
/-! DEFINITION. Accesses of the host: registers, device memory, the sluice window, atomics, landings, failed requests, and the
display heads (R6, R251, R252, R278, R294, R418, R437 to R446). -/

namespace Sys2Proof.Machine

/-! ### REGISTER_WRITE and BAR0_BAD_ACCESS (R438, R439) -/

/-- The bytes that a write changes, and their new values, in the 8 bytes of its register. -/
def laneWrite (off size : Nat) (v old : DWord) : DWord :=
  let m := BitVec.ofNat 64 ((2 ^ (8 * size) - 1) * 2 ^ (8 * (off % 8)))
  (old &&& ~~~m) ||| ((v <<< (8 * (off % 8))) &&& m)

/-- VEC of a control register. -/
def vecOf (w : DWord) : Nat := fld w 15 5

/-- A write in a trap window (R408, R410): `w8` is the register as the write leaves it, unwritten bytes 0. -/
def State.writeWindow (s : State) (w o : Nat) (low : Bool) (w8 : DWord) : State :=
  match o with
  | 0x8008 => s.clearNew w w8
  | 0x8010 =>
    if !low then s else
    let i := fld w8 5 0
    match fld w8 9 8 with
    | 0 => s.releaseSlot w i
    | 1 => s.resumeTrap w i false
    | 2 => s.resumeTrap w i true
    | _ => s.killWindow w
  | 0x8018 => if low then s.modWindow w fun x => { x with vec := vecOf w8, ie := w8.getLsbD 0 } else s
  | _ => s

/-- A write in a fault window (R415). -/
def State.writeFaults (s : State) (k o : Nat) (low : Bool) (w8 : DWord) : State :=
  match o with
  | 0x808 => s.clearFbnew k w8
  | 0x810 =>
    if !low then s else
    let i := fld w8 5 0
    match fld w8 9 8 with
    | 1 => s.retryFault k i
    | 2 => s.trapFault k i
    | _ => s
  | 0x818 => if low then s.modCluster k fun x => { x with faultVec := vecOf w8, faultIe := w8.getLsbD 0 } else s
  | _ => s

/-- A head's register takes a new word (R446). -/
def Head.setReg (h : Head) (o : Nat) (w : DWord) : Head :=
  match o with
  | 0x00 => { h with fmt := fld w 2 1, en := w.getLsbD 0 }
  | 0x08 => { h with base := w.toNat }
  | 0x10 => { h with pitch := fld w 31 0 }
  | 0x18 => { h with vact := fld w 31 16, hact := fld w 15 0 }
  | 0x20 => { h with htot := fld w 63 48, hsync := fld w 47 32, hstart := fld w 31 16, hfp := fld w 15 0 }
  | 0x28 => { h with vtot := fld w 63 48, vsync := fld w 47 32, vstart := fld w 31 16, vfp := fld w 15 0 }
  | 0x30 => { h with pclk := fld w 31 0 }
  | _ => h

/-- A write in the host command block (R441). -/
def State.writeCommandBlock (s : State) (o : Nat) (low : Bool) (w8 neu : DWord) : State :=
  match o with
  | 0x00 => if low then s.writeCmd (fld w8 7 0) (fld w8 15 8) else s
  | 0x08 => s.modDev fun d => { d with arg0 := neu }
  | 0x10 => s.modDev fun d => { d with arg1 := neu }
  | 0x18 => if w8.getLsbD 1 then s.clearLost else s
  | 0x28 => if low then s.modDev fun d => { d with cmdVec := vecOf w8, cmdIe := w8.getLsbD 0 } else s
  | _ => s

/-- A host write to a register of BAR 0 (R439): read-only fields, fields of the HKC and unassigned offsets ignore it; the HKC
mailbox holds nothing that the model names. -/
def State.writeReg (s : State) (off size : Nat) (v : DWord) : State :=
  let a := off / 8 * 8
  let low := off % 8 == 0
  let w8 := laneWrite off size v 0
  let neu := laneWrite off size v (s.bar0Word a)
  if a = 0x100 then s.modDev fun d => { d with bar2Base := neu.toNat / 2 ^ 28 * 2 ^ 28 }
  else if a = 0x110 then (if low then s.modDev fun d => { d with poisVec := vecOf w8, poisIe := w8.getLsbD 0 } else s)
  else if 0x10000 ≤ a && a < 0x20000 then s.writeCommandBlock (a - 0x10000) low w8 neu
  else if 0x100000 ≤ a && a < 0x210000 then s.writeWindow ((a - 0x100000) / 0x10000) (a % 0x10000) low w8
  else if 0x300000 ≤ a && a < 0x310000 then s.writeFaults ((a - 0x300000) / 0x1000) (a % 0x1000) low w8
  else if 0x600000 ≤ a && a < 0x601000 && a % 0x100 = 0 then (if low then s.writeStepmax ((a - 0x600000) / 0x100) (fld w8 19 16) else s)
  else if 0x700000 ≤ a && a < 0x704000 && a % 0x1000 ≤ 0x38 then
    s.writeHead ((a - 0x700000) / 0x1000) fun h => h.setReg (a % 0x1000) neu
  else if 0x900000 ≤ a && a < 0x900800 then
    s.modDev fun d => { d with apertures := setAt d.apertures ((a - 0x900000) / 8) (fld neu 63 31, neu.getLsbD 0) }
  else if 0xA00000 ≤ a && a < 0xA08000 then s.modDev fun d => { d with msixTable := d.msixTable.write (a - 0xA00000) (bytesOf 8 neu.toNat) }
  else s

/-- Discard of an access that BAR 0 does not take (R438): a read completes with Completer Abort, a write is reported as one. -/
def State.badAccess (s : State) : State := if s.dev.tripped then s else s.emit .abort

/-- REGISTER_WRITE (R6). -/
def execRegisterWrite (off size : Nat) (value : DWord) (s : State) : Host.Outcome State Fault Refusal :=
  .next (if !bar0Ok off size then s.badAccess else s.ifAnswers (s.writeReg off size value))

/-- BAR0_BAD_ACCESS (R438): an access of another size or alignment. -/
def execBar0BadAccess (s : State) : Host.Outcome State Fault Refusal := .next s.badAccess

/-! ### BAR 2 and BAR 4 (R251, R252, R418, R438, R445) -/

/-- Does some translation that the device holds map the page COMPRESSIBLE? -/
def State.mappedComp (s : State) (pa : Nat) : Bool :=
  let maps (t : TlbEntry) : Bool :=
    let base := fld t.pte 39 16 * 65536
    pteBit t.pte 4 && base ≤ pa && pa < base + (if t.big then 2 ^ 27 else 2 ^ 16)
  (s.cores.any fun c => c.tlb1.any maps) || s.clusters.any fun k => k.tlb2.any maps

/-- Where the host port finds a device-memory address: the home that holds the sector, else that of the page's mapping. -/
def State.portLoc (s : State) (pa : Nat) : Loc :=
  let held (comp : Bool) : Bool := (s.l2At (homeSlice pa comp) (pa / 64)).isSome
  locOf pa (if held false then false else held true || s.mappedComp pa)

/-- The base that BAR 2 uses: a multiple of the BAR's size (R438), the low bits of BAR2BASE counting for nothing (log 92). -/
def Dev.barBase (d : Dev) : Nat := d.bar2Base / d.bar2Size * d.bar2Size

/-- Where a byte of a BAR leads: none beyond device memory (R438). -/
def State.barLoc (s : State) (bar off : Nat) : Option Loc :=
  if bar = 4 then some (locOf (sluiceBase + off) false)
  else if s.dev.barBase + off < s.memTop then some (s.portLoc (s.dev.barBase + off)) else none

/-- Does the BAR hold the bytes? BAR 2 is bar2Size long, BAR 4 256 KiB. -/
def State.inBar (s : State) (bar off len : Nat) : Bool :=
  (bar == 2 && off + len ≤ s.dev.bar2Size) || (bar == 4 && off + len ≤ 2 ^ 18)

/-- A host read: the bytes, and EP when one of them is poisoned (R418). Beyond MEMGIB every byte reads as ones. -/
def State.hostRead (s : State) (bar off len : Nat) : State :=
  if s.dev.tripped || !s.inBar bar off len then s
  else if !s.dev.ready then s.emit (.completion (zeroBytes len) false) else
  let locs := (List.range len).map fun i => s.barLoc bar (off + i)
  let bs := locs.map fun x => match x with | some x => s.homeByte x | none => (0xFF, false)
  let s := (locs.filterMap id).foldl (fun s x => if x.pa % 64 = 0 || some x == locs.head?.bind id then s.l2Fill x 16 0 else s) s
  s.emit (.completion (bs.map (·.1)) (bs.any (·.2)))

/-- A host write as external writes (R252), or into the sluice SRAM; with EP it poisons every sector that it writes (R418). -/
def State.hostWriteAt (s : State) (bar off : Nat) (bytes : List Byte) (ep : Bool) : State :=
  if !s.answers || !s.inBar bar off bytes.length then s else
  let pairs := (bytes.mapIdx fun i b => (s.barLoc bar (off + i)).map fun x => (x, b)).filterMap id
  (sectorWrites pairs).foldl (fun s w =>
    let s := s.applyAt w.loc w.mask w.data false true
    if !ep then s else
    match w.loc.target with
    | .dev => s.poisonSector w.loc.pa 2 w.loc.comp
    | _ => if s.sluicePoison.contains w.loc.sector then s else { s with sluicePoison := s.sluicePoison ++ [w.loc.sector] }) s

/-- BAR2_HOST_READ (R438). -/
def execBar2HostRead (off len : Nat) (s : State) : Host.Outcome State Fault Refusal := .next (s.hostRead 2 off len)

/-- BAR2_HOST_WRITE (R252). -/
def execBar2HostWrite (off : Nat) (bytes : List Byte) (ep : Bool) (s : State) : Host.Outcome State Fault Refusal :=
  .next (s.hostWriteAt 2 off bytes ep)

/-- BAR4_HOST_READ (R438). -/
def execBar4HostRead (off len : Nat) (s : State) : Host.Outcome State Fault Refusal := .next (s.hostRead 4 off len)

/-- BAR4_HOST_WRITE (R438). -/
def execBar4HostWrite (off : Nat) (bytes : List Byte) (ep : Bool) (s : State) : Host.Outcome State Fault Refusal :=
  .next (s.hostWriteAt 4 off bytes ep)

/-! ### HOST_ATOMICOP (R278, R438) -/

/-- The operation of R280 that a PCI Express AtomicOp is. -/
def hostAtomOp : HostAtom → Nat
  | .fetchAdd => 0
  | .swap => 8
  | .cas => 9

/-- A host AtomicOp at the home slice or the sluice: the old value is answered; at a poisoned location nothing is performed and the
answer is poisoned; beyond MEMGIB all ones are answered and nothing is written. -/
def State.hostAtomAt (s : State) (bar off : Nat) (op : HostAtom) (wide : Bool) (value compare : DWord) : State :=
  let size := if wide then 8 else 4
  if s.dev.tripped || !s.inBar bar off size then s
  else if off % size != 0 then s.emit .abort
  else if !s.dev.ready then s.emit (.atomicAnswer 0 false) else
  match s.barLoc bar off with
  | none => s.emit (.atomicAnswer (BitVec.ofNat 64 (2 ^ (8 * size) - 1)) false)
  | some x =>
    let bs := (x.run size).map s.homeByte
    let s := s.l2ReadAll 16 0 (x.run size)
    let old := bs.map (·.1)
    if bs.any (·.2) then s.emit (.atomicAnswer (BitVec.ofNat 64 (numOf old)) true)
    else
      let new := atomBytes (hostAtomOp op) wide old (value.toNat % 2 ^ (8 * size)) (compare.toNat % 2 ^ (8 * size))
      ((sectorWrites ((x.run size).zip new)).foldl (fun s w => s.applyAt w.loc w.mask w.data false true) s).emit
        (.atomicAnswer (BitVec.ofNat 64 (numOf old)) false)

/-- HOST_ATOMICOP (R438). -/
def execHostAtomicop (bar off : Nat) (op : HostAtom) (wide : Bool) (value compare : DWord) (s : State) : Host.Outcome State Fault Refusal :=
  .next (s.hostAtomAt bar off op wide value compare)

/-- PUTS_LANDING (R294): the payload, then the flag. -/
def execPutsLanding (bar off : Nat) (payload : List Byte) (flag : DWord) (s : State) : Host.Outcome State Fault Refusal :=
  .next ((s.hostWriteAt bar off payload false).hostWriteAt bar (off + payload.length) (bytesOf 8 flag.toNat) false)

/-! ### HOST_REQUEST_ERROR (R444) -/

/-- The lanes of an operation that lie in the host aperture. -/
def Op.hostLanes (o : Op) : Mask := maskOf fun l => o.accs.any fun a => a.lane == l && a.locs.any fun x => x.target == .host

/-- A WAITA on host memory whose re-read fails consumes poison. -/
def State.waitaFailed (s : State) (core slot : Nat) (f : RForm) : State :=
  let b := s.battAt core slot
  let ea := b.s f.a.toNat
  match s.waitaCheck core b.space f ea with
  | .ok a =>
    if a.locs.any fun x => x.target == .host then
      ((s.freeMonitor core slot).modBatt core slot fun b => { b.finishTurn with wait := .none }).takeTrap core slot ((encode (.waita f)).getD 0)
        (b.lane ((lowLane b.waitM).getD 0)).pc b.waitS 0 (causesOf b.waitM cPOISON ea)
    else s
  | _ => s

/-- A read that the host completes with an error returns data marked poisoned: of a load, the data of the lane whose request it is. A lane's
data is one request. -/
def State.readFailed (s : State) (core slot op lane : Nat) : State :=
  match s.opAt core slot op with
  | none =>
    match s.batt? core slot with
    | some b =>
      match b.wait with
      | .watch _ (.waita f) => s.waitaFailed core slot f
      | _ => s
    | none => s
  | some o =>
    let fails : State := if inMask o.hostLanes lane then s.modOp core slot op fun o => { o with poison := o.poison ||| maskOf fun l => l == lane } else s
    match o.instr with
    | .ld _ => fails
    | .tex _ | .tld _ | .mlres _ | .mlresLayer _ | .mlrd _ => fails
    | .puts _ =>
      let src := (o.accs.head?).getD { lane := 0, ea := 0, locs := [] }
      if src.locs.any fun x => x.target == .host then
        (s.noteTrap core slot o.word o.pc o.mask 0 (causesOf o.active cPOISON (src.ea +
          BitVec.ofNat 64 ((findIdx (fun x : Loc => x.target == .host) src.locs 0).getD 0))) o.id).endOp core slot op
      else s
    | _ => s

/-- An ATOM lane whose request fails returns no data, and advances HOSTERR; other lanes are as they are. -/
def State.atomLaneFailed (s : State) (core slot op lane : Nat) : State :=
  match s.opAt core slot op with
  | none => s
  | some o =>
    match o.instr with
    | .atom _ => if inMask o.hostLanes lane then
        (s.modOp core slot op fun o => { o with poison := o.poison ||| lane1 lane }).hostErrInc else s
    | _ => s

/-- HOST_REQUEST_ERROR (R444). -/
def execHostRequestError (req : HostRequest) (s : State) : Host.Outcome State Fault Refusal :=
  .next (match req with
    | .posted => s.hostErrInc
    | .read core slot op lane => s.readFailed core slot op lane
    | .atomLane core slot op lane => s.atomLaneFailed core slot op lane)

/-! ### Display heads (R446) -/

/-- VBLANK_LATCH (R446): the start of vertical blank of a running stream. -/
def execVblankLatch (head : Nat) (s : State) : Host.Outcome State Fault Refusal :=
  .next (s.modDev fun d => { d with heads := modAt d.heads head fun h =>
    if h.stream then { h.latch s.memTop with vblank := true } else h })

/-- DISPLAY_HOTPLUG (R446): the MSI-X message that alabex has configured; the link trains to what it carries. -/
def execDisplayHotplug (head vec linkRate : Nat) (s : State) : Host.Outcome State Fault Refusal :=
  .next (if !s.answers || 4 ≤ head || 2048 ≤ vec then s
    else (s.modDev fun d => { d with heads := modAt d.heads head fun h => { h with linkRate := linkRate } }).emit (.msix vec))

/-- One pixel of a surface as scanout reads it, as cache policy 2 does; a poisoned sector is sent as zero. -/
def State.scanPixel (s : State) (a size : Nat) : List Byte × Bool :=
  let bs := ((s.portLoc a).run size).map s.homeByte
  if bs.any (·.2) then (zeroBytes size, true) else (bs.map (·.1), false)

/-- The frame of a head: its pixels row by row, and how many of them are counted as poisoned. -/
def State.scanFrame (s : State) (h : Head) : List Byte × Nat :=
  let (fmt, base, pitch, hact, vact) := h.used
  let size := scanSize fmt
  if h.err = 1 then (zeroBytes (size * hact * vact), 0) else
  let px := ((List.range vact).map fun y => (List.range hact).map fun x => s.scanPixel (base + pitch * y + size * x) size).flatten
  ((px.map (·.1)).flatten, (px.filter (·.2)).length)

/-- What the reads of a frame leave of level two (R236, R240): a refused surface is not read. -/
def State.scanReads (s : State) (h : Head) : State :=
  let (fmt, base, pitch, hact, vact) := h.used
  let size := scanSize fmt
  if h.err = 1 then s else
  (List.range vact).foldl (fun s y => (List.range hact).foldl (fun s x =>
    s.l2ReadAll 16 0 ((s.portLoc (base + pitch * y + size * x)).run size)) s) s

/-- SCANOUT_FRAME_START (R446): FRAME advances, vertical blank ends, and the frame is sent. -/
def execScanoutFrameStart (head : Nat) (s : State) : Host.Outcome State Fault Refusal :=
  match s.dev.heads[head]? with
  | none => .next s
  | some h =>
    if !h.stream then .next s else
    let (bs, bad) := s.scanFrame h
    .next (((s.scanReads h).modDev fun d => { d with heads := modAt d.heads head fun h =>
      { h with vblank := false, frame := (h.frame + 1) % 2 ^ 31, poisonPix := (h.poisonPix + bad) % 2 ^ 32 } }).emit (.frame head bs))

end Sys2Proof.Machine
end

