-- ==== Sys2Proof/Machine/PairedWord.lean ====
section
/-! DEFINITION. The paired word (R73 to R76). -/

namespace Sys2Proof.Machine

/-- The destination of a slot. -/
def slotDst (s : Slot) : AluDst := if s.sop = 0x15 ∨ s.sop = 0x16 then .w s.d.toNat else .v s.d.toNat

/-- One lane of a slot's operation (R76). -/
def slotFn (s : Slot) : LaneFn := fun b fpcr l =>
  let x := (b.v s.d.toNat l).toNat
  let y := (b.v s.b.toNat l).toNat
  let k := s.imm5.toNat
  let mode := rndMode (k / 4) fpcr
  let ftz := ftzOn fpcr
  let add (p q : Int) : FRes := ires (modPow (p + q) 32)
  match s.sop.toNat with
  | 0x01 => add x y
  | 0x02 => add x (-y)
  | 0x03 => ires (x * y % 2 ^ 32)
  | 0x04 => ires (if valOf true 32 x ≤ valOf true 32 y then x else y)
  | 0x05 => ires (if valOf true 32 y ≤ valOf true 32 x then x else y)
  | 0x06 => ires (logicOp 0 32 x y)
  | 0x07 => ires (logicOp 1 32 x y)
  | 0x08 => ires (logicOp 2 32 x y)
  | 0x09 => ires (logicOp 3 32 x y)
  | 0x0A => ires (shiftOp 0 32 x k)
  | 0x0B => ires (shiftOp 1 32 x k)
  | 0x0C => ires (shiftOp 2 32 x k)
  | 0x0D => ires (shiftOp 3 32 x k)
  | 0x0E => ires y
  | 0x0F => add x (sval 5 k)
  | 0x10 => farith .add f32 mode ftz x y 0
  | 0x11 => farith .sub f32 mode ftz x y 0
  | 0x12 => farith .mul f32 mode ftz x y 0
  | 0x13 => fminmax f32 false false x y
  | 0x14 => fminmax f32 true false x y
  | 0x15 => farith .add f64 mode ftz (b.w s.d.toNat l).toNat (b.w s.b.toNat l).toNat 0
  | 0x16 => farith .mul f64 mode ftz (b.w s.d.toNat l).toNat (b.w s.b.toNat l).toNat 0
  | 0x17 => ires (popCount 32 y)
  | 0x18 => ires (leadZeros 32 y)
  | 0x19 => add 0 (-y)
  | _ => ires (modPow ((valOf true 32 y).natAbs : Int) 32)

/-- The results of a slot over its own ACTIVE. -/
def slotResults (s : Slot) (b : Batt) (m : Mask) : List FRes :=
  laneIds.map fun l => if s.sop != 0 && inMask m l then slotFn s b b.fpcr l else { bits := 0 }

/-- The paired word: both slots read before either writes; FPX in either slot stops both (R74). A slot whose guard
is true in no lane writes nothing (R147). -/
def pairBody (f : PForm) : Iss → State → Body := fun x s =>
  let b := s.battAt x.core x.slot
  let ax := b.guarded x.split f.x.g
  let ay := b.guarded x.split f.y.g
  let rx := slotResults f.x b ax
  let ry := slotResults f.y b ay
  let r (rs : List FRes) (l : Nat) : FRes := rs.getD l { bits := 0 }
  let bad := maskOf fun l => (r rx l).traps b.fpcr || (r ry l).traps b.fpcr
  if bad != 0 then
    .trap ((lanesOf (ax ||| ay)).map fun l =>
      { lane := l, cause := if inMask bad l then cFPX else 0, flags := (r rx l).tr ||| (r ry l).tr }) s
  else
    let fl := (rx ++ ry).foldl (fun acc q => acc ||| q.flags) 0
    let write (sl : Slot) (m : Mask) (rs : List FRes) (b : Batt) : Batt := if sl.sop = 0 || m = 0 then b else b.put (slotDst sl) m fun l => (r rs l).bits
    .done (s.modBatt x.core x.slot fun b =>
      let c := write f.y ay ry (write f.x ax rx b)
      { c with fpsr := b.fpsr ||| BitVec.ofNat 32 fl })

/-- The paired word (R74). -/
def execPairedWord (f : PForm) (s : State) : Host.Outcome State Fault Refusal := runWord (.pairedWord f) (pairBody f) s

end Sys2Proof.Machine
end

