-- ==== Sys2Proof/Machine/PowerSteps.lean ====
section
/-! DEFINITION. Clocks, the governor, voltage, ballast and the HKC's firmware limits (R12, R427 to R436). -/

namespace Sys2Proof.Machine

/-- Change a cluster's power registers. -/
def State.modPower (s : State) (k : Nat) (f : Power → Power) : State := s.modCluster k fun c => { c with power := f c.power }

/-! ### The governor (R430, R431) -/

/-- BANDCAP (R431). -/
def bandCap (b : Nat) : Nat := [12, 12, 12, 11, 11, 10, 10, 4].getD b 4

/-- A of the next period (R430). -/
def Power.nextA (p : Power) (frozen : Bool) (used : Nat) : Nat :=
  if frozen then 0 else (min (p.amax : Int) (max 0 ((p.a : Int) + p.budgetU - used + p.credit))).toNat

/-- T and C of R430 give N, the step that the governor aims at; `a` is the new allowance. -/
def Power.aim (p : Power) (frozen : Bool) (a used : Nat) : Nat :=
  let t := if 2 * p.ab ≤ a then 12 else if p.ab ≤ a then 11 else if a = 0 ∧ p.budgetU < used then max (p.nextStep - 1) 6 else 10
  min t (min (min (bandCap p.tband) p.stepMax) (min (if p.alarm then 8 else 12) (if frozen then 10 else 12)))

/-- The end of a governor period (R430, R432): the alarm clears when the period had no cause. `slackUp` is what the replicas report when run
at the next step up: where the step could rise and they report less than TSLACK, the step holds and the next trim raises the rail (R433). -/
def Power.governor (p : Power) (frozen : Bool) (used slackUp : Nat) : Power :=
  let a := p.nextA frozen used
  let p := { p with alarm := p.alarm && p.alarmSeen }
  let n := p.aim frozen a used
  let up := decide (p.nextStep < n)
  { p with a := a, credit := 0, alarmSeen := false, droopsAt := p.droops, replicaFailed := p.replicaFailed || (up && slackUp < p.tslack)
           nextStep := if n < p.nextStep then p.nextStep - 1 else if up && p.tslack ≤ slackUp then p.nextStep + 1 else p.nextStep }

/-- A governor period ends 128 reference ticks after it began (R430; log 142). -/
def Power.governorDue (p : Power) : Bool := 128 ≤ p.ticks

/-- The governor of a cluster at the end of a period, where one has ended. -/
def Power.govern (p : Power) (frozen : Bool) (used slackUp : Nat) : Power :=
  if p.governorDue then { p.governor frozen used slackUp with ticks := 0 } else p

/-- GOVERNOR_PERIOD (R430): before 128 ticks have been counted none ends. -/
def execGovernorPeriod (cluster used slackUp : Nat) (s : State) : Host.Outcome State Fault Refusal :=
  .next (s.modPower cluster fun p => p.govern s.dev.frozen used slackUp)

/-- STEP_TAKES_EFFECT (R427): only at a pattern boundary, every 16 master periods. -/
def execStepTakesEffect (cluster : Nat) (s : State) : Host.Outcome State Fault Refusal :=
  .next (if s.dev.pulse % 16 = 0 then s.modPower cluster fun p => { p with step := p.nextStep } else s)

/-- The highest step that any cluster is running (R12). -/
def State.topStep (s : State) : Nat := (s.clusters.map fun k => k.power.step).foldl max 0

/-- FABRIC_STEP_EVAL (R12): the fabric's step is the highest of any cluster, at a reference tick, every 20 master periods. The pulse of a
tick evaluates it too (`State.onePulse`). -/
def execFabricStepEval (s : State) : Host.Outcome State Fault Refusal :=
  .next (if s.dev.pulse % 20 = 0 then s.modDev fun d => { d with fabricStep := s.topStep } else s)

/-! ### Droops, current, temperature (R428, R431, R432) -/

/-- A cause of the power alarm (R432). -/
def Power.raiseAlarm (p : Power) : Power := { p with alarm := true, alarmSeen := true }

/-- DROOPS modulo 2^32 has advanced by more than DALARM in the period (R432). -/
def Power.droopAlarm (p : Power) : Bool := p.dalarm < (p.droops + 2 ^ 32 - p.droopsAt) % 2 ^ 32

/-- DROOP_ONSET (R428). -/
def execDroopOnset (cluster : Nat) (s : State) : Host.Outcome State Fault Refusal :=
  .next (s.modPower cluster fun p =>
    let p := { p with droops := (p.droops + 1) % 2 ^ 32, stretch := true, droopAt := s.dev.pulse }
    if p.droopAlarm then p.raiseAlarm else p)

/-- DROOP_RECOVERY (R428): the halving holds for 256 master periods from the last onset at least. -/
def execDroopRecovery (cluster : Nat) (s : State) : Host.Outcome State Fault Refusal :=
  .next (s.modPower cluster fun p => if p.droopAt + 256 ≤ s.dev.pulse then { p with stretch := false } else p)

/-- CURRENT_LIMIT (R432). -/
def execCurrentLimit (cluster : Nat) (s : State) : Host.Outcome State Fault Refusal := .next (s.modPower cluster Power.raiseAlarm)

/-- The lower edges of bands 1 to 7 (R431). -/
def bandEdge (b : Nat) : Nat := [0, 60, 70, 80, 88, 95, 100, 105].getD b 0

/-- The band of a temperature, coming from below. -/
def bandOf (temp : Nat) : Nat := (([1, 2, 3, 4, 5, 6, 7] : List Nat).filter fun b => bandEdge b ≤ temp).length

/-- The band after a temperature is measured: it is left downwards only 2 °C below its lower edge (R431). -/
def nextBand (band temp : Nat) : Nat :=
  match band with
  | 0 => bandOf temp
  | b + 1 => if temp + 2 ≤ bandEdge (b + 1) then nextBand b temp else max (b + 1) (bandOf temp)

/-- The trip (R431): every clock stops, THERMTRIP# is asserted, the core rail is turned off, and the device answers nothing further. -/
def State.trip (s : State) : State :=
  if s.dev.tripped then s else (s.modDev fun d => { d with tripped := true, railMv := 0 }).emit .thermTrip

/-- TEMPERATURE_BAND_CHANGE (R431): at 115 °C the device trips. -/
def execTemperatureBandChange (cluster temp : Nat) (s : State) : Host.Outcome State Fault Refusal :=
  let s := s.modPower cluster fun p => { p with temp := temp, tband := nextBand p.tband temp }
  .next (if 115 ≤ temp then s.trip else s)

/-- THERMAL_TRIP (R431). -/
def execThermalTrip (s : State) : Host.Outcome State Fault Refusal := .next s.trip

/-! ### The rail (R433) and the load (R434) -/

/-- The cluster with the worst slack: its slack and TSLACK. -/
def State.worstSlack (s : State) : Nat × Nat :=
  (s.clusters.map fun k => (k.power.slack, k.power.tslack)).foldl (fun acc x => if x.1 < acc.1 then x else acc) (64, 0)

/-- A trim of the rail: the slacks of the clusters, and one step of 5 mV within 460 to 560 mV, up also where a replica check has failed
since the last trim (R433). -/
def State.trimRail (s : State) (slacks : List Nat) : State :=
  let s : State := { s with clusters := s.clusters.mapIdx fun i k => { k with power := { k.power with slack := min 63 (slacks.getD i k.power.slack) } } }
  let (w, t) := s.worstSlack
  let failed := s.clusters.any fun k => k.power.replicaFailed
  let s : State := { s with clusters := s.clusters.map fun k => { k with power := { k.power with replicaFailed := false } } }
  s.modDev fun d => { d with trimTicks := 0
                             railMv := if w < t || failed then min 560 (d.railMv + 5) else if t + 2 < w then max 460 (d.railMv - 5) else d.railMv }

/-- The rail is trimmed every 4,096 reference ticks (R433; log 142). -/
def Dev.trimDue (d : Dev) : Bool := 4096 ≤ d.trimTicks

/-- RAIL_TRIM (R433): before 4,096 ticks have been counted there is none. -/
def execRailTrim (slacks : List Nat) (s : State) : Host.Outcome State Fault Refusal :=
  .next (if s.dev.trimDue then s.trimRail slacks else s)

/-- ILIM16 (R434); an IPEAK of 0 is read as 1 (R436). -/
def Power.ilim16 (p : Power) : Nat := min 16 (16 * p.ilim / max 1 p.ipeak)

/-- The end of a load window (R434): its load, ballast included, and FLOOR of the next. Ballast brings the load to the floor, and no further
than the current limiter allows: ILIM or IPEAK may have been lowered in the window. -/
def Power.endWindow (p : Power) (real : Nat) : Power :=
  let load := max real (min p.floor p.ilim16)
  { p with load := load, floor := min (load - 1) p.ilim16, window := 0 }

/-- A load window is over after 4,096 cycles of the cluster (R434; log 142). -/
def Power.windowDue (p : Power) : Bool := 4096 ≤ p.window

/-- The load window of a cluster, where it is over. -/
def Power.measure (p : Power) (real : Nat) : Power := if p.windowDue then p.endWindow real else p

/-- LOAD_WINDOW (R434): before 4,096 cycles none ends. -/
def execLoadWindow (cluster real : Nat) (s : State) : Host.Outcome State Fault Refusal :=
  .next (s.modPower cluster fun p => p.measure real)

/-! ### The watchdog (R435) -/

/-- A is held at 0 while WDFROZEN is 1, and credits are discarded. -/
def State.holdBoost (s : State) : State :=
  if s.dev.frozen then { s with clusters := s.clusters.map fun k => { k with power := { k.power with a := 0, credit := 0 } } } else s

/-- The watchdog lapses 2^20 reference ticks after the last kick, and not while an update holds boost frozen (R435; log 139). -/
def Dev.lapseDue (d : Dev) : Bool := 2 ^ 20 ≤ d.kickTicks && !d.wdLapsed && !d.hkcUpdate

/-- The watchdog lapses, where that is due. -/
def State.lapse (s : State) : State := if s.dev.lapseDue then (s.modDev fun d => { d with wdLapsed := true }).holdBoost else s

/-- WATCHDOG_LAPSE (R435): before 2^20 ticks without a kick there is none. -/
def execWatchdogLapse (s : State) : Host.Outcome State Fault Refusal := .next s.lapse

/-- WDKICK (R435): WDFROZEN clears at the first kick after a lapse; what was credited while it was 1 is discarded. -/
def execWdkick (s : State) : Host.Outcome State Fault Refusal :=
  .next (s.holdBoost.modDev fun d => { d with wdLapsed := false, kickTicks := 0 })

/-- HKC_FIRMWARE_UPDATE (R435): an update starts, or the one that runs ends; from its end the watchdog counts afresh (log 139). -/
def execHkcFirmwareUpdate (s : State) : Host.Outcome State Fault Refusal :=
  .next (s.holdBoost.modDev fun d => { d with hkcUpdate := !d.hkcUpdate, kickTicks := 0 }).holdBoost

/-! ### Registers of the HKC (R436) -/

/-- A write of 8 bytes by the HKC: its fields take their values, the others ignore it. -/
def Power.hkcSet (p : Power) (o : Nat) (w : DWord) : Power :=
  match o with
  | 0x08 => { p with budgetU := fld w 63 32, ab := fld w 31 0 }
  | 0x10 => { p with amax := fld w 63 32, ilim := fld w 31 16, dthresh := fld w 15 8, tslack := fld w 5 0 }
  | 0x18 => { p with dalarm := fld w 31 16 }
  | 0x20 => { p with ipeak := fld w 15 0 }
  | _ => p

/-- The HKC writes a power register of a cluster; after a trip nothing does. -/
def State.hkcWrite (s : State) (cluster off : Nat) (w : DWord) : State :=
  if s.dev.tripped then s else s.modPower cluster fun p => p.hkcSet off w

/-! ### Time (R159, R427 to R429) -/

/-- Does the pattern of step k pass slot i (R427)? -/
def patternPasses (k i : Nat) : Bool := i * k / 16 < (i + 1) * k / 16

/-- A pulse of the master clock in a cluster, at its slot of the pattern: the cluster takes it as a cycle if its step passes the slot, under a
stretch every second such pulse (R427, R428); a cycle counts in the load window (R434). `tick`: the shared reference counts too, for the
governor's period as well (R429, R430). -/
def Cluster.pulse (k : Cluster) (slot : Nat) (tick : Bool) : Cluster :=
  let passes := patternPasses k.power.step slot
  let takes := passes && !(k.power.stretch && k.power.skip)
  { k with cyc := if takes then k.cyc + 1 else k.cyc, tim := if tick then k.tim + 1 else k.tim
           power := { k.power with skip := if passes then k.power.stretch && takes else k.power.skip
                                   window := if takes then k.power.window + 1 else k.power.window
                                   ticks := if tick then k.power.ticks + 1 else k.power.ticks } }

/-- Something that happens at a fixed count of ticks or cycles has come due: the end of a governor period or of a load window, a trim of the
rail, a lapse of the watchdog (R430, R433 to R435). -/
def State.anyDue (s : State) : Bool :=
  s.dev.trimDue || s.dev.lapseDue || s.clusters.any fun k => k.power.governorDue || k.power.windowDue

/-- What has come due happens, each with its measurements free: the energy used and the slacks that the replicas report, the real load
(log 142). -/
def State.settle (s : State) : State :=
  let n := s.free
  let at' (i : Nat) : Nat := (Config.freeValue (n + i)).toNat
  let frozen := s.dev.frozen
  let s : State := { s with clusters := s.clusters.mapIdx fun k c =>
    { c with power := (c.power.govern frozen (at' (4 * k)) (at' (4 * k + 1) % 64)).measure (at' (4 * k + 2) % 256) } }
  let s := if s.dev.trimDue then s.trimRail ((List.range 16).map fun k => at' (4 * k + 3) % 64) else s
  { s.lapse with free := n + 64 }

/-- The pulse itself; the reference ticks at every twentieth, 2.0 GHz against 100 MHz (R427, R429). At each tick the step of the fabric is
evaluated again (R12); the ticks of all clusters fall together. -/
def State.pulseOn (s : State) : State :=
  let n := s.dev.pulse
  let tick := n % 20 == 19
  let s : State := { s with clusters := s.clusters.map fun k => k.pulse (n % 16) tick }
  s.modDev fun d => { d with pulse := n + 1, fabricStep := if tick then s.topStep else d.fabricStep
                             trimTicks := if tick then d.trimTicks + 1 else d.trimTicks
                             kickTicks := if tick then d.kickTicks + 1 else d.kickTicks }

/-- One pulse of the master clock; what is overdue happens before it. -/
def State.onePulse (s : State) : State := (if s.anyDue then s.settle else s).pulseOn

/-- Pulses pass. -/
def State.pulses (s : State) : Nat → State
  | 0 => s
  | n + 1 => s.onePulse.pulses n

/-- Pulses pass until a cluster has taken one: at step 1 under a stretch the 32nd at the latest. -/
def State.untilCycle (k : Nat) : Nat → State → State
  | 0, s => s
  | n + 1, s =>
    let t := s.onePulse
    if (t.cluster k).cyc == (s.cluster k).cyc then t.untilCycle k n else t

end Sys2Proof.Machine
end

