-- ==== Sys2Proof/Machine/RegisterWords.lean ====
section
/-! DEFINITION. Special registers, predicate logic, lane exchange and register tags (R151, R159, R161 to R166). -/

namespace Sys2Proof.Machine

/-- One change of the issuing batt is the word's whole effect. -/
def doneBatt (x : Iss) (s : State) (f : Batt → Batt) : Body := .done (s.modBatt x.core x.slot f)

/-! ### Special registers (R159) -/

/-- The value of special register n (R159); for %lane, the lane. In the control batt, of which R120 does not speak, %batt, %felt, %launch and
%ctx are 0, %nfelt and %nbatt 1 (log 103). -/
def State.special (s : State) (b : Batt) (x : Iss) (n l : Nat) : DWord :=
  let k := clusterOf b.core
  let num (v : Nat) : DWord := BitVec.ofNat 64 v
  match n with
  | 0 => num l
  | 1 => num b.id.b
  | 2 => num b.feltNo
  | 3 => num b.core
  | 4 => num k
  | 5 => num b.id.lnum
  | 6 => num (b.space % 16)
  | 7 => num b.nfelt
  | 8 => num b.nbatt
  | 9 => x.split.setWidth 64
  | 10 => (s.cluster k).cyc
  | 11 => (s.cluster k).tim
  | 12 => num (s.cluster k).power.step
  | 13 => num (s.cluster k).power.tband
  | 14 => num (s.cluster k).power.a
  | 15 => num (if s.narrowed b.core then 1 else 0)
  | 16 => b.fpcr.setWidth 64
  | 17 => b.fpsr.setWidth 64
  | 18 => b.memo
  | 19 => num b.cont
  | 20 => num (b.regs + b.pinned * 2 ^ 16 + ((s.launchOf b).map (·.recipes)).getD 0 * 2 ^ 32)
  | 21 => b.wpoll.setWidth 64
  | 22 => b.params
  | _ => num b.quarter

/-- GETSR (R159). -/
def getsrBody (f : RForm) : Iss → State → Body := fun x s =>
  let val (l : Nat) : DWord := s.special (s.battAt x.core x.slot) x (f.mf 4 0) l
  doneBatt x s fun b =>
    if f.mb 7 then b.setV f.d.toNat x.active fun l => (val l).setWidth 32
    else b.setS f.d.toNat (val x.low)

/-- GETSR (R159). -/
def execGetsr (f : RForm) (s : State) : Host.Outcome State Fault Refusal := runWord (.getsr f) (getsrBody f) s

/-- What a SETSR leaves in FPCR (R46): reserved bits 0, RMODE kept when 5, 6 or 7 is supplied. -/
def newFpcr (old : Word) (v : DWord) : Word :=
  let w : Word := v.setWidth 32
  if 5 ≤ fld w 10 8 then (w &&& 0x81F) ||| (old &&& 0x700) else w &&& 0xF1F

/-- SETSR (R159, R46, R47, R365). -/
def setsrBody (f : RForm) : Iss → State → Body := fun x s =>
  doneBatt x s fun b =>
    let v := b.s f.a.toNat
    if f.m = 16 then { b with fpcr := newFpcr b.fpcr v }
    else if f.m = 17 then { b with fpsr := v.setWidth 32 &&& 0x3F }
    else { b with memo := v &&& 0xFFFFFFFFFFFFFF03 }

/-- SETSR (R159). -/
def execSetsr (f : RForm) (s : State) : Host.Outcome State Fault Refusal := runWord (.setsr f) (setsrBody f) s

/-! ### Predicates (R161, R163) -/

/-- PLOP (R161). -/
def plopBody (f : RForm) : Iss → State → Body := fun x s =>
  doneBatt x s fun b =>
    let one (n l : Nat) : Nat := if inMask (b.p n) l then 1 else 0
    b.setP f.d.toNat x.active (maskOf fun l => Nat.testBit (f.mf 3 0) (2 * one f.a.toNat l + one f.b.toNat l))

/-- PLOP (R161). -/
def execPlop (f : RForm) (s : State) : Host.Outcome State Fault Refusal := runWord (.plop f) (plopBody f) s

/-- PMOV (R161). -/
def pmovBody (f : RForm) : Iss → State → Body := fun x s =>
  doneBatt x s fun b =>
    match f.mf 1 0 with
    | 0 => b.setS f.d.toNat ((b.p f.a.toNat).setWidth 64)
    | 1 => b.setP f.d.toNat x.active ((b.s f.a.toNat).setWidth 32)
    | 2 => b.setV f.d.toNat x.active fun l => if inMask (b.p f.a.toNat) l then 1 else 0
    | _ => b.setP f.d.toNat x.active (maskOf fun l => b.v f.a.toNat l != 0)

/-- PMOV (R161). -/
def execPmov (f : RForm) (s : State) : Host.Outcome State Fault Refusal := runWord (.pmov f) (pmovBody f) s

/-- PFOLD (R163). -/
def pfoldBody (f : RForm) : Iss → State → Body := fun x s =>
  doneBatt x s fun b =>
    let on := b.p f.a.toNat &&& x.active
    let all (v : Bool) : Batt := b.setP f.d.toNat x.active (if v then BitVec.allOnes 32 else 0)
    match f.mf 2 0 with
    | 0 => all (on == x.active)
    | 1 => all (on != 0)
    | 2 => all (on == x.active || on == 0)
    | 3 => all (popMask on % 2 == 1)
    | 4 => b.setS f.d.toNat (on.setWidth 64)
    | _ => b.setS f.d.toNat (BitVec.ofNat 64 (popMask on))

/-- PFOLD (R163). -/
def execPfold (f : RForm) (s : State) : Host.Outcome State Fault Refusal := runWord (.pfold f) (pfoldBody f) s

/-! ### Lane exchange (R162, R164, R165) -/

/-- The source lane of LXCH (R162): mode, group size n, count k, lane. -/
def lxchLane (mode n k l : Nat) : Nat :=
  let i := l % n
  let f := match mode with
    | 0 => k % n
    | 1 => (i + k) % n
    | 2 => i ^^^ (k % n)
    | _ => n - 1 - i
  l - i + f

/-- LXCH (R162). -/
def lxchBody (f : RForm) : Iss → State → Body := fun x s =>
  doneBatt x s fun b =>
    let k (l : Nat) : Nat := if f.mb 5 then f.mf 4 0 else (b.v f.b.toNat l).toNat % 32
    b.setV f.d.toNat x.active fun l => b.v f.a.toNat (lxchLane (f.mf 7 6) (2 ^ fld f.c 2 0) (k l) l)

/-- LXCH (R162). -/
def execLxch (f : RForm) (s : State) : Host.Outcome State Fault Refusal := runWord (.lxch f) (lxchBody f) s

/-- PEER (R164). -/
def peerBody (f : RForm) : Iss → State → Body := fun x s =>
  doneBatt x s fun b =>
    let val (l : Nat) : Nat := b.rdA f (f.mb 0) l
    let group (l : Nat) : Mask := maskOf fun m => inMask x.active m && val m == val l
    let res (l : Nat) : Nat := match f.mf 2 1 with
      | 0 => (group l).toNat
      | 1 => (lowLane (group l)).getD 0
      | 2 => ((lanesOf (group l)).filter (· < l)).length
      | _ => popMask (group l)
    b.setV f.d.toNat x.active fun l => BitVec.ofNat 32 (res l)

/-- PEER (R164). -/
def execPeer (f : RForm) (s : State) : Host.Outcome State Fault Refusal := runWord (.peer f) (peerBody f) s

/-- LGET (R165). -/
def lgetBody (f : RForm) : Iss → State → Body := fun x s =>
  doneBatt x s fun b =>
    let k := if f.mb 7 then (lowLane x.active).getD 0 else if f.mb 5 then f.mf 4 0 else (b.s f.b.toNat).toNat % 32
    b.setS f.d.toNat (if f.mb 6 then b.w f.a.toNat k else (b.v f.a.toNat k).setWidth 64)

/-- LGET (R165). -/
def execLget (f : RForm) (s : State) : Host.Outcome State Fault Refusal := runWord (.lget f) (lgetBody f) s

/-- LSET (R165): one lane, whatever its state. -/
def lsetBody (f : RForm) : Iss → State → Body := fun x s =>
  doneBatt x s fun b =>
    let k := if f.mb 5 then f.mf 4 0 else (b.s f.b.toNat).toNat % 32
    let v := b.s f.a.toNat
    if f.mb 6 then b.setW f.d.toNat (lane1 k) fun _ => v else b.setV f.d.toNat (lane1 k) fun _ => v.setWidth 32

/-- LSET (R165). -/
def execLset (f : RForm) (s : State) : Host.Outcome State Fault Refusal := runWord (.lset f) (lsetBody f) s

/-! ### Register tags (R151, R166) -/

/-- A target that the preparation of an RTAG backed stays backed where its evaluation fails: R151 says so, and R147's table gives the event
no other end; one that was Dropped is then backed without its value, which a later read replays (log 69). -/
def State.keepDests (s : State) (x : Iss) (t : AluDst) : State := s.modBatt x.core x.slot fun b => b.keepBacks (dstRegs t)

/-- RTAG, checked and prepared at stage 3 (R79, R151): the evaluation over all 32 lanes, then the tag. FPSR takes the flags of its active lanes
(R48). -/
def rtagBody (f : RForm) : Iss → State → Body := fun x s =>
  let b := s.battAt x.core x.slot
  match s.rtagCheck b f with
  | none => .prep (.refused (s.recipeAddr b (f.mf 5 0))) s
  | some (l, t) =>
    match s.evalWords b l [] [] with
    | .fault lanes rep lv => .prep (.eval lanes rep lv) (s.keepDests x t)
    | .ok e flags tr =>
      let en := fld b.fpcr 4 0
      let bad := maskOf fun i => (tr.getD i 0) &&& en != 0
      if bad != 0 then
        let named := if bad &&& x.active = 0 then x.active else bad &&& x.active
        .trap ((lanesOf x.active).map fun i => { lane := i, cause := if inMask named i then cFPX else 0, flags := tr.getD i 0 }) (s.keepDests x t)
      else
        let fl := (lanesOf x.active).foldl (fun a i => a ||| flags.getD i 0) 0
        let tagged (e : Batt) : Batt := (dstRegs t).foldl (fun (e : Batt) n =>
          match e.vreg? n with
          | some r => { e with vregs := putVReg e.vregs { r with tag := some (f.mf 5 0, recipeDepth b l t) } }
          | none => e) e
        .done (s.modBatt x.core x.slot fun b => { tagged e with fpsr := b.fpsr ||| BitVec.ofNat 32 fl })

/-- RTAG (R151). -/
def execRtag (f : RForm) (s : State) : Host.Outcome State Fault Refusal := runWord (.rtag f) (rtagBody f) s

/-- RUNTAG (R147, R166): every register of the range is untagged; its preparation has replayed those that were dropped. -/
def runtagBody (f : RForm) : Iss → State → Body := fun x s =>
  doneBatt x s fun b => (b.rangeRegs f).foldl Batt.untag b

/-- RUNTAG (R166). -/
def execRuntag (f : RForm) (s : State) : Host.Outcome State Fault Refusal := runWord (.runtag f) (runtagBody f) s

/-- RFREE (R147, R166). R147's table makes a dropped register of the range Unbacked; R166 says that a register that is not backed does
not change: the model follows the table (log 78). -/
def rfreeBody (f : RForm) : Iss → State → Body := fun x s =>
  doneBatt x s fun b =>
    let regs := b.rangeRegs f
    { b with vregs := b.vregs.filter fun r => !regs.contains r.num }

/-- RFREE (R166). -/
def execRfree (f : RForm) (s : State) : Host.Outcome State Fault Refusal := runWord (.rfree f) (rfreeBody f) s

end Sys2Proof.Machine
end

