-- ==== Sys2Proof/Machine/ResetSteps.lean ====
section
/-! DEFINITION. Errors of the SRAMs and of memory, the resets, bring-up and SMBus (R6, R237, R416, R419, R447 to R450). -/

namespace Sys2Proof.Machine

/-! ### UNCORRECTABLE_ERROR and CORRECTABLE_ERROR (R416) -/

/-- Does the slice home the sector as one of a superblock? -/
def compHome (slice sector : Nat) : Bool := homeSlice (64 * sector) false != slice

/-- An uncorrectable error in a level-two sector: dirty bytes make it poison, otherwise it is discarded. -/
def State.l2Error (s : State) (slice sector : Nat) : State :=
  match s.l2At slice sector with
  | none => s
  | some x =>
    if x.dirty = 0 then
      ({ s with l2 := s.l2.filter fun y => !(y.slice == slice && y.sector == sector) } : State).forgetL1 fun k => k == sector
    else s.poisonSector (64 * sector) 0 (compHome slice sector)

/-- An error in a frame of a compressed superblock (R237). -/
def State.frameError (s : State) (slice block held : Nat) : State :=
  ((s.l2.filter fun x => x.slice == slice && x.sector / 16 == block && x.frames != 0 && Nat.testBit held (x.sector % 16))).foldl
    (fun s x => s.poisonSector (64 * x.sector) 0 true) s

/-- An error in control state of a unit, which `on` gives by its cores: every context with a batt there is killed, under a record that names
no batt (R416, R422). -/
def State.killControl (s : State) (on : Nat → Bool) : State :=
  let spaces := (((s.batts.filter fun b => on b.core && b.id != .ctl).map (·.space)).eraseDups)
  spaces.foldl (fun s x => (s.addRecord (windowOf x) (plainRecord x cPOISON 0)).killContext x 1 cPOISON) s

/-- Change a location of an atomic unit. -/
def poisonLoc (l : List AtomLoc) (i : Nat) : List AtomLoc := modAt l i fun x => { x with poison := true }

/-- The fate of R416's table. -/
def State.uncorrectable (s : State) : ErrSite → State
  | .l2 slice sector => s.l2Error slice sector
  | .l2Frame slice block held => s.frameError slice block held
  | .l1 core sector => s.modCore core fun c =>
      { c with l1 := (c.l1.filter fun x => !(x.sector == sector && x.held.isEmpty)).map fun x => if x.sector == sector then { x with gone := true } else x }
  | .icache core => s.modCore core fun c => { c with icache := [] }
  | .ccache core => s.modCore core fun c => { c with ccache := [] }
  | .tlb core => s.modCore core fun c => { c with tlb1 := [] }
  | .tlb2 k => s.modCluster k fun c => { c with tlb2 := [] }
  | .logEntry core entry => s.modCore core fun c => { c with log := mapIf (fun e => e.pos == entry) (fun e => { e with pois := true }) c.log }
  | .scratch lnum felt word =>
      if 4 * word < s.scratchSize lnum then s.modFelt lnum felt fun f =>
        if f.scratchPoison.contains word then f else { f with scratchPoison := sortBy (· < ·) (word :: f.scratchPoison) }
      else s
  | .accumulator core slot bank word => s.modBatt core slot fun b => b.modBank bank fun k =>
      if k.poison.contains word || bankBytes ≤ 4 * word then k else { k with poison := sortBy (· < ·) (word :: k.poison) }
  | .atomUnit (.l1 core) i => s.modCore core fun c => { c with atomUnit := poisonLoc c.atomUnit i }
  | .atomUnit (.cluster k) i => s.modCluster k fun c => { c with atomStore := poisonLoc c.atomStore i }
  | .vector core slot reg lane => s.modBatt core slot fun b => if b.isBacked reg then b.poisonV reg (lane1 lane) else b
  | .scalar core slot reg => s.modBatt core slot fun b => { b with sPoison := b.sPoison ||| BitVec.ofNat 64 (2 ^ reg) }
  | .sluice sector => if sector < 4096 && !s.sluicePoison.contains (sluiceBase / 64 + sector) then
      { s with sluicePoison := s.sluicePoison ++ [sluiceBase / 64 + sector] } else s
  | .peat cluster entry => s.modCluster cluster fun k => { k with peat := modAt k.peat entry fun e => { e with err := true } }
  | .control core => s.killControl (· == core)
  | .controlCluster k => s.killControl fun c => clusterOf c == k
  | .controlDevice => s.killControl fun _ => true
  | .memory sector => if 64 * sector < s.memTop then s.poisonSector (64 * sector) 0 (s.portLoc (64 * sector)).comp else s

/-- UNCORRECTABLE_ERROR (R416). -/
def execUncorrectableError (site : ErrSite) (s : State) : Host.Outcome State Fault Refusal := .next (s.uncorrectable site)

/-- CORRECTABLE_ERROR (R416): corrected, and counted for the host. -/
def execCorrectableError (s : State) : Host.Outcome State Fault Refusal :=
  .next (s.modDev fun d => { d with correctable := d.correctable + 1 })

/-! ### Resets (R447) -/

/-- Whether bytes that level two or a log held at a warm reset have reached memory is open: a free value for each (log 7). -/
def State.maybe (s : State) (f : State → State) : State :=
  let (n, s) := s.draw
  if (Config.freeValue n).getLsbD 0 then f s else s

/-- Bytes on their way to memory at a warm reset: published entries, then dirty sectors of level two. -/
def State.flushAtReset (s : State) : State :=
  let s := s.publishedOrder.foldl (fun s x =>
    s.maybe fun s => let l := locOf (64 * x.2.sector) x.2.comp; if l.target == .host then s else s.applyAt l x.2.mask x.2.data x.2.pois false) s
  (s.l2.filter fun x => x.dirty != 0).foldl (fun s x => s.maybe fun s => { s with mem := s.mem.writeMasked (64 * x.sector) x.dirty x.data }) s

/-- The engine history that lasts until cold reset (R328, R330, R332). -/
def CoreSt.warm (c : CoreSt) : CoreSt := { passNo := c.passNo, retired := c.retired, mmCount := c.mmCount, mmCol := c.mmCol, mmRow := c.mmRow }

/-- WARM_RESET (R447): every context ends and no token is written; device memory, the sluice, their poison and the poison records
stay. It does not recover from a trip (R431). -/
def execWarmReset (s : State) : Host.Outcome State Fault Refusal :=
  if s.dev.tripped then .next s else
  let s := s.flushAtReset
  .next { State.reset with
    dev := { State.reset.dev with form := s.dev.form, memGib := s.dev.memGib, lastWarm := true, outbox := s.dev.outbox }
    mem := s.mem, memPoison := s.memPoison, sluice := s.sluice, sluicePoison := s.sluicePoison, controllers := s.controllers
    cores := s.cores.map CoreSt.warm, inputs := s.inputs, free := s.free }

/-- COLD_RESET (R447, R419): the machine as at power-on. -/
def execColdReset (s : State) : Host.Outcome State Fault Refusal :=
  .next { State.reset with
    dev := { State.reset.dev with form := s.dev.form, memGib := s.dev.memGib, outbox := s.dev.outbox }, inputs := s.inputs, free := s.free }

/-! ### BRING_UP (R448, R449) -/

/-- The reference ticks that a cluster has counted when bring-up ends (R429): each leaves reset at a moment of its own, within the 750 ms of
R448, so that the offsets between the clusters are free (log 8). -/
def State.ticksSinceReset (s : State) (k : Nat) : DWord := BitVec.ofNat 64 ((Config.freeValue (s.free + k)).toNat % 75000001)

/-- What a cluster has counted when bring-up ends: its ticks and a number of its cycles, at most the 20 pulses of each tick, with the
governor period and the load window that they leave running (R159, R427, R430, R434; log 8). -/
def Cluster.sinceReset (c : Cluster) (tim : DWord) (free : Nat) : Cluster :=
  let cyc := free % (20 * (tim.toNat + 1))
  { c with tim := tim, cyc := BitVec.ofNat 64 cyc, power := { c.power with ticks := tim.toNat % 128, window := cyc % 4096 } }

/-- BRING_UP (R448): after it the control program runs; it fails when no image verifies or a channel fails training (R449). -/
def execBringUp (imageOk : Bool) (failed : Word) (image : CtlImage) (s : State) : Host.Outcome State Fault Refusal :=
  if !s.dev.inReset || s.dev.tripped then .next s
  else if !imageOk then .next (s.modDev fun d => { d with inReset := false, bootFail := true })
  else
    let s := s.modDev fun d => { d with inReset := false, railMv := 500 }
    if failed != 0 then .next (s.modDev fun d => { d with bootFail := true, failch := failed })
    else
      let s : State := if s.dev.lastWarm then s
        else { s with mem := [], memPoison := [], sluice := [], sluicePoison := [], controllers := List.replicate 32 {} }
      let s : State :=
        { s with clusters := s.clusters.mapIdx fun k c => c.sinceReset (s.ticksSinceReset k) (Config.freeValue (s.free + 16 + k)).toNat
                 free := s.free + 32 }
      .next ((s.startControl image image.regs).modDev fun d => { d with ready := true, warm := d.lastWarm })

/-! ### SMBus (R450) -/

/-- The HKC answers a Read Word, low byte first; after a trip it answers nothing. -/
def State.smbusAnswer (s : State) (w : Nat) : State := if s.dev.tripped then s else s.emit (.smbus (bytesOf 2 w))

/-- SMBUS_PARTNO (R450). -/
def execSmbusPartno (s : State) : Host.Outcome State Fault Refusal := .next (s.smbusAnswer 0x0960)

/-- SMBUS_TEMPERATURE (R450): the hottest sensor. -/
def execSmbusTemperature (s : State) : Host.Outcome State Fault Refusal :=
  .next (s.smbusAnswer ((s.clusters.map fun k => k.power.temp).foldl max 0))

/-- SMBUS_BOARD_POWER (R450): a measurement, free (log 7). -/
def execSmbusBoardPower (s : State) : Host.Outcome State Fault Refusal :=
  let (n, s) := s.draw
  .next (s.smbusAnswer (Config.freeValue n).toNat)

/-- SMBUS_STAT (R450): STAT[2:0]. -/
def execSmbusStat (s : State) : Host.Outcome State Fault Refusal := .next (s.smbusAnswer (s.dev.stat % 8))

/-- SMBUS_UNKNOWN_COMMAND (R450): not acknowledged. -/
def execSmbusUnknownCommand (s : State) : Host.Outcome State Fault Refusal := .next (if s.dev.tripped then s else s.emit .smbusNack)

end Sys2Proof.Machine
end

