-- ==== Sys2Proof/Machine/Dispatch.lean ====
section
/-! DEFINITION. One arm per instruction: the direct call of its meaning. -/

namespace Sys2Proof.Machine

/-- The meaning of every row of the instruction table. -/
def exec (i : Instr) (s : State) : Host.Outcome State Fault Refusal :=
  match i with
  | .nop f => Sys2Proof.Machine.execNop f s
  | .yield f => Sys2Proof.Machine.execYield f s
  | .exit f => Sys2Proof.Machine.execExit f s
  | .launch f => Sys2Proof.Machine.execLaunch f s
  | .getsr f => Sys2Proof.Machine.execGetsr f s
  | .setsr f => Sys2Proof.Machine.execSetsr f s
  | .trap f => Sys2Proof.Machine.execTrap f s
  | .brk f => Sys2Proof.Machine.execBrk f s
  | .conto f => Sys2Proof.Machine.execConto f s
  | .contc f => Sys2Proof.Machine.execContc f s
  | .conts f => Sys2Proof.Machine.execConts f s
  | .iadd f => Sys2Proof.Machine.execIadd f s
  | .iaddi f => Sys2Proof.Machine.execIaddi f s
  | .isub f => Sys2Proof.Machine.execIsub f s
  | .imul f => Sys2Proof.Machine.execImul f s
  | .imulhi f => Sys2Proof.Machine.execImulhi f s
  | .imad f => Sys2Proof.Machine.execImad f s
  | .imadw f => Sys2Proof.Machine.execImadw f s
  | .idiv f => Sys2Proof.Machine.execIdiv f s
  | .irem f => Sys2Proof.Machine.execIrem f s
  | .imin f => Sys2Proof.Machine.execImin f s
  | .imax f => Sys2Proof.Machine.execImax f s
  | .iabs f => Sys2Proof.Machine.execIabs f s
  | .ineg f => Sys2Proof.Machine.execIneg f s
  | .iadd64 f => Sys2Proof.Machine.execIadd64 f s
  | .isub64 f => Sys2Proof.Machine.execIsub64 f s
  | .imul64 f => Sys2Proof.Machine.execImul64 f s
  | .and f => Sys2Proof.Machine.execAnd f s
  | .or f => Sys2Proof.Machine.execOr f s
  | .xor f => Sys2Proof.Machine.execXor f s
  | .andn f => Sys2Proof.Machine.execAndn f s
  | .logi f => Sys2Proof.Machine.execLogi f s
  | .shl f => Sys2Proof.Machine.execShl f s
  | .shr f => Sys2Proof.Machine.execShr f s
  | .sar f => Sys2Proof.Machine.execSar f s
  | .rotl f => Sys2Proof.Machine.execRotl f s
  | .popc f => Sys2Proof.Machine.execPopc f s
  | .clz f => Sys2Proof.Machine.execClz f s
  | .brev f => Sys2Proof.Machine.execBrev f s
  | .bfe f => Sys2Proof.Machine.execBfe f s
  | .bfi f => Sys2Proof.Machine.execBfi f s
  | .lea f => Sys2Proof.Machine.execLea f s
  | .bsel f => Sys2Proof.Machine.execBsel f s
  | .icmp f => Sys2Proof.Machine.execIcmp f s
  | .sel f => Sys2Proof.Machine.execSel f s
  | .mov f => Sys2Proof.Machine.execMov f s
  | .movi f => Sys2Proof.Machine.execMovi f s
  | .movhi f => Sys2Proof.Machine.execMovhi f s
  | .plop f => Sys2Proof.Machine.execPlop f s
  | .pmov f => Sys2Proof.Machine.execPmov f s
  | .lxch f => Sys2Proof.Machine.execLxch f s
  | .pfold f => Sys2Proof.Machine.execPfold f s
  | .peer f => Sys2Proof.Machine.execPeer f s
  | .lget f => Sys2Proof.Machine.execLget f s
  | .lset f => Sys2Proof.Machine.execLset f s
  | .rtag f => Sys2Proof.Machine.execRtag f s
  | .runtag f => Sys2Proof.Machine.execRuntag f s
  | .rfree f => Sys2Proof.Machine.execRfree f s
  | .fadd f => Sys2Proof.Machine.execFadd f s
  | .fsub f => Sys2Proof.Machine.execFsub f s
  | .fmul f => Sys2Proof.Machine.execFmul f s
  | .ffma f => Sys2Proof.Machine.execFfma f s
  | .fmin f => Sys2Proof.Machine.execFmin f s
  | .fmax f => Sys2Proof.Machine.execFmax f s
  | .fdiv f => Sys2Proof.Machine.execFdiv f s
  | .fsqrt f => Sys2Proof.Machine.execFsqrt f s
  | .fcmp f => Sys2Proof.Machine.execFcmp f s
  | .fclass f => Sys2Proof.Machine.execFclass f s
  | .fscale f => Sys2Proof.Machine.execFscale f s
  | .hfma2 f => Sys2Proof.Machine.execHfma2 f s
  | .frcpa f => Sys2Proof.Machine.execFrcpa f s
  | .frsqa f => Sys2Proof.Machine.execFrsqa f s
  | .fex2a f => Sys2Proof.Machine.execFex2a f s
  | .flg2a f => Sys2Proof.Machine.execFlg2a f s
  | .dadd f => Sys2Proof.Machine.execDadd f s
  | .dsub f => Sys2Proof.Machine.execDsub f s
  | .dmul f => Sys2Proof.Machine.execDmul f s
  | .dfma f => Sys2Proof.Machine.execDfma f s
  | .dmin f => Sys2Proof.Machine.execDmin f s
  | .dmax f => Sys2Proof.Machine.execDmax f s
  | .ddiv f => Sys2Proof.Machine.execDdiv f s
  | .dsqrt f => Sys2Proof.Machine.execDsqrt f s
  | .dcmp f => Sys2Proof.Machine.execDcmp f s
  | .dclass f => Sys2Proof.Machine.execDclass f s
  | .dscale f => Sys2Proof.Machine.execDscale f s
  | .fsina f => Sys2Proof.Machine.execFsina f s
  | .fcosa f => Sys2Proof.Machine.execFcosa f s
  | .cvt f => Sys2Proof.Machine.execCvt f s
  | .qmx f => Sys2Proof.Machine.execQmx f s
  | .dqmx f => Sys2Proof.Machine.execDqmx f s
  | .xacc f => Sys2Proof.Machine.execXacc f s
  | .xrnd f => Sys2Proof.Machine.execXrnd f s
  | .xclr f => Sys2Proof.Machine.execXclr f s
  | .lred f => Sys2Proof.Machine.execLred f s
  | .bra f => Sys2Proof.Machine.execBra f s
  | .brx f => Sys2Proof.Machine.execBrx f s
  | .call f => Sys2Proof.Machine.execCall f s
  | .callx f => Sys2Proof.Machine.execCallx f s
  | .ret f => Sys2Proof.Machine.execRet f s
  | .rjset f => Sys2Proof.Machine.execRjset f s
  | .rjoin f => Sys2Proof.Machine.execRjoin f s
  | .rjdrop f => Sys2Proof.Machine.execRjdrop f s
  | .ld f => Sys2Proof.Machine.execLd f s
  | .st f => Sys2Proof.Machine.execSt f s
  | .lds f => Sys2Proof.Machine.execLds f s
  | .sts f => Sys2Proof.Machine.execSts f s
  | .ldc f => Sys2Proof.Machine.execLdc f s
  | .pref f => Sys2Proof.Machine.execPref f s
  | .acq f => Sys2Proof.Machine.execAcq f s
  | .rel f => Sys2Proof.Machine.execRel f s
  | .acqr f => Sys2Proof.Machine.execAcqr f s
  | .fence f => Sys2Proof.Machine.execFence f s
  | .fenceo f => Sys2Proof.Machine.execFenceo f s
  | .full f => Sys2Proof.Machine.execFull f s
  | .flushh f => Sys2Proof.Machine.execFlushh f s
  | .hbind f => Sys2Proof.Machine.execHbind f s
  | .hprio f => Sys2Proof.Machine.execHprio f s
  | .hdrop f => Sys2Proof.Machine.execHdrop f s
  | .atom f => Sys2Proof.Machine.execAtom f s
  | .red f => Sys2Proof.Machine.execRed f s
  | .waita f => Sys2Proof.Machine.execWaita f s
  | .puts f => Sys2Proof.Machine.execPuts f s
  | .barv f => Sys2Proof.Machine.execBarv f s
  | .barw f => Sys2Proof.Machine.execBarw f s
  | .bars f => Sys2Proof.Machine.execBars f s
  | .bart f => Sys2Proof.Machine.execBart f s
  | .barq f => Sys2Proof.Machine.execBarq f s
  | .syncb f => Sys2Proof.Machine.execSyncb f s
  | .aballoc f => Sys2Proof.Machine.execAballoc f s
  | .abfree f => Sys2Proof.Machine.execAbfree f s
  | .abfreeAll f => Sys2Proof.Machine.execAbfreeAll f s
  | .ald f => Sys2Proof.Machine.execAld f s
  | .aldSp f => Sys2Proof.Machine.execAldSp f s
  | .ast f => Sys2Proof.Machine.execAst f s
  | .astSp f => Sys2Proof.Machine.execAstSp f s
  | .azero f => Sys2Proof.Machine.execAzero f s
  | .azeroAll f => Sys2Proof.Machine.execAzeroAll f s
  | .mxi f => Sys2Proof.Machine.execMxi f s
  | .mxq f => Sys2Proof.Machine.execMxq f s
  | .cpy f => Sys2Proof.Machine.execCpy f s
  | .cpy2d f => Sys2Proof.Machine.execCpy2d f s
  | .gath f => Sys2Proof.Machine.execGath f s
  | .scat f => Sys2Proof.Machine.execScat f s
  | .sigi f => Sys2Proof.Machine.execSigi f s
  | .siga f => Sys2Proof.Machine.execSiga f s
  | .sigq f => Sys2Proof.Machine.execSigq f s
  | .sigf f => Sys2Proof.Machine.execSigf f s
  | .mlook f => Sys2Proof.Machine.execMlook f s
  | .mfill f => Sys2Proof.Machine.execMfill f s
  | .minvKey f => Sys2Proof.Machine.execMinvKey f s
  | .minvRegion f => Sys2Proof.Machine.execMinvRegion f s
  | .minvCtx f => Sys2Proof.Machine.execMinvCtx f s
  | .txsig f => Sys2Proof.Machine.execTxsig f s
  | .draw f => Sys2Proof.Machine.execDraw f s
  | .vout f => Sys2Proof.Machine.execVout f s
  | .ipa f => Sys2Proof.Machine.execIpa f s
  | .tex f => Sys2Proof.Machine.execTex f s
  | .tld f => Sys2Proof.Machine.execTld f s
  | .fout f => Sys2Proof.Machine.execFout f s
  | .mlres f => Sys2Proof.Machine.execMlres f s
  | .mlresLayer f => Sys2Proof.Machine.execMlresLayer f s
  | .mlclr f => Sys2Proof.Machine.execMlclr f s
  | .mlrd f => Sys2Proof.Machine.execMlrd f s
  | .pairedWord f => Sys2Proof.Machine.execPairedWord f s
  | .launchEnqueue core slot => Sys2Proof.Machine.execLaunchEnqueue core slot s
  | .activePositionFill core quarter => Sys2Proof.Machine.execActivePositionFill core quarter s
  | .dependenceResolved core slot => Sys2Proof.Machine.execDependenceResolved core slot s
  | .launchRetirement lnum => Sys2Proof.Machine.execLaunchRetirement lnum s
  | .loadReturn core slot op => Sys2Proof.Machine.execLoadReturn core slot op s
  | .faultRecordWrite cluster => Sys2Proof.Machine.execFaultRecordWrite cluster s
  | .pageWalk core space va => Sys2Proof.Machine.execPageWalk core space va s
  | .logFullRelease core slot => Sys2Proof.Machine.execLogFullRelease core slot s
  | .logPinnedRelief core => Sys2Proof.Machine.execLogPinnedRelief core s
  | .promotionRequest core slot target => Sys2Proof.Machine.execPromotionRequest core slot target s
  | .publicationGrant core => Sys2Proof.Machine.execPublicationGrant core s
  | .earlyPublication core entry => Sys2Proof.Machine.execEarlyPublication core entry s
  | .fulling core => Sys2Proof.Machine.execFulling core s
  | .entryApply core entry => Sys2Proof.Machine.execEntryApply core entry s
  | .acquireWaitEnd core slot => Sys2Proof.Machine.execAcquireWaitEnd core slot s
  | .l1Eviction core sector => Sys2Proof.Machine.execL1Eviction core sector s
  | .l1PartitionChange core => Sys2Proof.Machine.execL1PartitionChange core s
  | .l2Eviction slice line => Sys2Proof.Machine.execL2Eviction slice line s
  | .superblockCompression slice block frames => Sys2Proof.Machine.execSuperblockCompression slice block frames s
  | .atomicAtHome core slot op => Sys2Proof.Machine.execAtomicAtHome core slot op s
  | .atomicUnitWriteback unit space => Sys2Proof.Machine.execAtomicUnitWriteback unit space s
  | .atomReturn core slot op => Sys2Proof.Machine.execAtomReturn core slot op s
  | .waitMonitorNotice cluster entry => Sys2Proof.Machine.execWaitMonitorNotice cluster entry s
  | .waitaTimedRecheck core slot => Sys2Proof.Machine.execWaitaTimedRecheck core slot s
  | .putsPayloadRead core slot op => Sys2Proof.Machine.execPutsPayloadRead core slot op s
  | .putsLanding bar off payload flag => Sys2Proof.Machine.execPutsLanding bar off payload flag s
  | .redArrival core slot op => Sys2Proof.Machine.execRedArrival core slot op s
  | .aballocGrant core => Sys2Proof.Machine.execAballocGrant core s
  | .matrixPass core badCol => Sys2Proof.Machine.execMatrixPass core badCol s
  | .tfuFetch core => Sys2Proof.Machine.execTfuFetch core s
  | .mxiCompletion core => Sys2Proof.Machine.execMxiCompletion core s
  | .copyCompletion core => Sys2Proof.Machine.execCopyCompletion core s
  | .peatPartitionChange cluster => Sys2Proof.Machine.execPeatPartitionChange cluster s
  | .battSave core slot => Sys2Proof.Machine.execBattSave core slot s
  | .preemptComplete ctx => Sys2Proof.Machine.execPreemptComplete ctx s
  | .drawStart lnum => Sys2Proof.Machine.execDrawStart lnum s
  | .vertexCacheValidate lnum => Sys2Proof.Machine.execVertexCacheValidate lnum s
  | .triangleBin lnum => Sys2Proof.Machine.execTriangleBin lnum s
  | .tileRender lnum tile => Sys2Proof.Machine.execTileRender lnum tile s
  | .fragmentCommit lnum => Sys2Proof.Machine.execFragmentCommit lnum s
  | .passRetirement lnum => Sys2Proof.Machine.execPassRetirement lnum s
  | .setroot tgt => Sys2Proof.Machine.execSetroot tgt s
  | .tlbinv tgt => Sys2Proof.Machine.execTlbinv tgt s
  | .setsave tgt => Sys2Proof.Machine.execSetsave tgt s
  | .preempt tgt => Sys2Proof.Machine.execPreempt tgt s
  | .restore tgt => Sys2Proof.Machine.execRestore tgt s
  | .kill tgt => Sys2Proof.Machine.execKill tgt s
  | .peatsize tgt => Sys2Proof.Machine.execPeatsize tgt s
  | .retire tgt => Sys2Proof.Machine.execRetire tgt s
  | .engstat tgt => Sys2Proof.Machine.execEngstat tgt s
  | .ctlload image => Sys2Proof.Machine.execCtlload image s
  | .trapRelease window slot => Sys2Proof.Machine.execTrapRelease window slot s
  | .resumeAtWord window slot => Sys2Proof.Machine.execResumeAtWord window slot s
  | .resumePastWord window slot => Sys2Proof.Machine.execResumePastWord window slot s
  | .trapKill window => Sys2Proof.Machine.execTrapKill window s
  | .twnewClear window bits => Sys2Proof.Machine.execTwnewClear window bits s
  | .faultRetry cluster slot => Sys2Proof.Machine.execFaultRetry cluster slot s
  | .faultToTrap cluster slot => Sys2Proof.Machine.execFaultToTrap cluster slot s
  | .fbnewClear cluster bits => Sys2Proof.Machine.execFbnewClear cluster bits s
  | .stepmaxWrite cluster value => Sys2Proof.Machine.execStepmaxWrite cluster value s
  | .registerWrite off size value => Sys2Proof.Machine.execRegisterWrite off size value s
  | .bar2HostRead off len => Sys2Proof.Machine.execBar2HostRead off len s
  | .bar2HostWrite off bytes ep => Sys2Proof.Machine.execBar2HostWrite off bytes ep s
  | .bar4HostRead off len => Sys2Proof.Machine.execBar4HostRead off len s
  | .bar4HostWrite off bytes ep => Sys2Proof.Machine.execBar4HostWrite off bytes ep s
  | .hostAtomicop bar off op wide value compare => Sys2Proof.Machine.execHostAtomicop bar off op wide value compare s
  | .hostRequestError req => Sys2Proof.Machine.execHostRequestError req s
  | .vblankLatch head => Sys2Proof.Machine.execVblankLatch head s
  | .displayHotplug head vec linkRate => Sys2Proof.Machine.execDisplayHotplug head vec linkRate s
  | .governorPeriod cluster used slackUp => Sys2Proof.Machine.execGovernorPeriod cluster used slackUp s
  | .stepTakesEffect cluster => Sys2Proof.Machine.execStepTakesEffect cluster s
  | .droopOnset cluster => Sys2Proof.Machine.execDroopOnset cluster s
  | .droopRecovery cluster => Sys2Proof.Machine.execDroopRecovery cluster s
  | .currentLimit cluster => Sys2Proof.Machine.execCurrentLimit cluster s
  | .temperatureBandChange cluster temp => Sys2Proof.Machine.execTemperatureBandChange cluster temp s
  | .railTrim slacks => Sys2Proof.Machine.execRailTrim slacks s
  | .loadWindow cluster real => Sys2Proof.Machine.execLoadWindow cluster real s
  | .uncorrectableError site => Sys2Proof.Machine.execUncorrectableError site s
  | .bringUp imageOk failed image => Sys2Proof.Machine.execBringUp imageOk failed image s
  | .minvStoreApply cluster => Sys2Proof.Machine.execMinvStoreApply cluster s
  | .scanoutFrameStart head => Sys2Proof.Machine.execScanoutFrameStart head s
  | .dispatchCycle => Sys2Proof.Machine.execDispatchCycle s
  | .trapRecordWrite => Sys2Proof.Machine.execTrapRecordWrite s
  | .unknownOp => Sys2Proof.Machine.execUnknownOp s
  | .commandComplete => Sys2Proof.Machine.execCommandComplete s
  | .lostClear => Sys2Proof.Machine.execLostClear s
  | .wdkick => Sys2Proof.Machine.execWdkick s
  | .bar0BadAccess => Sys2Proof.Machine.execBar0BadAccess s
  | .fabricStepEval => Sys2Proof.Machine.execFabricStepEval s
  | .thermalTrip => Sys2Proof.Machine.execThermalTrip s
  | .watchdogLapse => Sys2Proof.Machine.execWatchdogLapse s
  | .correctableError => Sys2Proof.Machine.execCorrectableError s
  | .warmReset => Sys2Proof.Machine.execWarmReset s
  | .coldReset => Sys2Proof.Machine.execColdReset s
  | .smbusPartno => Sys2Proof.Machine.execSmbusPartno s
  | .smbusTemperature => Sys2Proof.Machine.execSmbusTemperature s
  | .smbusBoardPower => Sys2Proof.Machine.execSmbusBoardPower s
  | .smbusStat => Sys2Proof.Machine.execSmbusStat s
  | .smbusUnknownCommand => Sys2Proof.Machine.execSmbusUnknownCommand s
  | .hkcFirmwareUpdate => Sys2Proof.Machine.execHkcFirmwareUpdate s

end Sys2Proof.Machine
end

