-- ==== Sys2Proof/Machine/Sched.lean ====
section
/-! DEFINITION. What moves next (log 1): the head of the inputs, or the default order: a step of the device that is due, then a
placement (R118), then an issue (R121 to R123). -/

namespace Sys2Proof.Machine

/-- What a step comes to: an instruction to execute, or a state in which the step has ended. -/
inductive Pick where
  | exec (i : Instr) (s : State)
  | ended (s : State)
  deriving DecidableEq, Repr

/-- Does the device take an event in this state? After a trip only a cold reset (R431); before READY only what concerns the HKC
and the host port (R448, R449). -/
def State.admits (s : State) (i : Instr) : Bool :=
  if s.dev.tripped then (match i with | .coldReset => true | _ => false)
  else if s.dev.ready then true
  else match i with
    | .coldReset | .warmReset | .bringUp _ _ _ | .thermalTrip | .hkcFirmwareUpdate | .smbusPartno | .smbusTemperature | .smbusBoardPower
    | .smbusStat | .smbusUnknownCommand | .registerWrite _ _ _ | .bar0BadAccess | .bar2HostRead _ _ | .bar2HostWrite _ _ _
    | .bar4HostRead _ _ | .bar4HostWrite _ _ _ | .hostAtomicop _ _ _ _ _ _ | .putsLanding _ _ _ _ => true
    | _ => false

/-- Is it a step of the device or its host, not a word of a batt? A word is encoded (R59), an event is not. -/
def isEvent (i : Instr) : Bool := (encode i).isNone

/-- The position of a slot in its quarter's active set. -/
def State.positionOf (s : State) (core slot : Nat) : Nat :=
  (findIdx (fun x => x == some slot) (s.quarter core (quarterOfSlot slot)).active 0).getD 0

/-- An issue slot takes one batt a cycle (R123): before a second issue of a quarter time passes until its cluster's next cycle (log 8). -/
def State.beginIssue (s : State) (core slot : Nat) : State :=
  let k := clusterOf core
  let s := if (s.quarter core (quarterOfSlot slot)).issuedAt == some (s.cluster k).cyc
    then s.untilCycle k 32 else s
  s.modQuarter core (quarterOfSlot slot) fun q => { q with lastIssued := s.positionOf core slot, issuedAt := some (s.cluster k).cyc }

/-- The batts in the order in which a quarter offers them an issue: after the position that issued last (R123). -/
def Quarter.offered (q : Quarter) : List Nat := (List.range 8).filterMap fun i => q.active.getD ((q.lastIssued + 1 + i) % 8) none

/-- The batt that the issue slot of a quarter takes: the first ready one in active-position order (R123). `stalled` are the batts that an
operation latency or a bank conflict stalls in place in this cycle (R122), which the schedule names (log 1). -/
def State.nextIssuer (s : State) (core q : Nat) (stalled : List Nat) : Option Nat :=
  (s.quarter core q).offered.find? fun slot => !stalled.contains slot && (s.batt? core slot).any s.canIssue

/-- The active batts of a list whose turn-holding split meets a long-latency dependence leave the active set (R121, R122); one whose
context is being pre-empted comes to rest where R129 says so. -/
def State.sweep (s : State) (bs : List Batt) : State :=
  bs.foldl (fun s b =>
    if s.isActive b.core b.slot && s.meetsLong b then
      let s := s.leaveActive b.core b.slot
      if b.space != 16 && (s.ctx b.space).ctxst == 1 then s.restNow b else s
    else s) s

/-- The batts of a quarter. -/
def State.quarterBatts (s : State) (core q : Nat) : List Batt := s.batts.filter fun b => b.core == core && quarterOfSlot b.slot == q

/-- An issue slot takes a batt (R121, R123), once the batts of its quarter that wait have left the active set: the front end fetches and
decodes the word of its turn-holding split. A batt of a context that is being pre-empted comes to rest at the first issue boundary
that allows it (R129). -/
def State.issueAt (s : State) (core slot : Nat) (ch : Choice) : Pick :=
  match s.batt? core slot with
  | none => .ended s
  | some b =>
    if !s.answers then .ended s else
    let s := s.sweep (s.quarterBatts core (quarterOfSlot slot))
    if s.nextIssuer core (quarterOfSlot slot) ch.stalled != some slot then .ended s else
    let go : Pick :=
      let s : State := { s with cur := (core, slot), choice := ch }
      match (s.beginIssue core slot).frontEnd with
      | .noIssuer => .ended s
      | .ended s => .ended s
      | .run i s => .exec i s
    if b.space != 16 && (s.ctx b.space).ctxst == 1 then
      match s.atRest b with
      | .bad c a => .ended (s.killUnreadable b.space c a)
      | .ok true => .ended (s.modBatt core slot fun b => { b with resting := true })
      | .ok false => go
    else go

/-- Time passes on the master clock (R427, R429). -/
def State.elapse (s : State) (n : Nat) : State := if s.answers then s.pulses n else s

/-- The host resizes BAR 2, from 256 MiB to 256 GiB (R437, R438). -/
def State.resizeBar (s : State) (bits : Nat) : State :=
  if s.dev.tripped || bits < 28 || 38 < bits then s else s.modDev fun d => { d with bar2Size := 2 ^ bits }

/-- The host reads an entry of a peat store, header and payload, for diagnosis (R353); through which address the manual does not say, so it
is an input of its own (log 93). -/
def State.peatRead (s : State) (cluster entry : Nat) : State :=
  if !s.answers then s else
  match (s.cluster cluster).peat[entry]? with
  | some e => s.emit (.completion e.bytes false)
  | none => s

/-! ### The default order -/

/-- Steps that an outstanding operation of a batt may take. -/
def opSteps (b : Batt) (o : Op) : List Instr :=
  match o.instr with
  | .ld _ | .ldc _ | .tex _ | .tld _ | .mlres _ | .mlresLayer _ | .mlrd _ => [.loadReturn b.core b.slot o.id]
  | .atom _ => [.atomicAtHome b.core b.slot o.id, .atomReturn b.core b.slot o.id]
  | .red _ => [.atomicAtHome b.core b.slot o.id, .redArrival b.core b.slot o.id]
  | .puts _ => [.putsPayloadRead b.core b.slot o.id]
  | .acq _ => [.acquireWaitEnd b.core b.slot]
  | .acqr _ => .acquireWaitEnd b.core b.slot :: (List.range 128).map fun c => .promotionRequest b.core b.slot c
  | _ => []

/-- Steps that concern a batt. -/
def State.battSteps (s : State) (b : Batt) : List Instr :=
  (if b.trapped.isEmpty then [] else [.trapRecordWrite]) ++ (b.ops.map (opSteps b)).flatten ++
  (match b.wait with | .launch _ _ => [.launchEnqueue b.core b.slot] | _ => []) ++
  (if b.space != 16 && (s.ctx b.space).ctxst == 1 then [.battSave b.core b.slot] else []) ++
  (if s.isActive b.core b.slot || s.isQueued b.core b.slot then [] else
   (if b.free && s.storeStalls b then [.logFullRelease b.core b.slot] else []) ++ [.dependenceResolved b.core b.slot])

/-- Steps that concern a core. -/
def coreSteps (i : Nat) (c : CoreSt) : List Instr :=
  (if c.pubQueue.isEmpty then [] else [.publicationGrant i]) ++ (if c.bankQueue.isEmpty then [] else [.aballocGrant i]) ++
  (if c.mxiq.isEmpty then [] else [.tfuFetch i, .matrixPass i none, .mxiCompletion i]) ++ (if c.copyq.isEmpty then [] else [.copyCompletion i]) ++
  (c.quarters.mapIdx fun q x => if x.ready.isEmpty then [] else [.activePositionFill i q]).flatten

/-- Steps that concern a cluster. -/
def clusterSteps (i : Nat) (k : Cluster) : List Instr :=
  (if k.minvPending.isEmpty then [] else [.minvStoreApply i]) ++ (if k.peatPending.isNone then [] else [.peatPartitionChange i]) ++
  (if k.faultWaiting.isEmpty then [] else [.faultRecordWrite i]) ++
  (k.monitors.mapIdx fun j m => if m.noticed then [.waitMonitorNotice i j] else []).flatten

/-- Steps that concern a launch: those of its pass (R377), and its retirement (R114). -/
def launchSteps (l : Launch) : List Instr :=
  (match l.pass with
   | none => []
   | some p => [.drawStart l.lnum, .vertexCacheValidate l.lnum, .triangleBin l.lnum, .fragmentCommit l.lnum] ++
       (List.range p.tiles.length).map (fun t => .tileRender l.lnum t) ++ [.passRetirement l.lnum]) ++
  (if l.finished then [.launchRetirement l.lnum] else [])

/-- The steps of the device that may be due, in the order in which they are tried. -/
def State.dueSteps (s : State) : List Instr :=
  (if s.dev.busy then [.commandComplete] else []) ++ (s.batts.map s.battSteps).flatten ++ (s.cores.mapIdx coreSteps).flatten ++
  (s.clusters.mapIdx clusterSteps).flatten ++ (s.launches.map launchSteps).flatten ++
  (List.range 16).filterMap fun c => if (s.ctx c).ctxst == 1 then some (.preemptComplete c) else none

/-- Would the step change the state? -/
def State.changes (s : State) (i : Instr) : Bool :=
  match exec i s with
  | .next t => t != s
  | _ => true

/-- The first batt that can issue, by core and quarter; `fresh`: among the quarters that have not issued in this cycle. -/
def State.firstIssue (s : State) (fresh : Bool) : Option (Nat × Nat) :=
  (List.range s.cores.length).findSome? fun c =>
    let now := (s.cluster (clusterOf c)).cyc
    (List.range 4).findSome? fun q =>
      if fresh && (s.quarter c q).issuedAt == some now then none else (s.nextIssuer c q []).map fun slot => (c, slot)

/-- The default order (log 1): when every quarter that can issue has issued in its cluster's cycle, a pulse passes. -/
def State.defaultPick (s : State) : Pick :=
  if !s.answers then .ended s else
  match s.dueSteps.find? s.changes with
  | some i => .exec i s
  | none =>
    if s.startLaunches.dispatchPick.isSome then .exec .dispatchCycle s
    else if (s.batts.any fun b => s.isActive b.core b.slot && s.meetsLong b) then .ended (s.sweep s.batts)
    else match s.firstIssue true with
      | some (c, slot) => s.issueAt c slot {}
      | none => if (s.firstIssue false).isSome then .ended s.onePulse else .ended s

/-- What moves next: the head of the inputs, or the default order. -/
def State.pick (s : State) : Pick :=
  match s.inputs with
  | [] => s.defaultPick
  | x :: rest =>
    let s : State := { s with inputs := rest }
    match x with
    | .event i => if isEvent i && s.admits i then .exec i s else .ended s
    | .issue core slot ch => if s.dev.tripped then .ended s else s.issueAt core slot ch
    | .elapse n => .ended (s.elapse n)
    | .hkcWrite k o v => .ended (s.hkcWrite k o v)
    | .resizeBar n => .ended (s.resizeBar n)
    | .peatRead k i => .ended (s.peatRead k i)

/-- After a word, the batt that issued it comes to rest if its context is being pre-empted and this issue boundary allows it (R129). -/
def State.afterWord (s : State) (i : Instr) : State :=
  if isEvent i then s else
  match s.batt? s.cur.1 s.cur.2 with
  | some b => if b.space != 16 && (s.ctx b.space).ctxst == 1 then s.restNow b else s
  | none => s

end Sys2Proof.Machine
end

