-- ==== Sys2Proof/Machine/Step.lean ====
section
/-! DEFINITION. One step of the machine, and the placement of a word for the next step. -/

namespace Sys2Proof.Machine

/-- One step: what moves next is executed (log 1). -/
def step (s : State) : Host.Outcome State Fault Refusal :=
  match s.pick with
  | .ended t => .next t
  | .exec i t =>
    match exec i t with
    | .next u => .next (u.afterWord i)
    | r => r

/-- A machine that is brought up and whose next step fetches and runs the word (log 10): the least significant byte stands at the
lowest address (R59). -/
def State.withFetchWord (s : State) (_nbits w : Nat) : State := s.placeWord (bytesOf 8 w)

end Sys2Proof.Machine
end

