-- ==== Sys2Proof/Safety.lean ====
section
/-! DEFINITION. What statements about runs and about single words are written in: a step that answers, the issue of a word that
nothing hinders, what follows a word that completes, and the invariant of memory. -/

namespace Sys2Proof.Machine

/-- The step answers a next state. -/
def State.Answers (s : State) : Prop := ∃ t, step s = .next t

/-- Device memory and the sluice SRAM are in canonical form. -/
def State.MemOk (s : State) : Prop := s.mem.wf = true ∧ s.sluice.wf = true

/-- The issuing batt in a state. -/
def Iss.at (x : Iss) (s : State) : Batt := s.battAt x.core x.slot

/-- A change of the issuing batt. -/
def Iss.set (x : Iss) (s : State) (f : Batt → Batt) : State := s.modBatt x.core x.slot f

/-- The issue of a word that takes its own effect: the batt of `cur` has the turn and waits for nothing (R121, R124, R125, R276),
the word's registers are prepared (R154), its guard holds where it must (R65), no report of an engine operation is pending for it
(R329, R367), its region allows it (R349, R350) and no operand is poisoned (R417). It gives the issue, the number of splits among
which the turn passes, and the state in which the word executes. -/
def State.clear (s : State) (i : Instr) : Option (Iss × Nat × State) :=
  match issueWord i s with
  | .go x n t =>
    if (x.active = 0 && !isPaired i) || (scalarForm i && !inMask x.active x.low) ||
       ((x.active != 0) && ((x.at t).deferred.any fun d => t.touchesReport (x.at t) i x.active d)) ||
       !(t.impure (x.at t) i x.pc x.active).isEmpty || !(operandPoison (x.at t) i x.split x.active).isEmpty then none
    else some (x, n, t)
  | _ => none

/-- The issue of a word whose guard holds in no lane of its split, or of a word that executes once and whose guard fails in the
lowest lane (R65), where no report is pending for it. -/
def State.guardedOff (s : State) (i : Instr) : Option (Iss × Nat × State) :=
  match issueWord i s with
  | .go x n t =>
    if !isPaired i && (x.active = 0 || (scalarForm i && !inMask x.active x.low &&
        !((x.at t).deferred.any fun d => t.touchesReport (x.at t) i x.active d))) then some (x, n, t) else none
  | _ => none

/-- What follows a word that completes: the purity set (R349), the lanes of the split advance by 8 (R215), the turn is counted
(R125). -/
def wordDone (x : Iss) (n : Nat) (u : State) : State := finishWord x n (.done u) u

/-- What follows a word that has moved its lanes itself: the purity set and the turn. -/
def wordMoved (x : Iss) (n : Nat) (u : State) : State := finishWord x n (.moved u) u

/-- What follows a word that waits: the purity set, and the batt leaves the active set (R121). -/
def wordWaits (x : Iss) (n : Nat) (u : State) : State := finishWord x n (.wait u) u

/-- A word traps with these causes (R404); its issue has counted for its turn (R125). -/
def wordTraps (x : Iss) (n : Nat) (lanes : List LaneCause) (u : State) : State :=
  (x.counted n u).takeTrap x.core x.slot x.word x.pc x.split 0 lanes

/-- Wherever the word issues clear and the condition holds, it completes with the effect. -/
def WordDoes (i : Instr) (c : Iss → State → Prop) (e : Iss → State → State) : Prop :=
  ∀ s x n t, s.clear i = some (x, n, t) → c x t → exec i s = .next (wordDone x n (e x t))

/-- The same for a word that moves its lanes itself. -/
def WordMoves (i : Instr) (c : Iss → State → Prop) (e : Iss → State → State) : Prop :=
  ∀ s x n t, s.clear i = some (x, n, t) → c x t → exec i s = .next (wordMoved x n (e x t))

/-- The same for a word that comes to wait. -/
def WordWaits (i : Instr) (c : Iss → State → Prop) (e : Iss → State → State) : Prop :=
  ∀ s x n t, s.clear i = some (x, n, t) → c x t → exec i s = .next (wordWaits x n (e x t))

/-- Wherever the word issues clear and the condition holds, it traps with these causes, in the state in which it executes. -/
def WordTraps (i : Instr) (c : Iss → State → Prop) (l : Iss → State → List LaneCause) : Prop :=
  ∀ s x n t, s.clear i = some (x, n, t) → c x t → exec i s = .next (wordTraps x n (l x t) t)

/-- The same, in a state that the word has changed before it traps: what a load has brought into the caches, for one. -/
def WordTrapsIn (i : Instr) (c : Iss → State → Prop) (e : Iss → State → State) (l : Iss → State → List LaneCause) : Prop :=
  ∀ s x n t, s.clear i = some (x, n, t) → c x t → exec i s = .next (wordTraps x n (l x t) (e x t))

/-- Wherever the word issues clear and the condition holds, it does not execute yet: it issues again later, in or out of the active
set (R122). -/
def WordStalls (i : Instr) (long : Bool) (c : Iss → State → Prop) : Prop :=
  ∀ s x n t, s.clear i = some (x, n, t) → c x t → exec i s = .next (if long then t.leaveActive x.core x.slot else t)

/-- The lane function and destination of every word that computes lane by lane. -/
def laneWord (i : Instr) : Option (LaneFn × AluDst) :=
  match i with
  | .sel f => some (laneSel f, f.dst (f.mb 0))
  | .dqmx f => some (laneDqmx f, .v f.d.toNat)
  | i => aluOf i

/-- The lane function, U and predicate of every comparison (R183, R193). -/
def cmpWord (i : Instr) : Option (LaneFn × Bool × Nat) :=
  match i with
  | .icmp f => some (laneIcmp f, f.u, f.d.toNat)
  | .fcmp f => some (laneFcmp f, false, f.d.toNat)
  | .dcmp f => some (laneDcmp f, false, f.d.toNat)
  | _ => none

/-- Every lane's checks passed, with these accesses. -/
def Passed (rs : List LaneRes) (accs : List LaneAcc) : Prop := rs = accs.map LaneRes.ok

/-- Nothing but the batts differs between two states, and of them only the one at a place. -/
def OnlyBatt (core slot : Nat) (s u : State) : Prop :=
  u = { s with batts := u.batts } ∧ ∀ c n, (c, n) ≠ (core, slot) → u.batt? c n = s.batt? c n

/-- What a destination holds in a lane, as a number. -/
def Batt.dstAt (b : Batt) (d : AluDst) (l : Nat) : Nat :=
  match d with
  | .v n => (b.v n l).toNat
  | .w n => (b.w n l).toNat
  | .s n => (b.s n).toNat
  | .p n => if inMask (b.p n) l then 1 else 0

/-- The width of a destination in bits. -/
def AluDst.width : AluDst → Nat
  | .v _ => 32
  | _ => 64

/-- Vector registers of a destination. -/
def AluDst.vectors : AluDst → List Nat
  | .v n => [n]
  | .w n => [n, n + 1]
  | _ => []

/-- The scalar of a destination. -/
def AluDst.scalar : AluDst → Option Nat
  | .s n => some n
  | _ => none

/-- Wherever the word issues clear, it completes, and each of its lanes (the lowest one alone for a scalar destination) then reads
this value of the old registers at its destination; a scalar destination is one of the batt's scalars (R142). -/
def LaneResult (i : Instr) (d : AluDst) (v : Batt → Nat → Nat) : Prop :=
  ∀ s x n t, s.clear i = some (x, n, t) → (∀ k, d = .s k → k < (x.at t).scalars.length) →
    ∃ u b', exec i s = .next u ∧ u.batt? x.core x.slot = some b' ∧
      ∀ l, l < 32 → inMask (resultLanes d x) l = true → b'.dstAt d l = v (x.at t) l

/-- The same for a floating word where no enabled exception arises in a lane (R199): each lane of the result mask then holds this
result at its destination, and FPSR has gained the flags of those lanes. -/
def FloatResult (i : Instr) (d : AluDst) (r : Batt → Nat → FRes) : Prop :=
  ∀ s x n t, s.clear i = some (x, n, t) → (∀ k, d = .s k → k < (x.at t).scalars.length) →
    (∀ l, l < 32 → inMask (resultLanes d x) l = true → (r (x.at t) l).traps (x.at t).fpcr = false) →
    ∃ u b', exec i s = .next u ∧ u.batt? x.core x.slot = some b' ∧
      (∀ l, l < 32 → inMask (resultLanes d x) l = true → b'.dstAt d l = (r (x.at t) l).bits % 2 ^ d.width) ∧
      b'.fpsr = (x.at t).fpsr ||| BitVec.ofNat 32 ((lanesOf (resultLanes d x)).foldl (fun acc l => acc ||| (r (x.at t) l).flags) 0)

/-- The lanes that failed a check, with the cause, whether it is replayable, and the level of the walk. -/
def laneBads (rs : List LaneRes) : List (LaneCause × Bool × Nat) :=
  rs.filterMap fun r => match r with | .bad c rep lv => some (c, rep, lv) | _ => none

/-- The report of lanes that fail a check (R266, R267): where one failure is not replayable, a trap that names every failing lane with
its own cause; where every one is, a fault that names them, with the access and with the level of a failure of the lowest address. The
word may have changed the state before it reports: what walking a list has brought into the caches, for one. -/
def LanesReport (i : Instr) (access : Nat) (c : Iss → State → Prop) (rs : Iss → State → List LaneRes)
    (e : Iss → State → State := fun _ t => t) : Prop :=
  WordTrapsIn i (fun x t => c x t ∧ ∃ b ∈ laneBads (rs x t), b.2.1 = false) e (fun x t => (laneBads (rs x t)).map (·.1)) ∧
  ∀ s x n t, s.clear i = some (x, n, t) → c x t → laneBads (rs x t) ≠ [] → (∀ b ∈ laneBads (rs x t), b.2.1 = true) →
    ∃ b ∈ laneBads (rs x t), (∀ y ∈ laneBads (rs x t), b.1.faddr.toNat ≤ y.1.faddr.toNat) ∧
      exec i s = .next ((e x t).takeFault x.core x.slot x.word x.pc ((laneBads (rs x t)).map (·.1)) access b.2.2 false 0)

/-- The report of one address or range that fails its checks: every active lane is named, by a fault where the failure is a replayable
translation and by a trap elsewhere (R112, R290, R292, R369). -/
def OneReport (i : Instr) (access : Nat) (c : Iss → State → Prop) (r : Iss → State → LaneRes) : Prop :=
  ∀ s x n t k rep lv, s.clear i = some (x, n, t) → c x t → r x t = .bad k rep lv →
    exec i s = .next (if rep then t.takeFault x.core x.slot x.word x.pc (causesOf x.active cXLAT k.faddr) access lv false 0
      else wordTraps x n (causesOf x.active k.cause k.faddr) t)

/-- The report of pages that an engine may not use (R318 check 7, R336 check 5): a fault where every failing page is replayable, else a
trap by the first class in their order, each at its lowest address. -/
def PagesReport (i : Instr) (c : Iss → State → Prop) (fails : Iss → State → List PageFail) : Prop :=
  ∀ s x n t, s.clear i = some (x, n, t) → c x t → fails x t ≠ [] →
    ∃ p ∈ fails x t, (∀ q ∈ fails x t, p.cls < q.cls ∨ (p.cls = q.cls ∧ p.addr ≤ q.addr)) ∧
      exec i s = .next (if (fails x t).all (·.cls == 1)
        then t.takeFault x.core x.slot x.word x.pc (causesOf x.active cXLAT (BitVec.ofNat 64 p.addr)) 3 p.level false 0
        else wordTraps x n (causesOf x.active p.cause (BitVec.ofNat 64 p.addr)) t)

/-- The checks of a descriptor of n bytes at a scalar's address, aligned to al bytes, in their order (R369, R400): ALIGN, then its pages,
then POISON at its first poisoned byte, once the reads have brought level two its sectors, then FMTDIV where it is malformed, with the
fault address that the word's rule states, or 0 (R407). -/
def DescriptorReport (i : Instr) (access al n : Nat) (a fmtAddr : Iss → State → DWord) (good : Iss → State → List Byte → Bool) : Prop :=
  let look (x : Iss) (t : State) : LaneRes := t.checkObject x.core (x.at t).space 0 (a x t) n fun _ _ => 0
  WordTraps i (fun x t => (a x t).toNat % al ≠ 0) (fun x t => causesOf x.active cALIGN (a x t)) ∧
  OneReport i access (fun x t => (a x t).toNat % al = 0) look ∧
  ∀ acc,
    let bytes (x : Iss) (t : State) : List (Byte × Bool) := (t.objectReads x.core (x.at t).space (a x t) n).loadBytes x.core x.slot 0 acc
    (∀ k, WordTraps i (fun x t => (a x t).toNat % al = 0 ∧ look x t = .ok acc ∧ findIdx (·.2) (bytes x t) 0 = some k)
      (fun x t => causesOf x.active cPOISON (a x t + BitVec.ofNat 64 k))) ∧
    WordTraps i (fun x t => (a x t).toNat % al = 0 ∧ look x t = .ok acc ∧ (∀ p ∈ bytes x t, p.2 = false) ∧
        good x t ((bytes x t).map (·.1)) = false)
      (fun x t => causesOf x.active cFMTDIV (fmtAddr x t))

/-- What the model names things by is unambiguous: the positions of a core's log rise, below the next one; level two holds a sector of a
slice once; one batt stands at a place. -/
def State.KeysOk (s : State) : Prop :=
  (∀ c ∈ s.cores, (c.log.map (·.pos)).Pairwise (· < ·) ∧ ∀ e ∈ c.log, e.pos < c.nextPos) ∧
  (s.l2.map fun x => (x.slice, x.sector)).Nodup ∧ (s.batts.map fun b => (b.core, b.slot)).Nodup

end Sys2Proof.Machine
end

