-- ==== Sys2Proof/Certificates/Slice0/Obligations.lean ====
section
/-! DEFINITION. The statements for the provers. -/

open Sys2Proof Sys2Proof.Machine

/-! ### Words and steps -/

/-- Decoding the word of a well-formed instruction gives the instruction back, every operand at every value (R59 to R80). -/
def Obligations.DecodeOfEncode : Prop := ∀ i w, wellFormed i = true → encode i = some w → decode w = some i

/-- Every word that decodes is the word of the instruction it decodes to, and that instruction is well-formed: no bit of a legal word
is ignored, and no two words decode to one instruction (R59, R60, R80). -/
def Obligations.EncodeOfDecode : Prop := ∀ w i, decode w = some i → wellFormed i = true ∧ encode i = some w

/-- Example words of the manual decode to what they stand for. -/
def Obligations.ExampleWordsDecode : Prop :=
  decode 0x0370000000000005 = some (.trap { mod := 5 }) ∧
  decode 0x0470000280000000 = some (.conto { a := 5 }) ∧
  decode 0x0870080200A00400 = some (.iadd { d := 4, a := 4, b := 5, u := true }) ∧
  decode 0x08F00E0380000064 = some (.iaddi { d := 7, a := 7, imm := 100 }) ∧
  decode 0x1AF0020100600008 = some (.plop { d := 1, a := 2, b := 3, mod := 8 }) ∧
  decode 0x29F0100100803008 = some (.dfma { d := 8, a := 2, b := 4, c := 6, mod := 8 }) ∧
  decode 0x407014047FE01002 = some (.ld { d := 10, a := 8, ofs := 16, wd := 2 }) ∧
  decode 0x40F007E201000002 = some (.st { d := 3, a := 0x3C4, ix := 8, wd := 2 }) ∧
  decode 0x51F0010000C00001 = some (.bart { a := 0x200, b := 6, mod := 1 }) ∧
  decode 0x59F00E0580000002 = some (.ast { d := 7, a := 11, mod := 2 }) ∧
  decode 0x6070 = none

/-- Every step from every state answers a next state: no word, event or schedule ends in a fault or a refusal. -/
def Obligations.StepAnswers : Prop := ∀ s : State, s.Answers

/-- An issue of the next input: the batts of its quarter that meet a long-latency dependence leave the active set (R121, R122); then,
where the batt that the input names is the one that R123 takes among those not stalled in this cycle, and its turn-holder's word is
fetched and decodes to i, the step is exec of i, in the state with the issuer noted, its quarter's last position and cycle set, and the
word kept in the instruction cache and the entries of its pure region's table read through level two (R236, R347, R461), followed by the
rest of a batt that is being pre-empted (R79, R129): such a batt issues only where it may not rest yet, and where it may it rests instead; a
table that cannot be read for this kills its context (R461). A quarter that has issued in this
cycle finds its cluster one cycle on (R123; that time passes so is the model's choice, log 8). Where R123 takes another batt, nothing
issues. A step whose next input is an event that the device takes runs that event (log 1). -/
def Obligations.StepRunsTheDecodedInstruction : Prop :=
  (∀ (s : State) core slot ch rest b b0 low n w loc i,
     s.inputs = .issue core slot ch :: rest → s.dev.tripped = false →
     let s1 : State := { s with inputs := rest }
     let q := quarterOfSlot slot
     let k := clusterOf core
     let s2 := s1.sweep (s1.quarterBatts core q)
     let s3 : State := { s2 with cur := (core, slot), choice := ch }
     let s4 := if (s3.quarter core q).issuedAt == some (s3.cluster k).cyc then s3.untilCycle k 32 else s3
     let s5 := s4.modQuarter core q fun x => { x with lastIssued := s4.positionOf core slot, issuedAt := some (s4.cluster k).cyc }
     s1.batt? core slot = some b → s1.answers = true → s2.nextIssuer core q ch.stalled = some slot →
     (b.space = 16 ∨ (s2.ctx b.space).ctxst ≠ 1 ∨ s2.atRest b = .ok false) → s5.theTurn = .go b0 low n →
     s5.fetch b0.core b0.space ((b0.takeTurn low).lane low).pc = .ok w loc → decode w = some i →
     step s = match exec i (s5.icacheFill b0.core b0.space ((b0.takeTurn low).lane low).pc loc w) with
       | .next u => .next (u.afterWord i)
       | r => r) ∧
  (∀ (s : State) core slot ch rest, s.inputs = .issue core slot ch :: rest → s.dev.tripped = false →
     let s1 : State := { s with inputs := rest }
     let s2 := s1.sweep (s1.quarterBatts core (quarterOfSlot slot))
     (s1.batt? core slot).isSome = true → s1.answers = true → s2.nextIssuer core (quarterOfSlot slot) ch.stalled ≠ some slot →
     step s = .next s2) ∧
  (∀ (s : State) core slot ch rest b, s.inputs = .issue core slot ch :: rest → s.dev.tripped = false →
     let s1 : State := { s with inputs := rest }
     let s2 := s1.sweep (s1.quarterBatts core (quarterOfSlot slot))
     s1.batt? core slot = some b → s1.answers = true → s2.nextIssuer core (quarterOfSlot slot) ch.stalled = some slot →
     b.space ≠ 16 → (s2.ctx b.space).ctxst = 1 →
     (s2.atRest b = .ok true → step s = .next (s2.modBatt core slot fun b => { b with resting := true })) ∧
     (∀ c a, s2.atRest b = .bad c a → step s = .next (s2.killUnreadable b.space c a))) ∧
  (∀ (s : State) i rest, s.inputs = .event i :: rest → isEvent i = true → ({ s with inputs := rest } : State).admits i = true →
     step s = exec i { s with inputs := rest })

/-- A word that decodes to no instruction traps UNDEF for its whole split with fault address 0 (R60, R79). A word that cannot be fetched
traps for its whole split with the program counter as fault address: XLAT where the translation fails for good, PROT where the page is
not executable, POISON where its bytes are poisoned; a replayable failure is a fault with access code 2 (R62, R411, R414, R417). What the
fetch has read, whatever it comes to, stays in the caches and the TLBs, as for a word that runs (R236, R240, R413).
A word for whose registers preparation finds neither room in the quota nor a candidate to drop traps QUOTA for its whole split, with the
registers that preparation has left (R149). What keeps a word of a nonempty ACTIVE from its effect at the execution stage, in this order:
a report of an engine operation whose token it reads or writes or whose banks it touches, ARRAY or AUDIT, which is then given up (R329,
R367); a read, in field order, outside the purity set, IMPURE with the operand's code (R350; of a paired word the lanes of either slot, log
74); a poisoned register lane or scalar among what a lane reads, POISON in that lane with the code of the first (R417), before a bank or its object is checked (log 143). A word that
executes once and whose guard fails in the lowest lane meets the report alone; PREF meets none of them (R270; the report stays, log 96). -/
def Obligations.UnusableWordsTrap : Prop :=
  (∀ (s : State) b low n w loc, s.theTurn = .go b low n →
     s.fetch b.core b.space ((b.takeTurn low).lane low).pc = .ok w loc → decode w = none →
     let pc := ((b.takeTurn low).lane low).pc
     s.frontEnd = .ended (((s.icacheFill b.core b.space pc loc w).modBatt b.core b.slot fun _ => b.takeTurn low).takeTrap b.core b.slot w pc
       ((b.takeTurn low).splitOf low) 0 (causesOf ((b.takeTurn low).splitOf low) cUNDEF 0))) ∧
  (∀ (s : State) b low n, s.theTurn = .go b low n →
     let pc := ((b.takeTurn low).lane low).pc
     let split := (b.takeTurn low).splitOf low
     let s1 := (s.fetchReads b.core b.space pc).modBatt b.core b.slot fun _ => b.takeTurn low
     (∀ lv, s.fetch b.core b.space pc = .xlat true lv →
       s.frontEnd = .ended (s1.takeFault b.core b.slot 0 pc (causesOf split cXLAT pc) 2 lv false 0)) ∧
     (∀ lv, s.fetch b.core b.space pc = .xlat false lv →
       s.frontEnd = .ended (s1.takeTrap b.core b.slot 0 pc split 0 (causesOf split cXLAT pc))) ∧
     (s.fetch b.core b.space pc = .prot →
       s.frontEnd = .ended (s1.takeTrap b.core b.slot 0 pc split 0 (causesOf split cPROT pc))) ∧
     (s.fetch b.core b.space pc = .poison →
       s.frontEnd = .ended (s1.takeTrap b.core b.slot 0 pc split 0 (causesOf split cPOISON pc)))) ∧
  (∀ i (s : State) b0 low n p, (encode i).isSome = true → s.theTurn = .go b0 low n → s.wordWaits b0 i low = false →
     let b := b0.takeTurn low
     s.prepareWord b i (b.splitOf low) (b.activeFor i low) = .fault .quota p →
     exec i s = .next (((s.modBatt b.core b.slot fun _ => p.b).modBatt b.core b.slot fun b => b.countTurn low n).takeTrap b.core b.slot
       ((encode i).getD 0) (b.lane low).pc (b.splitOf low) 0 (causesOf (b.splitOf low) cQUOTA 0))) ∧
  (∀ (b : Batt) avoid n, b.back avoid n = none ↔ b.isBacked n = false ∧ b.regs ≤ b.backedCount ∧
     ∀ r ∈ b.vregs, r.backed = true → r.tag.isSome = true → r.late = false → r.poison = 0 → r.num ≠ n → r.num ∈ avoid) ∧
  (∀ i s x n t, (encode i).isSome = true → issueWord i s = .go x n t → x.active ≠ 0 →
     let b := x.at t
     let report (d : Deferred) : Bool := t.touchesReport b i x.active d
     (∀ d, b.deferred.find? report = some d →
       exec i s = .next (wordTraps x n (causesOf x.active d.cause 0) (x.set t fun b => { b with deferred := b.deferred.erase d }))) ∧
     ((∀ d ∈ b.deferred, report d = false) → scalarForm i = false ∨ inMask x.active x.low = true →
       (∀ set c, xBit i = false → isPref i = false → t.puritySet b x.pc = some set →
         (t.readCodes b i x.active).find? (fun k => !set.contains k) = some c →
         exec i s = .next (wordTraps x n (causesOf (b.actsIn i x.active) cIMPURE (BitVec.ofNat 64 c)) t)) ∧
       (t.impure b i x.pc x.active = [] → operandPoison b i x.split x.active ≠ [] →
         exec i s = .next (wordTraps x n (operandPoison b i x.split x.active) t)))) ∧
  (∀ (s : State) b i active (d : Deferred), s.touchesReport b i active d = true ↔ isPref i = false ∧
     ((.s d.token) ∈ (s.wordUse b i).reads ∨ (.s d.token) ∈ (s.wordUse b i).writes ∨ ∃ k ∈ s.banksTouched b i active, k ∈ d.banks)) ∧
  (∀ (b : Batt) i split active l, isPref i = false → isPaired i = false → l < 32 →
     let bad (r : RegRef × Nat) : Bool := match r.1 with | .v k => inMask (b.vpoison k) r.2 | .s k => b.sPoison.getLsbD k | _ => false
     (operandPoison b i split active).find? (fun c => c.lane == l) =
       if inMask active l = true then ((laneReads b i active l).find? bad).map fun r =>
         { lane := l, cause := cPOISON, faddr := BitVec.ofNat 64 (0xFFFF000000000000 + r.1.code) } else none)

/-! ### Issue -/

/-- Before a word that issues clear executes, nothing has changed but its own batt; there the turn is taken, with QUANT 0 where the
turn-holder is new, registers are as preparation leaves them, one that is backed without a tag, and was before the word, keeping its record, and a pure
region may have been entered (R125, R147, R149, R154, R349). -/
def Obligations.IssuePreparesItsBattAlone : Prop :=
  ∀ i s x n t, s.clear i = some (x, n, t) → x.instr = i ∧ OnlyBatt x.core x.slot s t ∧
    ∃ b c, s.batt? x.core x.slot = some b ∧ t.batt? x.core x.slot = some c ∧
      c = { b with vregs := c.vregs, cursor := x.low, quant := if b.cursor = x.low then b.quant else 0, tag := c.tag, absorbed := c.absorbed } ∧
      ((b.vregs.map (·.num)).Pairwise (· < ·) → ∀ k r, b.vreg? k = some r → r.tag = none → r.backed = true → r.fresh = false → c.vreg? k = some r)

/-- A word whose guard is true in no lane, and a word that executes once whose guard fails in the split's lowest lane, has no
effect but that its lanes advance and its turn is counted (R65, R125, R215), and what the preparation of its registers leaves: of nothing but its
own batt, there of no register that was Unbacked or that was Backed before the word, and of its region's entry (R154, R349). That the word is
prepared, which may replay, drop and untag registers, is the model's reading (log 111). -/
def Obligations.GuardedOffWordAdvances : Prop :=
  ∀ i s x n t, (encode i).isSome = true → s.guardedOff i = some (x, n, t) → exec i s = .next (wordDone x n t) ∧ OnlyBatt x.core x.slot s t ∧
    ∃ b c, s.batt? x.core x.slot = some b ∧ t.batt? x.core x.slot = some c ∧
      c = { b with vregs := c.vregs, cursor := x.low, quant := if b.cursor = x.low then b.quant else 0, tag := c.tag, absorbed := c.absorbed } ∧
      ((b.vregs.map (·.num)).Pairwise (· < ·) → ∀ k,
        (b.vreg? k = none → c.vreg? k = none) ∧ ∀ r, b.vreg? k = some r → r.tag = none → r.backed = true → r.fresh = false → c.vreg? k = some r)

/-- When a word has completed, every ready lane of its split that stood at the word stands at the next one and is ready, every
other lane is as it was; nothing else of the state has changed but the turn and the purity set of the batt (R125, R215, R349; that ABALLOC and
ABFREE add no bank to it is the model's choice, log 128). -/
def Obligations.CompletedWordAdvancesItsLanes : Prop :=
  ∀ x n (u : State) b, u.batt? x.core x.slot = some b →
    OnlyBatt x.core x.slot u (wordDone x n u) ∧
    ∃ c, (wordDone x n u).batt? x.core x.slot = some c ∧
      c = { b with lanes := c.lanes, cursor := c.cursor, quant := c.quant, absorbed := c.absorbed } ∧
      ∀ l, l < b.lanes.length → l < 32 →
        c.lane l = if inMask x.split l = true ∧ (b.lane l).st = .ready ∧ (b.lane l).pc = x.pc
          then { pc := (b.lane l).pc + 8, st := .ready } else b.lane l

/-- A word that traps halts its batt (R404): its entry stands behind those noted before it, with the number of the word's own issue, which
is that of its operation for a late check (R403) and the batt's next one for a word that is being issued; the batt gives up the backing
that it took for registers not written (R147, R154; log 69); nothing else has changed. A record lists the entries by issue: an entry
noted late stands before one whose word issued after it. -/
def Obligations.TrapHaltsTheBatt : Prop :=
  (∀ (s : State) core slot word pc mask recipe lanes order b, s.batt? core slot = some b →
    OnlyBatt core slot s (s.noteTrap core slot word pc mask recipe lanes order) ∧
    (s.noteTrap core slot word pc mask recipe lanes order).batt? core slot =
      some { b.unreserve with halted := true, trapped := b.trapped ++
        [{ word := word, pc := pc, mask := mask, recipe := recipe, lanes := lanes, order := order }] }) ∧
  (∀ (s : State) core slot word pc mask recipe lanes b, s.batt? core slot = some b →
    s.takeTrap core slot word pc mask recipe lanes = (s.noteTrap core slot word pc mask recipe lanes b.nextOp).settleTrap core slot) ∧
  (∀ l : List TrapEntry, (byIssue l).Perm l ∧ (byIssue l).Pairwise fun a b => a.order ≤ b.order)

/-! ### Lane arithmetic -/

/-- Every word that computes lane by lane completes where no enabled exception arises: results go to its destination, flags are
ORed into FPSR; where an enabled exception arises in a lane, it traps FPX there and writes nothing (R65, R185, R199).
The results of the floating words, on operands after their modifiers: the arithmetic family and HFMA2 in the rounding mode of RND or
FPCR, under FTZ (R190, R195); minimum and maximum (R192); classes (R194); approximations (R196); CVT, whose narrow destination replaces
one part of D (R202); DQMX (R207). -/
def Obligations.LaneWordsCompleteOrTrap : Prop :=
  let mode (f : RForm) (b : Batt) : Nat := if f.mf 7 5 = 7 then fld b.fpcr 10 8 else f.mf 7 5
  let ftz (b : Batt) : Bool := b.fpcr.getLsbD 11
  (∀ i fn d, laneWord i = some (fn, d) →
     WordDoes i
       (fun x t => trapLanes (laneList fn (resultLanes d x) (x.at t)) (resultLanes d x) (x.at t).fpcr = 0)
       (fun x t => x.set t fun b =>
         { b.put d (resultLanes d x) (fun l => (resAt (laneList fn (resultLanes d x) (x.at t)) l).bits) with
           fpsr := b.fpsr ||| flagsOver (laneList fn (resultLanes d x) (x.at t)) (resultLanes d x) })) ∧
  (∀ i fn d, laneWord i = some (fn, d) →
     WordTraps i
       (fun x t => trapLanes (laneList fn (resultLanes d x) (x.at t)) (resultLanes d x) (x.at t).fpcr ≠ 0)
       (fun x t => fpxCauses (laneList fn (resultLanes d x) (x.at t)) (resultLanes d x)
         (trapLanes (laneList fn (resultLanes d x) (x.at t)) (resultLanes d x) (x.at t).fpcr))) ∧
  (∀ (f : RForm) (i : Instr) op fm,
     (i, op, fm) ∈ [(Instr.fadd f, FArith.add, f32), (.fsub f, .sub, f32), (.fmul f, .mul, f32), (.fdiv f, .div, f32),
       (.dadd f, .add, f64), (.dsub f, .sub, f64), (.dmul f, .mul, f64), (.ddiv f, .div, f64)] →
     FloatResult i (f.dst (fm.width == 64)) fun b l => farith op fm (mode f b) (ftz b) (fopA fm f b l) (fopB fm f b l) 0) ∧
  (∀ (f : RForm) (i : Instr) fm, (i, fm) ∈ [(Instr.ffma f, f32), (.dfma f, f64)] →
     FloatResult i (f.dst (fm.width == 64)) fun b l => farith .fma fm (mode f b) (ftz b) (fopA fm f b l) (fopB fm f b l) (fopC fm f b l)) ∧
  (∀ (f : RForm) (i : Instr) fm, (i, fm) ∈ [(Instr.fsqrt f, f32), (.dsqrt f, f64)] →
     FloatResult i (f.dst (fm.width == 64)) fun b l => farith .sqrt fm (mode f b) (ftz b) (fopA fm f b l) 0 0) ∧
  (∀ (f : RForm) (i : Instr) fm, (i, fm) ∈ [(Instr.fscale f, f32), (.dscale f, f64)] →
     FloatResult i (f.dst (fm.width == 64)) fun b l => fscaleOp fm (mode f b) (ftz b) (fopA fm f b l) (sval 32 (b.rdB f false l))) ∧
  (∀ f : RForm,
     let fm := if f.mb 0 then bf16 else h16
     let half (x j : Nat) : Nat := x / 2 ^ (16 * j) % 2 ^ 16
     let one (b : Batt) (l j : Nat) : FRes := farith .fma fm (mode f b) (ftz b) (modSign 16 (f.mb 2) (f.mb 4) (half (b.rdA f false l) j))
       (modSign 16 (f.mb 1) false (half (if f.bs then (b.s f.b.toNat).toNat % 2 ^ 32 else b.rdB f false l) j))
       (modSign 16 false (f.mb 3) (half (b.rdC f false l) j))
     FloatResult (.hfma2 f) (f.dst false) fun b l =>
       { bits := (one b l 1).bits * 2 ^ 16 + (one b l 0).bits, flags := (one b l 0).flags ||| (one b l 1).flags,
         tiny := (one b l 0).tiny || (one b l 1).tiny }) ∧
  (∀ (f : RForm) (i : Instr) fm isMax, (i, fm, isMax) ∈ [(Instr.fmin f, f32, false), (.fmax f, f32, true), (.dmin f, f64, false), (.dmax f, f64, true)] →
     FloatResult i (f.dst (fm.width == 64)) fun b l =>
       let x := fopA fm f b l
       let y := fopB fm f b l
       let u := decodeF fm x
       let v := decodeF fm y
       let nv := if u.isSig || v.isSig then NV else 0
       if (u.isNan = true ∧ v.isNan = true) ∨ (f.mb 0 = true ∧ (u.isNan = true ∨ v.isNan = true)) then { bits := fm.nanCode, flags := nv }
       else if u.isNan = true then { bits := y, flags := nv }
       else if v.isNan = true then { bits := x, flags := nv }
       else { bits := if (if isMax then valLt u v else valLt v u) = true then y else x, flags := nv }) ∧
  (∀ (f : RForm) (i : Instr) fm, (i, fm) ∈ [(Instr.fclass f, f32), (.dclass f, f64)] →
     FloatResult i (f.dst false) fun b l => { bits := fclassify fm (fopA fm f b l) }) ∧
  (∀ fm a, ∃ k, k < 10 ∧ fclassify fm a = 2 ^ k) ∧
  (∀ (f : RForm) (i : Instr) which,
     (i, which) ∈ [(Instr.frcpa f, 0), (.frsqa f, 1), (.fex2a f, 2), (.flg2a f, 3), (.fsina f, 4), (.fcosa f, 5)] →
     FloatResult i (f.dst false) fun b l => approxOp which (ftz b) (fopA f32 f b l)) ∧
  (∀ (f : RForm) ws wd, cvtWidth (fld f.b 6 0) = some ws → cvtWidth (fld f.c 6 0) = some wd →
     let r (b : Batt) (l : Nat) : FRes := cvtOp (cvtType (fld f.c 6 0)) (cvtType (fld f.b 6 0)) (mode f b) (f.mb 4)
       (b.rdA f (ws == 64) l / 2 ^ (ws * f.mf 3 2) % 2 ^ ws)
     let part : Nat := 2 ^ (wd * f.mf 1 0)
     FloatResult (.cvt f) (f.dst (wd == 64)) fun b l =>
       if wd < 32 then { r b l with bits := b.rdD f false l - b.rdD f false l / part % 2 ^ wd * part + (r b l).bits * part } else r b l) ∧
  (∀ f : RForm, FloatResult (.dqmx f) (.v f.d.toNat) fun b l =>
     dqmxElem ((b.s f.c.toNat).toNat % 256) ((b.v f.a.toNat l).toNat / 2 ^ (8 * f.mf 1 0) % 256))

/-- The frame of the lane words: each lane of the result mask holds its result at the destination, every other lane and every
other vector register keeps its words, every scalar but a scalar destination, every predicate, rejoin mask, bank, region and control
register is kept, FPSR only gains flags, and the rest of the state, memory included, is unchanged (R9, R185, R199). -/
def Obligations.LaneWordsFrame : Prop :=
  ∀ i fn d, laneWord i = some (fn, d) → ∀ s x n t, s.clear i = some (x, n, t) →
    (∀ k, d = .s k → k < (x.at t).scalars.length) →
    trapLanes (laneList fn (resultLanes d x) (x.at t)) (resultLanes d x) (x.at t).fpcr = 0 →
    ∃ u c, exec i s = .next u ∧ u.batt? x.core x.slot = some c ∧ OnlyBatt x.core x.slot s u ∧
      (∀ l, l < 32 → inMask (resultLanes d x) l = true →
        c.dstAt d l = (fn (x.at t) (x.at t).fpcr l).bits % 2 ^ d.width) ∧
      (∀ k l, k ∉ d.vectors → c.v k l = (x.at t).v k l) ∧
      (∀ k l, l < 32 → inMask (resultLanes d x) l = false → c.v k l = (x.at t).v k l) ∧
      (∀ k, d.scalar ≠ some k → c.s k = (x.at t).s k) ∧
      (c.fpsr &&& (x.at t).fpsr = (x.at t).fpsr) ∧
      c = { x.at t with vregs := c.vregs, scalars := c.scalars, sPoison := c.sPoison, fpsr := c.fpsr, lanes := c.lanes,
                        cursor := c.cursor, quant := c.quant, absorbed := c.absorbed }

/-- The additive and multiplicative words: the exact sum or product, then Fit (R172). -/
def Obligations.AdditiveWords : Prop :=
  ∀ f : RForm,
    LaneResult (.iadd f) (f.dst false) (fun b l =>
      fitN f.sat f.sgn 32 (valOf f.sgn 32 (b.rdA f false l) + valOf f.sgn 32 (b.rdB f false l))) ∧
    LaneResult (.isub f) (f.dst false) (fun b l =>
      fitN f.sat f.sgn 32 (valOf f.sgn 32 (b.rdA f false l) - valOf f.sgn 32 (b.rdB f false l))) ∧
    LaneResult (.imul f) (f.dst false) (fun b l =>
      fitN f.sat f.sgn 32 (valOf f.sgn 32 (b.rdA f false l) * valOf f.sgn 32 (b.rdB f false l))) ∧
    LaneResult (.iadd64 f) (f.dst true) (fun b l =>
      fitN f.sat f.sgn 64 (valOf f.sgn 64 (b.rdA f true l) + valOf f.sgn 64 (b.rdB f true l))) ∧
    LaneResult (.isub64 f) (f.dst true) (fun b l =>
      fitN f.sat f.sgn 64 (valOf f.sgn 64 (b.rdA f true l) - valOf f.sgn 64 (b.rdB f true l))) ∧
    LaneResult (.imul64 f) (f.dst true) (fun b l =>
      fitN f.sat f.sgn 64 (valOf f.sgn 64 (b.rdA f true l) * valOf f.sgn 64 (b.rdB f true l))) ∧
    LaneResult (.imad f) (f.dst false) (fun b l =>
      fitN f.sat f.sgn 32 (valOf f.sgn 32 (b.rdA f false l) * valOf f.sgn 32 (b.rdB f false l) + valOf f.sgn 32 (b.rdC f false l))) ∧
    LaneResult (.imadw f) (f.dst true) (fun b l =>
      fitN f.sat f.sgn 64 (valOf f.sgn 32 (b.rdA f false l) * valOf f.sgn 32 (b.rdB f false l) + valOf f.sgn 64 (b.rdC f true l)))

/-- IMULHI gives the upper half of the exact product, and with IMUL or IMUL64 the whole of it (R173); minimum, maximum, absolute
value and negation, of which the last two are signed in every legal word (R175). -/
def Obligations.ProductHalvesAndExtremes : Prop :=
  (∀ f : RForm,
    LaneResult (.imulhi f) (f.dst (f.mb 0)) (fun b l =>
      modPow (valOf f.sgn f.n (b.rdA f (f.mb 0) l) * valOf f.sgn f.n (b.rdB f (f.mb 0) l) / (2 ^ f.n : Nat)) f.n) ∧
    LaneResult (.imin f) (f.dst (f.mb 0)) (fun b l =>
      if valOf f.sgn f.n (b.rdA f (f.mb 0) l) ≤ valOf f.sgn f.n (b.rdB f (f.mb 0) l) then b.rdA f (f.mb 0) l else b.rdB f (f.mb 0) l) ∧
    LaneResult (.imax f) (f.dst (f.mb 0)) (fun b l =>
      if valOf f.sgn f.n (b.rdA f (f.mb 0) l) ≥ valOf f.sgn f.n (b.rdB f (f.mb 0) l) then b.rdA f (f.mb 0) l else b.rdB f (f.mb 0) l) ∧
    LaneResult (.iabs f) (f.dst (f.mb 0)) (fun b l => fitN f.sat true f.n ((valOf true f.n (b.rdA f (f.mb 0) l)).natAbs : Int)) ∧
    LaneResult (.ineg f) (f.dst (f.mb 0)) (fun b l => fitN f.sat true f.n (-(valOf true f.n (b.rdA f (f.mb 0) l))))) ∧
  (∀ f : RForm, f.sgn = false → wellFormed (.iabs f) = false ∧ wellFormed (.ineg f) = false) ∧
  (∀ (sgn : Bool) (n : Nat) (a b : Nat), n = 32 ∨ n = 64 → a < 2 ^ n → b < 2 ^ n →
    ((mulHi sgn n a b * 2 ^ n + fitN false sgn n (valOf sgn n a * valOf sgn n b) : Nat) : Int) % (2 ^ (2 * n) : Nat)
      = valOf sgn n a * valOf sgn n b % (2 ^ (2 * n) : Nat)) ∧
  (∀ n : Nat, n = 32 ∨ n = 64 →
    fitN false true n (-(valOf true n (2 ^ (n - 1)))) = 2 ^ (n - 1) ∧ fitN true true n (-(valOf true n (2 ^ (n - 1)))) = 2 ^ (n - 1) - 1)

/-- Division truncates towards zero, and its corners are those of R174. -/
def Obligations.DivisionWords : Prop :=
  ∀ f : RForm,
    LaneResult (.idiv f) (f.dst (f.mb 0)) (fun b l =>
      let x := valOf f.sgn f.n (b.rdA f (f.mb 0) l)
      let y := valOf f.sgn f.n (b.rdB f (f.mb 0) l)
      if y = 0 then modPow (if f.sat && f.sgn then (if x ≥ 0 then hiOf true f.n else loOf true f.n) else (2 ^ f.n : Nat) - 1) f.n
      else fitN f.sat f.sgn f.n (Int.tdiv x y)) ∧
    LaneResult (.irem f) (f.dst (f.mb 0)) (fun b l =>
      let x := valOf f.sgn f.n (b.rdA f (f.mb 0) l)
      let y := valOf f.sgn f.n (b.rdB f (f.mb 0) l)
      modPow (if y = 0 then x else x - y * Int.tdiv x y) f.n)

/-- IADDI and LOGI, 32 bits wide for a vector and 64 for a scalar (R176); AND, OR, XOR and ANDN over n bits (R177); shifts and rotation: the count is never reduced but by ROTL, and a SAR of n − 1 or more
fills every bit with the sign (R178); POPC, CLZ and BREV (R179); the field that BFE takes and BFI replaces (R180); BSEL (R181); LEA (R182);
SEL copies A where p[C] is 1 and B elsewhere, and p[7] is 1 in every lane (R184); MOV, MOVI and MOVHI (R160). -/
def Obligations.LogicShiftAndSelectWords : Prop :=
  (∀ f : RForm,
     LaneResult (.and f) (f.dst (f.mb 0)) (fun b l => b.rdA f (f.mb 0) l &&& b.rdB f (f.mb 0) l) ∧
     LaneResult (.or f) (f.dst (f.mb 0)) (fun b l => b.rdA f (f.mb 0) l ||| b.rdB f (f.mb 0) l) ∧
     LaneResult (.xor f) (f.dst (f.mb 0)) (fun b l => b.rdA f (f.mb 0) l ^^^ b.rdB f (f.mb 0) l) ∧
     LaneResult (.andn f) (f.dst (f.mb 0)) (fun b l => b.rdA f (f.mb 0) l &&& (2 ^ f.n - 1 - b.rdB f (f.mb 0) l))) ∧
  (∀ f : RForm,
     LaneResult (.shl f) (f.dst (f.mb 0)) (fun b l =>
       if f.n ≤ shiftCount f b l then 0 else b.rdA f (f.mb 0) l * 2 ^ shiftCount f b l % 2 ^ f.n) ∧
     LaneResult (.shr f) (f.dst (f.mb 0)) (fun b l =>
       if f.n ≤ shiftCount f b l then 0 else b.rdA f (f.mb 0) l / 2 ^ shiftCount f b l) ∧
     LaneResult (.sar f) (f.dst (f.mb 0)) (fun b l =>
       if f.n - 1 ≤ shiftCount f b l then (if 2 ^ (f.n - 1) ≤ b.rdA f (f.mb 0) l then 2 ^ f.n - 1 else 0)
       else modPow (valOf true f.n (b.rdA f (f.mb 0) l) / (2 ^ shiftCount f b l : Nat)) f.n) ∧
     LaneResult (.rotl f) (f.dst (f.mb 0)) (fun b l =>
       (b.rdA f (f.mb 0) l * 2 ^ (shiftCount f b l % f.n) % 2 ^ f.n) ||| (b.rdA f (f.mb 0) l / 2 ^ (f.n - shiftCount f b l % f.n)))) ∧
  (∀ f : RForm, LaneResult (.sel f) (f.dst (f.mb 0)) (fun b l =>
     if inMask (b.p (fld f.c 2 0)) l then b.rdA f (f.mb 0) l else b.rdB f (f.mb 0) l)) ∧
  (∀ b : Batt, b.p 7 = BitVec.allOnes 32) ∧
  (∀ f : IForm,
     let n : Nat := if isSc f.d then 64 else 32
     let a (b : Batt) (l : Nat) : Nat := if isSc f.d then b.cw f.a l else b.cv f.a l
     let k : Nat := modPow (sval 29 (fld f.imm 28 0)) n
     let h := fld f.imm 30 29
     LaneResult (.iaddi f) f.dst (fun b l => modPow ((a b l : Int) + sval 31 f.imm.toNat) n) ∧
     LaneResult (.logi f) f.dst (fun b l => match fld f.imm 30 29 with
       | 0 => a b l &&& k
       | 1 => a b l ||| k
       | 2 => a b l ^^^ k
       | _ => a b l &&& (2 ^ n - 1 - k)) ∧
     LaneResult (.movi f) f.dst (fun _ _ => modPow (sval 31 f.imm.toNat) n) ∧
     (16 * h < n → LaneResult (.movhi f) f.dst (fun b l =>
       a b l - a b l / 2 ^ (16 * h) % 2 ^ 16 * 2 ^ (16 * h) + fld f.imm 15 0 * 2 ^ (16 * h)))) ∧
  (∀ f : RForm,
     LaneResult (.mov f) (f.dst (f.mb 0)) (fun b l => b.rdB f (f.mb 0) l) ∧
     LaneResult (.popc f) (f.dst false) (fun b l => ((List.range f.n).filter fun i => Nat.testBit (b.rdA f (f.mb 0) l) i).length) ∧
     LaneResult (.clz f) (f.dst false) (fun b l => leadZeros f.n (b.rdA f (f.mb 0) l)) ∧
     LaneResult (.brev f) (f.dst (f.mb 0)) (fun b l => bitRev f.n (b.rdA f (f.mb 0) l)) ∧
     LaneResult (.bfe f) (f.dst (f.mb 0)) (fun b l => bitExtract f.sgn f.n (b.rdA f (f.mb 0) l) (b.rdB f false l)) ∧
     LaneResult (.bfi f) (f.dst (f.mb 0)) (fun b l => bitInsert f.n (b.rdA f (f.mb 0) l) (b.rdB f false l) (b.rdC f (f.mb 0) l)) ∧
     LaneResult (.bsel f) (f.dst false) (fun b l => byteSelect (b.rdA f false l) (b.rdB f false l) (b.rdC f false l)) ∧
     LaneResult (.lea f) (f.dst (f.mb 0)) (fun b l =>
       modPow ((b.rdB f (f.mb 0) l : Int) + (if f.mb 0 && f.sgn then sval 32 (b.rdA f false l) else (b.rdA f false l : Int)) * (2 ^ f.mf 3 1 : Nat)) f.n)) ∧
  (∀ n a : Nat, a < 2 ^ n →
     (leadZeros n a ≤ n ∧ a < 2 ^ (n - leadZeros n a) ∧ (leadZeros n a < n → 2 ^ (n - 1 - leadZeros n a) ≤ a)) ∧
     ∀ i, i < n → Nat.testBit (bitRev n a) i = Nat.testBit a (n - 1 - i)) ∧
  (∀ (sgn : Bool) (n a pl i : Nat), 0 < n → a < 2 ^ n → i < n →
     let pos := pl % 256
     let len := min (pl / 256 % 256) n
     Nat.testBit (bitExtract sgn n a pl) i =
       (if i < len then Nat.testBit a (pos + i) else if sgn = true ∧ 0 < len then Nat.testBit a (pos + len - 1) else false)) ∧
  (∀ n a pl c i : Nat, a < 2 ^ n → i < n →
     let pos := pl % 256
     let len := min (pl / 256 % 256) n
     Nat.testBit (bitInsert n a pl c) i = if pos ≤ i ∧ i < pos + len then Nat.testBit c (i - pos) else Nat.testBit a i) ∧
  (∀ a b c j : Nat, a < 2 ^ 32 → b < 2 ^ 32 → j < 4 →
     let k := c / 2 ^ (8 * j) % 256
     let y := (b * 2 ^ 32 + a) / 2 ^ (8 * (k % 8)) % 256
     byteSelect a b c / 2 ^ (8 * j) % 256 = match k / 64 with
       | 0 => y
       | 1 => bitRev 8 y
       | 2 => if Nat.testBit y 7 then 0xFF else 0
       | _ => if Nat.testBit k 0 then 0xFF else 0)

/-- Comparisons write their bit in the lanes of ACTIVE, or under U the one bit in every lane of the split, where no enabled exception
arises; else they trap FPX (R183, R193, R199). -/
def Obligations.CompareWords : Prop :=
  ∀ i fn (u : Bool) d, cmpWord i = some (fn, u, d) →
    let lanes (x : Iss) : Mask := if u then lane1 x.low else x.active
    let rs (x : Iss) (t : State) : List FRes := laneList fn (lanes x) (x.at t)
    WordDoes i (fun x t => trapLanes (rs x t) (lanes x) (x.at t).fpcr = 0)
      (fun x t => x.set t fun b =>
        { b.setP d (if u then x.split else x.active)
            (if u then (if (resAt (rs x t) x.low).bits = 1 then BitVec.allOnes 32 else 0) else maskOf fun l => (resAt (rs x t) l).bits == 1) with
          fpsr := b.fpsr ||| flagsOver (rs x t) (lanes x) }) ∧
    WordTraps i (fun x t => trapLanes (rs x t) (lanes x) (x.at t).fpcr ≠ 0)
      (fun x t => fpxCauses (rs x t) (lanes x) (trapLanes (rs x t) (lanes x) (x.at t).fpcr))

/-! ### Accumulator objects, reductions, block scaling -/

/-- XACC adds each active lane's value to its object exactly, XRND rounds its object into a pair, QMX writes one byte of each active
lane and the block's scale, LRED writes the fold of the active lanes; each where its bank is held and clean and no enabled exception
arises, with the flags ORed into FPSR; and each traps FPX, writing nothing, where one arises (R199, R206, R209 to R211, R213). QMX writes
its scale once for the split, so that an exception in one lane names every active lane: that R199's words about a scalar destination cover
QMX is the model's reading (log 17). XACC, XRND and XCLR trap RANGE with the bank's number where the batt does not hold it; XACC and XRND
trap POISON in each active lane whose object holds a poisoned word, with the address of the lowest (R209). -/
def Obligations.ReductionWords : Prop :=
  (∀ f : RForm,
    let v (b : Batt) (l : Nat) : FVal := if f.mb 0 then decodeF f64 (b.w f.a.toNat l).toNat else decodeF f32 (b.v f.a.toNat l).toNat
    let rs (b : Batt) : List FRes := laneIds.map fun l => { bits := 0, flags := if (v b l).isSig then NV else 0 }
    let ok (x : Iss) (t : State) : Prop := accChecks (x.at t) f x.active = []
    WordDoes (.xacc f) (fun x t => ok x t ∧ trapLanes (rs (x.at t)) x.active (x.at t).fpcr = 0)
      (fun x t => x.set t fun b =>
        { (lanesOf x.active).foldl (fun c l => c.accAddAt (accAddr f l) (v (x.at t) l)) b with
          fpsr := b.fpsr ||| flagsOver (rs (x.at t)) x.active }) ∧
    WordTraps (.xacc f) (fun x t => ok x t ∧ trapLanes (rs (x.at t)) x.active (x.at t).fpcr ≠ 0)
      (fun x t => fpxCauses (rs (x.at t)) x.active (trapLanes (rs (x.at t)) x.active (x.at t).fpcr))) ∧
  (∀ f : RForm,
    let r (b : Batt) (l : Nat) : FRes := accRound (rndMode (f.mf 7 5) b.fpcr) (accOf (b.bankRead (accAddr f l) 288))
    let rs (b : Batt) : List FRes := laneIds.map (r b)
    let ok (x : Iss) (t : State) : Prop := accChecks (x.at t) f x.active = []
    WordDoes (.xrnd f) (fun x t => ok x t ∧ trapLanes (rs (x.at t)) x.active (x.at t).fpcr = 0)
      (fun x t => x.set t fun b =>
        { b.setW f.d.toNat x.active fun l => BitVec.ofNat 64 (r (x.at t) l).bits with fpsr := b.fpsr ||| flagsOver (rs (x.at t)) x.active }) ∧
    WordTraps (.xrnd f) (fun x t => ok x t ∧ trapLanes (rs (x.at t)) x.active (x.at t).fpcr ≠ 0)
      (fun x t => fpxCauses (rs (x.at t)) x.active (trapLanes (rs (x.at t)) x.active (x.at t).fpcr))) ∧
  (∀ f : RForm,
    let tree (x : Iss) (b : Batt) : FRes := lredTree (if f.mb 0 then f64 else f32) (rndMode (f.mf 7 5) b.fpcr)
      (laneIds.map fun l => if inMask x.active l then some (b.rd false (f.mb 0) f.a.toNat l) else none)
    let rs (x : Iss) (b : Batt) : List FRes := laneIds.map fun _ => tree x b
    WordDoes (.lred f) (fun x t => trapLanes (rs x (x.at t)) x.active (x.at t).fpcr = 0)
      (fun x t => x.set t fun b =>
        { (if f.mb 1 then b.setS f.d.toNat (BitVec.ofNat 64 (tree x (x.at t)).bits)
           else if f.mb 0 then b.setW f.d.toNat x.active fun _ => BitVec.ofNat 64 (tree x (x.at t)).bits
           else b.setV f.d.toNat x.active fun _ => BitVec.ofNat 32 (tree x (x.at t)).bits) with
          fpsr := b.fpsr ||| flagsOver (rs x (x.at t)) x.active }) ∧
    WordTraps (.lred f) (fun x t => trapLanes (rs x (x.at t)) x.active (x.at t).fpcr ≠ 0)
      (fun x t => fpxCauses (rs x (x.at t)) x.active (trapLanes (rs x (x.at t)) x.active (x.at t).fpcr))) ∧
  (∀ f : RForm,
    let block (x : Iss) (b : Batt) : Nat × List FRes := qmxBlock ((lanesOf x.active).map fun l => decodeF f32 (b.v f.a.toNat l).toNat)
    let elem (x : Iss) (b : Batt) (l : Nat) : FRes :=
      match findIdx (· == l) (lanesOf x.active) 0 with | some i => (block x b).2.getD i { bits := 0 } | none => { bits := 0 }
    let rs (x : Iss) (b : Batt) : List FRes := laneIds.map (elem x b)
    let byte (old : Word) (q : Nat) : Word :=
      BitVec.ofNat 32 (old.toNat - old.toNat / 2 ^ (8 * f.mf 1 0) % 256 * 2 ^ (8 * f.mf 1 0) + q * 2 ^ (8 * f.mf 1 0))
    WordDoes (.qmx f) (fun x t => trapLanes (rs x (x.at t)) x.active (x.at t).fpcr = 0)
      (fun x t => x.set t fun b =>
        { (b.setV f.d.toNat x.active fun l => byte (b.v f.d.toNat l) (elem x (x.at t) l).bits).setS f.c.toNat
            (BitVec.ofNat 64 (block x (x.at t)).1) with
          fpsr := b.fpsr ||| flagsOver (rs x (x.at t)) x.active }) ∧
    WordTraps (.qmx f) (fun x t => trapLanes (rs x (x.at t)) x.active (x.at t).fpcr ≠ 0)
      (fun x t => fpxCauses (rs x (x.at t)) x.active x.active)) ∧
  (∀ (f : RForm) (i : Instr), i ∈ [Instr.xacc f, .xrnd f, .xclr f] →
    let k : Nat := fld f.b 9 6
    WordTraps i (fun x t => (x.at t).bank? k = none) (fun x _ => causesOf x.active cRANGE (BitVec.ofNat 64 k)) ∧
    let low (b : Batt) (l : Nat) : Option Nat := b.bankBad (bankBytes * k + 288 * (fld f.b 5 0 + if f.mb 1 then 0 else l)) 288
    let poisoned (x : Iss) (b : Batt) : List LaneCause :=
      (lanesOf x.active).filterMap fun l => (low b l).map fun a => { lane := l, cause := cPOISON, faddr := BitVec.ofNat 64 a }
    (i ≠ .xclr f → WordTraps i (fun x t => (x.at t).bank? k ≠ none ∧ poisoned x (x.at t) ≠ []) fun x t => poisoned x (x.at t)))

/-- XCLR sets every byte of each object of its lanes to 0, and no byte outside them (R208, R212). -/
def Obligations.ClearedObjectsReadZero : Prop :=
  ∀ (f : RForm) s x n t, s.clear (.xclr f) = some (x, n, t) → accRange (x.at t) f x.active = [] →
    (∀ l, l < 32 → inMask x.active l = true → ((x.at t).bank? ((accAddr f l + 287) / bankBytes)).isSome = true) →
    (∀ k ∈ (x.at t).banks, k.data.wf = true) →
    ∃ u c, exec (.xclr f) s = .next u ∧ u.batt? x.core x.slot = some c ∧ c.fpsr = (x.at t).fpsr ∧ OnlyBatt x.core x.slot s u ∧
      (∀ l i, l < 32 → inMask x.active l = true → i < 288 → c.bankByte (accAddr f l + i) = 0) ∧
      (∀ aa, (∀ l, l < 32 → inMask x.active l = true → aa < accAddr f l ∨ accAddr f l + 288 ≤ aa) → c.bankByte aa = (x.at t).bankByte aa)

/-! ### Special registers, predicates, lane exchange, tags -/

/-- GETSR writes the special register's value to each active lane, or to its scalar; SETSR writes FPCR but its reserved bits and a
reserved rounding mode, FPSR's six flags, or the fields of %memo that software may write (R46, R47, R159, R365).
What the special registers read as (R159); what those of a batt, felt and launch read as in the control batt is the model's choice (log 103). -/
def Obligations.SpecialRegisters : Prop :=
  ((∀ f : RForm, WordDoes (.getsr f) (fun _ _ => True) (fun x t => x.set t fun b =>
     if f.mb 7 then b.setV f.d.toNat x.active fun l => (t.special (x.at t) x (f.mf 4 0) l).setWidth 32
     else b.setS f.d.toNat (t.special (x.at t) x (f.mf 4 0) x.low))) ∧
   (∀ f : RForm, f.m = 16 → WordDoes (.setsr f) (fun _ _ => True) (fun x t => x.set t fun b => { b with fpcr := newFpcr b.fpcr (b.s f.a.toNat) })) ∧
   (∀ f : RForm, f.m = 17 →
     WordDoes (.setsr f) (fun _ _ => True) (fun x t => x.set t fun b => { b with fpsr := (b.s f.a.toNat).setWidth 32 &&& 0x3F })) ∧
   (∀ f : RForm, f.m = 18 →
     WordDoes (.setsr f) (fun _ _ => True) (fun x t => x.set t fun b => { b with memo := b.s f.a.toNat &&& 0xFFFFFFFFFFFFFF03 }))) ∧
  (∀ (s : State) b x l,
     let k := clusterOf b.core
     (List.range 24).map (fun n => s.special b x n l) =
       [BitVec.ofNat 64 l, BitVec.ofNat 64 b.id.b, BitVec.ofNat 64 b.feltNo, BitVec.ofNat 64 b.core, BitVec.ofNat 64 (b.core / 8),
        BitVec.ofNat 64 b.id.lnum, BitVec.ofNat 64 (b.space % 16), BitVec.ofNat 64 b.nfelt, BitVec.ofNat 64 b.nbatt, x.split.setWidth 64,
        (s.cluster k).cyc, (s.cluster k).tim, BitVec.ofNat 64 (s.cluster k).power.step, BitVec.ofNat 64 (s.cluster k).power.tband,
        BitVec.ofNat 64 (s.cluster k).power.a, BitVec.ofNat 64 (if s.narrowed b.core then 1 else 0), b.fpcr.setWidth 64,
        b.fpsr.setWidth 64, b.memo, BitVec.ofNat 64 b.cont,
        BitVec.ofNat 64 (b.regs + b.pinned * 2 ^ 16 + ((s.launchOf b).map (·.recipes)).getD 0 * 2 ^ 32), b.wpoll.setWidth 64, b.params,
        BitVec.ofNat 64 b.quarter])

/-- PLOP and PMOV (R161): in each active lane the truth table's bit or the moved bit; every other lane keeps its predicate. No legal PLOP
names p7 as its destination (R158). -/
def Obligations.PredicateWords : Prop :=
  (∀ f : RForm, f.d.toNat < 7 → ∀ s x n t, s.clear (.plop f) = some (x, n, t) → f.d.toNat < (x.at t).preds.length →
    ∃ u c, exec (.plop f) s = .next u ∧ u.batt? x.core x.slot = some c ∧ OnlyBatt x.core x.slot s u ∧
      ∀ l, l < 32 → inMask (c.p f.d.toNat) l =
        if inMask x.active l
        then Nat.testBit (f.mf 3 0) (2 * (if inMask ((x.at t).p f.a.toNat) l then 1 else 0) + (if inMask ((x.at t).p f.b.toNat) l then 1 else 0))
        else inMask ((x.at t).p f.d.toNat) l) ∧
  (∀ f : RForm, 7 ≤ f.d.toNat → wellFormed (.plop f) = false) ∧
  (∀ f : RForm,
    (f.mf 1 0 = 0 → WordDoes (.pmov f) (fun _ _ => True) (fun x t => x.set t fun b => b.setS f.d.toNat ((b.p f.a.toNat).setWidth 64))) ∧
    (f.mf 1 0 = 1 → WordDoes (.pmov f) (fun _ _ => True) (fun x t => x.set t fun b => b.setP f.d.toNat x.active ((b.s f.a.toNat).setWidth 32))) ∧
    (f.mf 1 0 = 2 → WordDoes (.pmov f) (fun _ _ => True)
      (fun x t => x.set t fun b => b.setV f.d.toNat x.active fun l => if inMask (b.p f.a.toNat) l then 1 else 0)) ∧
    (f.mf 1 0 = 3 → WordDoes (.pmov f) (fun _ _ => True)
      (fun x t => x.set t fun b => b.setP f.d.toNat x.active (maskOf fun l => b.v f.a.toNat l != 0))))

/-- The collective words read every lane as it stands before any is written: LXCH moves a word between lanes of a group, PFOLD folds
a predicate over the active lanes, PEER compares them, LGET and LSET move one lane (R162 to R165, R185). -/
def Obligations.LaneExchangeWords : Prop :=
  (∀ f : RForm,
    let k (b : Batt) (l : Nat) : Nat := if f.mb 5 then f.mf 4 0 else (b.v f.b.toNat l).toNat % 32
    let n := 2 ^ fld f.c 2 0
    let source (b : Batt) (l : Nat) : Nat := l - l % n + (match f.mf 7 6 with
      | 0 => k b l % n
      | 1 => (l % n + k b l) % n
      | 2 => l % n ^^^ k b l % n
      | _ => n - 1 - l % n)
    WordDoes (.lxch f) (fun _ _ => True) (fun x t => x.set t fun b => b.setV f.d.toNat x.active fun l => b.v f.a.toNat (source b l))) ∧
  (∀ f : RForm,
    let on (x : Iss) (b : Batt) : Mask := b.p f.a.toNat &&& x.active
    let all (x : Iss) (b : Batt) (v : Bool) : Batt := b.setP f.d.toNat x.active (if v then BitVec.allOnes 32 else 0)
    WordDoes (.pfold f) (fun _ _ => True) (fun x t => x.set t fun b => match f.mf 2 0 with
      | 0 => all x b (on x b == x.active)
      | 1 => all x b (on x b != 0)
      | 2 => all x b (on x b == x.active || on x b == 0)
      | 3 => all x b (popMask (on x b) % 2 == 1)
      | 4 => b.setS f.d.toNat ((on x b).setWidth 64)
      | _ => b.setS f.d.toNat (BitVec.ofNat 64 (popMask (on x b))))) ∧
  (∀ f : RForm,
    let group (x : Iss) (b : Batt) (l : Nat) : Mask := maskOf fun m => inMask x.active m && b.rdA f (f.mb 0) m == b.rdA f (f.mb 0) l
    WordDoes (.peer f) (fun _ _ => True) (fun x t => x.set t fun b => b.setV f.d.toNat x.active fun l => BitVec.ofNat 32 (match f.mf 2 1 with
      | 0 => (group x b l).toNat
      | 1 => (lowLane (group x b l)).getD 0
      | 2 => ((lanesOf (group x b l)).filter (· < l)).length
      | _ => popMask (group x b l)))) ∧
  (∀ f : RForm,
    let k (x : Iss) (b : Batt) : Nat :=
      if f.mb 7 then (lowLane x.active).getD 0 else if f.mb 5 then f.mf 4 0 else (b.s f.b.toNat).toNat % 32
    WordDoes (.lget f) (fun _ _ => True) (fun x t => x.set t fun b =>
      b.setS f.d.toNat (if f.mb 6 then b.w f.a.toNat (k x b) else (b.v f.a.toNat (k x b)).setWidth 64))) ∧
  (∀ f : RForm,
    let k (b : Batt) : Nat := if f.mb 5 then f.mf 4 0 else (b.s f.b.toNat).toNat % 32
    WordDoes (.lset f) (fun _ _ => True) (fun x t => x.set t fun b =>
      if f.mb 6 then b.setW f.d.toNat (lane1 (k b)) fun _ => b.s f.a.toNat
      else b.setV f.d.toNat (lane1 (k b)) fun _ => (b.s f.a.toNat).setWidth 32))

/-- The register words that never trap leave everything but their own batt as it was: memory, caches, logs and every other batt. -/
def Obligations.RegisterWordsTouchTheirBattAlone : Prop :=
  ∀ i, (match i with
      | .getsr _ | .setsr _ | .plop _ | .pmov _ | .pfold _ | .lxch _ | .peer _ | .lget _ | .lset _ | .rfree _ | .nop _ | .fence _
      | .rjset _ | .rjoin _ | .rjdrop _ | .mxq _ | .abfree _ | .abfreeAll _ | .azeroAll _ => true
      | _ => false) = true →
    ∀ s x n t, s.clear i = some (x, n, t) → ∃ u, exec i s = .next u ∧ OnlyBatt x.core x.slot s u

/-- RUNTAG brings the dropped registers of its range back as it is prepared, so that none is tagged any longer when it executes, and
takes no other effect; RFREE drops the range, pinned registers excepted (R147, R166). RTAG, where its recipe passes the checks, computes the
recipe's target over every lane and tags it, with the depth of R151, FPSR gaining the flags of the active lanes (R48; log 31); a refused one traps UNDEF with the address of its recipe's entry as it
is prepared, a failed evaluation is reported for ACTIVE, and an enabled exception traps FPX, each with the registers that the preparation
backed still backed (R151; the lanes that are named are the model's choice, logs 31, 77).
The paired word (R74): both slots read before either writes, slot x is written before slot y, a slot whose guard is true in no lane writes
nothing (R147), FPSR gains the flags of both; an enabled exception in either traps FPX and nothing is written. -/
def Obligations.TagAndPairedWords : Prop :=
  ((∀ f : RForm, WordDoes (.runtag f) (fun _ _ => True) (fun x t => x.set t fun b => (b.rangeRegs f).foldl Batt.untag b)) ∧
   (∀ (f : RForm) (s : State) x n (t : State) b, s.clear (.runtag f) = some (x, n, t) → s.batt? x.core x.slot = some b →
     (b.vregs.map (·.num)).Pairwise (· < ·) → ∀ y ∈ (x.at t).rangeRegs f, ((x.at t).vreg? y).bind (·.tag) = none) ∧
   (∀ f : RForm, WordDoes (.rfree f) (fun _ _ => True)
     (fun x t => x.set t fun b => { b with vregs := b.vregs.filter fun r => !(b.rangeRegs f).contains r.num })) ∧
   (∀ (f : RForm) (l : List Instr) (d : AluDst) (e : Batt) (flags tr : List Nat),
     let bad (b : Batt) : Mask := maskOf fun i => (tr.getD i 0) &&& fld b.fpcr 4 0 != 0
     let run (x : Iss) (t : State) : Prop := t.rtagCheck (x.at t) f = some (l, d) ∧ t.evalWords (x.at t) l [] [] = .ok e flags tr
     WordDoes (.rtag f) (fun x t => run x t ∧ bad (x.at t) = 0)
       (fun x t => x.set t fun b =>
         { (dstRegs d).foldl (fun (e : Batt) n => match e.vreg? n with
             | some r => { e with vregs := putVReg e.vregs { r with tag := some (f.mf 5 0, recipeDepth (x.at t) l d) } }
             | none => e) e with
           fpsr := b.fpsr ||| BitVec.ofNat 32 ((lanesOf x.active).foldl (fun a i => a ||| flags.getD i 0) 0) }) ∧
     WordTrapsIn (.rtag f) (fun x t => run x t ∧ bad (x.at t) ≠ 0) (fun x t => x.set t fun b => b.keepBacks (dstRegs d))
       (fun x t => (lanesOf x.active).map fun i =>
         { lane := i, cause := if bad (x.at t) &&& x.active = 0 ∨ inMask (bad (x.at t)) i = true then cFPX else 0, flags := tr.getD i 0 })) ∧
   (∀ (f : RForm) l d lanes rep lv (s : State) x n (t : State), s.clear (.rtag f) = some (x, n, t) → t.rtagCheck (x.at t) f = some (l, d) →
     t.evalWords (x.at t) l [] [] = .fault lanes rep lv →
     let named := evalCauses x.active 0 lanes
     let u := x.set t fun b => b.keepBacks (dstRegs d)
     exec (.rtag f) s = .next (if rep then u.takeFault x.core x.slot x.word x.pc named 0 lv false 0 (some (lowestAddr lanes)) else wordTraps x n named u)) ∧
   (∀ (f : RForm) (s : State) b0 low n, s.theTurn = .go b0 low n → s.wordWaits b0 (.rtag f) low = false →
     let b := b0.takeTurn low
     let active := b.activeFor (.rtag f) low
     active ≠ 0 → s.rtagCheck b f = none →
     exec (.rtag f) s = .next (((s.modBatt b.core b.slot fun _ => b).modBatt b.core b.slot fun b => b.countTurn low n).takeTrap b.core b.slot
       ((encode (.rtag f)).getD 0) (b.lane low).pc (b.splitOf low) 0 (causesOf active cUNDEF (s.recipeAddr b (f.mf 5 0)))))) ∧
  (∀ f : PForm,
     let ax (x : Iss) (t : State) : Mask := (x.at t).guarded x.split f.x.g
     let ay (x : Iss) (t : State) : Mask := (x.at t).guarded x.split f.y.g
     let rx (x : Iss) (t : State) : List FRes := slotResults f.x (x.at t) (ax x t)
     let ry (x : Iss) (t : State) : List FRes := slotResults f.y (x.at t) (ay x t)
     let bad (x : Iss) (t : State) : Mask := maskOf fun l => (resAt (rx x t) l).traps (x.at t).fpcr || (resAt (ry x t) l).traps (x.at t).fpcr
     let write (sl : Slot) (m : Mask) (rs : List FRes) (b : Batt) : Batt := if sl.sop = 0 ∨ m = 0 then b else b.put (slotDst sl) m fun l => (resAt rs l).bits
     WordDoes (.pairedWord f) (fun x t => bad x t = 0)
       (fun x t => x.set t fun b =>
         { write f.y (ay x t) (ry x t) (write f.x (ax x t) (rx x t) b) with
           fpsr := b.fpsr ||| BitVec.ofNat 32 ((rx x t ++ ry x t).foldl (fun acc q => acc ||| q.flags) 0) }) ∧
     WordTraps (.pairedWord f) (fun x t => bad x t ≠ 0)
       (fun x t => (lanesOf (ax x t ||| ay x t)).map fun l =>
         { lane := l, cause := if inMask (bad x t) l then cFPX else 0, flags := (resAt (rx x t) l).tr ||| (resAt (ry x t) l).tr }))

/-! ### Control flow -/

/-- A transfer whose active lanes all have an aligned target below 2^49 (and, for CALLX, one inside its budget) moves exactly those
lanes there and the other lanes of the split to the next word; CALL and CALLX write the link of each active lane; otherwise the word
traps, naming each failing lane with its target (R217 to R221). A CALLX of which a budget entry cannot be read kills its context under the cause
and the address of an unreadable byte (R461): which of several is reported, and that this comes before a trap of another lane, are the model's
choice (log 101). -/
def Obligations.TransferWords : Prop :=
  let cause (t : DWord) : Nat := if fld t 2 0 ≠ 0 then cALIGN else if fld t 63 49 ≠ 0 then cXLAT else 0
  let lane (x : Iss) (target : Nat → DWord) (i : Nat) (ln : Lane) : Lane :=
    if inMask x.active i then { pc := target i, st := .ready } else if inMask x.split i then { pc := ln.pc + 8, st := .ready } else ln
  let moved (x : Iss) (t : State) (target : Nat → DWord) (link : Batt → Batt) : State := x.set t fun b =>
    { link b with lanes := (link b).lanes.mapIdx (lane x target) }
  let goes (i : Instr) (target : Batt → Iss → Nat → DWord) (link : Iss → Batt → Batt) : Prop :=
    WordMoves i (fun x t => ∀ l ∈ lanesOf x.active, cause (target (x.at t) x l) = 0) (fun x t => moved x t (target (x.at t) x) (link x)) ∧
    WordTraps i (fun x t => ∃ l ∈ lanesOf x.active, cause (target (x.at t) x l) ≠ 0)
      (fun x t => ((lanesOf x.active).filter fun l => cause (target (x.at t) x l) != 0).map fun l =>
        { lane := l, cause := cause (target (x.at t) x l), faddr := target (x.at t) x l })
  (∀ f : IForm, goes (.bra f) (fun _ x _ => x.pc + BitVec.ofInt 64 (8 * sval 31 f.imm.toNat)) (fun _ b => b)) ∧
  (∀ f : IForm, goes (.brx f) (fun b x l => x.pc + BitVec.ofInt 64 (8 * (sval 31 f.imm.toNat + sval 32 (b.cv f.a l)))) (fun _ b => b)) ∧
  (∀ f : IForm, goes (.call f) (fun _ x _ => x.pc + BitVec.ofInt 64 (8 * sval 31 f.imm.toNat)) (fun x b => b.setW f.d.toNat x.active fun _ => x.pc + 8)) ∧
  (∀ f : RForm, goes (.ret f) (fun b _ l => b.w f.a.toNat l) (fun _ b => b)) ∧
  (∀ (f : RForm) bad,
    let fails (b : Batt) (l : Nat) : Nat :=
      if cause (b.w f.a.toNat l) ≠ 0 then cause (b.w f.a.toNat l) else if bad.contains (b.w f.a.toNat l) then cBUDGET else 0
    let targets (x : Iss) (t : State) : List DWord := ((lanesOf x.active).map fun l => (x.at t).w f.a.toNat l).eraseDups
    let read (x : Iss) (t : State) : State := t.fetchRuns (x.at t).space (t.budgetRuns (x.at t) (targets x t))
    WordMoves (.callx f)
      (fun x t => t.budgetFails (x.at t) (targets x t) = .ok bad ∧ ∀ l ∈ lanesOf x.active, fails (x.at t) l = 0)
      (fun x t => moved x (read x t) (fun l => (x.at t).w f.a.toNat l) fun b => b.setW f.d.toNat x.active fun _ => x.pc + 8) ∧
    WordTrapsIn (.callx f)
      (fun x t => t.budgetFails (x.at t) (targets x t) = .ok bad ∧ ∃ l ∈ lanesOf x.active, fails (x.at t) l ≠ 0)
      read (fun x t => ((lanesOf x.active).filter fun l => fails (x.at t) l != 0).map fun l =>
        { lane := l, cause := fails (x.at t) l, faddr := (x.at t).w f.a.toNat l })) ∧
  (∀ (f : RForm) s x n t c a, s.clear (.callx f) = some (x, n, t) →
    t.budgetFails (x.at t) (((lanesOf x.active).map fun l => (x.at t).w f.a.toNat l).eraseDups) = .bad c a →
    exec (.callx f) s = .next ((t.addRecord (windowOf (x.at t).space) (plainRecord (x.at t).space c a)).killContext (x.at t).space 1 c))

/-- NOP (R116): it advances its lanes and counts as an issued word.
Settle of R222, and RJSET, RJOIN and RJDROP (R223 to R225): the expected and arrived masks take the values of the rules, then a
mask whose expected lanes have all arrived or exited releases its lanes.
SYNCB (R308): lanes whose masks disagree, or do not hold the lane, or differ from the mask others wait with, trap MASKMIS; a
mask all of whose lanes are here, waiting or exited releases them; else the active lanes wait. YIELD passes the turn (R117). EXIT ends
the active lanes, at once or once their fragments are committed (R229, R391): they are exited, the other lanes of the split stand at the next
word, each rejoin mask settles, and SYNCM is tested again (R308); a rejoin mask of which every expected lane has arrived or exited releases its
arrived lanes, where none of these has exited, and no other lane changes; the batt ends with its last lane, its engine operations and then
its REDs completed first (R230). That a fragment has the coverage its batt
started with, whatever v4 holds at the exit, is the model's choice (log 130). -/
def Obligations.ReconvergenceWords : Prop :=
  (∀ f, WordDoes (.nop f) (fun _ _ => True) (fun _ t => t)) ∧
  ((∀ (b : Batt) n, b.settle n =
     if b.rjA n ≠ 0 ∧ b.rjE n &&& ~~~b.exited &&& ~~~b.rjA n = 0 then { b.advance (b.rjA n) with rejoinA := b.rejoinA.set n 0 } else b) ∧
   (∀ f : RForm, WordMoves (.rjset f) (fun _ _ => True) (fun x t => x.set t fun b =>
     let m : Mask := if f.mb 0 then (b.s f.a.toNat).setWidth 32 else x.active
     ({ b.advance x.split with rejoinE := b.rejoinE.set f.d.toNat (m ||| b.rjA f.d.toNat) }).settle f.d.toNat)) ∧
   (∀ f : RForm, WordMoves (.rjoin f) (fun _ _ => True) (fun x t => x.set t fun b =>
     let g := x.active &&& b.rjE f.d.toNat
     let c := (b.advance (x.split &&& ~~~g)).modLanes g fun l => { l with st := .rejoin }
     ({ c with rejoinA := c.rejoinA.set f.d.toNat (b.rjA f.d.toNat ||| g) }).settle f.d.toNat)) ∧
   (∀ f : RForm, WordMoves (.rjdrop f) (fun _ _ => True) (fun x t => x.set t fun b =>
     ({ b.advance x.split with rejoinE := b.rejoinE.set f.d.toNat (b.rjE f.d.toNat &&& ~~~x.active) }).settle f.d.toNat))) ∧
  ((∀ f : RForm,
     let m (b : Batt) (l : Nat) : Mask := if f.mb 0 then (b.s f.a.toNat).setWidth 32 else b.v f.a.toNat l
     let m0 (x : Iss) (b : Batt) : Mask := m b ((lowLane x.active).getD 0)
     let own (x : Iss) (b : Batt) : Mask := (maskOf fun l => inMask x.active l && m b l != m0 x b) ||| (x.active &&& ~~~m0 x b)
     let bad (x : Iss) (b : Batt) : Mask := if b.atSync ≠ 0 ∧ own x b = 0 ∧ m0 x b ≠ b.syncm then x.active else own x b
     WordMoves (.syncb f) (fun x t => bad x (x.at t) = 0 ∧ m0 x (x.at t) &&& ~~~(x.active ||| ((x.at t).advance (x.split &&& ~~~x.active)).exited ||| (x.at t).atSync) = 0)
       (fun x t => x.set t fun b => ((b.advance (x.split &&& ~~~x.active)).advance (m0 x (x.at t) &&& (x.at t).atSync)).advance x.active) ∧
     WordMoves (.syncb f) (fun x t => bad x (x.at t) = 0 ∧ m0 x (x.at t) &&& ~~~(x.active ||| ((x.at t).advance (x.split &&& ~~~x.active)).exited ||| (x.at t).atSync) ≠ 0)
       (fun x t => x.set t fun b =>
         { (b.advance (x.split &&& ~~~x.active)).modLanes x.active (fun l => { l with st := .syncb }) with syncm := m0 x (x.at t) }) ∧
     WordTraps (.syncb f) (fun x t => bad x (x.at t) ≠ 0) (fun x t => causesOf (bad x (x.at t)) cMASKMIS 0)) ∧
   (∀ (f : RForm) s x n t, s.clear (.yield f) = some (x, n, t) →
     let u := x.set t fun b => { b.advance x.split with cursor := (x.low + 1) % 32, quant := 0 }
     exec (.yield f) s = .next (if (u.quarter x.core (quarterOfSlot x.slot)).ready.isEmpty then u
       else (u.leaveActive x.core x.slot).joinReady x.core x.slot)) ∧
   (∀ f : RForm,
     let lane (x : Iss) (l : Nat) (y : Lane) : Lane :=
       if inMask x.active l then { y with st := .exited } else if inMask x.split l then { pc := y.pc + 8, st := .ready } else y
     let ended (x : Iss) (b : Batt) : Batt := { b with lanes := b.lanes.mapIdx (lane x) }
     let after (x : Iss) (b : Batt) : Batt := (List.range 8).foldl Batt.settle (ended x b)
     WordMoves (.exit f) (fun x t => (x.at t).emits x.active = [] ∧ ((after x (x.at t)).settleSync).exited ≠ BitVec.allOnes 32)
       (fun x t => x.set t fun b => (after x b).settleSync) ∧
     WordMoves (.exit f) (fun x t => (x.at t).emits x.active = [] ∧ ((after x (x.at t)).settleSync).exited = BitVec.allOnes 32)
       (fun x t =>
         let u := ((x.set t fun b => (after x b).settleSync).completeEngines x.core x.slot).finishReds x.core x.slot
         if (u.batt? x.core x.slot).isSome then u.exitBatt x.core x.slot else u) ∧
     (∀ (x : Iss) (b : Batt), b.lanes.length = 32 → b.rejoinA.length = 8 → (∀ n, n < 8 → (ended x b).exited &&& b.rjA n = 0) →
       let full (n : Nat) : Bool := b.rjE n &&& ~~~(ended x b).exited &&& ~~~b.rjA n == 0
       let c := after x b
       c = { ended x b with lanes := c.lanes, rejoinA := b.rejoinA.mapIdx fun n a => if full n then 0 else a } ∧
       ∀ l, l < 32 →
         ((∃ n, n < 8 ∧ full n = true ∧ inMask (b.rjA n) l = true) → (c.lane l).st = .ready) ∧
         ((∀ n, n < 8 → full n = true → inMask (b.rjA n) l = false) → c.lane l = (ended x b).lane l)) ∧
     (∀ c : Batt, c.settleSync =
       if c.atSync ≠ 0 ∧ c.syncm &&& ~~~(c.atSync ||| c.exited) = 0 then c.advance (c.atSync &&& c.syncm) else c) ∧
     WordWaits (.exit f) (fun x t => (x.at t).emits x.active ≠ [])
       (fun x t => (t.emitFrags (x.at t) ((x.at t).emits x.active)).modBatt x.core x.slot fun b => { b with wait := .commit x.instr })))

/-! ### Traps and containment -/

/-- TRAP traps TRAPI and BRK BRKPT, each naming every active lane; TRAP's fault address is its number (R424).
CONTO opens a region with its handler where fewer than four are open and the handler is an aligned address below 2^49, and traps
RANGE, ALIGN or XLAT otherwise; CONTC closes the innermost region or traps RANGE; CONTS reads the state of the open regions, hardening
them first under COMMIT (R425).
An unwind of a batt, its engine operations completed: nothing is pending for it and it waits for nothing, the innermost region is closed, every
lane that has not exited stands ready at its handler, the arrived masks, CURSOR and QUANT are 0, and s63 holds cause, depth and word; its log
entries and peat-store entries of that depth and deeper are gone, its held arrival, its monitors and its queued ABALLOC withdrawn, arrivals that
were counted stand, UNWINDS has advanced, and memory, the scratchpad, the other batts and what its untagged registers hold are as they were
(R426). That recipes which read s63 keep or replay what they gave is the model's reading (log 100). -/
def Obligations.TrapAndContainmentWords : Prop :=
  ((∀ f : RForm, WordTraps (.trap f) (fun _ _ => True) (fun x _ => causesOf x.active cTRAPI (f.mod.setWidth 64))) ∧
   (∀ f : RForm, WordTraps (.brk f) (fun _ _ => True) (fun x _ => causesOf x.active cBRKPT 0))) ∧
  ((∀ f : RForm,
     let h (x : Iss) (t : State) : DWord := (x.at t).s f.a.toNat
     WordDoes (.conto f) (fun x t => (x.at t).regions.length < 4 ∧ fld (h x t) 2 0 = 0 ∧ fld (h x t) 63 49 = 0)
       (fun x t => x.set t fun b => { b with regions := b.regions ++ [{ handler := h x t }] }) ∧
     WordTraps (.conto f) (fun x t => 4 ≤ (x.at t).regions.length) (fun x _ => causesOf x.active cRANGE 4) ∧
     WordTraps (.conto f) (fun x t => (x.at t).regions.length < 4 ∧ fld (h x t) 2 0 ≠ 0) (fun x t => causesOf x.active cALIGN (h x t)) ∧
     WordTraps (.conto f) (fun x t => (x.at t).regions.length < 4 ∧ fld (h x t) 2 0 = 0 ∧ fld (h x t) 63 49 ≠ 0)
       (fun x t => causesOf x.active cXLAT (h x t))) ∧
   (∀ f : RForm,
     WordDoes (.contc f) (fun x t => (x.at t).regions ≠ []) (fun x t => t.closeRegion x.core x.slot) ∧
     WordTraps (.contc f) (fun x t => (x.at t).regions = []) (fun x _ => causesOf x.active cRANGE 0)) ∧
   (∀ f : RForm, WordDoes (.conts f) (fun _ _ => True)
     (fun x t => x.set (if f.mb 0 && (x.at t).revocable then t.harden x.core x.slot else t) fun b => b.setS f.d.toNat (BitVec.ofNat 64 b.cont)))) ∧
  (∀ (s : State) core slot cause pc b, (s.completeEngines core slot).batt? core slot = some b →
    let u := s.completeEngines core slot
    let t := s.unwind core slot cause pc
    let d := b.regions.length
    ((∀ o ∈ (s.core core).engineOps, o.slot ≠ slot) → u = s) ∧
    t = { u with batts := t.batts, felts := t.felts, launches := t.launches, cores := t.cores, clusters := t.clusters, windows := t.windows } ∧
    (∀ x ∈ u.batts, ¬(x.core = core ∧ x.slot = slot) → x ∈ t.batts) ∧
    (∃ c, t.batt? core slot = some c ∧
      c = { b with trapped := [], halted := false, faulted := false, wait := .none, audits := [], ops := [], regions := b.regions.dropLast
                   rejoinA := List.replicate 8 0, cursor := 0, quant := 0, syncm := 0, lanes := c.lanes, vregs := c.vregs
                   scalars := setAt b.scalars 63 (BitVec.ofNat 64 (cause + d * 2 ^ 8 + fld pc 48 3 * 2 ^ 16))
                   sPoison := b.sPoison &&& ~~~(BitVec.ofNat 64 (2 ^ 63)) } ∧
      (∀ l, l < b.lanes.length → l < 32 →
        c.lane l = if (b.lane l).st = .exited then b.lane l else { pc := ((b.regions.getLast?).map (·.handler)).getD 0, st := .ready }) ∧
      ((b.vregs.map (·.num)).Pairwise (· < ·) → ∀ k r, b.vreg? k = some r → r.tag = none → r.backed = true → r.fresh = false → c.vreg? k = some r)) ∧
    (∀ k, k ≠ core → t.core k = u.core k) ∧
    t.core core = { u.core core with
      log := (u.core core).log.filter fun e => !(e.owner == slot && d ≤ e.depth)
      bankQueue := (u.core core).bankQueue.filter fun j => j != slot } ∧
    (∀ k, k ≠ core / 8 → t.cluster k = u.cluster k) ∧
    t.cluster (core / 8) = { u.cluster (core / 8) with
      peat := (u.cluster (core / 8)).peat.filter fun e => !(e.owner == b.id && d ≤ e.depth)
      monitors := (u.cluster (core / 8)).monitors.filter fun m => !(m.core == core && m.slot == slot) } ∧
    (∀ r, (∀ h ∈ (t.bar r).held, h ∈ (u.bar r).held) ∧ t.bar r = { u.bar r with held := (t.bar r).held }) ∧
    (∀ k n g p, b.wait = .held k n g p → ∀ h ∈ (t.bar (b.barRef k n)).held, ∀ x, h ≠ .batt b.id x) ∧
    (b.space < u.windows.length → ∀ w, t.window w =
      if w = b.space then { u.window w with unwinds := (u.window w).unwinds + 1 } else u.window w))

/-! ### Loads and stores -/

/-- Loads whose lanes pass their checks and whose bytes are clean complete: the destination takes the little-endian bytes of each lane;
LDS reads the felt's scratchpad at once (R239, R265, R268, R269). A late LD or LDC, which the choice of the issue makes late (log 1), completes
as an operation that LOAD_RETURN finishes (R124), and that it takes its bytes at its issue is the model's choice (log 106); one that reads poison
traps POISON in the lanes that do (R417).
Stores whose lanes pass their checks complete: ST appends its bytes to the core's log, its lines take their residency handles (R240); a
late one whose log is full waits for room (R257). STS writes the felt's scratchpad, in ascending lane order (R243, R265, R268). LDS and STS
wait for ranges that an engine's operation has locked (R324). PREF brings the sectors of its active lanes into the caches (R270). -/
def Obligations.LoadAndStoreWords : Prop :=
  (let clean (accs : List LaneAcc) (rd : LaneAcc → List (Byte × Bool)) : Prop := ∀ a ∈ accs, ∀ p ∈ rd a, p.2 = false
   let bytes (accs : List LaneAcc) (rd : LaneAcc → List (Byte × Bool)) : Nat → List Byte :=
     laneBytes (accs.map fun a => (a.lane, (rd a).map (·.1)))
   let lanes (accs : List LaneAcc) : Mask := maskOf fun l => accs.any fun a => a.lane == l
   let poisoned (accs : List LaneAcc) (rd : LaneAcc → List (Byte × Bool)) : List LaneCause :=
     (accs.filter fun a => (rd a).any (·.2)).map fun a => { lane := a.lane, cause := cPOISON, faddr := a.ea }
   let late (x : Iss) (t : State) (accs : List LaneAcc) (rd : LaneAcc → List (Byte × Bool)) : State := t.addOp x.core x.slot fun id =>
     { x.op id with accs := accs, vals := laneIds.map fun l => BitVec.ofNat 64 (numOf ((bytes accs rd l).take 8)),
                    bvals := laneIds.map fun l => BitVec.ofNat 64 (numOf ((bytes accs rd l).drop 8)),
                    poison := maskOf fun l => accs.any fun a => a.lane == l && (rd a).any (·.2) }
   (∀ (f : MForm) accs,
     let ok (x : Iss) (t : State) : Prop := Passed ((lanesOf (loadLanes f x)).map (t.ldLane x f (t.isChecked (x.at t) x.instr x.pc))) accs
     let seen (x : Iss) (t : State) : State := t.loadSettle x.core accs
     let rd (x : Iss) (t : State) : LaneAcc → List (Byte × Bool) := (seen x t).loadBytes x.core x.slot f.cp.toNat
     let after (x : Iss) (t u : State) : State := (u.loadFills x.core (x.at t).space f.cp.toNat accs).drewHost accs
     WordDoes (.ld f) (fun x t => ok x t ∧ (seen x t).choice.late = false ∧ clean accs (rd x t))
       (fun x t => after x t (x.set (seen x t) fun b => b.putLoad f (lanes accs) (bytes accs (rd x t)))) ∧
     WordDoes (.ld f) (fun x t => ok x t ∧ (seen x t).choice.late = true) (fun x t => after x t (late x (seen x t) accs (rd x t))) ∧
     WordTrapsIn (.ld f) (fun x t => ok x t ∧ (seen x t).choice.late = false ∧ ¬ clean accs (rd x t))
       (fun x t => after x t (seen x t)) (fun x t => poisoned accs (rd x t))) ∧
   (∀ (f : MForm) accs,
     let ok (x : Iss) (t : State) : Prop := Passed ((lanesOf (loadLanes f x)).map (t.ldcLane x f (t.isChecked (x.at t) x.instr x.pc))) accs
     let rd (x : Iss) (t : State) (a : LaneAcc) : List (Byte × Bool) := a.locs.map (t.constByte x.core (x.at t).space)
     WordDoes (.ldc f) (fun x t => ok x t ∧ t.choice.late = false ∧ clean accs (rd x t))
       (fun x t => (x.set t fun b => b.putLoad f (lanes accs) (bytes accs (rd x t))).constFill x.core (x.at t).space accs) ∧
     WordDoes (.ldc f) (fun x t => ok x t ∧ t.choice.late = true) (fun x t => (late x t accs (rd x t)).constFill x.core (x.at t).space accs) ∧
     WordTrapsIn (.ldc f) (fun x t => ok x t ∧ t.choice.late = false ∧ ¬ clean accs (rd x t))
       (fun x t => t.constFill x.core (x.at t).space accs) (fun x t => poisoned accs (rd x t))) ∧
   (∀ (f : MForm) accs,
     let rd (x : Iss) (t : State) (a : LaneAcc) : List (Byte × Bool) :=
       t.scratchBytes (x.at t).id.lnum (x.at t).id.felt a.ea.toNat (widthOf f.wd)
     let ok (x : Iss) (t : State) : Prop := Passed ((lanesOf (loadLanes f x)).map (t.scratchLane x f (t.isChecked (x.at t) x.instr x.pc))) accs
     let locked (x : Iss) (t : State) : Bool :=
       (t.core x.core).loadLocked x.slot (x.at t).id.lnum (x.at t).id.felt (accRanges accs (widthOf f.wd))
     WordDoes (.lds f) (fun x t => ok x t ∧ locked x t = false ∧ clean accs (rd x t))
       (fun x t => x.set t fun b => b.putLoad f (loadLanes f x) (bytes accs (rd x t))) ∧
     WordStalls (.lds f) false (fun x t => ok x t ∧ locked x t = true) ∧
     WordTraps (.lds f) (fun x t => ok x t ∧ locked x t = false ∧ ¬ clean accs (rd x t)) (fun x t => poisoned accs (rd x t)))) ∧
  ((∀ (f : MForm) accs,
     let bytes (x : Iss) (t : State) : List (Loc × Byte × Bool) := storedBytes accs ((x.at t).storeBytes f)
     WordDoes (.st f) (fun x t => Passed ((lanesOf x.active).map (t.stLane x f)) accs ∧ t.logWait x (bytes x t) = false)
       (fun x t => ((t.appendBytes x.core x.slot (x.at t).space none (bytes x t)).storeHits (x.at t).space accs).tlbFillAll
         x.core (x.at t).space (accs.map (·.ea))) ∧
     WordStalls (.st f) true (fun x t => Passed ((lanesOf x.active).map (t.stLane x f)) accs ∧ t.logWait x (bytes x t) = true)) ∧
   (∀ (f : MForm) accs,
     let ok (x : Iss) (t : State) : Prop := Passed ((lanesOf x.active).map (t.scratchLane x f false)) accs
     let locked (x : Iss) (t : State) : Bool := (t.core x.core).storeLocked (x.at t).id.lnum (x.at t).id.felt (accRanges accs (widthOf f.wd))
     WordDoes (.sts f) (fun x t => ok x t ∧ locked x t = false)
       (fun x t =>
         (accs.foldl (fun s a => s.scratchWrite (x.at t).id.lnum (x.at t).id.felt a.ea.toNat ((x.at t).storeBytes f a.lane) false) t).scratchWhole
           (x.at t).id.lnum (x.at t).id.felt (accRanges accs (widthOf f.wd))) ∧
     WordStalls (.sts f) false (fun x t => ok x t ∧ locked x t = true)) ∧
   (∀ f : MForm,
     let one (x : Iss) (b : Batt) (s : State) (l : Nat) : State :=
       match s.translate x.core b.space l (memEa f true b l) with
       | .ok loc _ _ =>
         if loc.target == .dev && !loc.quar && !s.pageQuarantined loc.pa then
           let s := s.l2Fill loc b.space (memEa f true b l).toNat
           (if f.cp = 2 then s else s.l1Fill x.core loc).tlbFill x.core b.space (memEa f true b l)
         else s
       | _ => s
     WordDoes (.pref f) (fun _ _ => True) (fun x t => (lanesOf x.active).foldl (one x (x.at t)) t)))

/-- What lanes of a memory word that fail a check come to: where every failure is a replayable translation, a fault that names them,
with the access and the level of a failure of the lowest address (log 25); else a trap that names every failing lane with its own cause
(R266, R267). The checks of the scratchpad words have no translation: they trap. -/
def Obligations.FailedChecksAreReported : Prop :=
  let any (_ : Iss) (_ : State) : Prop := True
  let scratch (i : Instr) (rs : Iss → State → List LaneRes) : Prop :=
    WordTraps i (fun x t => laneBads (rs x t) ≠ []) (fun x t => (laneBads (rs x t)).map (·.1))
  let checked (x : Iss) (t : State) : Bool := t.isChecked (x.at t) x.instr x.pc
  (∀ f : MForm, LanesReport (.ld f) 0 any fun x t => (lanesOf (loadLanes f x)).map (t.ldLane x f (checked x t))) ∧
  (∀ f : MForm, LanesReport (.ldc f) 0 any fun x t => (lanesOf (loadLanes f x)).map (t.ldcLane x f (checked x t))) ∧
  (∀ f : MForm, LanesReport (.st f) 1 any fun x t => (lanesOf x.active).map (t.stLane x f)) ∧
  (∀ f : MForm, scratch (.lds f) fun x t => (lanesOf (loadLanes f x)).map (t.scratchLane x f (checked x t))) ∧
  (∀ f : MForm, scratch (.sts f) fun x t => (lanesOf x.active).map (t.scratchLane x f false))

/-- After an STS each byte of the felt's scratchpad that active lanes store holds the byte of the highest such lane, every other byte
is as it was, and so is the poison of every word that no lane stores a byte of; every other felt is as it was; nothing else of the state
has changed but the turn of the storing batt, memory, caches, launches, contexts and the device's registers included (R231, R265). -/
def Obligations.ScratchStoreFrame : Prop :=
  ∀ (f : MForm) accs s x n t, s.clear (.sts f) = some (x, n, t) →
    let b := x.at t
    let w := widthOf f.wd
    Passed ((lanesOf x.active).map (t.scratchLane x f false)) accs →
    (t.core x.core).storeLocked b.id.lnum b.id.felt (accRanges accs w) = false →
    (∀ y, t.felt? b.id.lnum b.id.felt = some y → y.scratch.wf = true) → (t.felt? b.id.lnum b.id.felt).isSome = true →
    ∃ u c, exec (.sts f) s = .next u ∧ u.batt? x.core x.slot = some c ∧
      (∀ a, u.scratchRead b.id.lnum b.id.felt a 1 =
        match accs.reverse.find? fun p => decide (p.ea.toNat ≤ a) && decide (a < p.ea.toNat + w) with
        | some p => [(b.storeBytes f p.lane).getD (a - p.ea.toNat) 0]
        | none => t.scratchRead b.id.lnum b.id.felt a 1) ∧
      (∀ k, (∀ p ∈ accs, 4 * k + 4 ≤ p.ea.toNat ∨ p.ea.toNat + w ≤ 4 * k) →
        u.scratchBad b.id.lnum b.id.felt (4 * k) 4 = t.scratchBad b.id.lnum b.id.felt (4 * k) 4) ∧
      (∀ ln fe, (ln, fe) ≠ (b.id.lnum, b.id.felt) → u.felt? ln fe = s.felt? ln fe) ∧
      u = { s with batts := u.batts, felts := u.felts } ∧ (∀ k m, (k, m) ≠ (x.core, x.slot) → u.batt? k m = s.batt? k m) ∧
      c = { b with lanes := c.lanes, cursor := c.cursor, quant := c.quant, absorbed := c.absorbed }

/-- The append of an ST for whose parts the log has room puts its bytes into its core's log: there its batt's loads find at each stored byte
the value of the highest lane that stores it, and at every other byte what they found before (R239, R243, R244). The append leaves the logs
of the other cores, memory, level two, the sluice and what a read of any location finds at its home as they were (R238). The next state is
the append followed by the lines' handles (R240) and the translations that the TLBs keep, whose walks read level two (R411, R413); these
change no log. -/
def Obligations.StoresStayInTheLog : Prop :=
  ∀ (f : MForm) accs s x n t, s.KeysOk → s.clear (.st f) = some (x, n, t) → x.core < s.cores.length →
    let bytes := storedBytes accs ((x.at t).storeBytes f)
    let supply (v : State) (y : Loc) : Option Byte := (logSupply (v.core x.core).log x.slot y).map fun e => e.data.getD (y.pa % 64) 0
    Passed ((lanesOf x.active).map (t.stLane x f)) accs →
    logRoom (t.core x.core) (sectorWrites ((bytes.filter fun p => !p.1.quar).map fun p => (p.1, p.2.1))) x.slot (x.at t).space
      (x.at t).pinDepth false t.choice.noCoalesce = true →
    ∃ u v, exec (.st f) s = .next u ∧ v = t.appendBytes x.core x.slot (x.at t).space none bytes ∧
      v = { s with batts := v.batts, cores := v.cores } ∧ (∀ loc, v.homeByte loc = s.homeByte loc) ∧
      (∀ c, c ≠ x.core → v.core c = s.core c) ∧
      (∀ y : Loc, supply v y =
        match bytes.reverse.find? fun p => !p.1.quar && p.1.sector == y.sector && p.1.pa % 64 == y.pa % 64 with
        | some p => some p.2.1
        | none => supply s y) ∧
      u = wordDone x n ((v.storeHits (x.at t).space accs).tlbFillAll x.core (x.at t).space (accs.map (·.ea))) ∧
      ∀ c, (u.core c).log = (v.core c).log

/-- A part of a store that joins the log is what its batt's loads then find there: a byte it holds is supplied with its value, and
every other byte is supplied as before (R239, R243, R244). -/
def Obligations.AppendedBytesAreSupplied : Prop :=
  ∀ (c : CoreSt) (w : SectorWrite) owner space depth pois decline (x : Loc),
    (c.log.map (·.pos)).Nodup →
    let supply (k : CoreSt) : Option Byte := (logSupply k.log owner x).map fun e => e.data.getD (x.pa % 64) 0
    supply (appendOne owner space depth pois decline c w) =
      if x.sector = w.loc.sector ∧ w.mask.getLsbD (x.pa % 64) = true then some (w.data.getD (x.pa % 64) 0) else supply c

/-- Ordering and draining words complete with their release, acquire or fulling (R246 to R251, R256, R273 to R275); a late ACQ, ACQR or
REL at cluster scope or wider completes as an operation that events of its own finish, a REL queued for its grant (R245, R249, R258).
Residency words: HBIND replaces the handle of its number by its range, and the lines of the earlier binding are no longer its lines; a bad
range traps RANGE, a number above 63 changes nothing; HPRIO sets a handle's priority; HDROP removes it and its hold on level-two sectors
(R277). -/
def Obligations.OrderingAndResidencyWords : Prop :=
  ((∀ f : RForm, WordDoes (.fence f) (fun _ _ => True) (fun _ t => t)) ∧
   (∀ f : RForm,
     WordDoes (.acq f) (fun _ t => t.choice.late = false) (fun x t => t.acquireTo x.core (f.mf 1 0) t.dev.granted) ∧
     WordDoes (.acq f) (fun _ t => t.choice.late = true) (fun x t => t.addOp x.core x.slot fun id => { x.op id with num := t.dev.granted })) ∧
   (∀ f : RForm,
     let rel (x : Iss) (t : State) : Nat × State :=
       (if f.mf 1 0 = 0 then t else t.hardenOpen x.core x.slot).releaseAt x.core (x.at t).space (f.mf 1 0)
     WordDoes (.rel f) (fun _ t => t.choice.late = false ∨ f.mf 1 0 = 0)
       (fun x t => x.set (rel x t).2 fun b => if f.mb 2 then b.setS f.d.toNat (BitVec.ofNat 64 (rel x t).1) else b) ∧
     WordDoes (.rel f) (fun _ t => t.choice.late = true ∧ f.mf 1 0 ≠ 0)
       (fun x t => ((t.hardenOpen x.core x.slot).addOp x.core x.slot fun id => x.op id).modCore x.core fun c =>
         { c with pubQueue := c.pubQueue ++ [some (x.slot, (x.at t).nextOp)] })) ∧
   (∀ f : RForm,
     WordDoes (.acqr f) (fun _ t => t.choice.late = false)
       (fun x t => ((List.range 128).foldl (fun s c =>
         if namesCore ((x.at t).s f.a.toNat) ((x.at t).s f.b.toNat) c then s.promote c (x.at t).space else s) t).acquireAt x.core 2) ∧
     WordDoes (.acqr f) (fun _ t => t.choice.late = true)
       (fun x t => t.addOp x.core x.slot fun id => { x.op id with vals := [(x.at t).s f.a.toNat, (x.at t).s f.b.toNat] })) ∧
   (∀ f : RForm, WordDoes (.fenceo f) (fun _ _ => True)
     (fun x t => (t.drainUpTo (t.core x.core).view).fullEntries x.core fun _ => true)) ∧
   (∀ f : RForm, WordDoes (.full f) (fun _ _ => True) (fun x t => t.fullEntries x.core fun e => e.space == (x.at t).space)) ∧
   (∀ f : RForm, WordDoes (.flushh f) (fun _ _ => True) (fun x t => ((t.hardenOpen x.core x.slot).releaseAt x.core (x.at t).space 3).2))) ∧
  ((∀ f : RForm,
     let h (x : Iss) (t : State) : Nat := ((x.at t).s f.a.toNat).toNat
     let base (x : Iss) (t : State) : Nat := ((x.at t).s f.b.toNat).toNat
     let len (x : Iss) (t : State) : Nat := ((x.at t).s f.c.toNat).toNat
     let good (x : Iss) (t : State) : Prop := base x t % 65536 = 0 ∧ len x t % 65536 = 0 ∧ len x t ≠ 0 ∧ base x t + len x t ≤ 2 ^ 49
     WordDoes (.hbind f) (fun x t => h x t < 64 ∧ good x t)
       (fun x t => (t.unmark (x.at t).space (h x t)).modCtx (x.at t).space fun c => { c with handles := insertBy (fun a b => a.num < b.num) (c.handles.filter fun y => y.num != h x t) { num := h x t, base := base x t, len := len x t, prio := f.mf 2 0 } }) ∧
     WordDoes (.hbind f) (fun x t => 64 ≤ h x t) (fun _ t => t) ∧
     WordTraps (.hbind f) (fun x t => h x t < 64 ∧ ¬ good x t) (fun x t => causesOf x.active cRANGE (BitVec.ofNat 64 (base x t)))) ∧
   (∀ (t : State) space h y k, y ∈ (t.unmark space h).l2 → k ∈ y.handles → k ≠ (space, h)) ∧
   (∀ f : RForm,
     WordDoes (.hprio f) (fun _ _ => True)
       (fun x t => t.modCtx (x.at t).space fun c => { c with handles := c.handles.map fun y => if y.num == ((x.at t).s f.a.toNat).toNat then { y with prio := f.mf 2 0, demoted := false } else y })) ∧
   (∀ f : RForm,
     let h (x : Iss) (t : State) : Nat := ((x.at t).s f.a.toNat).toNat
     WordDoes (.hdrop f) (fun _ _ => True)
       (fun x t => (t.modCtx (x.at t).space fun c => { c with handles := c.handles.filter fun y => y.num != h x t }).unmark (x.at t).space (h x t))))

/-! ### Atomics, waits, barriers, banks -/

/-- ATOM and RED whose lanes pass their checks make the release of their order, drain the sectors they name, and perform their lanes in
ascending order at the home; ATOM writes what each location held, and acquires where its order says so; a late one completes as an
operation that events of its own finish (R280 to R288); at SCOPE 0 both wait for a range that an engine's operation has locked: they do
not issue until it is released (R324). Lanes that fail a check are reported, with access 1 (R281); an fadd that must not
be reproducible traps NONREPRO, an arrival of RED at a barrier that it may not use BARMEM (R282, R288).
WAITA completes with the value it read where its condition holds, and waits where it fails (R290, R291). PUTS sends its payload and
then its flag to the host, or completes as an operation that an event finishes, where it is late or follows one that is not delivered yet
(R292, R293). An address or range of either that fails its checks is reported for all active lanes: ALIGN of A before that of B, the
source before the destination; a failure is replayable where every range that fails fails so (R292; log 24). -/
def Obligations.AtomicAndWaitWords : Prop :=
  ((∀ (f : RForm) accs,
     let pre (x : Iss) (t : State) : State := t.atomBefore x f accs
     let run (x : Iss) (t : State) : List (Nat × DWord × Bool) × State :=
       (pre x t).atomAll (x.at (pre x t)) (atomScope f) (atomOp f) (f.mb 0) (atomSize f) accs (atomVals (x.at (pre x t)) f f.b) (atomVals (x.at (pre x t)) f f.d)
     let ok (x : Iss) (t : State) : Prop := nonRepro t x f = false ∧ Passed ((lanesOf x.active).map (t.atomLaneCheck x f)) accs ∧
       atomLocked t x f accs = false
     WordDoes (.atom f) (fun x t => ok x t ∧ (pre x t).choice.late = false ∧ (laneVals (run x t).1).1 = 0)
       (fun x t => (run x t).2.atomReturned x.core x.slot f x.active 0 fun l => (laneVals (run x t).1).2.getD l 0) ∧
     WordTrapsIn (.atom f) (fun x t => ok x t ∧ (pre x t).choice.late = false ∧ (laneVals (run x t).1).1 ≠ 0)
       (fun x t => (run x t).2.atomReturned x.core x.slot f x.active (laneVals (run x t).1).1 fun l => (laneVals (run x t).1).2.getD l 0)
       (fun x t => (accs.filter fun a => inMask (laneVals (run x t).1).1 a.lane).map fun a => { lane := a.lane, cause := cPOISON, faddr := a.ea }) ∧
     WordDoes (.atom f) (fun x t => ok x t ∧ (pre x t).choice.late = true)
       (fun x t => (pre x t).addOp x.core x.slot fun id =>
         { x.op id with accs := accs, bvals := atomVals (x.at (pre x t)) f f.b, dvals := atomVals (x.at (pre x t)) f f.d }) ∧
     WordStalls (.atom f) false (fun x t => nonRepro t x f = false ∧ Passed ((lanesOf x.active).map (t.atomLaneCheck x f)) accs ∧
       atomLocked t x f accs = true) ∧
     WordTraps (.atom f) (fun x t => nonRepro t x f = true) (fun x _ => causesOf x.active cNONREPRO 0) ∧
     LanesReport (.atom f) 1 (fun x t => nonRepro t x f = false) fun x t => (lanesOf x.active).map (t.atomLaneCheck x f)) ∧
   (∀ (f : RForm) accs,
     let pre (x : Iss) (t : State) : State := t.atomBefore x f accs
     let run (x : Iss) (t : State) : State :=
       ((pre x t).atomAll (x.at t) (atomScope f) (atomOp f) (f.mb 0) (atomSize f) accs (atomVals (x.at t) f f.b) []).2
     let passed (x : Iss) (t : State) : Prop := nonRepro t x f = false ∧ Passed ((lanesOf x.active).map (t.atomLaneCheck x f)) accs
     let ok (x : Iss) (t : State) : Prop := passed x t ∧ (bit1 f.d 9 && barDenied t (x.at t) f.d) = false ∧ atomLocked t x f accs = false
     WordDoes (.red f) (fun x t => ok x t ∧ (pre x t).choice.late = false)
       (fun x t => if bit1 f.d 9 then (run x t).redArrive x.core x.slot f else run x t) ∧
     WordDoes (.red f) (fun x t => ok x t ∧ (pre x t).choice.late = true)
       (fun x t => (pre x t).addOp x.core x.slot fun id => { x.op id with accs := accs, bvals := atomVals (x.at t) f f.b }) ∧
     WordStalls (.red f) false (fun x t => passed x t ∧ (bit1 f.d 9 && barDenied t (x.at t) f.d) = false ∧ atomLocked t x f accs = true) ∧
     WordTraps (.red f) (fun x t => passed x t ∧ (bit1 f.d 9 && barDenied t (x.at t) f.d) = true) (fun x _ => causesOf x.active cBARMEM 0) ∧
     WordTraps (.red f) (fun x t => nonRepro t x f = true) (fun x _ => causesOf x.active cNONREPRO 0) ∧
     LanesReport (.red f) 1 (fun x t => nonRepro t x f = false) fun x t => (lanesOf x.active).map (t.atomLaneCheck x f))) ∧
  ((∀ (f : RForm) a v,
     let check (x : Iss) (t : State) : LaneRes := t.waitaCheck x.core (x.at t).space f ((x.at t).s f.a.toNat)
     let seen (x : Iss) (t : State) : State := t.waitaFills x.core (x.at t).space f a
     WordDoes (.waita f) (fun x t => check x t = .ok a ∧ t.waitaTry x.core x.slot f a = .done v)
       (fun x t => x.set (seen x t) fun b => b.setS f.d.toNat (BitVec.ofNat 64 v)) ∧
     WordWaits (.waita f) (fun x t => check x t = .ok a ∧ t.waitaTry x.core x.slot f a = .fail)
       (fun x t => (seen x t).takeMonitor x.core x.slot x.instr a) ∧
     WordTrapsIn (.waita f) (fun x t => check x t = .ok a ∧ t.waitaTry x.core x.slot f a = .poison) seen
       (fun x t => causesOf x.active cPOISON ((x.at t).s f.a.toNat)) ∧
     OneReport (.waita f) 0 (fun _ _ => True) check) ∧
   (∀ (f : RForm) src dst bs,
     let len := putsLen f
     let va (x : Iss) (t : State) : DWord := (x.at t).s f.a.toNat
     let vb (x : Iss) (t : State) : DWord := (x.at t).s f.b.toNat
     let xs (x : Iss) (t : State) : LaneRes := t.putsRange x.core (x.at t).space (va x t) len (fun _ _ => 0)
     let xd (x : Iss) (t : State) : LaneRes := t.putsRange x.core (x.at t).space (vb x t) (len + 8) (fun _ _ => 0)
     let ps (x : Iss) (t : State) : LaneRes := t.putsRange x.core (x.at t).space (va x t) len (fun pte _ => if pteBit pte 5 then cPROT else 0)
     let pd (x : Iss) (t : State) : LaneRes := t.putsRange x.core (x.at t).space (vb x t) (len + 8) (fun pte _ => putsPage pte)
     let aligned (x : Iss) (t : State) : Prop := (va x t).toNat % 16 = 0 ∧ (vb x t).toNat % 16 = 0
     let read (x : Iss) (t : State) : List (Byte × Bool) × State :=
       (t.hardenOpen x.core x.slot).putsRead x.core x.slot { lane := 0, ea := va x t, locs := src.locs }
     let ok (x : Iss) (t : State) : Prop := aligned x t ∧ xs x t = .ok src ∧ xd x t = .ok dst ∧ (∃ a, ps x t = .ok a) ∧ (∃ a, pd x t = .ok a) ∧
       (read x t).1 = bs
     let bad (x : Iss) (t : State) : List DWord := ((findIdx (·.2) bs 0).map fun i => va x t + BitVec.ofNat 64 i).toList
     let now (x : Iss) (t : State) : Prop := (read x t).2.choice.late = false ∧ (x.at t).putsOut = false
     WordDoes (.puts f) (fun x t => ok x t ∧ now x t ∧ ∀ p ∈ bs, p.2 = false)
       (fun x t => ((read x t).2.putsSend (dst.locs.take len) (bs.map (·.1))).putsSend (dst.locs.drop len)
         (bytesOf 8 ((x.at t).s f.c.toNat).toNat)) ∧
     WordTrapsIn (.puts f) (fun x t => ok x t ∧ now x t ∧ bad x t ≠ []) (fun x t => (read x t).2)
       (fun x t => causesOf x.active cPOISON ((bad x t).headD 0)) ∧
     WordDoes (.puts f) (fun x t => ok x t ∧ ¬ now x t)
       (fun x t => (read x t).2.addOp x.core x.slot fun id => { x.op id with
         accs := [{ lane := 0, ea := va x t, locs := src.locs }, { lane := 1, ea := vb x t, locs := dst.locs }],
         bvals := [(x.at t).s f.c.toNat], dvals := bad x t, vals := bs.map fun y => y.1.setWidth 64 }) ∧
     WordTraps (.puts f) (fun x t => (va x t).toNat % 16 ≠ 0) (fun x t => causesOf x.active cALIGN (va x t)) ∧
     WordTraps (.puts f) (fun x t => (va x t).toNat % 16 = 0 ∧ (vb x t).toNat % 16 ≠ 0) (fun x t => causesOf x.active cALIGN (vb x t)) ∧
     OneReport (.puts f) 0 (fun x t => aligned x t ∧ ∃ a, xd x t = .ok a) xs ∧
     OneReport (.puts f) 1 (fun x t => aligned x t ∧ ∃ a, xs x t = .ok a) xd ∧
     OneReport (.puts f) 0 (fun x t => aligned x t ∧ ∃ c r l, xd x t = .bad c r l) (fun x t => match xs x t, xd x t with
       | .bad c rep lv, .bad _ rep2 _ => .bad c (rep && rep2) lv
       | r, _ => r) ∧
     OneReport (.puts f) 0 (fun x t => aligned x t ∧ (∃ a, xs x t = .ok a) ∧ ∃ a, xd x t = .ok a) ps ∧
     OneReport (.puts f) 0 (fun x t => aligned x t ∧ (∃ a, xs x t = .ok a) ∧ (∃ a, xd x t = .ok a) ∧ ∃ a, ps x t = .ok a) pd))

/-- The operations at an atomic home (R280): what each leaves in an n-bit location that held `old`, with operand b and comparand d; fadd is
the addition of R190 in round to nearest even, subnormals kept; xadd adds the operand's value exactly to the accumulator object (R209). -/
def Obligations.AtomicOperations : Prop :=
  (∀ n old b d : Nat, n = 32 ∨ n = 64 → old < 2 ^ n → b < 2 ^ n →
    atomNew 0 n old b d = (old + b) % 2 ^ n ∧
    ((BitVec.ofNat n old).sle (BitVec.ofNat n b) = true → atomNew 1 n old b d = old ∧ atomNew 2 n old b d = b) ∧
    ((BitVec.ofNat n old).sle (BitVec.ofNat n b) = false → atomNew 1 n old b d = b ∧ atomNew 2 n old b d = old) ∧
    atomNew 3 n old b d = min old b ∧ atomNew 4 n old b d = max old b ∧
    atomNew 5 n old b d = old &&& b ∧ atomNew 6 n old b d = old ||| b ∧ atomNew 7 n old b d = old ^^^ b ∧
    atomNew 8 n old b d = b ∧ atomNew 9 n old b d = (if old = d then b else old) ∧
    atomNew 10 n old b d = (farith .add (if n = 64 then f64 else f32) 0 false old b 0).bits ∧
    (∀ op, op ≤ 9 → atomNew op n old b d < 2 ^ n)) ∧
  (∀ (op : Nat) (wide : Bool) (old : List Byte) (b d : Nat), op ≠ 11 → old.length = 4 ∨ old.length = 8 →
    numOf (atomBytes op wide old b d) = atomNew op (8 * old.length) (numOf old) b d % 2 ^ (8 * old.length)) ∧
  (∀ (wide : Bool) (old : List Byte) (b d : Nat),
    atomBytes 11 wide old b d = (accAdd (accOf old) (decodeF (if wide then f64 else f32) b)).bytes)

/-- An arrival at a barrier with room counts, whether others are held there or not; one of a RED counts and is held as any other, without
its batt (R306). The generation completes exactly when its arrivals reach the count and no bytes are pending, as after any arrival so after
a member's exit: then the phase turns over and the next generation starts empty, and held arrivals are admitted from the head, each counting
as an arrival, which may complete a generation in its turn, until the count is reached or none is held. Beyond the count an arrival is held;
one whose bytes do not fit is refused, at once or when it is admitted, and admission goes on (R298). A launch frozen by a pre-emption
completes nothing (R310). -/
def Obligations.BarrierArrivals : Prop :=
  let one (x : Barrier) (v : Int) : Barrier := { x with arrived := x.arrived + 1, pend := x.pend + v, touched := true }
  let turned (x : Barrier) : Barrier := { x with arrived := 0, touched := false, phase := !x.phase, gen := x.gen + 1 }
  let last (x : Barrier) (v : Int) : Prop := (x.arrived : Int) + 1 = x.count ∧ x.pend + v = 0
  let bytes (who : Held) : Int := match who with | .batt _ v => v | .red => 0
  let admitted (x : Barrier) : Barrier × BarNews := settleBar (2 * x.held.length + 3) true x {}
  let first (who : Held) (x : Barrier) (r : Barrier × BarNews) : Barrier × BarNews := match who with
    | .batt id _ => (r.1, { r.2 with counted := (id, x.gen, x.phase) :: r.2.counted })
    | .red => r
  (∀ (x : Barrier) who,
    let v := bytes who
    ((x.arrived : Int) < x.count → pendOk (x.pend + v) = true →
      (last x v → arriveBar false x who v = first who x (admitted (turned (one x v)))) ∧
      (¬ last x v → arriveBar false x who v = first who x (one x v, {}))) ∧
    ((x.count : Int) ≤ x.arrived → arriveBar false x who v = ({ x with held := x.held ++ [who] }, {})) ∧
    ((x.arrived : Int) < x.count → pendOk (x.pend + v) = false →
      arriveBar false x who v = (x, { refused := match who with | .batt id _ => [id] | .red => [] }))) ∧
  (∀ x : Barrier, ¬(x.touched = true ∧ (x.arrived : Int) = x.count ∧ x.pend = 0) →
    (x.held = [] ∨ (x.count : Int) ≤ x.arrived → admitted x = (x, {})) ∧
    ∀ who rest, x.held = who :: rest → (x.arrived : Int) < x.count →
      let y : Barrier := { x with held := rest }
      let v := bytes who
      (pendOk (x.pend + v) = true ∨ who = .red →
        (last x v → admitted x = first who x (admitted (turned (one y v)))) ∧
        (¬ last x v → admitted x = first who x (admitted (one y v)))) ∧
      (∀ id b, who = .batt id b → pendOk (x.pend + v) = false → admitted x = ((admitted y).1, { (admitted y).2 with refused := id :: (admitted y).2.refused }))) ∧
  (∀ x : Barrier,
    let y : Barrier := { x with count := x.count - 1 }
    (y.touched = true ∧ (y.arrived : Int) = y.count ∧ y.pend = 0 → checkBar false y = admitted (turned y)) ∧
    (¬(y.touched = true ∧ (y.arrived : Int) = y.count ∧ y.pend = 0) → checkBar false y = (y, {}))) ∧
  (∀ x : Barrier, checkBar true x = (x, {}))

/-- The barrier words: a member's arrival that counts completes BARV and BART.ARR, and BARS where it completed the generation, else
BARS waits; an arrival that is held waits for its admission; one whose bytes do not fit traps BARTX; BART adds bytes; BARW acquires where
the phase has turned and waits otherwise; BARQ reads the state word; a barrier that the launch does not declare, or of which an arriving
batt is no member, traps BARMEM (R300 to R305).
The accumulator-bank words: ABALLOC grants zeroed banks at once or joins its core's queue, ABFREE gives banks up, ALD and AST move words of
held banks and lane registers, their .SP forms words of banks and the scratchpad, AZERO zeroes a range or every held bank; a batt that
holds banks already traps NESTALLOC, an address that is not aligned or not in held banks or the scratchpad ALIGN or RANGE, ALD of poisoned
words POISON; a .SP form waits for a range that an engine's operation has locked (R311 to R316, R324). -/
def Obligations.BarrierAndBankWords : Prop :=
  (let arrives (v : BitVec 10) (x : Iss) (t : State) (bytes : Int) (r : ArriveRes) (u : State) : Prop :=
     barDenied t (x.at t) v = false ∧ t.arriveAt x v bytes = (r, u)
   let wait (x : Iss) (u : State) (w : Waiting) : State := x.set u fun b =>
     { (b.advance (x.split &&& ~~~x.active)).modLanes x.active (fun l => { l with st := .barrier }) with wait := w }
   let denied (i : Instr) (v : BitVec 10) : Prop :=
     WordTraps i (fun x t => barDenied t (x.at t) v = true) (fun x _ => causesOf x.active cBARMEM 0)
   (∀ (f : RForm) g ph u,
     WordDoes (.barv f) (fun x t => arrives f.a x t 0 (.counted g ph) u)
       (fun x _ => if f.mb 0 then x.set u fun b => b.setS f.d.toNat (if ph then 1 else 0) else u) ∧
     WordWaits (.barv f) (fun x t => arrives f.a x t 0 .held u) (fun x _ => wait x u (.held (barKind f.a) (barNum f.a) 0 x.instr)) ∧
     WordTrapsIn (.barv f) (fun x t => arrives f.a x t 0 .refused u) (fun _ _ => u) (fun x _ => causesOf x.active cBARTX 0) ∧
     denied (.barv f) f.a) ∧
   (∀ (f : RForm) g ph u,
     WordDoes (.bars f) (fun x t => arrives f.a x t 0 (.counted g ph) u ∧ g < (u.bar ((x.at t).namedBar f.a)).gen)
       (fun x _ => u.acquireAt x.core (barScope (barKind f.a))) ∧
     WordWaits (.bars f) (fun x t => arrives f.a x t 0 (.counted g ph) u ∧ (u.bar ((x.at t).namedBar f.a)).gen ≤ g)
       (fun x _ => wait x u (.counted (barKind f.a) (barNum f.a) g)) ∧
     WordWaits (.bars f) (fun x t => arrives f.a x t 0 .held u) (fun x _ => wait x u (.held (barKind f.a) (barNum f.a) 0 x.instr)) ∧
     WordTrapsIn (.bars f) (fun x t => arrives f.a x t 0 .refused u) (fun _ _ => u) (fun x _ => causesOf x.active cBARTX 0) ∧
     denied (.bars f) f.a) ∧
   (∀ (f : RForm) g ph u,
     let v (x : Iss) (t : State) : Int := sval 64 ((x.at t).s f.b.toNat).toNat
     WordDoes (.bart f) (fun x t => f.mb 0 = true ∧ arrives f.a x t (v x t) (.counted g ph) u) (fun _ _ => u) ∧
     WordWaits (.bart f) (fun x t => f.mb 0 = true ∧ arrives f.a x t (v x t) .held u)
       (fun x t => wait x u (.held (barKind f.a) (barNum f.a) (v x t) x.instr)) ∧
     WordTrapsIn (.bart f) (fun x t => f.mb 0 = true ∧ arrives f.a x t (v x t) .refused u) (fun _ _ => u)
       (fun x _ => causesOf x.active cBARTX 0) ∧
     (∀ n, WordDoes (.bart f)
       (fun x t => f.mb 0 = false ∧ barDenied t (x.at t) f.a = false ∧ t.barBytes ((x.at t).namedBar f.a) (v x t) = some (n, u))
       (fun _ _ => (u.noteRefusals [n]).settleHalted)) ∧
     WordTraps (.bart f) (fun x t => f.mb 0 = false ∧ barDenied t (x.at t) f.a = false ∧ t.barBytes ((x.at t).namedBar f.a) (v x t) = none)
       (fun x _ => causesOf x.active cBARTX 0) ∧
     denied (.bart f) f.a) ∧
   (∀ f : RForm,
     let phase (x : Iss) (t : State) : Bool := (t.bar ((x.at t).namedBar f.a)).phase
     let ph (x : Iss) (t : State) : Bool := ((x.at t).s f.b.toNat).getLsbD 0
     WordDoes (.barw f) (fun x t => barMissing t (x.at t) f.a = false ∧ phase x t ≠ ph x t)
       (fun x t => t.acquireAt x.core (barScope (barKind f.a))) ∧
     WordWaits (.barw f) (fun x t => barMissing t (x.at t) f.a = false ∧ phase x t = ph x t)
       (fun x t => wait x t (.phase (barKind f.a) (barNum f.a) (ph x t))) ∧
     WordTraps (.barw f) (fun x t => barMissing t (x.at t) f.a = true) (fun x _ => causesOf x.active cBARMEM 0) ∧
     WordDoes (.barq f) (fun x t => barMissing t (x.at t) f.a = false)
       (fun x t => x.set t fun b => b.setS f.d.toNat (t.bar ((x.at t).namedBar f.a)).word) ∧
     WordTraps (.barq f) (fun x t => barMissing t (x.at t) f.a = true) (fun x _ => causesOf x.active cBARMEM 0))) ∧
  ((∀ f : RForm,
     let n : Nat := f.mf 3 0 + 1
     let free (x : Iss) (t : State) : Prop := (t.core x.core).bankQueue = [] ∧ n ≤ t.freeBanks x.core
     WordDoes (.aballoc f) (fun x t => (x.at t).banks = [] ∧ free x t)
       (fun x t => x.set t fun b => { b with banks := (List.range n).map fun k => { num := k } }) ∧
     WordWaits (.aballoc f) (fun x t => (x.at t).banks = [] ∧ ¬ free x t)
       (fun x t => x.set (t.modCore x.core fun c => { c with bankQueue := c.bankQueue ++ [x.slot] }) fun b => { b with wait := .banks n }) ∧
     WordTraps (.aballoc f) (fun x t => (x.at t).banks ≠ []) (fun x _ => causesOf x.active cNESTALLOC 0)) ∧
   (∀ f : RForm, WordDoes (.abfree f) (fun _ _ => True)
     (fun x t => x.set t fun b => { b with banks := b.banks.filter fun k => !(b.s f.a.toNat).getLsbD k.num })) ∧
   (∀ f : RForm, WordDoes (.abfreeAll f) (fun _ _ => True) (fun x t => x.set t fun b => { b with banks := [] })) ∧
   (∀ f : RForm,
     let val (b : Batt) (l : Nat) : Nat := numOf (b.bankRead (aldAddr f b l) (aldSize f))
     let bad (x : Iss) (t : State) : List Nat := (lanesOf x.active).filter fun l => ((x.at t).bankBad (aldAddr f (x.at t) l) (aldSize f)).isSome
     WordDoes (.ald f) (fun x t => aldCauses f (x.at t) x.active = [] ∧ bad x t = [])
       (fun x t => x.set t fun b =>
         if f.mb 0 then b.setW f.d.toNat x.active fun l => BitVec.ofNat 64 (val (x.at t) l)
         else b.setV f.d.toNat x.active fun l => BitVec.ofNat 32 (val (x.at t) l)) ∧
     WordTraps (.ald f) (fun x t => aldCauses f (x.at t) x.active = [] ∧ bad x t ≠ [])
       (fun x t => (bad x t).map fun l => { lane := l, cause := cPOISON, faddr := BitVec.ofNat 64 (aldAddr f (x.at t) l) }) ∧
     WordTraps (.ald f) (fun x t => aldCauses f (x.at t) x.active ≠ []) (fun x t => aldCauses f (x.at t) x.active) ∧
     WordDoes (.ast f) (fun x t => aldCauses f (x.at t) x.active = [])
       (fun x t => x.set t fun b => (lanesOf x.active).foldl (fun c l =>
         c.bankStore (aldAddr f b l) (bytesOf (aldSize f) (b.rdD f (f.mb 0) l)) false) b) ∧
     WordTraps (.ast f) (fun x t => aldCauses f (x.at t) x.active ≠ []) (fun x t => aldCauses f (x.at t) x.active) ∧
     ∀ (b : Batt) m l, l < 32 → inMask m l = true →
       let aa := aldAddr f b l
       ((∃ c ∈ aldCauses f b m, c.lane = l ∧ c.cause = cALIGN) ↔ aa % aldSize f ≠ 0) ∧
       ((∃ c ∈ aldCauses f b m, c.lane = l ∧ c.cause = cRANGE) ↔ aa % aldSize f = 0 ∧ (262144 < aa + aldSize f ∨ (b.bankMiss aa (aldSize f)).isSome = true))) ∧
   (∀ f : RForm,
     let aa (b : Batt) : Nat := (b.s f.a.toNat).toNat
     let o (b : Batt) : Nat := (b.s f.b.toNat).toNat
     let n (b : Batt) : Nat := (b.s f.c.toNat).toNat
     let fails (x : Iss) (t : State) : Option (Nat × Nat) := spCheck (x.at t) (t.battScratch (x.at t)) (aa (x.at t)) (n (x.at t)) (some (o (x.at t)))
     let storing (x : Iss) (t : State) : Bool := (t.core x.core).storeLocked (x.at t).id.lnum (x.at t).id.felt [(o (x.at t), n (x.at t))]
     let loading (x : Iss) (t : State) : Bool := (t.core x.core).loadLocked x.slot (x.at t).id.lnum (x.at t).id.felt [(o (x.at t), n (x.at t))]
     WordDoes (.aldSp f) (fun x t => fails x t = none ∧ storing x t = false)
       (fun x t => t.scratchPut (x.at t).id.lnum (x.at t).id.felt (o (x.at t))
         (((x.at t).bankWords (aa (x.at t)) (n (x.at t))).map fun w => taint w.2 w.1).flatten) ∧
     WordStalls (.aldSp f) false (fun x t => fails x t = none ∧ storing x t = true) ∧
     WordDoes (.astSp f) (fun x t => fails x t = none ∧ loading x t = false)
       (fun x t => x.set t fun b => ((chunksOf 4 (n (x.at t)) (t.scratchBytes (x.at t).id.lnum (x.at t).id.felt (o (x.at t)) (n (x.at t)))).foldl
         (fun (acc : Batt × Nat) w => (acc.1.bankStore acc.2 (w.map (·.1)) (w.any (·.2)), acc.2 + 4)) (b, aa (x.at t))).1) ∧
     WordStalls (.astSp f) false (fun x t => fails x t = none ∧ loading x t = true) ∧
     WordDoes (.azero f) (fun x t => spCheck (x.at t) 0 (aa (x.at t)) (n (x.at t)) none = none)
       (fun x t => x.set t fun b => b.bankStore (aa (x.at t)) (List.replicate (n (x.at t)) 0) false) ∧
     ∀ c a,
       WordTraps (.aldSp f) (fun x t => fails x t = some (c, a)) (fun x _ => causesOf x.active c (BitVec.ofNat 64 a)) ∧
       WordTraps (.astSp f) (fun x t => fails x t = some (c, a)) (fun x _ => causesOf x.active c (BitVec.ofNat 64 a)) ∧
       WordTraps (.azero f) (fun x t => spCheck (x.at t) 0 (aa (x.at t)) (n (x.at t)) none = some (c, a))
         (fun x _ => causesOf x.active c (BitVec.ofNat 64 a))) ∧
   (∀ (b : Batt) (scratch aa n : Nat) (off : Option Nat) c a, spCheck b scratch aa n off = some (c, a) →
     (c = cALIGN ∧ a % 4 ≠ 0) ∨ (c = cRANGE ∧ (262144 < n ∨ b.bankMiss aa n = some a ∨ ∃ o, off = some o ∧ scratch < o + n))) ∧
   (∀ f : RForm, WordDoes (.azeroAll f) (fun _ _ => True)
     (fun x t => x.set t fun b => { b with banks := b.banks.map fun k => { num := k.num } })))

/-! ### Engines, signatures, the peat store -/

/-- MXI and the copy words that pass their checks join their engine's queue with their token pending; MXQ reads the engine's status
(R318, R322, R332, R336, R339). One that fails a check traps or faults with the cause of the first check that fails: of a copy FMTDIV,
BARMEM, alignment, range, pages (R336); TXSIG checks its descriptor, then that its texture shares no byte with the signature field, then
pages; MLCLR its descriptor, then pages (R369, R400). The model's choice, not the spec's words: that TXSIG checks its barrier after its
descriptor and before its texture (log 121), which address a failed alignment or range check names and what the range of a CPY2D is (logs 117 to
119), which lanes a failed check of a copy names (log 126), that pages are reported by class and lowest address (log 25), and how PINK rounds (log 145). -/
def Obligations.EngineWords : Prop :=
  (∀ (f : RForm) w d,
    WordDoes (.mxi f) (fun x t => t.mxiChecks x f = .inr (w, d) ∧ (t.mxiPages x w d).2 = [])
      (fun x t => t.enqueueMxi x f.d.toNat w d (t.mxiPages x w d).1) ∧
    (∀ cs, WordTraps (.mxi f) (fun x t => t.mxiChecks x f = .inl cs) (fun _ _ => cs)) ∧
    PagesReport (.mxi f) (fun x t => t.mxiChecks x f = .inr (w, d)) fun x t => (t.mxiPages x w d).2) ∧
  (∀ f : RForm, WordDoes (.mxq f) (fun _ _ => True) (fun x t => x.set t fun b => b.setS f.d.toNat (t.engineStatus x.core))) ∧
  (∀ (f : RForm) (kind : Nat) (i : Instr), (i, kind) ∈ [(Instr.cpy f, 0), (.cpy2d f, 1), (.gath f, 2), (.scat f, 3)] →
    let params (x : Iss) (t : State) : List DWord := (x.at t).copyParams kind f
    let g (x : Iss) (t : State) : CopyGroup := copyGroup kind f.mod (params x t)
    let vec (x : Iss) (t : State) : List Word := (x.at t).copyVec kind f
    let ps (x : Iss) (t : State) : List Piece := (g x t).pieces x.active (vec x t)
    let pages (x : Iss) (t : State) : List (Nat × Loc) × List PageFail := t.enginePages x.core (x.at t).space (copyGlobals (g x t) (ps x t))
    let misaligned (x : Iss) (t : State) : List LaneCause := copyMisaligned (g x t) (ps x t) x.active
    let range (x : Iss) (t : State) : List LaneCause := copyRange (g x t) (ps x t) (t.battScratch (x.at t)) x.active
    let barred (x : Iss) (t : State) : Bool := bit1 f.c 9 && barMissing t (x.at t) f.c
    let formed (x : Iss) (t : State) : Prop := (g x t).bad = false ∧ barred x t = false
    let inside (x : Iss) (t : State) : Prop := formed x t ∧ misaligned x t = [] ∧ range x t = []
    WordDoes i (fun x t => inside x t ∧ (pages x t).2 = [])
      (fun x t => t.enqueueCopy x f.c { t.newOp x f.d.toNat (params x t) (pages x t).1 with mode := copyMode (g x t) (x.at t).fpcr, vec := vec x t }) ∧
    WordTraps i (fun x t => (g x t).bad = true) (fun x _ => causesOf x.active cFMTDIV 0) ∧
    WordTraps i (fun x t => (g x t).bad = false ∧ barred x t = true) (fun x _ => causesOf x.active cBARMEM 0) ∧
    WordTraps i (fun x t => formed x t ∧ misaligned x t ≠ []) misaligned ∧
    WordTraps i (fun x t => formed x t ∧ misaligned x t = [] ∧ range x t ≠ []) range ∧
    PagesReport i inside fun x t => (pages x t).2) ∧
  (∀ (f : RForm) d,
    let a (x : Iss) (t : State) : DWord := (x.at t).s f.a.toNat
    let len : Nat := d.levelOffset d.levels
    let r1 (x : Iss) (t : State) : List (Nat × Loc) × List PageFail := t.enginePages x.core (x.at t).space [(d.base.toNat, len, fun _ => false)]
    let r2 (x : Iss) (t : State) : List (Nat × Loc) × List PageFail :=
      t.enginePages x.core (x.at t).space [((a x t).toNat + 32, 16, fun pte => writeCause pte != 0)]
    let barred (x : Iss) (t : State) : Bool := bit1 f.c 9 && barMissing t (x.at t) f.c
    let meets (x : Iss) (t : State) : Bool := shareByte (d.base.toNat, len) ((a x t).toNat + 32, 16)
    let apart (x : Iss) (t : State) : Prop := t.textureAt x (a x t) = .inr d ∧ barred x t = false ∧ meets x t = false
    WordDoes (.txsig f) (fun x t => apart x t ∧ (r1 x t).2 = [] ∧ (r2 x t).2 = [])
      (fun x t => (t.objectReads x.core (x.at t).space (a x t) 48).enqueueCopy x f.c
        { t.newOp x f.d.toNat [a x t + 32, d.base, BitVec.ofNat 64 len] ((r1 x t).1 ++ (r2 x t).1) with mode := 0 }) ∧
    DescriptorReport (.txsig f) 3 16 48 a a (fun _ _ bs => (texDesc bs).isSome) ∧
    WordTraps (.txsig f) (fun x t => t.textureAt x (a x t) = .inr d ∧ barred x t = true) (fun x _ => causesOf x.active cBARMEM 0) ∧
    WordTraps (.txsig f) (fun x t => t.textureAt x (a x t) = .inr d ∧ barred x t = false ∧ meets x t = true)
      (fun x t => causesOf x.active cRANGE (a x t + 32)) ∧
    PagesReport (.txsig f) apart (fun x t => (r1 x t).2) ∧
    PagesReport (.txsig f) (fun x t => apart x t ∧ (r1 x t).2 = []) (fun x t => (r2 x t).2)) ∧
  (∀ (f : RForm) d,
    let a (x : Iss) (t : State) : DWord := (x.at t).s f.a.toNat
    let len : Nat := 4 * d.width * d.height
    let wr (pte : DWord) : Bool := writeCause pte != 0
    let r (x : Iss) (t : State) : List (Nat × Loc) × List PageFail :=
      t.enginePages x.core (x.at t).space [(d.heads.toNat, len, wr), ((a x t + 120).toNat, 8, wr)]
    WordDoes (.mlclr f) (fun x t => t.targetAt x (a x t) 3 = .inr d ∧ (r x t).2 = [])
      (fun x t => (t.objectReads x.core (x.at t).space (a x t) 128).enqueueCopy x 0 { t.newOp x f.d.toNat [d.heads, a x t + 120, BitVec.ofNat 64 len] (r x t).1 with mode := 0 }) ∧
    DescriptorReport (.mlclr f) 3 64 128 a (fun _ _ => 0) (fun x t bs => ((targetDesc (a x t) bs).map (·.layered)).getD false) ∧
    PagesReport (.mlclr f) (fun x t => t.targetAt x (a x t) 3 = .inr d) fun x t => (r x t).2)

/-- The signature words: SIGI sets the initial state, SIGA absorbs one word in each active lane, SIGF finishes the state, SIGQ folds the
four lanes of each fragment quad (R341, R345, R346).
The peat store's words: MLOOK outside a pure region misses in every lane; inside one each unit is looked up, hits take predicate 1
and their payload, %memo counts; MFILL stores each complete clean unit or decides its audit, and traps AUDIT past the word where one
fails under AUDITTRAP, naming the lanes of the units that failed (R364); a table of pure regions that cannot be read kills the context
(R461); MINV reaches every cluster (R358 to R365). -/
def Obligations.SignatureAndPeatWords : Prop :=
  ((∀ f : RForm, WordDoes (.sigi f) (fun _ _ => True) (fun x t => x.set t fun b =>
     (b.setQuad f.d.toNat x.active fun _ => (0x243F6A8885A308D3, 0x13198A2E03707344)).setV f.c.toNat x.active fun _ => 0)) ∧
   (∀ f : RForm,
     let k (x : Iss) (t : State) : Nat := if (t.recOf (x.at t)).flag 1 then 0 else f.mf 2 0
     let r (x : Iss) (t : State) (l : Nat) : (DWord × DWord) × Word :=
       sigaLane (k x t) ((x.at t).quad f.d.toNat l) ((x.at t).v f.a.toNat l) ((x.at t).v f.c.toNat l)
     WordDoes (.siga f) (fun _ _ => True) (fun x t => x.set t fun _ =>
       ((x.at t).setQuad f.d.toNat x.active fun l => (r x t l).1).setV f.c.toNat x.active fun l => (r x t l).2)) ∧
   (∀ f : RForm, WordDoes (.sigf f) (fun _ _ => True) (fun x t => x.set t fun _ => (x.at t).setQuad f.d.toNat x.active fun l =>
     sigFinal ((x.at t).quad f.d.toNat l).1 ((x.at t).quad f.d.toNat l).2 (fld ((x.at t).v f.c.toNat l) 23 0))) ∧
   (∀ f : RForm, WordDoes (.sigq f) (fun _ _ => True) (fun x t => x.set t fun _ =>
     (x.at t).setQuad f.d.toNat x.active fun l => sigqFold (x.at t) f.a.toNat x.active (l / 4)))) ∧
  ((∀ f : RForm,
     WordDoes (.mlook f) (fun x t => t.regionAt (x.at t) x.pc = .ok none)
       (fun x t => x.set t fun b => { b with audits := b.audits.filter fun p => !auditOf x.active p }.putHits f x.active []) ∧
     ∀ r,
       let units (x : Iss) : List MemoUnit := memoUnits (f.mb 6) x.active
       let acc (x : Iss) (t : State) : LookAcc :=
         if bit1 (x.at t).memo 0 then { nmiss := (units x).length, store := t.cluster (clusterOf x.core) }
         else (units x).foldl (lookUnit (x.at t) f r (t.auditExp (x.at t))) { store := t.cluster (clusterOf x.core) }
       WordDoes (.mlook f) (fun x t => t.regionAt (x.at t) x.pc = .ok (some r))
         (fun x t => (t.modCluster (clusterOf x.core) fun _ => (acc x t).store).modBatt x.core x.slot fun b =>
           ({ b with audits := (b.audits.filter fun p => !auditOf x.active p) ++ (acc x t).audits }.putHits f x.active (acc x t).hits).memoAdd
             (acc x t).nhit (acc x t).nmiss 0 0)) ∧
   (∀ (f : RForm) reg,
     let acc (x : Iss) (t : State) : FillAcc := (memoUnits (f.mb 6) x.active).foldl
       (fillUnit (x.at t) f x.core x.slot (Option.map PureRegion.ident reg)) { audits := (x.at t).audits, store := t.cluster (clusterOf x.core) }
     let after (x : Iss) (t : State) : State := (t.modCluster (clusterOf x.core) fun _ => (acc x t).store).modBatt x.core x.slot fun b =>
       { b with audits := (acc x t).audits }.memoAdd 0 0 (acc x t).fills (if reg = none then 0 else (acc x t).fails)
     let trapped (x : Iss) (t : State) : Prop := (acc x t).fails ≠ 0 ∧ (t.recOf (x.at t)).flag 3 = true
     WordDoes (.mfill f) (fun x t => t.regionAt (x.at t) x.pc = .ok reg ∧ ¬ trapped x t) after ∧
     WordTrapsIn (.mfill f) (fun x t => t.regionAt (x.at t) x.pc = .ok reg ∧ trapped x t)
       (fun x t => x.set (after x t) fun b => b.advance x.split)
       (fun x t => causesOf (maskOf fun l => (acc x t).bad.contains l) cAUDIT 0)) ∧
   (∀ (f : RForm) (i : Instr) c a, i = .mlook f ∨ i = .mfill f → ∀ s x n t, s.clear i = some (x, n, t) →
     t.regionAt (x.at t) x.pc = .bad c a → exec i s = .next (t.killUnreadable (x.at t).space c a)) ∧
   (∀ f : RForm, WordDoes (.minvKey f) (fun _ _ => True) (fun x t => t.sendMinv x (.keys (minvKeys (x.at t) f x.active)))) ∧
   (∀ f : RForm, WordDoes (.minvRegion f) (fun _ _ => True) (fun x t => t.sendMinv x (.region ((x.at t).s f.b.toNat)))) ∧
   (∀ f : RForm, WordDoes (.minvCtx f) (fun _ _ => True) (fun x t => t.sendMinv x .all)))

/-- One absorption (R341): both halves take the word that joins the operand, its class and the count, are rotated and multiplied by
their odd constants, and the count goes up modulo 2^16; so one absorption loses nothing of the state. -/
def Obligations.AbsorptionLosesNothing : Prop :=
  (∀ (g : Sig) q k,
    let w : DWord := BitVec.ofNat 64 (q + k * 2 ^ 32 + g.count * 2 ^ 40)
    g.absorb q k = { h1 := (g.h1 ^^^ w).rotateLeft 27 * 0x8F1B4E2D6A3C5971, h2 := (g.h2 + w).rotateLeft 31 * 0xB5297A4D3C1E6F0B,
                     count := (g.count + 1) % 2 ^ 16 }) ∧
  ∀ (g h : Sig) q k, g.absorb q k = h.absorb q k → g.count = h.count → g = h

/-! ### The frame pipeline's words, LAUNCH and DRAW -/

/-- In a vertex batt VOUT stores its words as a store, or waits for room in its log; in a pixel batt IPA interpolates, where the outputs of
its triangle can be read, and FOUT sets the colour; elsewhere each traps UNDEF (R374, R382, R392, R394). Where an output word that IPA
needs cannot be read, IPA does not issue and its batt leaves the active set: R394 is silent there, and the stall is the model's choice (log
52).
TEX and TLD filter or fetch the texels of each active lane, MLRES composes a pixel's list or decodes one of its layers, MLRD reads
one node: each writes four words in each active lane, where every check passes and nothing read is poisoned, or completes as an operation
that LOAD_RETURN finishes (R396, R400). Lanes that fail a check are reported (R266, R267), poisoned ones trap POISON (R417); no draw traps
UNDEF, no such texture RANGE; the target's descriptor is checked before a list is walked (R400). Which fault address RANGE has there is the
model's choice (log 129). -/
def Obligations.VertexPixelAndTextureWords : Prop :=
  let undef (i : Instr) (c : Iss → State → Prop) : Prop := WordTraps i c (fun x _ => causesOf x.active cUNDEF 0)
  let late (x : Iss) (t : State) (bad : List LaneCause) (v : Nat → List Word) : State := t.addOp x.core x.slot fun id =>
    { x.op id with vals := laneIds.map fun l => (packFour (v l)).1, bvals := laneIds.map fun l => (packFour (v l)).2,
                   poison := maskOf fun l => bad.any fun c => c.lane == l,
                   accs := bad.map fun c => { lane := c.lane, ea := c.faddr, locs := [] } }
  ((∀ (f : RForm) d accs,
     let bytes (x : Iss) (t : State) : List (Loc × Byte × Bool) := storedBytes accs ((x.at t).voutData f)
     let ok (x : Iss) (t : State) : Prop := t.vertexDraw (x.at t) = some d ∧ Passed ((lanesOf x.active).map (t.voutLane x f d)) accs
     WordDoes (.vout f) (fun x t => ok x t ∧ t.logWait x (bytes x t) = false) (fun x t => t.storeDone x accs (bytes x t)) ∧
     WordStalls (.vout f) true (fun x t => ok x t ∧ t.logWait x (bytes x t) = true) ∧
     undef (.vout f) (fun x t => t.vertexDraw (x.at t) = none) ∧
     LanesReport (.vout f) 1 (fun x t => t.vertexDraw (x.at t) = some d) fun x t => (lanesOf x.active).map (t.voutLane x f d)) ∧
   (∀ (f : RForm) d i,
     let pix (x : Iss) (t : State) : Prop := (x.at t).kind = .pixel ∧ t.drawOf (x.at t) = some d ∧ (x.at t).pix = some i
     let outs (x : Iss) (t : State) (k : Nat) : Option (List Word) := t.triWord (x.at t).space d i.tri k
     (∀ ws as, WordDoes (.ipa f) (fun x t => pix x t ∧ outs x t 3 = some ws ∧ outs x t (f.mf 4 0) = some as)
       (fun x t => x.set (t.fetchRuns (x.at t).space (d.triRuns i.tri 3 1 ++ d.triRuns i.tri (f.mf 4 0) 1)) fun b =>
         b.setV f.d.toNat x.active fun l => interpolate (f.mf 7 6) (b.v f.a.toNat l) (b.v (f.a.toNat + 1) l) ws as)) ∧
     WordStalls (.ipa f) true (fun x t => pix x t ∧ (outs x t 3 = none ∨ outs x t (f.mf 4 0) = none)) ∧
     undef (.ipa f) (fun x t => (x.at t).kind ≠ .pixel ∨ t.drawOf (x.at t) = none ∨ (x.at t).pix = none)) ∧
   (∀ (f : RForm) i,
     WordDoes (.fout f) (fun x t => (x.at t).kind = .pixel ∧ (x.at t).pix = some i)
       (fun x t => x.set t fun b => { b with pix := some { i with colours := laneIds.map fun l => if inMask x.active l then some (foutColour f (x.at t) l) else i.colours.getD l none } }) ∧
     undef (.fout f) (fun x t => (x.at t).kind ≠ .pixel ∨ (x.at t).pix = none))) ∧
  ((∀ (f : RForm) (i : Instr) lane, (i, lane) ∈ [(Instr.tex f, texLane f), (Instr.tld f, tldLane f)] →
     undef i (fun x t => t.drawOf (x.at t) = none) ∧
     (∀ d, WordTraps i (fun x t => t.drawOf (x.at t) = some d ∧ d.texs[f.mf 3 0]? = none) (fun x _ => causesOf x.active cRANGE 0)) ∧
     ∀ d accs,
       let looks (x : Iss) (t : State) : List (LaneTexels × List LaneRes) := t.texLooks x d ((lanesOf x.active).map (lane (x.at t) d))
       let seen (x : Iss) (t : State) : State := t.loadSettle x.core (texAccs (looks x t))
       let read (x : Iss) (t : State) : List (LaneTexels × List (LaneAcc × List (Byte × Bool))) := (seen x t).texSeen x (looks x t)
       let after (x : Iss) (t : State) : State := (seen x t).texFills x (texAccs (looks x t))
       let ok (x : Iss) (t : State) : Prop := t.textureOf x f = .inr d ∧ Passed ((looks x t).map texReport) accs
       WordDoes i (fun x t => ok x t ∧ texBad (read x t) = [] ∧ (after x t).choice.late = false)
         (fun x t => x.set (after x t) fun b => b.putFour f.d.toNat x.active (texValue d (read x t))) ∧
       WordDoes i (fun x t => ok x t ∧ (after x t).choice.late = true)
         (fun x t => late x (after x t) (texBad (read x t)) (texValue d (read x t))) ∧
       WordTrapsIn i (fun x t => ok x t ∧ texBad (read x t) ≠ [] ∧ (after x t).choice.late = false) after (fun x t => texBad (read x t)) ∧
       LanesReport i 0 (fun x t => t.textureOf x f = .inr d) fun x t => (looks x t).map texReport) ∧
   (∀ (f : RForm) (i : Instr) (value : Nat → List Node → List Word),
     (i, value) ∈ [(Instr.mlres f, fun _ ns => composeNodes ns), (Instr.mlresLayer f, layerWords (f.mf 2 0)), (Instr.mlrd f, nodeWords (f.mf 2 0))] →
     let a (x : Iss) (t : State) : DWord := (x.at t).s f.b.toNat
     DescriptorReport i 0 64 128 a (fun _ _ => 0) (fun x t bs => ((targetDesc (a x t) bs).map (·.layered)).getD false) ∧
     ∀ d accs,
       let after (x : Iss) (t : State) : State := (t.objectReads x.core (x.at t).space d.addr 128).listFills x ((t.listWalks x f d).map (·.2.1)).flatten
       let ok (x : Iss) (t : State) : Prop := t.targetAt x (a x t) 0 = .inr d ∧ Passed ((t.listWalks x f d).map walkReport) accs
       WordDoes i (fun x t => ok x t ∧ walkBad (t.listWalks x f d) = [] ∧ (after x t).choice.late = false)
         (fun x t => x.set (after x t) fun b => b.putFour f.d.toNat x.active (walkValue (t.listWalks x f d) value)) ∧
       WordDoes i (fun x t => ok x t ∧ (after x t).choice.late = true)
         (fun x t => late x (after x t) (walkBad (t.listWalks x f d)) (walkValue (t.listWalks x f d) value)) ∧
       WordTrapsIn i (fun x t => ok x t ∧ walkBad (t.listWalks x f d) ≠ [] ∧ (after x t).choice.late = false) after
         (fun x t => walkBad (t.listWalks x f d)) ∧
       LanesReport i 0 (fun x t => t.targetAt x (a x t) 0 = .inr d) (fun x t => (t.listWalks x f d).map walkReport) after))

/-- LAUNCH and DRAW: their release, then the record as an acquire at the moment of its reads sees it (R249); a record that passes its checks joins the
queue with the next launch number and its token pending, one that does not traps LAUNCHX or POISON with the failing address; while
256 launches are outstanding the word waits (R110, R112, R375, R376). -/
def Obligations.LaunchWords : Prop :=
  ∀ (f : RForm) (i : Instr) draw, (i, draw) ∈ [(Instr.launch f, false), (Instr.draw f, true)] →
    let rel (x : Iss) (t : State) : Nat × State := (t.hardenOpen x.core x.slot).releaseDevice x.core (x.at t).space 2
    let view (x : Iss) (t : State) : State := (rel x t).2.launchView x.core (rel x t).1
    let got (x : Iss) (t : State) : RecordRes Launch :=
      (view x t).readRecord (x.at (view x t)) ((x.at (view x t)).s f.a.toNat) (rel x t).1 f.d.toNat draw
    (∀ l, WordDoes i (fun x t => (rel x t).2.launches.length < 256 ∧ got x t = .ok l)
      (fun x t => (((view x t).recordReads (x.at (view x t)) ((x.at (view x t)).s f.a.toNat) l).discardCode l.recd.ctx).enqueue x.core x.slot l)) ∧
    (WordWaits i (fun x t => 256 ≤ (rel x t).2.launches.length)
      (fun x t => (rel x t).2.modBatt x.core x.slot fun b => { b with wait := .launch (rel x t).1 x.instr })) ∧
    (∀ s x n t a, s.clear i = some (x, n, t) → (rel x t).2.launches.length < 256 →
      (got x t = .launchx a → exec i s = .next (wordTraps x n (causesOf x.active cLAUNCHX a) (view x t))) ∧
      (got x t = .poison a → exec i s = .next (wordTraps x n (causesOf x.active cPOISON a) (view x t))))

/-! ### Steps of the device -/

/-- What reset leaves (R436, R441, R448, R449): no batt, felt or launch; memory and the sluice in canonical form and empty; nothing but
ID and STAT answers; every context runs with no root and no save area (the roots are the model's choice, log 3); every window is empty;
the power registers hold the values of R436's reset column. -/
def Obligations.ResetState : Prop :=
  State.reset.MemOk ∧ State.reset.KeysOk ∧ State.reset.mem = [] ∧ State.reset.sluice = [] ∧ State.reset.batts = [] ∧ State.reset.felts = [] ∧
  State.reset.launches = [] ∧ State.reset.answers = false ∧ State.reset.dev.stat = 0 ∧
  (∀ c, c < 16 → (State.reset.ctx c).ctxst = 0 ∧ (State.reset.ctx c).root = 0 ∧ (State.reset.ctx c).saveBase = none) ∧
  (∀ w, w < 17 → (State.reset.window w).reg 0x8000 = 0 ∧ (State.reset.window w).reg 0x8008 = 0 ∧ (State.reset.window w).reg 0x8018 = 0) ∧
  (∀ k, k < 16 → [0x00, 0x08, 0x10, 0x18, 0x20].map ((State.reset.cluster k).power.reg false) =
    [10 <<< 20 ||| 12 <<< 16, 10240 <<< 32 ||| 65536, 1048575 <<< 32 ||| 40 <<< 16 ||| 40 <<< 8 ||| 8, 8 <<< 16 ||| 2 <<< 6, 40])

/-- After a thermal trip the device answers nothing and takes no step but a cold reset: while no cold reset is among the inputs, a step
consumes its input and changes nothing else (R431). -/
def Obligations.TrippedDeviceStays : Prop :=
  ∀ s : State, s.dev.tripped = true → .event .coldReset ∉ s.inputs →
    step s = .next { s with inputs := s.inputs.tail }

/-- Every step keeps device memory and the sluice in canonical form. -/
def Obligations.StepKeepsMemory : Prop := ∀ s t : State, s.MemOk → step s = .next t → t.MemOk

/-- Every step keeps what the model names things by unambiguous: the positions in a core's log rise, in the order of appending (R243);
level two holds a sector of a slice once (R236); one batt stands at a place of a core (R14). -/
def Obligations.StepKeepsKeys : Prop := ∀ s t : State, s.KeysOk → step s = .next t → t.KeysOk

/-- The issue queues and the dispatcher: a batt that waits joins its ready queue once its next word meets no long-latency dependence, a full log
among them, whatever else that word waits for (R121, R122, R257); of the free active positions the one that was freed first takes the head of
the queue (the spec's `freed position', log 125); a LAUNCH or DRAW that waited on the limit goes on once fewer than 256 launches are outstanding; in a dispatch cycle launches start whose
context runs and whose launch-barrier slots are free (R14; the moment is the model's choice, log 85), none that has not run before while
the control batt is halted (R19), and the dispatcher places at most one felt, on the first core of R118's round that takes it, of the first
launch in order of priority and then of enqueueing that has a felt to place, may place it and finds such a core, and none only where no
launch does (R112, R118, R121); poison in a save block that a restore reads kills the context (R422), and that one which does not translate does the
same, by R461, is the model's reading (log 86).
A finished launch retires: unless it was killed, its context's stores are published and applied; its marks go, it leaves the list of
launches, and its token word goes to the batt that issued it (R21, R114). A batt at rest is saved once its operations are over and what
waits has been withdrawn (R130, R310); a context is saved when no batt of it is resident and its passes are at rest, and killed with a
record where its save fails (R128, R139, R310, R422). The model's reading: what a batt that rests still waits for
(log 40), that it writes back its core's atomic unit (log 98), that no base is XLAT at address 0 (log 41), which launches the save
area describes, and that a context with none needs no base (log 83), which batt the record
of a failed save names (log 84), that a failed save writes nothing (log 127), and that an earlier save's block which cannot be read
kills as at a restore (log 86). -/
def Obligations.DispatchAndRetirementSteps : Prop :=
  let cannot (u : State) (x : Launch) : Prop :=
    u.mayPlace x = false ∨ x.nextFelt = none ∨ ∃ n, x.nextFelt = some n ∧ u.coreFor x n = none
  ((∀ (s : State) core slot b l, s.batt? core slot = some b → b.free = true → b.turn = some l → (b.lane l).st = .ready →
     s.isActive core slot = false → s.isQueued core slot = false →
     (s.meetsLong b = false → s.storeStalls b = false → exec (.dependenceResolved core slot) s = .next (s.joinReady core slot)) ∧
     (s.meetsLong b = true ∨ s.storeStalls b = true → exec (.dependenceResolved core slot) s = .next s)) ∧
   (∀ (s : State) core q slot rest i, (s.quarter core q).ready = slot :: rest → (s.quarter core q).nextFree = some i →
     exec (.activePositionFill core q) s =
       .next (s.modQuarter core q fun x => { x with ready := rest, active := setAt x.active i (some slot), freed := x.freed.filter (· != i) })) ∧
   (∀ (q : Quarter) before i after, q.freed = before ++ i :: after → q.active[i]? = some none → (∀ j ∈ before, ∃ n, q.active[j]? = some (some n)) →
     q.nextFree = some i) ∧
   (∀ (s : State) core slot i, core < s.cores.length → quarterOfSlot slot < (s.core core).quarters.length →
     let q := s.quarter core (quarterOfSlot slot)
     (∀ j, q.active[j]? = some (some slot) ↔ j = i) →
     (s.leaveActive core slot).quarter core (quarterOfSlot slot) =
       { q with active := setAt q.active i none, freed := (q.freed.filter fun j => j != i) ++ [i] }) ∧
   (∀ (s : State) core slot b (f : RForm) p (i : Instr) draw, (i, draw) ∈ [(Instr.launch f, false), (.draw f, true)] →
     s.batt? core slot = some b → b.wait = .launch p i → s.launches.length < 256 →
     let x := b.waitingIss i
     exec (.launchEnqueue core slot) s = .next (endWaiting x (s.launchRest x f.d.toNat f.a.toNat p draw) s)) ∧
   (∀ s : State, s.startLaunches = { s with launches := s.startLaunches.launches } ∧
     s.startLaunches.launches.map (fun l => { l with started := false }) = s.launches.map (fun l => { l with started := false }) ∧
     ((s.launches.map (·.lnum)).Nodup → s.lbarsUsed ≤ 64 → s.startLaunches.lbarsUsed ≤ 64) ∧
     ((s.launches.map (·.lnum)).Nodup → ∀ l ∈ s.startLaunches.launches, l.started = true → l ∈ s.launches ∨
       (l.killed = false ∧ (s.ctx l.recd.ctx).ctxst = 0 ∧ (s.ctlHalted = true → l.savedBlock.isSome = true)))) ∧
   (∀ (s t : State) l n c m,
     let u := s.startLaunches
     u.dispatchPick = some (l, n, c) → u.claimFirst l = .ok t → t.launch? l.lnum = some m →
     exec .dispatchCycle s = .next (t.place m n c) ∧ u.mayPlace l = true ∧ l.nextFelt = some n ∧ u.coreFor l n = some c ∧
     ∃ before after, u.launches = before ++ l :: after ∧ ∀ x ∈ u.launches,
       l.recd.prio < x.recd.prio ∧ x.recd.prio ≤ 3 ∨ x.recd.prio = l.recd.prio ∧ x ∈ before → cannot u x) ∧
   (∀ (s : State) l n c, s.coreFor l n = some c →
     let core (i : Nat) : Nat := (s.dev.dispatchLast + 1 + i) % 128
     let takes (k : Nat) : Prop := s.fits (s.askOf l n) k = true ∧ ∀ f, n = .saved f → k / 8 = f.cluster
     ∃ i, i < 128 ∧ core i = c ∧ takes c ∧ ∀ j, j < i → ¬ takes (core j)) ∧
   (∀ (s : State) l, s.mayPlace l = true ↔ l.killed = false ∧ (s.ctx l.recd.ctx).ctxst = 0 ∧ l.started = true ∧
     (∀ c ∈ s.cores, ∀ e ∈ c.log, e.published = true → e.depth = 0 → serialLe e.num l.point = false) ∧
     ((s.ctx l.recd.ctx).poolStop = true → l.pass = none)) ∧
   (∀ (s : State) l n c e a, s.startLaunches.dispatchPick = some (l, n, c) → s.startLaunches.claimFirst l = .bad e a →
     exec .dispatchCycle s = .next (s.startLaunches.restoreFails l.recd.ctx e a)) ∧
   (∀ s : State, s.startLaunches.dispatchPick = none → exec .dispatchCycle s = .next s.startLaunches ∧
     ∀ x ∈ s.startLaunches.launches, x.recd.prio ≤ 3 → cannot s.startLaunches x)) ∧
  ((∀ (s : State) lnum l, s.launch? lnum = some l → l.finished = true →
     let t := (if l.killed then s else s.settleContext l.recd.ctx).dropMarks l.recd.ctx
     exec (.launchRetirement lnum) s =
       .next (({ t with launches := t.launches.filter fun x => x.lnum != lnum } : State).giveToken l.owner l.token
         (BitVec.ofNat 64 (l.lnum * 2 ^ 32 + l.cause % 256 * 2 ^ 8 + l.status % 256)))) ∧
   (∀ (s : State) core slot b c set, s.batt? core slot = some b → b.space ≠ 16 → (s.ctx b.space).ctxst = 1 → b.ops = [] → s.atRest b = .ok true →
     let t := s.battSettle core slot
     t.batt? core slot = some c → t.contributed c c.splitLows = .ok set →
     exec (.battSave core slot) s = .next ((t.saveBatt core slot set).fetchRuns c.space (t.saveRuns c))) ∧
   (∀ (s : State) core slot b e a, s.batt? core slot = some b → b.space ≠ 16 → (s.ctx b.space).ctxst = 1 → b.ops = [] → s.atRest b = .bad e a →
     exec (.battSave core slot) s = .next (s.killUnreadable b.space e a)) ∧
   (∀ (s : State) c, c < 16 → (s.ctx c).ctxst = 1 → (∀ b ∈ s.batts, b.space ≠ c) →
     (∀ l ∈ s.launches, l.recd.ctx = c → l.killed = true ∨ l.passAtRest = true) →
     let p := s.savePlan c
     let fails (cause : Nat) (a : DWord) (off : Nat) : Prop :=
       exec (.preemptComplete c) s = .next (s.saveFails c cause a (s.failedBatt c p off))
     (∀ r, s.overHeldRef c = some r → fails cBARTX (BitVec.ofNat 64 r) 0) ∧
     (s.overHeldRef c = none →
       ((s.ctx c).saveBase = none → (s.startedLaunches c = [] → exec (.preemptComplete c) s = .next (s.markSaved c 0 p)) ∧
         (s.startedLaunches c ≠ [] → fails cXLAT 0 0)) ∧
       ∀ base, (s.ctx c).saveBase = some base →
         (∀ e a, s.keptFails c = some (e, a) → exec (.preemptComplete c) s = .next (s.restoreFails c e a)) ∧
         (s.keptFails c = none →
           (∀ t, s.writeParts c base p.parts = .inr t → exec (.preemptComplete c) s = .next ((t.markSaved c base p).fetchRuns c (s.keptRuns c))) ∧
           (∀ e a, s.writeParts c base p.parts = .inl (e, a) → fails (if e = cPROT then cPROT else cXLAT) a (a.toNat - base))))) ∧
   (∀ (s : State) space cause addr (m : BattImage), s.saveFails space cause addr (some m) =
     (s.addRecord (windowOf space)
       { owner := .batt m.lnum m.felt m.b, kind := 2, ctx := space, cause := cause, faddr := addr,
         core := m.core, slot := m.slot, b := m.b, lnum := m.lnum, felt := m.feltNo }).killContext space 3 0))

/-- Returns of operations that were sent: a load's lanes are written and the operation ends, or its poisoned lanes are noted as a trap
with the number of the operation (R403, R404), and its destination is again what it was before the word, which is the model's reading of R147
(log 95); an ATOM or RED performs its lanes at the home in ascending order, an ATOM then returns and
acquires where its order says so, but not where a lane read poison (R282, R287; log 23), a RED with a barrier then arrives (R288, R306); a
PUTS whose turn it is among its batt's sends its payload and then its flag, or traps at a poisoned byte (R293). -/
def Obligations.OperationReturns : Prop :=
  let poisoned (o : Op) : List LaneCause := (o.accs.filter fun a => inMask o.poison a.lane).map fun a => { lane := a.lane, cause := cPOISON, faddr := a.ea }
  let trap (s : State) (core slot : Nat) (o : Op) (l : List LaneCause) : State := s.noteTrap core slot o.word o.pc o.mask 0 l o.id
  let back (s : State) (core slot : Nat) (o : Op) : State := s.modBatt core slot fun b => b.untake (vNums o.dests)
  (∀ (s : State) core slot id o (f : MForm), s.opAt core slot id = some o → o.instr = .ld f ∨ o.instr = .ldc f →
    let value (l : Nat) : List Byte := (bytesOf 8 (o.vals.getD l 0).toNat ++ bytesOf 8 (o.bvals.getD l 0).toNat).take (widthOf f.wd)
    exec (.loadReturn core slot id) s =
      .next ((if o.poison = 0 then s.modBatt core slot fun b => b.putLoad f (maskOf fun l => o.accs.any fun a => a.lane == l) value
        else trap (back s core slot o) core slot o (poisoned o)).endOp core slot id)) ∧
  (∀ (s : State) core slot id o (f : RForm), s.opAt core slot id = some o → o.instr ∈ [Instr.tex f, .tld f, .mlres f, .mlresLayer f, .mlrd f] →
    exec (.loadReturn core slot id) s =
      .next ((if o.poison = 0 then s.modBatt core slot fun b => b.putFour f.d.toNat o.active fun l => unpackFour (o.vals.getD l 0) (o.bvals.getD l 0)
        else trap (back s core slot o) core slot o (o.accs.map fun a => { lane := a.lane, cause := cPOISON, faddr := a.ea })).endOp core slot id)) ∧
  (∀ (s : State) core slot id o (f : RForm), s.opAt core slot id = some o → o.phase = .sent →
    let run := s.atomAll (s.battAt core slot) (atomScope f) (atomOp f) (f.mb 0) (atomSize f)
      (o.accs.filter fun a => !inMask o.poison a.lane) o.bvals o.dvals
    (o.instr = .atom f → exec (.atomicAtHome core slot id) s = .next (run.2.modOp core slot id fun o =>
      { o with phase := .performed, vals := (laneVals run.1).2, poison := o.poison ||| (laneVals run.1).1 })) ∧
    (o.instr = .red f → exec (.atomicAtHome core slot id) s =
      .next (if bit1 f.d 9 then run.2.modOp core slot id fun o => { o with phase := .performed } else run.2.endOp core slot id))) ∧
  (∀ (s : State) core slot id o (f : RForm), s.opAt core slot id = some o → o.phase = .performed →
    (o.instr = .atom f → o.poison = 0 → exec (.atomReturn core slot id) s =
      .next ((s.atomReturned core slot f o.active 0 fun l => o.vals.getD l 0).endOp core slot id)) ∧
    (o.instr = .atom f → o.poison ≠ 0 → exec (.atomReturn core slot id) s =
      .next ((trap (s.atomReturned core slot f o.active o.poison fun l => o.vals.getD l 0) core slot o (poisoned o)).endOp core slot id)) ∧
    (o.instr = .red f → exec (.redArrival core slot id) s = .next ((s.redArrive core slot f).endOp core slot id))) ∧
  (∀ (s : State) core slot id o (f : RForm) src dst, s.opAt core slot id = some o → o.instr = .puts f → o.accs = [src, dst] →
    ((s.battAt core slot).ops.find? fun x => match x.instr with | .puts _ => true | _ => false) = some o →
    (o.dvals = [] → exec (.putsPayloadRead core slot id) s =
      .next (((s.putsSend (dst.locs.take (putsLen f)) (o.vals.map fun v => v.setWidth 8)).putsSend (dst.locs.drop (putsLen f))
        (bytesOf 8 (o.bvals.getD 0 0).toNat)).endOp core slot id)) ∧
    (∀ bad rest, o.dvals = bad :: rest → exec (.putsPayloadRead core slot id) s =
      .next ((trap s core slot o (causesOf o.active cPOISON bad)).endOp core slot id)))

/-- Publication, promotion and acquires: a granted release takes the next number and its batt receives it, a withdrawn request gives
nothing; an early publication acts as a device-scope release that no batt waits on; a promotion publishes up to the youngest mark of the
context and answers; an acquire ends at its point; a full log, or one in which a batt's next store finds no room, makes room: wholly
pinned, the owner of its lowest entry hardens, then everything is fulled (R245, R247, R249, R253, R257).
Fulling and application: a core takes, of its published entries that are not pinned and not taken, that of the lowest number, and of one
number the first in log order, its own L1 copy first; the entry is applied only when it is, of all that wait in any log for its sector, the one
of the lowest number, and of one number the first, and leaves the log (R238, R253, R254). The lower of two numbers is the one since which more
have been granted, which for outstanding numbers is the order of R245. -/
def Obligations.PublicationAndFullingSteps : Prop :=
  let waits (e : LogEntry) : Prop := e.published = true ∧ e.depth = 0
  let lower (granted a b : Nat) : Prop := numberAge granted b < numberAge granted a
  ((∀ (s : State) core slot id rest o (f : RForm), (s.core core).pubQueue = some (slot, id) :: rest →
     let t := s.modCore core fun c => { c with pubQueue := rest }
     t.opAt core slot id = some o → o.instr = .rel f →
     let rel := t.releaseAt core (t.battAt core slot).space (f.mf 1 0)
     exec (.publicationGrant core) s = .next ((rel.2.modBatt core slot fun b => b.putRel f rel.1).endOp core slot id)) ∧
   (∀ (s : State) core rest, (s.core core).pubQueue = none :: rest →
     exec (.publicationGrant core) s = .next (s.modCore core fun c => { c with pubQueue := rest })) ∧
   (∀ (s : State) core entry, (∃ e ∈ (s.core core).log, e.pos = entry ∧ e.depth = 0 ∧ e.scope ≤ 1) →
     exec (.earlyPublication core entry) s = .next (s.publish core (entry + 1) 2).2) ∧
   (∀ (s : State) core slot target b o (f : RForm), s.batt? core slot = some b → b.ops = [o] → o.instr = .acqr f →
     namesCore (o.vals.getD 0 0) (o.vals.getD 1 0) target = true →
     ∃ left, exec (.promotionRequest core slot target) s = .next ((s.promote target b.space).modOp core slot o.id fun o => { o with vals := left }) ∧
       ∀ k, k < 128 → namesCore (left.getD 0 0) (left.getD 1 0) k = (namesCore (o.vals.getD 0 0) (o.vals.getD 1 0) k && k != target)) ∧
   (∀ (s : State) core slot b o (f : RForm), s.batt? core slot = some b → b.ops = [o] →
     (o.instr = .acq f → exec (.acquireWaitEnd core slot) s = .next ((s.acquireTo core (f.mf 1 0) o.num).endOp core slot o.id)) ∧
     (o.instr = .acqr f → (∀ v ∈ o.vals, v = 0) →
       exec (.acquireWaitEnd core slot) s = .next ((s.acquireAt core 2).endOp core slot o.id))) ∧
   (∀ (s : State) core, (768 ≤ (s.core core).log.length ∨ ∃ b ∈ s.batts, b.core = core ∧ s.storeStalls b = true) → s.logStalls core = true) ∧
   (∀ (s : State) core slot, s.logStalls core = true →
     exec (.logFullRelease core slot) s = .next (((s.relievePinned core).fullEntries core fun _ => true).resolve core slot)) ∧
   (∀ (s : State) core slot, s.logStalls core = false →
     exec (.logFullRelease core slot) s = .next ((s.fullEntries core fun _ => true).resolve core slot)) ∧
   (∀ (s : State) core e rest, (s.core core).log = e :: rest → s.logStalls core = true →
     ((∀ x ∈ (s.core core).log, x.depth ≠ 0) → exec (.logPinnedRelief core) s = .next (s.harden core e.owner)) ∧
     ((∃ x ∈ (s.core core).log, x.depth = 0) → exec (.logPinnedRelief core) s = .next s))) ∧
  ((∀ a b, a < 2 ^ 48 → b < 2 ^ 48 → ∀ g, numberAge g a < 2 ^ 47 → numberAge g b < 2 ^ 47 → (lower g a b ↔ serialLt a b = true)) ∧
   (∀ (s : State) core, (s.core core).nextTaken s.dev.granted = none ↔ ∀ x ∈ (s.core core).log, ¬ waits x ∨ x.taken = true) ∧
   (∀ (s : State) core e, core < s.cores.length → (s.core core).nextTaken s.dev.granted = some e → ∃ t, exec (.fulling core) s = .next t ∧
     e ∈ (s.core core).log ∧ waits e ∧ e.taken = false ∧
     (∀ x ∈ (s.core core).log, waits x → x.taken = false →
       ¬ lower s.dev.granted x.num e.num ∧ (numberAge s.dev.granted x.num = numberAge s.dev.granted e.num → e.pos ≤ x.pos)) ∧
     t = { s with cores := t.cores } ∧ (∀ k, k ≠ core → t.core k = s.core k) ∧
     (t.core core).log = (s.core core).log.map (fun x => if x.pos = e.pos then { x with taken := true } else x) ∧
     (t.core core).l1 = (s.core core).l1.map (fun x => if x.sector = e.sector ∧ x.gone = false
       then { x.merge e.mask e.data e.pois with replays := x.replays.map fun r => (r.1, r.2.1 &&& ~~~e.mask, r.2.2) } else x)) ∧
   (∀ (s : State) core entry e, (s.core core).log.find? (fun x => x.pos == entry && x.taken && x.depth == 0) = some e →
     s.publishedOrder.find? (fun x => x.2.sector == e.sector) = some (core, e) →
     exec (.entryApply core entry) s = .next (s.applyEntry core e)) ∧
   (∀ (s : State) core e, (∀ c, c ≠ core → ((s.applyEntry core e).core c).log = (s.core c).log) ∧
     ((s.applyEntry core e).core core).log = (s.core core).log.filter fun x => x.pos != e.pos) ∧
   (∀ (s : State), (∀ c e, (c, e) ∈ s.publishedOrder ↔ e ∈ (s.core c).log ∧ waits e) ∧
     s.publishedOrder.Pairwise fun x y => ¬ lower s.dev.granted y.2.num x.2.num ∧
       (numberAge s.dev.granted x.2.num = numberAge s.dev.granted y.2.num → x.2.pos ≤ y.2.pos)) ∧
   (∀ (s : State) core entry e x, (s.core core).log.find? (fun x => x.pos == entry && x.taken && x.depth == 0) = some e →
     s.publishedOrder.find? (fun x => x.2.sector == e.sector) = some x → x.1 ≠ core ∨ x.2.pos ≠ entry →
     exec (.entryApply core entry) s = .next s))

/-- What evictions, write-backs, compression, partition changes and walks change: the L1 gives up a sector that is not held; a partition change trims it to what the scratchpad leaves, and waits where held
sectors need more (R17, R238; log 80); level two gives up the line of lowest rank, of equal ones the least recently used, of those that no
TFU pins: its dirty bytes go to memory and every other byte of memory stays, the L1s lose their copies of it but for held ones (R17), its frames of a compressed superblock are undone, no other
sector changes but for that, and a slice that these frames bring over 3 MiB gives up further lines, of which dirty bytes alone go to memory
(R11, R236, R237, R240; the sets are log 79's); compression needs all sixteen sectors Valid, takes fewer frames than before and changes no byte (R237); a unit that gives up its
locations writes back those that the address space changed (R285); a walk keeps its leaf in both TLB levels, and reads its entries
through level two (R411, R413). -/
def Obligations.CacheSteps : Prop :=
  (∀ (s : State) core sector, ∃ t, exec (.l1Eviction core sector) s = .next t ∧ t = { s with cores := t.cores } ∧
    (core < s.cores.length → (t.core core).l1 = (s.core core).l1.filter fun x => !(x.sector == sector && x.held.isEmpty))) ∧
  (∀ (s : State) core, core < s.cores.length →
    let room := (576 - s.wantedPartition core) * 16
    let l1 := (s.core core).l1
    let held := l1.filter fun x => !x.held.isEmpty
    (room < held.length → exec (.l1PartitionChange core) s = .next s) ∧
    (held.length ≤ room → ∃ t, exec (.l1PartitionChange core) s = .next t ∧ t = { s with cores := t.cores } ∧
      t.core core = { s.core core with partition := s.wantedPartition core, l1 := (t.core core).l1 } ∧
      (t.core core).l1.Sublist l1 ∧ (t.core core).l1.length = min room l1.length ∧ ∀ x ∈ held, x ∈ (t.core core).l1)) ∧
  (∀ (s : State) slice line, s.mem.wf = true → (s.l2.map fun x => (x.slice, x.sector)).Nodup → s.l2Victim slice line = some line →
    ∃ t : State, exec (.l2Eviction slice line) s = .next (t.l2Fit slice (4 * line)) ∧ (s.l2.length ≤ sliceFrames → t.l2Fit slice (4 * line) = t) ∧
      (∀ a, (∀ x ∈ s.l2, x.sector = a / 64 → x.dirty.getLsbD (a % 64) = false) → (t.l2Fit slice (4 * line)).mem.get a = s.mem.get a) ∧
      t = { s with l2 := t.l2, mem := t.mem, ctxs := t.ctxs, cores := t.cores } ∧
      (∀ c, t.core c = { s.core c with l1 := (s.core c).l1.filter fun y =>
        !(y.held.isEmpty && s.l2.any fun x => x.slice == slice && x.line == line && x.sector == y.sector) }) ∧
      (∀ a, (∀ x ∈ s.l2, x.slice = slice → x.sector / 4 = line → x.sector ≠ a / 64) → t.mem.get a = s.mem.get a) ∧
      (∀ x ∈ t.l2, ¬(x.slice = slice ∧ x.sector / 4 = line) ∧ ∃ y ∈ s.l2, x = { y with frames := x.frames }) ∧
      (∀ y ∈ s.l2, ¬(y.slice = slice ∧ y.sector / 4 = line) → ∃ x ∈ t.l2, x = { y with frames := x.frames }) ∧
      ∀ x ∈ s.l2, x.slice = slice → x.sector / 4 = line →
        ∀ i, i < 64 → t.mem.get (64 * x.sector + i) = if x.dirty.getLsbD i then x.data.getD i 0 else s.mem.get (64 * x.sector + i)) ∧
  (∀ (s : State) slice line, s.l2Victim slice line = some line →
    s.pinned line = false ∧ ∀ y ∈ s.l2, y.slice = slice → Config.l2Set y.line = Config.l2Set line → s.pinned y.line = false →
      s.lineRank slice line < s.lineRank slice y.line ∨
        (s.lineRank slice line = s.lineRank slice y.line ∧ s.lineUsed slice line ≤ s.lineUsed slice y.line)) ∧
  (∀ (s : State) slice line, s.l2Victim slice line ≠ some line → exec (.l2Eviction slice line) s = .next s) ∧
  (∀ (s : State) slice block frames,
    let mine (x : L2Sector) : Bool := x.slice == slice && x.sector / 16 == block && x.valid
    let fits : Prop := 1 ≤ frames ∧ frames ≤ 3 ∧ (s.l2.filter mine).length = 16 ∧ ∀ x ∈ s.l2, mine x = true → x.frames = 0 ∨ frames < x.frames
    (fits → exec (.superblockCompression slice block frames) s =
      .next { s with l2 := s.l2.map fun x => if mine x then { x with frames := frames } else x }) ∧
    (¬ fits → exec (.superblockCompression slice block frames) s = .next s)) ∧
  (∀ (s : State) core space, exec (.atomicUnitWriteback (.l1 core) space) s =
    .next ((s.writeBackLocs space (s.core core).atomUnit).modCore core fun c => { c with atomUnit := c.atomUnit.filter fun x => !x.spaces.contains space })) ∧
  (∀ (s : State) k space, exec (.atomicUnitWriteback (.cluster k) space) s =
    .next ((s.writeBackLocs space (s.cluster k).atomStore).modCluster k fun c => { c with atomStore := c.atomStore.filter fun x => !x.spaces.contains space })) ∧
  (∀ (s : State) core space va loc pte big, fld va 63 49 = 0 → space ≤ 16 →
    let u := s.walkFills space va
    u = { s with l2 := u.l2, mem := u.mem, ctxs := u.ctxs, l2Clock := u.l2Clock, cores := u.cores } ∧
    (∀ c, u.core c = { s.core c with l1 := (u.core c).l1 }) ∧
    (u.walk space va = .ok loc pte big →
      let t : TlbEntry := { space := space, vpage := vpageOf big va, big := big, pte := pte }
      exec (.pageWalk core space va) s = .next ((u.modCore core fun c => { c with tlb1 := tlbKeep 192 c.tlb1 t }).modCluster (clusterOf core)
        fun k => { k with tlb2 := tlbKeep 4096 k.tlb2 t })))

/-- Waits and engines: a noticed monitor entry or a timed re-check reads the location again: where the condition holds the word completes
with the value it read and its entry is free, else it waits on, a timed one trying for an entry (R291). The batt at the head of its core's
bank queue is granted its banks, zero and clean, when so many are free; a restored one takes back those it had (R140, R312). The TFU
fetches the next chunk of every operand, whose sectors stay pinned (R325); one pass of the array runs the block of its number over the
accumulator's cells, a mismatch of the spare row counts and poisons what the row contributed to (R328, R329); a memoised head is looked
up first, and a hit supplies the cells (R331). A head that has done its passes stores its cells and writes its token; a copy that no lock
holds makes its reads, then its writes, then subtracts from its barrier, and writes its token (R322 to R326, R337 to R339). A cluster
without batts changes its peat partition (R352); a store applies the oldest MINV (R361). The model's reading, not the spec's words: that the
operands of one whole chunk of K are fetched in one step (log 43), that a memoised tile is filled as its operation completes, at the depth its batt
has then and with its accumulator row by row as the payload (log 47), which row of a pass the spare row repeats and which columns a narrowed
pass takes (log 44), the order of passes, and which pins an operation that needs more than 2 MiB gives up (log 81), that a re-check of WAITA
is translated and checked anew (log 107). -/
def Obligations.WaitAndEngineSteps : Prop :=
  (∀ (s : State) k entry m timed i, (s.cluster k).monitors[entry]? = some m → m.noticed = true →
    (s.battAt m.core m.slot).wait = .watch timed i →
    exec (.waitMonitorNotice k entry) s =
      .next ((s.modCluster k fun x => { x with monitors := modAt x.monitors entry fun m => { m with noticed := false } }).waitaAgain m.core m.slot i)) ∧
  (∀ (s : State) core slot b i, s.batt? core slot = some b → b.wait = .watch true i →
    exec (.waitaTimedRecheck core slot) s = .next ((s.modBatt core slot fun b => { b with wpoll := b.wpoll + 1 }).waitaAgain core slot i)) ∧
  (∀ (s : State) core slot (f : RForm) a,
    let b := s.battAt core slot
    let t := s.waitaFills core b.space f a
    let free := (t.freeMonitor core slot).modBatt core slot fun b => { b with wait := .none }
    s.waitaCheck core b.space f (b.s f.a.toNat) = .ok a →
    (∀ v, s.waitaTry core slot f a = .done v →
      s.waitaAgain core slot (.waita f) = free.modBatt core slot fun b => (b.setS f.d.toNat (BitVec.ofNat 64 v)).endWait) ∧
    (s.waitaTry core slot f a = .fail → ∀ timed, b.wait = .watch timed (.waita f) →
      s.waitaAgain core slot (.waita f) = if timed then t.takeMonitor core slot (.waita f) a else t)) ∧
  (∀ (s : State) core slot rest b,
    let pop : State := s.modCore core fun c => { c with bankQueue := rest }
    (s.core core).bankQueue = slot :: rest → s.batt? core slot = some b →
    (b.claim = true → exec (.aballocGrant core) s =
      .next (if b.banks.length ≤ s.freeBanks core then pop.modBatt core slot fun b => { b with claim := false } else s)) ∧
    (∀ n, b.claim = false → b.wait = .banks n → exec (.aballocGrant core) s =
      .next (if n ≤ s.freeBanks core then pop.modBatt core slot fun b => { b.endWait with banks := (List.range n).map fun k => { num := k } } else s))) ∧
  (∀ (s : State) core, (s.core core).bankQueue = [] → exec (.aballocGrant core) s = .next s) ∧
  (∀ (s : State) core bad o rest, (s.core core).mxiq = o :: rest → o.step < o.passes →
    (o.ready = false → exec (.matrixPass core bad) s = .next s) ∧
    (o.ready = true → o.prm.memo = false ∨ o.looked = true ∨ o.clean = false →
      let p := if o.begun then o else ({ o with looked := true } : EngineOp).begin (s.battAt core o.slot)
      let rs := p.cells.mapIdx fun x c => o.passCell o.step x c
      let passNo := (s.core core).passNo
      ∃ q : EngineOp, q = { p with looked := true, cells := rs.map (·.1), flags := rs.foldl (fun a r => a ||| r.2.1) p.flags,
                                   poisonIn := p.poisonIn || rs.any (fun r => r.2.2), step := o.step + 1, held := q.held } ∧
        (∀ h ∈ q.held, h ∈ o.held) ∧
        let next (f : CoreSt → CoreSt) (x : EngineOp) : Prop :=
          exec (.matrixPass core bad) s = .next ((s.modCore core fun c => f { c with passNo := c.passNo + 1 }).putMxi core x)
        (bad = none ∨ o.spareRow passNo.toNat o.step = none → next id q) ∧
        (∀ col i, bad = some col → o.spareRow passNo.toNat o.step = some i →
          (s.spareCol core o o.step col = false → next id q) ∧
          (s.spareCol core o o.step col = true →
            next (fun c => { c with mmCount := c.mmCount + 1, mmRow := BitVec.ofNat 6 (passNo.toNat % 32), mmCol := BitVec.ofNat 5 col })
              { q with mismatch := true, cells := q.cells.mapIdx fun x c =>
                  if x / o.prm.n = i ∧ x % o.prm.n / 32 = (o.blockOf o.step).2 then (c.1, true) else c }))) ∧
    (∀ e c, o.ready = true → o.prm.memo = true → o.looked = false → o.clean = true →
      (s.cluster (clusterOf core)).peatLook o.key (s.auditExp (s.battAt core o.slot)) = (.hit e, c) →
      exec (.matrixPass core bad) s =
        .next (((s.modCluster (clusterOf core) fun _ => c).modCluster (clusterOf core) fun c =>
          c.credit (ceilDiv (o.prm.m * o.prm.n * o.prm.k) o.fmtOf.rate)).putMxi core
            { o with looked := true, step := o.passes, held := [], flags := e.flags,
                     cells := (chunksOf o.fmtOf.accSize e.payload.length e.payload).map fun x => (numOf x, false) }))) ∧
  (∀ (o : EngineOp) (b : Batt), (o.begin b).cells = (List.range (o.prm.m * o.prm.n)).map fun x =>
    let z := o.fmtOf.accSize
    if o.prm.oper = 1 then (o.fmtOf.zero, false) else (numOf (b.bankRead (o.prm.acc + x * z) z), (b.bankBad (o.prm.acc + x * z) z).isSome)) ∧
  (∀ (s : State) core o, (s.core core).nextFetch = some o → ∃ (q : EngineOp) (u : State), exec (.tfuFetch core) s = .next (u.putMxi core q) ∧
    let lo := (o.chunkK o.opA.length).1
    let hi := (o.chunkK o.opA.length).2
    let elem (i a n : Nat) : List (Byte × Bool) :=
      if o.prm.global i then (List.range n).map fun j => q.heldByte (a + j) else s.scratchBytes o.lnum o.felt a n
    let grid (m : Nat) (g : Nat → Nat → List (Byte × Bool)) : List (Byte × Bool) :=
      ((List.range m).map fun i => ((List.range (hi - lo)).map fun t => g i (lo + t)).flatten).flatten
    let scales (i base stride m : Nat) : List (Byte × Bool) :=
      if o.fmtOf.scale then ((List.range m).map fun r => elem i (base + r * stride + lo / 32) 1).flatten else []
    q = { o with held := q.held, opA := o.opA ++ [grid o.prm.m fun i k => elem 0 (o.prm.addrA o.fmtOf i k) (elemSize o.fmtOf.af)],
                 opB := o.opB ++ [grid o.prm.n fun j k => elem 1 (o.prm.addrB o.fmtOf k j) (elemSize o.fmtOf.bf)],
                 opSA := o.opSA ++ [scales 2 o.prm.saaddr o.prm.sastr o.prm.m], opSB := o.opSB ++ [scales 3 o.prm.sbaddr o.prm.sbstr o.prm.n] } ∧
    q.held.map (·.1) = o.held.map (·.1) ++ o.newSectors.map (fun a => (o.loc a).sector) ∧
    ((o.held.map (·.1)).Nodup → (q.held.map (·.1)).Nodup) ∧
    ((s.core core).pinsLeft o = true → ∀ a ∈ o.newSectors, (u.putMxi core q).pinned ((o.loc a).sector / 4) = true) ∧
    u = { s with l2 := u.l2, mem := u.mem, ctxs := u.ctxs, l2Clock := u.l2Clock, cores := u.cores } ∧
    ∀ c, u.core c = { s.core c with l1 := (u.core c).l1 }) ∧
  (∀ (s : State) core o rest, (s.core core).mxiq = o :: rest → o.looked = true → o.passes ≤ o.step →
    let z := o.fmtOf.accSize
    let stored : State := (s.modBatt core o.slot fun b =>
      (o.cells.foldl (fun (acc : Batt × Nat) c => (acc.1.bankStore acc.2 (bytesOf z c.1) c.2, acc.2 + z)) (b, o.prm.acc)).1)
    let kept := stored.memoTile core o
    let told := if o.mismatch then kept.modBatt core o.slot fun b =>
      { b with deferred := b.deferred ++ [{ cause := cARRAY, token := o.token, banks := o.banks }] } else kept
    exec (.mxiCompletion core) s = .next (((told.popOp core o.id).writeToken core o.slot o.token
      (BitVec.ofNat 64 (o.flags * 2 ^ 8 + (if o.poisonIn then 2 else 0) + (if o.mismatch then 1 else 0)))).settleHalted) ∧
    (o.prm.memo = false → kept = stored) ∧
    (o.prm.memo = true → o.begun = true → o.mismatch = false → o.poisonIn = false → o.clean = true → o.audit = none →
      kept = stored.modCluster (clusterOf core) fun c => c.peatInsert
        { key := o.key, flags := o.flags, depth := (stored.battAt core o.slot).pinDepth, core := core, slot := o.slot, owner := o.owner,
          payload := (o.cells.map fun c => bytesOf z c.1).flatten })) ∧
  (∀ (s : State) core o rest, (s.core core).copyq = o :: rest → (s.core core).opBlocked o = false →
    let t := ((s.settleFor core o).copyFetch o).draw.2
    let g := o.group
    let sc := match g.scales with | some (a, n, sp, false) => t.copyBytes core o sp a n | _ => []
    let outs := o.pieces.map fun p => (p, g.transform o.mode p.nout sc (t.copyBytes core o g.ssp p.src p.nin))
    let scOut := (outs.map fun x => x.2.scales).flatten
    let put := t.copyOut core o (outs.map (fun x => (x.1.dst, x.2.bytes)) ++ if scOut = [] then [] else [((g.xp : Int), scOut)])
    let data := if g.dsp = true ∧ (∀ x ∈ outs, ∀ y ∈ x.2.bytes, y.2 = false) then
      put.scratchWhole o.lnum o.felt (outs.map fun x => (x.1.dst.toNat, x.2.bytes.length)) else put
    let done := match o.instr with
      | .mlclr _ => data.copyOut core o [(((o.params.getD 1 0).toNat : Int), (bytesOf 8 1).map fun x => (x, false))]
      | _ => data
    let flags := outs.foldl (fun a x => a ||| x.2.flags) 0
    let bad := outs.any (fun x => x.2.bytes.any (·.2)) || scOut.any (·.2)
    let total := (outs.map fun x => x.1.nout).foldl (· + ·) 0 + scOut.length
    let kind := fld o.barField 5 4
    let shown := if kind = 0 then done else (done.publish core (done.core core).nextPos 2).2
    let ends (u : State) (sub : Bool) : Prop := exec (.copyCompletion core) s = .next (((u.popOp core o.id).writeToken core o.slot o.token
      (BitVec.ofNat 64 (flags * 2 ^ 8 + (if sub then 4 else 0) + (if bad then 2 else 0)))).settleHalted)
    (bit1 o.barField 9 = false → ends done false) ∧
    (bit1 o.barField 9 = true →
      (∀ n u, shown.barBytes ((shown.battAt core o.slot).barRef kind (fld o.barField 3 0)) (-(total : Int)) = some (n, u) →
        ends (u.noteRefusals [n]) false) ∧
      (shown.barBytes ((shown.battAt core o.slot).barRef kind (fld o.barField 3 0)) (-(total : Int)) = none → ends shown true))) ∧
  (∀ (s : State) core o rest, (s.core core).copyq = o :: rest → (s.core core).opBlocked o = true → exec (.copyCompletion core) s = .next s) ∧
  (∀ (s : State) k n, (s.cluster k).peatPending = some n → (∀ b ∈ s.batts, clusterOf b.core = k → b.id = .ctl) →
    exec (.peatPartitionChange k) s =
      .next (s.modCluster k fun x => { x with peat := [], peatPending := none, power := { x.power with peats := n } })) ∧
  (∀ (s : State) k m rest, (s.cluster k).minvPending = m :: rest → exec (.minvStoreApply k) s =
    .next (s.modCluster k fun x => { x with minvPending := rest, peat := x.peat.filter fun e => !(e.key.space == m.space && (match m.kind with
      | .keys l => l.contains e.key
      | .region i => e.key.ident == i
      | .all => true)) }))

/-- The steps of a pass. A draw whose entry, textures and pure regions read well starts: by reuse of its vertex cache, with credit, where
its header is valid and holds the draw's signature and count, else with VALID cleared and its vertex felts to place; one that does not
kills its context (R376, R380, R381, R422, R461). The cache is validated, a memoisable draw's header written, when its batts have exited
(R377, R381). A triangle is culled, binned into the tiles that its box meets, one entry in each list, or calls for a flush (R384, R385).
A tile is skipped, with credit, or begun, cleared or reloaded; its next entry becomes pixel felts; or it ends: stored, and in a flush its
list reset, else resolved; behind a closed gate it is stored where it stands (R386, R387, R389, R401). A fragment that may commit is merged
into each sample that it covers, or into its pixel's list, or exhausts the pool (R391, R393, R397 to R399). A pass with nothing left retires,
with a plane entry for each tile (R389). The model's reading or choice, not the spec's words: that an entry or a texture descriptor which cannot
be read kills the context as a bad one does (log 51), that VALID is cleared for every draw that runs vertex felts (log 56), which cluster serves
a pass (log 50), that a step waits where the pipeline's memory does not translate (log 52), that the store at a pass's end leaves the tile's head
(log 131), what a key absorbs where no region starts (log 132), how a mean is encoded (log 133), PAGES of 2^22 (log 134), and when the next draw starts (log 146). -/
def Obligations.PassSteps : Prop :=
  (∀ (s : State) lnum l p, s.openPass lnum = some (l, p) → p.stage = .start → s.applied l.point = true →
    let space := l.recd.ctx
    let a := p.draws + BitVec.ofNat 64 (128 * p.draw)
    (∀ c x, s.sideRead space a 128 = .bad c x → exec (.drawStart lnum) s = .next (s.drawFails space a)) ∧
    ∀ bs, s.sideRead space a 128 = .ok bs →
      let e := drawEntry bs
      (drawEntryBad bs = true → exec (.drawStart lnum) s = .next (s.drawFails space a)) ∧
      (drawEntryBad bs = false →
        (∀ x, s.readTexs space e.textab e.ntex = .inl x → exec (.drawStart lnum) s = .next (s.drawFails space x)) ∧
        ∀ ts, s.readTexs space e.textab e.ntex = .inr ts →
          (∀ c x, s.pureAt l e.info.ventry = .bad c x ∨ ((∃ v, s.pureAt l e.info.ventry = .ok v) ∧ s.pureAt l e.info.fentry = .bad c x) →
            exec (.drawStart lnum) s = .next (s.killUnreadable space c x)) ∧
          ∀ v f const h, s.pureAt l e.info.ventry = .ok v → s.pureAt l e.info.fentry = .ok f →
            s.pipeRead space e.info.const (16 * e.constLen) = some const →
            let d := signDraw { e.info with vpure := v, fpure := f, texs := ts.map (·.1) } const (ts.map fun t => t.2.drop 32)
            s.pipeRead space d.vcache 64 = some h →
            let valid : Prop := recNum h 24 1 % 2 = 1 ∧ h.take 16 = bytesOf 8 d.sig.1.toNat ++ bytesOf 8 d.sig.2.toNat ∧ recNum h 16 8 = 3 * d.ntri
            (∀ ident cost, d.vpure = some (ident, cost) → valid → exec (.drawStart lnum) s =
              .next (((s.putPass lnum { p with infos := p.infos ++ [{ d with reused := true }], stage := .binning, tri := 0 }).modCluster
                (passCluster lnum) fun k => k.credit (cost * vertexFelts d.ntri)).fetchRuns space (s.drawRuns l a e))) ∧
            (∀ t, d.vpure = none ∨ ¬ valid → s.pipeWrite space (d.vcache + 24) [0] = some t → exec (.drawStart lnum) s =
              .next ((t.modLaunch lnum fun l =>
                { l with next := 0, pass := some { p with infos := p.infos ++ [d], stage := .vertices, tri := 0 } }).fetchRuns space (s.drawRuns l a e))))) ∧
  (∀ (s : State) lnum l p d, s.openPass lnum = some (l, p) → p.infos[p.draw]? = some d → p.stage = .vertices →
    l.next = vertexFelts d.ntri → l.left = 0 → l.saved = [] →
    let u := (List.range s.cores.length).foldl (fun s c => if (s.core c).log.isEmpty then s else s.fullEntries c fun e => e.space == l.recd.ctx) s
    let ends (t : State) : Prop := exec (.vertexCacheValidate lnum) s = .next (t.putPass lnum
      { p with stage := .binning, tri := 0, infos := setAt p.infos p.draw { d with validated := true } })
    (d.vpure = none → ends u) ∧
    (∀ t, d.vpure ≠ none → u.pipeWrite l.recd.ctx d.vcache
      (bytesOf 8 d.sig.1.toNat ++ bytesOf 8 d.sig.2.toNat ++ bytesOf 8 (3 * d.ntri) ++ [1] ++ zeroBytes 39) = some t → ends t)) ∧
  (∀ (s t : State) lnum l p q d vs, s.openPass lnum = some (l, p) → p.stage = .binning → s.beginBinning l p = some (t, q) → q.infos[q.draw]? = some d →
    t.triVerts l.recd.ctx d q.tri = some vs →
    let setup := setupTri q.target (vs.map fun v => v.take 4)
    let read (u : State) : State := u.fetchRuns l.recd.ctx (d.triRuns q.tri 0 (4 + d.nout))
    (∀ u, (setup = none ∨ ∃ c z, setup = some (c, z) ∧ culledTri d.cullBack c = true) →
      t.savePass l ({ q with culled := q.culled + 1 }.nextTri d) = some u → exec (.triangleBin lnum) s = .next (read u)) ∧
    ∀ c z, setup = some (c, z) → culledTri d.cullBack c = false →
      let tiles := boxTiles q.target c
      let need := (tiles.filter fun i => (q.tiles.getD i {}).list.length % 7 == 0).length
      let add := tiles.foldl (fun (acc : Pass × List (DWord × List Byte)) i =>
        let r := acc.1.appendEntry i d { draw := q.draw, tri := q.tri, coords := c } vs
        (r.1, acc.2 ++ r.2)) (q, [])
      (q.limit < q.chunks + need → exec (.triangleBin lnum) s = .next (read (t.putPass lnum { q with stage := .flushing }))) ∧
      (∀ u v, q.chunks + need ≤ q.limit → t.pipeWrites l.recd.ctx add.2 = some u → u.savePass l (add.1.nextTri d) = some v →
        exec (.triangleBin lnum) s = .next (read v))) ∧
  (∀ (p : Pass) tile d e vs, tile < p.tiles.length →
    ((p.appendEntry tile d e vs).1.tiles.getD tile {}).list = (p.tiles.getD tile {}).list ++ [e] ∧
    (∀ k, k ≠ tile → (p.appendEntry tile d e vs).1.tiles.getD k {} = p.tiles.getD k {}) ∧
    (p.appendEntry tile d e vs).1.chunks = p.chunks + if (p.tiles.getD tile {}).list.length % 7 = 0 then 1 else 0) ∧
  (∀ (s t : State) lnum tile l p, s.livePass lnum = some (l, p) → (s.ctx l.recd.ctx).ctxst = 0 → (∀ w ∈ p.work, w.tile ≠ tile) → tile < p.tiles.length →
    (p.stage = .flushing → (p.tiles.getD tile {}).list ≠ [] → s.startTile l p tile = some t → exec (.tileRender lnum tile) s = .next t) ∧
    (p.stage = .rendering → (p.tiles.getD tile {}).finished = false →
      (s.skips l p tile = some true → exec (.tileRender lnum tile) s =
        .next (((s.putPass lnum { p with tiles := setAt p.tiles tile { p.tiles.getD tile {} with finished := true } }).modCluster (passCluster lnum)
          fun k => k.credit (p.tiles.getD tile {}).cost).fetchRuns l.recd.ctx (p.planeRuns tile))) ∧
      (s.skips l p tile = some false → s.startTile l p tile = some t →
        exec (.tileRender lnum tile) s = .next (t.fetchRuns l.recd.ctx (p.planeRuns tile))))) ∧
  (∀ (s t : State) (l : Launch) (p : Pass) tile, s.startTile l p tile = some t → ∃ w : TileWork,
    let begun := s.putPass l.lnum { p with work := p.work ++ [w] }
    let upto := (p.tiles.getD tile {}).resume + if p.specs.any fun i => i.tile == tile then 1 else 0
    let reload := p.target.layered = false ∧ ((p.tiles.getD tile {}).stored = true ∨ p.target.load = true)
    (¬ reload → w = clearWork p.target tile upto ∧ t = begun.fetchRuns l.recd.ctx []) ∧
    (reload → s.loadWork l.recd.ctx p.target tile upto = some w ∧ t = begun.fetchRuns l.recd.ctx (p.target.loadRuns tile))) ∧
  (∀ (s : State) lnum tile l p w, s.livePass lnum = some (l, p) → p.work.find? (fun w => w.tile == tile) = some w →
    let tl := p.tiles.getD tile {}
    let rest := p.work.filter fun x => x.tile != tile
    ((s.ctx l.recd.ctx).ctxst = 0 → (∀ i ∈ p.specs, i.tile ≠ tile) →
      (∀ e d vs, tl.list[w.upto]? = some e → p.infos[e.draw]? = some d → s.triVerts l.recd.ctx d e.tri = some vs →
        let zs := ((setupTri p.target (vs.map fun v => v.take 4)).map (·.2)).getD []
        exec (.tileRender lnum tile) s = .next ((s.putPass lnum
          { p with specs := p.specs ++ pixelFelts p.target tile w.upto e zs,
                   work := mapIf (fun x => x.tile == tile) (fun x => { x with upto := x.upto + 1 }) p.work }).fetchRuns
            l.recd.ctx (d.triRuns e.tri 0 (4 + d.nout)))) ∧
      (tl.list.length ≤ w.upto → s.tileBusy lnum p tile = false →
        (∀ t u v q, p.stage = .flushing → s.pipeWrites l.recd.ctx (storeRows p.target w) = some t →
          t.saveTile l { p with work := rest } tile { tl with stored := !p.target.layered, flushed := !p.target.layered, list := [], first := 0, last := 0, resume := 0 } = some (u, q) →
          u.savePass l q.endFlush = some v → exec (.tileRender lnum tile) s = .next v) ∧
        (∀ t, p.stage ≠ .flushing → s.pipeWrites l.recd.ctx (storeRows p.target w ++ resolveRows p.target w) = some t →
          exec (.tileRender lnum tile) s =
            .next (t.putPass lnum { p with work := rest, tiles := setAt p.tiles tile { tl with finished := true } })))) ∧
    (∀ t u q, (s.ctx l.recd.ctx).ctxst ≠ 0 → s.tileBusy lnum p tile = false → s.pipeWrites l.recd.ctx (storeRows p.target w) = some t →
      t.saveTile l { p with work := rest } tile
        { tl with stored := !p.target.layered, resume := if p.specs.any (fun i => i.tile == tile) then w.upto - 1 else w.upto } = some (u, q) →
      exec (.tileRender lnum tile) s = .next (u.putPass lnum q))) ∧
  (∀ (s : State) lnum l p g, s.livePass lnum = some (l, p) → p.frags.find? (fun g => s.mayCommit lnum p g) = some g →
    let q : Pass := { p with frags := p.frags.filter fun h => !(h.owner == g.owner && h.lane == g.lane) }
    (p.target.layered = false → exec (.fragmentCommit lnum) s = .next ((s.putPass lnum
      { q with work := mapIf (fun w => w.tile == g.tile) (mergePlain p.target (p.infos.getD g.draw emptyDraw) g) p.work }).endExit g.owner)) ∧
    ∀ h ns, p.target.layered = true → s.pipeRead l.recd.ctx (p.target.headAddr g.x g.y) 4 = some h →
      s.pixelNodes l.recd.ctx p.target (numOf h / 2 ^ 28) (numOf h % 2 ^ 28) = some ns →
      let r := insertFragment p.target (p.tiles.getD g.tile {}) ns g
      let read (u : State) : State := u.fetchRuns l.recd.ctx (g.listRuns p.target ns)
      (r = .poolx → exec (.fragmentCommit lnum) s = .next (read (s.poolExhausted l.recd.ctx p g))) ∧
      (∀ t u, r = .keep t → s.pipeWrites l.recd.ctx (statusWrites p.target t) = some u →
        exec (.fragmentCommit lnum) s = .next (read ((u.putPass lnum { q with target := t }).endExit g.owner))) ∧
      (∀ ms tl t u, r = .list ms tl t → s.pipeWrites l.recd.ctx (statusWrites p.target t ++ listWrites p.target g.x g.y ms) = some u →
        exec (.fragmentCommit lnum) s = .next (read ((u.putPass lnum { q with target := t, tiles := setAt p.tiles g.tile tl }).endExit g.owner)))) ∧
  (∀ (t : TargetDesc) (d : DrawInfo) (g : Fragment) (w : TileWork), w.depth.length = 1024 * t.samples → w.colour.length = 1024 * t.samples →
    (samplePos t.samples).length = t.samples →
    let base := ((g.y % 32) * 32 + g.x % 32) * t.samples
    let m := mergePlain t d g w
    (∀ k o, (samplePos t.samples)[k]? = some o → Nat.testBit g.cover k = true →
      (m.depth.getD (base + k) 0, m.colour.getD (base + k) []) = mergeSample t.cfmt d g.colour (depthAt g.coords g.zs (pixelPoint g.x g.y o))
        (w.depth.getD (base + k) 0) (w.colour.getD (base + k) [])) ∧
    ∀ i, (∀ k, i = base + k → t.samples ≤ k ∨ Nat.testBit g.cover k = false) →
      m.depth.getD i 0 = w.depth.getD i 0 ∧ m.colour.getD i [] = w.colour.getD i []) ∧
  (∀ (s : State) lnum l p, s.openPass lnum = some (l, p) → p.stage = .rendering → (∀ t ∈ p.tiles, t.finished = true) → p.work = [] → p.specs = [] →
    p.frags = [] → l.left = 0 →
    (∀ t, p.target.sigPlane = 0 → s.savePass l { p with stage := .retired } = some t → exec (.passRetirement lnum) s = .next t) ∧
    (∀ t u, p.target.sigPlane ≠ 0 →
      let keep (t : Tile) : Bool := t.pure && !t.flushed
      let tiles := p.tiles.map fun t => if keep t then t else { t with noSkip := true }
      s.pipeWrites l.recd.ctx ((tiles.mapIdx fun i t => (p.target.planeAt i, if keep t then t.planeBytes else zeroBytes 16)) ++
        ((tiles.mapIdx fun i t => (i, t)).filter fun x => x.2.noSkip).map fun x => (p.headAt x.1, x.2.headBytes)) = some t →
      t.savePass l { p with tiles := tiles, stage := .retired } = some u → exec (.passRetirement lnum) s = .next u))

/-- The host's commands: a write of CMD while BUSY is discarded and sets LOST; otherwise the command starts with its arguments, is checked
against the range of its target, and its result waits; COMMAND_COMPLETE clears BUSY and sets RESULT and CRES; an unknown OP gives 3, a bad
argument, of TGT, ARG0 or ARG1, gives 1 and changes nothing else; one that its state forbids gives 2: RETIRE where the other half of the
array is retired, SETSAVE, PREEMPT and RESTORE by CTXST. CTLLOAD, that of a write of CMD among them which has yet to load its file, takes code and quota from the file, ends the control program and starts the new one, or
gives 1 for a file that it does not take (R413, R441, R442). CRES after a command without a result value is open (log 7); what an ended control
program leaves, where the HKC places the file, and a quota that does not fit are the model's choice (logs 34, 57, 87, 88, 102). -/
def Obligations.HostCommands : Prop :=
  let started (s : State) (op tgt : Nat) : State :=
    s.modDev fun d => { d with busy := true, cmdOp := op, cmdTgt := tgt, cmdDone := false, cmdArg0 := d.arg0, cmdArg1 := d.arg1 }
  let bad (s : State) : State := s.modDev fun d => { d with cmdResult := 1, cmdCres := d.cres, cmdDone := true }
  let ends (s : State) (r : Nat) (u : State) : Prop :=
    u = { s with dev := u.dev, free := s.free + 1 } ∧ ∃ v, u.dev = { s.dev with cmdResult := r, cmdCres := v, cmdDone := true }
  let runs (i : Instr) (op tgt n : Nat) (ok : State → Prop) (r : Nat) (eff : State → State) : Prop :=
    ∀ s : State, s.answers = true → s.dev.busy = false →
      (n ≤ tgt → exec i s = .next (bad (started s op tgt))) ∧
      (tgt < n → ok s → ∃ u, exec i s = .next u ∧ ends (eff (started s op tgt)) r u)
  (∀ (s : State) tgt i, i ∈ [Instr.setroot tgt, .tlbinv tgt, .setsave tgt, .preempt tgt, .restore tgt, .kill tgt, .peatsize tgt, .retire tgt,
      .engstat tgt, .unknownOp] → s.answers = true → s.dev.busy = true → exec i s = .next (s.modDev fun d => { d with lost := true })) ∧
  (∀ (s : State) image, s.answers = true → s.dev.busy = true → s.dev.cmdOp ≠ 10 ∨ s.dev.cmdDone = true →
    exec (.ctlload image) s = .next (s.modDev fun d => { d with lost := true })) ∧
  let denies (i : Instr) (op tgt n : Nat) (wrong : State → Prop) : Prop :=
    ∀ s : State, s.answers = true → s.dev.busy = false → tgt < n → wrong s → exec i s = .next (bad (started s op tgt))
  (∀ tgt, denies (.setroot tgt) 1 tgt 16 fun s => s.dev.arg0.toNat % 65536 ≠ 0 ∨ s.memTop ≤ s.dev.arg0.toNat) ∧
  (∀ tgt, denies (.setsave tgt) 3 tgt 16 fun s => s.dev.arg0.toNat % 4096 ≠ 0) ∧
  (∀ tgt, denies (.peatsize tgt) 7 tgt 16 fun s => s.dev.arg0.toNat = 0 ∨ 3 < s.dev.arg0.toNat) ∧
  (∀ tgt, denies (.retire tgt) 8 tgt 128 fun s => 1 < s.dev.arg0.toNat) ∧
  (∀ tgt, runs (.retire tgt) 8 tgt 128 (fun s => s.dev.arg0.toNat ≤ 1 ∧ (s.core tgt).retired ≠ 0 ∧
    (s.core tgt).retired ≠ BitVec.ofNat 2 (s.dev.arg0.toNat + 1)) 2 id) ∧
  (∀ (s : State) tgt, 128 ≤ tgt → s.answers = true → s.dev.busy = false → exec (.engstat tgt) s = .next (bad (started s 9 tgt))) ∧
  (∀ tgt, runs (.setroot tgt) 1 tgt 16 (fun s => s.dev.arg0.toNat % 65536 = 0 ∧ s.dev.arg0.toNat < s.memTop) 0
    (fun s => s.modCtx tgt fun c => { c with root := s.dev.arg0.toNat })) ∧
  (∀ tgt, runs (.setsave tgt) 3 tgt 16 (fun s => s.dev.arg0.toNat % 4096 = 0 ∧ (s.ctx tgt).ctxst = 0) 0
    (fun s => s.modCtx tgt fun c => { c with saveBase := if s.dev.arg0.toNat = 0 then none else some s.dev.arg0.toNat })) ∧
  (∀ tgt, runs (.setsave tgt) 3 tgt 16 (fun s => s.dev.arg0.toNat % 4096 = 0 ∧ (s.ctx tgt).ctxst ≠ 0) 2 id) ∧
  (∀ tgt, runs (.preempt tgt) 4 tgt 16 (fun s => (s.ctx tgt).ctxst = 0) 0 (fun s => s.preempt tgt)) ∧
  (∀ tgt, runs (.preempt tgt) 4 tgt 16 (fun s => (s.ctx tgt).ctxst ≠ 0) 2 id) ∧
  (∀ tgt, runs (.restore tgt) 5 tgt 16 (fun s => (s.ctx tgt).ctxst = 2) 0 (fun s => s.startRestore tgt)) ∧
  (∀ tgt, runs (.restore tgt) 5 tgt 16 (fun s => (s.ctx tgt).ctxst ≠ 2) 2 id) ∧
  (∀ tgt, runs (.kill tgt) 6 tgt 16 (fun _ => True) 0 (fun s => s.killContext tgt 2 0)) ∧
  (∀ tgt, runs (.peatsize tgt) 7 tgt 16 (fun s => 1 ≤ s.dev.arg0.toNat ∧ s.dev.arg0.toNat ≤ 3) 0
    (fun s => (s.modCluster tgt fun k => { k with peatPending := some s.dev.arg0.toNat }).settlePeat tgt)) ∧
  (∀ tgt, runs (.retire tgt) 8 tgt 128 (fun s => s.dev.arg0.toNat ≤ 1 ∧ ((s.core tgt).retired = 0 ∨ (s.core tgt).retired = BitVec.ofNat 2 (s.dev.arg0.toNat + 1))) 0
    (fun s => s.modCore tgt fun c => { c with retired := BitVec.ofNat 2 (s.dev.arg0.toNat + 1) })) ∧
  (∀ (s : State) tgt, tgt < 128 → s.answers = true → s.dev.busy = false → exec (.engstat tgt) s =
    .next ((started s 9 tgt).modDev fun d => { d with cmdResult := 0, cmdCres := (started s 9 tgt).engineStatus tgt, cmdDone := true })) ∧
  (∀ (s : State) tgt, s.answers = true → s.dev.busy = false →
    let va := s.dev.arg0.toNat
    let len := s.dev.arg1.toNat
    (16 ≤ tgt ∨ va % 65536 ≠ 0 ∨ len % 65536 ≠ 0 → exec (.tlbinv tgt) s = .next (bad (started s 2 tgt))) ∧
    (tgt < 16 → va % 65536 = 0 → len % 65536 = 0 →
      let t := (started s 2 tgt).dropTlbs tgt (invRange va len)
      ((∀ c ∈ s.cores, ∀ o ∈ c.engineOps, o.inRange tgt (invRange va len) = false) → ∃ u, exec (.tlbinv tgt) s = .next u ∧ ends t 0 u) ∧
      ((∃ c ∈ s.cores, ∃ o ∈ c.engineOps, o.inRange tgt (invRange va len) = true) → exec (.tlbinv tgt) s = .next t))) ∧
  (∀ (s t : State) image, s.answers = true →
    s.dev.busy = false ∧ t = started s 10 0 ∨ s.dev.busy = true ∧ s.dev.cmdOp = 10 ∧ s.dev.cmdDone = false ∧ t = s →
    let rd (i : Nat) : Byte := t.l2ByteAny (t.dev.cmdArg0.toNat + i)
    let len := t.dev.cmdArg1.toNat
    let fits := len ≤ 2 ^ 24 ∧ t.dev.cmdArg0.toNat + len ≤ s.memTop
    (¬ fits ∨ jxoProgram rd len = none → exec (.ctlload image) s = .next (bad t)) ∧
    (∀ p, fits → jxoProgram rd len = some p →
      ∃ u, exec (.ctlload image) s = .next u ∧ ends (t.endControl.startControl (loadImage image rd p) p.regs) 0 u)) ∧
  (∀ s : State, s.answers = true → s.dev.busy = false → ∃ u, exec .unknownOp s = .next u ∧ ends (started s 0 0) 3 u) ∧
  (∀ s : State, s.dev.busy = true → s.dev.cmdDone = true → exec .commandComplete s =
    .next (s.modDev fun d => { d with busy := false, cmdDone := false, result := d.cmdResult, cres := d.cmdCres }).cmdMessage) ∧
  (∀ s : State, s.answers = true → exec .lostClear s = .next (s.modDev fun d => { d with lost := false }))

/-- Trap and fault windows: TWCMD releases a record of KIND 1 or 2, resumes its batt at or past the words of a KIND 0 record, or kills the
context; the fault commands prepare the word again or take its trap; records are written into free slots; W1C and
STEPMAX writes take effect while the device answers (R125, R408 to R410, R414, R415, R436).
A kill of a context: its batts, but for the control batt, and its felts are gone, no other; its launches are killed with their status and cause
and have no batt left, no other changes; no log holds an entry of it, and entries of others that are not published or are pinned stay; no
engine operation, peat-store entry, fault record, mark, monitor, atomic location or residency handle is of it; its root and save base stay,
and of its trap window every occupied slot keeps its record, a KIND 0 one as KIND 1 (R423); that a waiting record takes KIND 1 too is the
model's choice (log 150). The model's reading, not the
spec's words: what a resumed batt finds in the words that it passes (log 29), that FAULT_TO_TRAP counts the turn (log 15), and that a fault
command on a record whose batt no longer stands halted frees the slot and does nothing else (log 32; R415 is silent); TICKS of a record that
names no batt is the counter of core 0's cluster (log 135). -/
def Obligations.WindowSteps : Prop :=
  (∀ (s : State) w i r, s.answers = true → (s.window w).slots.getD i none = some r →
    let free (t : State) : State := (t.modWindow w fun x => { x with slots := setAt x.slots i none }).flushWindow w
    (r.kind ≠ 0 → exec (.trapRelease w i) s = .next (free s)) ∧ (r.kind = 0 → exec (.trapRelease w i) s = .next s) ∧
    (r.resumable w = true → ∀ b, s.battOf? r.owner = some b →
      exec (.resumeAtWord w i) s = .next (free (s.modBattOf r.owner fun b => b.resume r false)) ∧
      exec (.resumePastWord w i) s = .next (free (s.modBattOf r.owner fun b => b.resume r true))) ∧
    (r.resumable w = false → exec (.resumeAtWord w i) s = .next s ∧ exec (.resumePastWord w i) s = .next s)) ∧
  (∀ (s : State) space status cause, space < s.ctxs.length → space < s.windows.length → s.KeysOk → (s.launches.map (·.lnum)).Nodup →
    let t := s.killContext space status cause
    t.batts = s.batts.filter (fun b => b.space != space || b.id == .ctl) ∧
    t.felts = s.felts.filter (fun f => !(s.launch? f.lnum).any fun l => l.recd.ctx == space) ∧
    t.launches.length = s.launches.length ∧
    (∀ (i : Nat) (l : Launch), s.launches[i]? = some l → ∃ m, t.launches[i]? = some m ∧ (l.recd.ctx ≠ space → m = l) ∧
      (l.recd.ctx = space → l.killed = false → m = { l with
        killed := true, status := status, cause := cause, left := 0, saved := [], cbars := [], lbars := [], frozen := false, started := m.started })) ∧
    (∀ c, (∀ e ∈ (t.core c).log, e ∈ (s.core c).log ∧ e.space ≠ space) ∧
      (∀ e ∈ (s.core c).log, e.space ≠ space → e.published = false ∨ e.depth ≠ 0 → e ∈ (t.core c).log) ∧
      (t.core c).mxiq = (s.core c).mxiq.filter (fun o => o.space != space) ∧ (t.core c).copyq = (s.core c).copyq.filter (fun o => o.space != space) ∧
      (∀ x ∈ (t.core c).atomUnit, space ∉ x.spaces) ∧ ∀ m ∈ (t.core c).marks, space ∉ m.spaces) ∧
    (∀ k, (∀ e ∈ (t.cluster k).peat, e.key.space ≠ space) ∧ (∀ r ∈ (t.cluster k).faultWaiting, r.space ≠ space) ∧
      (∀ o ∈ (t.cluster k).faults, ∀ r, o = some r → r.space ≠ space) ∧ (∀ x ∈ (t.cluster k).atomStore, space ∉ x.spaces) ∧
      ∀ m ∈ (t.cluster k).monitors, ∀ b ∈ s.batts, b.space = space → b.id ≠ .ctl → b.core / 8 = k → ¬(m.core = b.core ∧ m.slot = b.slot)) ∧
    t.ctx space = { s.ctx space with handles := [], ctxst := 0, battImages := [], poolStop := false } ∧
    (∀ x ∈ t.l2, ∀ h ∈ x.handles, h.1 ≠ space) ∧
    let v := s.window space
    let w := t.window space
    w = { v with slots := w.slots, new := w.new, waiting := w.waiting, seq := w.seq } ∧
    (∀ (i : Nat) (r : TrapRecord), v.slots[i]? = some (some r) → w.slots[i]? = some (some (if r.kind = 0 then { r with kind := 1 } else r))) ∧
    (∀ r, some r ∈ w.slots → r.kind ≠ 0) ∧ ∀ r ∈ w.waiting, r.kind ≠ 0) ∧
  (∀ (s : State) w, s.answers = true → exec (.trapKill w) s = .next (if w < 16 then s.killContext w 2 0 else s)) ∧
  (∀ (s : State) w bits, s.answers = true → exec (.twnewClear w bits) s = .next (s.modWindow w fun x => { x with new := x.new &&& ~~~bits })) ∧
  (∀ (s : State) k bits, s.answers = true → exec (.fbnewClear k bits) s = .next (s.modCluster k fun x => { x with faultNew := x.faultNew &&& ~~~bits })) ∧
  (∀ (s : State) k i r b, s.answers = true → (s.cluster k).faults.getD i none = some r → s.batt? r.core r.slot = some b → b.id = r.owner → b.faulted = true →
    let free (t : State) : State := (t.modCluster k fun x => { x with faults := setAt x.faults i none }).flushFaults k
    let fetched := r.access = 2 && !r.replay
    let counted (b : Batt) : Batt := if fetched then b else b.countTurn b.cursor b.eligibleLows.length
    exec (.faultRetry k i) s = .next (free (s.modBatt r.core r.slot fun b => { b with faulted := false })) ∧
    exec (.faultToTrap k i) s = .next (free ((s.modBatt r.core r.slot fun b => { counted b with faulted := false }).takeTrap r.core r.slot
      r.word r.pc (b.splitOf ((r.lanes.head?.map LaneCause.lane).getD 0)) r.recipe r.lanes))) ∧
  (∀ (s : State) k i, s.answers = true → (∀ r, (s.cluster k).faults.getD i none = some r → s.faultedBatt r = none) →
    let free : State := if (s.cluster k).faults.getD i none = none then s
      else (s.modCluster k fun x => { x with faults := setAt x.faults i none }).flushFaults k
    exec (.faultRetry k i) s = .next free ∧ exec (.faultToTrap k i) s = .next free) ∧
  (∀ (s : State) k v, s.answers = true → exec (.stepmaxWrite k v) s =
    .next (if 1 ≤ v ∧ v ≤ 12 then s.modCluster k fun x => { x with power := { x.power with stepMax := v } } else s)) ∧
  (∀ s : State, exec .trapRecordWrite s = .next ((List.range 17).foldl State.flushWindow s.settleHalted)) ∧
  (∀ (s : State) k, exec (.faultRecordWrite k) s = .next (s.flushFaults k))

/-- Host accesses: BAR 0 takes aligned accesses of 4 or 8 bytes and aborts others; reads of BAR 2 and BAR 4 answer the bytes at level two or
in the sluice, marked where poisoned, all ones beyond device memory, and may bring sectors into level two, for which others may leave it and the L1s (R17,
R236); writes are external writes; an aligned AtomicOp answers the old value
and performs its operation unless the location is poisoned, and like every read brings its sector into level two (R236); failed requests advance HOSTERR or mark the data poisoned; a landing PUTS
writes its payload and then its flag (R251, R252, R278, R294, R418, R438, R439, R444). -/
def Obligations.HostAccesses : Prop :=
  (∀ (s : State) off size v, s.dev.tripped = false →
    exec (.registerWrite off size v) s = .next (if bar0Ok off size = false then s.emit .abort else if s.answers then s.writeReg off size v else s)) ∧
  (∀ s : State, s.dev.tripped = false → exec .bar0BadAccess s = .next (s.emit .abort)) ∧
  (∀ (s : State) (i : Instr) bar off len, (i, bar) ∈ [(Instr.bar2HostRead off len, 2), (.bar4HostRead off len, 4)] → s.answers = true →
    s.inBar bar off len = true → ∃ t, exec i s = .next t ∧ t.batts = s.batts ∧ t.launches = s.launches ∧ t.sluice = s.sluice ∧
      (∀ c, t.core c = { s.core c with l1 := (t.core c).l1 } ∧ (t.core c).l1.Sublist (s.core c).l1) ∧
      t.memPoison = s.memPoison ∧ (s.l2.length + len ≤ sliceFrames → t.mem = s.mem ∧ t.cores = s.cores) ∧
      (bar = 4 → t.mem = s.mem ∧ t.l2 = s.l2 ∧ t.cores = s.cores) ∧
      let bs := (List.range len).map fun k => match s.barLoc bar (off + k) with | some x => s.homeByte x | none => (0xFF, false)
      t.dev = { s.dev with outbox := s.dev.outbox ++ [.completion (bs.map (·.1)) (bs.any (·.2))] }) ∧
  (∀ (s : State) (i : Instr) bar off bytes ep, (i, bar) ∈ [(Instr.bar2HostWrite off bytes ep, 2), (.bar4HostWrite off bytes ep, 4)] →
    exec i s = .next (s.hostWriteAt bar off bytes ep)) ∧
  (∀ (s : State) bar off bytes, s.answers = true → s.inBar bar off bytes.length = true →
    s.hostWriteAt bar off bytes false =
      (sectorWrites ((bytes.mapIdx fun k b => (s.barLoc bar (off + k)).map fun x => (x, b)).filterMap id)).foldl
        (fun s w => s.applyAt w.loc w.mask w.data false true) s) ∧
  (∀ (s : State) bar off op wide v c x, s.answers = true → s.inBar bar off (if wide then 8 else 4) = true → off % (if wide then 8 else 4) = 0 →
    s.barLoc bar off = some x →
    let size := if wide then 8 else 4
    let bs := (x.run size).map s.homeByte
    let t := s.l2ReadAll 16 0 (x.run size)
    let old := bs.map (·.1)
    ((∃ b ∈ bs, b.2 = true) → exec (.hostAtomicop bar off op wide v c) s = .next (t.emit (.atomicAnswer (BitVec.ofNat 64 (numOf old)) true))) ∧
    ((∀ b ∈ bs, b.2 = false) → exec (.hostAtomicop bar off op wide v c) s =
      .next (((sectorWrites ((x.run size).zip (atomBytes (hostAtomOp op) wide old (v.toNat % 2 ^ (8 * size)) (c.toNat % 2 ^ (8 * size))))).foldl
        (fun s w => s.applyAt w.loc w.mask w.data false true) t).emit (.atomicAnswer (BitVec.ofNat 64 (numOf old)) false)))) ∧
  (∀ (s : State) bar off payload flag, exec (.putsLanding bar off payload flag) s =
    .next ((s.hostWriteAt bar off payload false).hostWriteAt bar (off + payload.length) (bytesOf 8 flag.toNat) false)) ∧
  (∀ s : State, exec (.hostRequestError .posted) s = .next (s.modDev fun d => { d with hostErr := BitVec.ofNat 64 ((d.hostErr.toNat + 1) % 2 ^ 32) })) ∧
  (∀ (s : State) core slot id lane o (f : MForm), s.opAt core slot id = some o → o.instr = .ld f → inMask o.hostLanes lane = true →
    exec (.hostRequestError (.read core slot id lane)) s = .next (s.modOp core slot id fun o => { o with poison := o.poison ||| maskOf fun l => l == lane })) ∧
  (∀ (s : State) core slot id lane o (f : RForm), s.opAt core slot id = some o → o.instr = .atom f → inMask o.hostLanes lane = true →
    exec (.hostRequestError (.atomLane core slot id lane)) s =
      .next ((s.modOp core slot id fun o => { o with poison := o.poison ||| lane1 lane }).modDev fun d => { d with hostErr := BitVec.ofNat 64 ((d.hostErr.toNat + 1) % 2 ^ 32) }))

/-- Display heads: while EN is 1 and FMT names a format, refused timing stops the stream with ERR 2, a refused surface sends black with
ERR 1, otherwise the stream runs with ERR 0; FMT, BASE and PITCH latch at the start of vertical blank; a frame advances FRAME modulo 2^31
and counts the pixels sent as zero, and its reads reach level two as any (R236, R240); a hot-plug raises its MSI-X entry (R446). When a frame is read, and the rate that a link carries, are
the model's choice (log 61). -/
def Obligations.DisplaySteps : Prop :=
  (∀ (h : Head) top, h.en = true → h.fmt < 2 →
    let vals := (h.fmt, h.base, h.pitch, h.hact, h.vact)
    h.latch top = if h.timingBad = true then { h with stream := false, err := 2, used := vals }
      else { h with stream := true, err := if h.surfaceBad top then 1 else 0, used := vals }) ∧
  (∀ (s : State) i, exec (.vblankLatch i) s = .next (s.modDev fun d => { d with heads := modAt d.heads i fun h =>
    if h.stream then { h.latch s.memTop with vblank := true } else h })) ∧
  (∀ (s : State) i g, s.dev.heads[i]? = some g → g.stream = true → exec (.scanoutFrameStart i) s =
    .next (((s.scanReads g).modDev fun d => { d with heads := modAt d.heads i fun h =>
      { h with vblank := false, frame := (h.frame + 1) % 2 ^ 31, poisonPix := (h.poisonPix + (s.scanFrame g).2) % 2 ^ 32 } }).emit
        (.frame i (s.scanFrame g).1))) ∧
  (∀ (s : State) i h, s.dev.heads[i]? = some h → h.stream = false → exec (.scanoutFrameStart i) s = .next s) ∧
  (∀ (s : State) i vec rate, s.answers = true → i < 4 → vec < 2048 → exec (.displayHotplug i vec rate) s =
    .next ((s.modDev fun d => { d with heads := modAt d.heads i fun h => { h with linkRate := rate } }).emit (.msix vec)))

/-- The governor's period (R430): A is clamped between 0 and AMAX and held at 0 while boost is frozen, the credits are spent, the target
follows A against AB, and the step moves by at most 1, never above the least of the caps, and up only where the replicas, run at the next
step, report at least TSLACK; where they do not the next trim raises the rail (R433). USED and what the replicas report are measurements,
operands of the model's event (log 64); that ALARM clears before the step formula, and that STEP in it is the governor's latest step, are the
model's reading (log 59). -/
def Obligations.GovernorPeriod : Prop :=
  (∀ (s : State) k used slackUp, (s.cluster k).power.ticks < 128 → exec (.governorPeriod k used slackUp) s = .next s) ∧
  ∀ (s : State) k used slackUp, k < s.clusters.length → 128 ≤ (s.cluster k).power.ticks →
    ∃ t, exec (.governorPeriod k used slackUp) s = .next t ∧ t = { s with clusters := t.clusters } ∧
    (∀ j, j ≠ k → t.cluster j = s.cluster j) ∧
    let p := (s.cluster k).power
    let q := (t.cluster k).power
    let frozen := s.dev.wdLapsed || s.dev.hkcUpdate
    t.cluster k = { s.cluster k with power := q } ∧
    (q.a : Int) = (if frozen then 0 else min (p.amax : Int) (max 0 ((p.a : Int) + p.budgetU - used + p.credit))) ∧ q.credit = 0 ∧
    let target : Nat := if 2 * p.ab ≤ q.a then 12 else if p.ab ≤ q.a then 11 else if q.a = 0 ∧ p.budgetU < used then max (p.nextStep - 1) 6 else 10
    let cap : Nat := min (min (bandCap p.tband) p.stepMax) (min (if p.alarm && p.alarmSeen then 8 else 12) (if frozen then 10 else 12))
    let n := min target cap
    q.nextStep = (if n < p.nextStep then p.nextStep - 1 else if p.nextStep < n ∧ p.tslack ≤ slackUp then p.nextStep + 1 else p.nextStep) ∧
    (q.replicaFailed = true ↔ p.replicaFailed = true ∨ (p.nextStep < n ∧ slackUp < p.tslack)) ∧
    q.alarm = (p.alarm && p.alarmSeen) ∧ q.ticks = 0

/-- Clocks, droops, temperature, rail and load: a pulse of the master clock is a cycle of a cluster where the pattern of its step passes the
slot, under a stretch every second time; a step takes effect at a pattern boundary; the fabric takes the highest step at each reference
tick; a droop counts,
stretches for 256 master periods at least and may raise the alarm; a band is entered at its lower edge, 60, 70, 80, 88, 95, 100 or 105 degrees, kept within the 2 degrees
below it and left below these, for the highest band not so left, and at 115 degrees the device trips; the
rail moves every 4,096 ticks one step of 5 mV within 460 to 560 mV by the worst slack, up after a failed replica check; the load of 4,096 cycles
counts ballast up to the limiter and floors the next window; a watchdog without a kick for 2^20 ticks lapses; a lapse or an update holds A at 0
and discards credits, a kick ends the lapse (R12, R427, R428, R430, R431 to R435). What has come due, a governor period, a trim, a window or a
lapse, has happened once before the next pulse, and before it is due its event does nothing. When the first period begins, what the watchdog
counts from, what is measured, and that the reference ticks at every twentieth pulse, are the model's choice (logs 8, 60, 139, 142). -/
def Obligations.PowerSteps : Prop :=
  let pow (s : State) (k : Nat) (f : Power → Power) : State := s.modCluster k fun c => { c with power := f c.power }
  let held (s t : State) : Prop := t = { s with dev := t.dev, clusters := t.clusters } ∧ t.clusters.length = s.clusters.length ∧
    ∀ k, k < s.clusters.length → t.cluster k = { s.cluster k with power := { (s.cluster k).power with a := 0, credit := 0 } }
  let lapses (s : State) : Prop := 2 ^ 20 ≤ s.dev.kickTicks ∧ s.dev.wdLapsed = false ∧ s.dev.hkcUpdate = false
  (∀ (s : State) k, k < s.clusters.length → s.anyDue = false →
    let p := (s.cluster k).power
    let c := s.onePulse.cluster k
    let passes := s.dev.pulse % 16 * p.step / 16 < (s.dev.pulse % 16 + 1) * p.step / 16
    let tick := s.dev.pulse % 20 = 19
    let q : Power := { p with ticks := if tick then p.ticks + 1 else p.ticks }
    s.onePulse = { s with clusters := s.onePulse.clusters, dev := { s.dev with
      pulse := s.dev.pulse + 1, fabricStep := if tick then (s.clusters.map fun c => c.power.step).foldl max 0 else s.dev.fabricStep
      trimTicks := if tick then s.dev.trimTicks + 1 else s.dev.trimTicks, kickTicks := if tick then s.dev.kickTicks + 1 else s.dev.kickTicks } } ∧
    c.tim = (if tick then (s.cluster k).tim + 1 else (s.cluster k).tim) ∧
    (¬ passes → c.cyc = (s.cluster k).cyc ∧ c.power = q) ∧
    (passes → p.stretch = false ∨ p.skip = false → c.cyc = (s.cluster k).cyc + 1 ∧ c.power = { q with skip := p.stretch, window := p.window + 1 }) ∧
    (passes → p.stretch = true → p.skip = true → c.cyc = (s.cluster k).cyc ∧ c.power = { q with skip := false })) ∧
  (∀ s : State, s.anyDue = true ↔ 4096 ≤ s.dev.trimTicks ∨ lapses s ∨ ∃ c ∈ s.clusters, 128 ≤ c.power.ticks ∨ 4096 ≤ c.power.window) ∧
  (∀ s : State, s.anyDue = true → s.onePulse = s.settle.onePulse ∧ s.settle.anyDue = false ∧
    ∃ (used slackUp real : Nat → Nat) (slacks : List Nat) (a b : State),
      a = { s with clusters := s.clusters.mapIdx fun k c =>
        { c with power := (c.power.govern (s.dev.wdLapsed || s.dev.hkcUpdate) (used k) (slackUp k)).measure (real k) } } ∧
      exec (.railTrim slacks) a = .next b ∧ exec .watchdogLapse b = .next { s.settle with free := s.free }) ∧
  (∀ (s : State) k used slackUp real,
    exec (.governorPeriod k used slackUp) s = .next (pow s k fun p => p.govern (s.dev.wdLapsed || s.dev.hkcUpdate) used slackUp) ∧
    exec (.loadWindow k real) s = .next (pow s k fun p => p.measure real)) ∧
  (∀ (s : State) k, (s.dev.pulse % 16 = 0 → exec (.stepTakesEffect k) s = .next (pow s k fun p => { p with step := p.nextStep })) ∧
    (s.dev.pulse % 16 ≠ 0 → exec (.stepTakesEffect k) s = .next s)) ∧
  (∀ s : State, (s.dev.pulse % 20 = 0 →
      exec .fabricStepEval s = .next (s.modDev fun d => { d with fabricStep := (s.clusters.map fun c => c.power.step).foldl max 0 })) ∧
    (s.dev.pulse % 20 ≠ 0 → exec .fabricStepEval s = .next s)) ∧
  (∀ (s : State) k, exec (.droopOnset k) s = .next (pow s k fun p =>
    let q := { p with droops := (p.droops + 1) % 2 ^ 32, stretch := true, droopAt := s.dev.pulse }
    if p.dalarm < (q.droops + 2 ^ 32 - p.droopsAt) % 2 ^ 32 then { q with alarm := true, alarmSeen := true } else q)) ∧
  (∀ (s : State) k,
    ((s.cluster k).power.droopAt + 256 ≤ s.dev.pulse → exec (.droopRecovery k) s = .next (pow s k fun p => { p with stretch := false })) ∧
    (s.dev.pulse < (s.cluster k).power.droopAt + 256 → exec (.droopRecovery k) s = .next s)) ∧
  (∀ (s : State) k, exec (.currentLimit k) s = .next (pow s k fun p => { p with alarm := true, alarmSeen := true })) ∧
  (∀ (s : State) k temp,
    let t := pow s k fun p => { p with temp := temp, tband := nextBand p.tband temp }
    (temp < 115 ∨ s.dev.tripped = true → exec (.temperatureBandChange k temp) s = .next t) ∧
    (115 ≤ temp → s.dev.tripped = false → exec (.temperatureBandChange k temp) s =
      .next (t.modDev fun d => { d with tripped := true, railMv := 0, outbox := d.outbox ++ [.thermTrip] }))) ∧
  (∀ band temp, band ≤ 7 → nextBand band temp ≤ 7 ∧ (bandEdge band ≤ temp → bandEdge (nextBand band temp) ≤ temp) ∧
    (∀ b, b ≤ 7 → bandEdge b ≤ temp → b ≤ nextBand band temp) ∧
    (0 < band → bandEdge band < temp + 2 → band ≤ nextBand band temp) ∧
    (temp < bandEdge band → bandEdge band < temp + 2 → nextBand band temp = band) ∧
    (temp + 2 ≤ bandEdge band → nextBand band temp < band ∧ bandEdge (nextBand band temp) < temp + 2 ∧
      ∀ b, b ≤ band → bandEdge b < temp + 2 → b ≤ nextBand band temp)) ∧
  (List.range 8).map bandEdge = [0, 60, 70, 80, 88, 95, 100, 105] ∧
  (∀ s : State, (s.dev.tripped = false →
      exec .thermalTrip s = .next (s.modDev fun d => { d with tripped := true, railMv := 0, outbox := d.outbox ++ [.thermTrip] })) ∧
    (s.dev.tripped = true → exec .thermalTrip s = .next s)) ∧
  (∀ (s : State) slacks, s.dev.trimTicks < 4096 → exec (.railTrim slacks) s = .next s) ∧
  (∀ (s : State) slacks, 4096 ≤ s.dev.trimTicks → 460 ≤ s.dev.railMv → s.dev.railMv ≤ 560 → ∃ t, exec (.railTrim slacks) s = .next t ∧
    460 ≤ t.dev.railMv ∧ t.dev.railMv ≤ 560 ∧ t = { s with dev := { s.dev with railMv := t.dev.railMv, trimTicks := 0 }, clusters := t.clusters } ∧
    (∀ k, k < s.clusters.length → t.cluster k = { s.cluster k with
      power := { (s.cluster k).power with slack := min 63 (slacks.getD k (s.cluster k).power.slack), replicaFailed := false } }) ∧
    let failed := ∃ k ∈ s.clusters, k.power.replicaFailed = true
    (t.worstSlack.1 < t.worstSlack.2 ∨ failed → t.dev.railMv = min 560 (s.dev.railMv + 5)) ∧
    (¬ failed → t.worstSlack.2 + 2 < t.worstSlack.1 → t.dev.railMv = max 460 (s.dev.railMv - 5)) ∧
    (¬ failed → t.worstSlack.2 ≤ t.worstSlack.1 → t.worstSlack.1 ≤ t.worstSlack.2 + 2 → t.dev.railMv = s.dev.railMv)) ∧
  (∀ (s : State) k real, ((s.cluster k).power.window < 4096 → exec (.loadWindow k real) s = .next s) ∧
    (4096 ≤ (s.cluster k).power.window → exec (.loadWindow k real) s = .next (pow s k fun p =>
      let ilim16 := min 16 (16 * p.ilim / max 1 p.ipeak)
      let load := max real (min p.floor ilim16)
      { p with load := load, floor := min (load - 1) ilim16, window := 0 }))) ∧
  (∀ s : State, (lapses s → ∃ t, exec .watchdogLapse s = .next t ∧ held s t ∧ t.dev = { s.dev with wdLapsed := true }) ∧
    (¬ lapses s → exec .watchdogLapse s = .next s)) ∧
  (∀ s : State, ∃ t, exec .wdkick s = .next t ∧ t.dev = { s.dev with wdLapsed := false, kickTicks := 0 } ∧
    ((s.dev.wdLapsed || s.dev.hkcUpdate) = true → held s t) ∧ ((s.dev.wdLapsed || s.dev.hkcUpdate) = false → t.clusters = s.clusters)) ∧
  (∀ s : State, ∃ t, exec .hkcFirmwareUpdate s = .next t ∧ t.dev = { s.dev with hkcUpdate := !s.dev.hkcUpdate, kickTicks := 0 } ∧ held s t)

/-- Errors and resets: an uncorrectable error takes the fate of R416's table: a sector, location, word, lane, scalar or log entry is
poisoned, alone, and of a compressed superblock every sector that the frame holds; a poisoned sector takes an entry of its controller, or
its page is quarantined (R420); an error in control state kills every context with a batt on the unit, under a record that names none; a
clean sector of level two, with its copies in L1s that are not held (R17), or an L1 sector that is not held, goes, and a held one waits to be
filled again (R238); a peat-store entry misses at its next lookup and is gone (R355); a correctable error is counted; a warm reset ends every
launch, batt and context, writes no token and keeps the sluice, poison and the poison records; a cold reset leaves the machine as at
power-on; bring-up that succeeds starts the control program and sets READY, and fails with BOOTFAIL otherwise (R237, R416, R419, R447 to
R449). Whether bytes on their way to memory reach it at a warm reset is open (log 7); that an error in a TLB empties that level of it (log 33), where correctable errors are counted (log 62), and what the HKC
puts where at bring-up (logs 4, 64) are the model's choice. -/
def Obligations.ErrorsAndResets : Prop :=
  (∀ (s : State) slice sector x, s.l2At slice sector = some x →
    (x.dirty = 0 → exec (.uncorrectableError (.l2 slice sector)) s =
      .next (({ s with l2 := s.l2.filter fun y => !(y.slice == slice && y.sector == sector) } : State).forgetL1 fun k => k == sector)) ∧
    (x.dirty ≠ 0 → exec (.uncorrectableError (.l2 slice sector)) s = .next (s.poisonSector (64 * sector) 0 (compHome slice sector)))) ∧
  (∀ (s : State) core, exec (.uncorrectableError (.icache core)) s = .next (s.modCore core fun c => { c with icache := [] }) ∧
    exec (.uncorrectableError (.ccache core)) s = .next (s.modCore core fun c => { c with ccache := [] }) ∧
    exec (.uncorrectableError (.tlb core)) s = .next (s.modCore core fun c => { c with tlb1 := [] }) ∧
    exec (.uncorrectableError (.tlb2 core)) s = .next (s.modCluster core fun c => { c with tlb2 := [] })) ∧
  (∀ (s : State) (site : ErrSite) (on : Nat → Bool),
    (∃ core, site = .control core ∧ ∀ c, on c = true ↔ c = core) ∨ (∃ k, site = .controlCluster k ∧ ∀ c, on c = true ↔ c / 8 = k) ∨
      (site = .controlDevice ∧ ∀ c, on c = true) →
    ∃ killed : List Nat, killed.Nodup ∧ (∀ x, x ∈ killed ↔ ∃ b ∈ s.batts, on b.core = true ∧ b.id ≠ .ctl ∧ b.space = x) ∧
      exec (.uncorrectableError site) s =
        .next (killed.foldl (fun u x => (u.addRecord (windowOf x) (plainRecord x cPOISON 0)).killContext x 1 cPOISON) s)) ∧
  (∀ (s : State) slice block frame, ∃ (t : State) (hit : List Nat), exec (.uncorrectableError (.l2Frame slice block frame)) s = .next t ∧
    (∀ k, k ∈ hit ↔ ∃ x ∈ s.l2, x.slice = slice ∧ x.sector / 16 = block ∧ x.frames ≠ 0 ∧ Nat.testBit frame (x.sector % 16) = true ∧ x.sector = k) ∧
    t = hit.foldl (fun u k => u.poisonSector (64 * k) 0 true) s ∧ ∀ k, k ∈ t.memPoison ↔ k ∈ s.memPoison ∨ k ∈ hit) ∧
  (∀ (s : State) sector, (s.memTop ≤ 64 * sector → exec (.uncorrectableError (.memory sector)) s = .next s) ∧
    (64 * sector < s.memTop → exec (.uncorrectableError (.memory sector)) s =
      .next (s.poisonSector (64 * sector) 0 (s.portLoc (64 * sector)).comp))) ∧
  (∀ (s : State) pa origin comp,
    let t := s.poisonSector pa origin comp
    t = { s with memPoison := t.memPoison, controllers := t.controllers, dev := { s.dev with outbox := t.dev.outbox } } ∧
    (∀ k, k ∈ t.memPoison ↔ k ∈ s.memPoison ∨ k = pa / 64) ∧
    (∀ j, j ≠ homeSlice pa comp / 2 → t.controllers.getD j {} = s.controllers.getD j {}) ∧
    (homeSlice pa comp / 2 < s.controllers.length → s.pageQuarantined pa = false →
      let c := s.controllers.getD (homeSlice pa comp / 2) {}
      let d := t.controllers.getD (homeSlice pa comp / 2) {}
      ((∃ e ∈ c.poison, e.sector = pa / 64) → d = c) ∧
      ((∀ e ∈ c.poison, e.sector ≠ pa / 64) →
        (c.poison.length < 512 → d = { c with poison := c.poison ++ [{ sector := pa / 64, origin := origin }] }) ∧
        (512 ≤ c.poison.length → c.quarantine.length < 64 → d = { c with quarantine := c.quarantine ++ [pa / 65536] }) ∧
        (512 ≤ c.poison.length → 64 ≤ c.quarantine.length → d = { c with ovf := true })))) ∧
  (∀ (s : State) core entry, exec (.uncorrectableError (.logEntry core entry)) s =
    .next (s.modCore core fun c => { c with log := c.log.map fun e => if e.pos == entry then { e with pois := true } else e })) ∧
  (∀ (s : State) core slot reg, exec (.uncorrectableError (.scalar core slot reg)) s =
    .next (s.modBatt core slot fun b => { b with sPoison := b.sPoison ||| BitVec.ofNat 64 (2 ^ reg) })) ∧
  (∀ (s : State) core sector, core < s.cores.length → ∃ t, exec (.uncorrectableError (.l1 core sector)) s = .next t ∧
    t = { s with cores := t.cores } ∧ (∀ c, c ≠ core → t.core c = s.core c) ∧ t.core core = { s.core core with l1 := (t.core core).l1 } ∧
    (t.core core).l1 = ((s.core core).l1.filter fun x => x.sector ≠ sector ∨ x.held ≠ []).map fun x =>
      if x.sector = sector then { x with gone := true } else x) ∧
  (∀ (s : State) lnum felt word, 4 * word < s.scratchSize lnum → (s.felt? lnum felt).isSome = true →
    ∃ t, exec (.uncorrectableError (.scratch lnum felt word)) s = .next t ∧ t = { s with felts := t.felts } ∧
      (∀ ln fe a n, t.scratchRead ln fe a n = s.scratchRead ln fe a n) ∧
      ∀ ln fe k, t.scratchBad ln fe (4 * k) 4 = (s.scratchBad ln fe (4 * k) 4 || (ln == lnum && fe == felt && k == word))) ∧
  (∀ (s : State) core slot bank word b, s.batt? core slot = some b → (b.bank? bank).isSome = true → 4 * word < bankBytes →
    ∃ t c, exec (.uncorrectableError (.accumulator core slot bank word)) s = .next t ∧ OnlyBatt core slot s t ∧ t.batt? core slot = some c ∧
      c = { b with banks := c.banks } ∧ (∀ aa, c.bankByte aa = b.bankByte aa) ∧
      ∀ k j, 4 * j < bankBytes → (c.bankBad (bankBytes * k + 4 * j) 4).isSome =
        ((b.bankBad (bankBytes * k + 4 * j) 4).isSome || (k == bank && j == word))) ∧
  (∀ (s : State) core i, core < s.cores.length → ∃ t, exec (.uncorrectableError (.atomUnit (.l1 core) i)) s = .next t ∧
    t = { s with cores := t.cores } ∧ (∀ c, c ≠ core → t.core c = s.core c) ∧ t.core core = { s.core core with atomUnit := (t.core core).atomUnit } ∧
    ∀ j, (t.core core).atomUnit[j]? = ((s.core core).atomUnit[j]?).map fun x => if j = i then { x with poison := true } else x) ∧
  (∀ (s : State) k i, k < s.clusters.length → ∃ t, exec (.uncorrectableError (.atomUnit (.cluster k) i)) s = .next t ∧
    t = { s with clusters := t.clusters } ∧ (∀ c, c ≠ k → t.cluster c = s.cluster c) ∧ t.cluster k = { s.cluster k with atomStore := (t.cluster k).atomStore } ∧
    ∀ j, (t.cluster k).atomStore[j]? = ((s.cluster k).atomStore[j]?).map fun x => if j = i then { x with poison := true } else x) ∧
  (∀ (s : State) core slot reg lane b, s.batt? core slot = some b → b.isBacked reg = true → lane < 32 →
    (b.vregs.map (·.num)).Pairwise (· < ·) →
    ∃ t c, exec (.uncorrectableError (.vector core slot reg lane)) s = .next t ∧ OnlyBatt core slot s t ∧ t.batt? core slot = some c ∧
      c = { b with vregs := c.vregs } ∧ (∀ k, c.vlanes k = b.vlanes k) ∧
      ∀ k l, l < 32 → inMask (c.vpoison k) l = (inMask (b.vpoison k) l || (k == reg && l == lane))) ∧
  (∀ (s : State) sector, sector < 4096 → ∃ t, exec (.uncorrectableError (.sluice sector)) s = .next t ∧
    t = { s with sluicePoison := t.sluicePoison } ∧
    ∀ k, k ∈ t.sluicePoison ↔ k ∈ s.sluicePoison ∨ k = sluiceBase / 64 + sector) ∧
  (∀ (s : State) k entry e, k < s.clusters.length → (s.cluster k).peat[entry]? = some e → ∃ t, exec (.uncorrectableError (.peat k entry)) s = .next t ∧
    t = { s with clusters := t.clusters } ∧ (∀ c, c ≠ k → t.cluster c = s.cluster c) ∧
    t.cluster k = { s.cluster k with peat := setAt (s.cluster k).peat entry { e with err := true } }) ∧
  (∀ (c : Cluster) key a e, c.peatFind key = some e → e.err = true →
    (c.peatLook key a).1 = .miss ∧ ∀ x ∈ (c.peatLook key a).2.peat, x.key ≠ key) ∧
  (∀ s : State, exec .correctableError s = .next (s.modDev fun d => { d with correctable := d.correctable + 1 })) ∧
  (∀ s : State, s.dev.tripped = false → ∃ t, exec .warmReset s = .next t ∧ t.batts = [] ∧ t.launches = [] ∧ t.felts = [] ∧ t.l2 = [] ∧
    t.ctxs = State.reset.ctxs ∧ t.windows = State.reset.windows ∧ t.answers = false ∧ t.dev.inReset = true ∧
    (∀ c, (t.core c).log = [] ∧ (t.core c).l1 = []) ∧
    (s.publishedOrder = [] → (∀ x ∈ s.l2, x.dirty = 0) → t.mem = s.mem ∧ t.memPoison = s.memPoison ∧ t.sluice = s.sluice ∧
      t.sluicePoison = s.sluicePoison ∧ t.controllers = s.controllers ∧ t.dev.outbox = s.dev.outbox ∧ t.inputs = s.inputs ∧
      ∀ c, let r := t.core c
        r.retired = (s.core c).retired ∧ r.passNo = (s.core c).passNo ∧ r.mmCount = (s.core c).mmCount ∧ r.mmCol = (s.core c).mmCol ∧ r.mmRow = (s.core c).mmRow)) ∧
  (∀ s : State, exec .coldReset s = .next { State.reset with
    dev := { State.reset.dev with form := s.dev.form, memGib := s.dev.memGib, outbox := s.dev.outbox }, inputs := s.inputs, free := s.free }) ∧
  (∀ (s : State) failed image, s.dev.inReset = true → s.dev.tripped = false →
    exec (.bringUp false failed image) s = .next (s.modDev fun d => { d with inReset := false, bootFail := true }) ∧
    (failed ≠ 0 → exec (.bringUp true failed image) s =
      .next (s.modDev fun d => { d with inReset := false, railMv := 500, bootFail := true, failch := failed })) ∧
    (∃ t, exec (.bringUp true 0 image) s = .next t ∧ t.dev.ready = true ∧ t.dev.warm = s.dev.lastWarm ∧ t.dev.railMv = 500 ∧ t.dev.inReset = false ∧
      (s.batts = [] → ∃ b ∈ t.batts, b.id = .ctl ∧ b.kind = .control ∧ b.space = 16 ∧ ∀ l ∈ b.lanes, l = { pc := image.entry })))

/-- SMBus Read Word (R450): 0x00 returns PARTNO, 0x01 the hottest sensor, 0x02 the board power (a measurement, free, log 7), 0x03 the low
three bits of STAT; another code is not acknowledged. -/
def Obligations.SmbusAnswers : Prop :=
  let answers (s t : State) (bs : List Byte) : Prop := t = { s with dev := { s.dev with outbox := s.dev.outbox ++ [.smbus bs] }, free := t.free }
  ∀ s : State, s.dev.tripped = false →
    (∃ t, exec .smbusPartno s = .next t ∧ answers s t [0x60, 0x09]) ∧
    (∃ t h, exec .smbusTemperature s = .next t ∧ answers s t (bytesOf 2 h) ∧ (∀ c ∈ s.clusters, c.power.temp ≤ h) ∧
      (s.clusters ≠ [] → ∃ c ∈ s.clusters, c.power.temp = h)) ∧
    (∃ t w, exec .smbusBoardPower s = .next t ∧ answers s t (bytesOf 2 w)) ∧
    (∃ t, exec .smbusStat s = .next t ∧
      answers s t [(if s.dev.ready then 1 else 0) + (if s.dev.bootFail then 2 else 0) + (if s.dev.warm then 4 else 0), 0]) ∧
    exec .smbusUnknownCommand s = .next { s with dev := { s.dev with outbox := s.dev.outbox ++ [.smbusNack] } }
end

