-- ==== Sys2Proof/Laws/State.lean ====
section
/-! SUPPORT. What each update of the state does to each of its fields. -/

namespace Sys2Proof.Machine

@[simp] theorem State.modCore_dev (s : State) (c : Nat) (f : CoreSt → CoreSt) : (s.modCore c f).dev = s.dev := rfl
@[simp] theorem State.modCore_ctxs (s : State) (c : Nat) (f : CoreSt → CoreSt) : (s.modCore c f).ctxs = s.ctxs := rfl
@[simp] theorem State.modCore_windows (s : State) (c : Nat) (f : CoreSt → CoreSt) : (s.modCore c f).windows = s.windows := rfl
@[simp] theorem State.modCore_mem (s : State) (c : Nat) (f : CoreSt → CoreSt) : (s.modCore c f).mem = s.mem := rfl
@[simp] theorem State.modCore_l2 (s : State) (c : Nat) (f : CoreSt → CoreSt) : (s.modCore c f).l2 = s.l2 := rfl
@[simp] theorem State.modCore_l2Clock (s : State) (c : Nat) (f : CoreSt → CoreSt) : (s.modCore c f).l2Clock = s.l2Clock := rfl
@[simp] theorem State.modCore_memPoison (s : State) (c : Nat) (f : CoreSt → CoreSt) : (s.modCore c f).memPoison = s.memPoison := rfl
@[simp] theorem State.modCore_sluice (s : State) (c : Nat) (f : CoreSt → CoreSt) : (s.modCore c f).sluice = s.sluice := rfl
@[simp] theorem State.modCore_sluicePoison (s : State) (c : Nat) (f : CoreSt → CoreSt) : (s.modCore c f).sluicePoison = s.sluicePoison := rfl
@[simp] theorem State.modCore_controllers (s : State) (c : Nat) (f : CoreSt → CoreSt) : (s.modCore c f).controllers = s.controllers := rfl
@[simp] theorem State.modCore_clusters (s : State) (c : Nat) (f : CoreSt → CoreSt) : (s.modCore c f).clusters = s.clusters := rfl
@[simp] theorem State.modCore_launches (s : State) (c : Nat) (f : CoreSt → CoreSt) : (s.modCore c f).launches = s.launches := rfl
@[simp] theorem State.modCore_felts (s : State) (c : Nat) (f : CoreSt → CoreSt) : (s.modCore c f).felts = s.felts := rfl
@[simp] theorem State.modCore_batts (s : State) (c : Nat) (f : CoreSt → CoreSt) : (s.modCore c f).batts = s.batts := rfl
@[simp] theorem State.modCore_cur (s : State) (c : Nat) (f : CoreSt → CoreSt) : (s.modCore c f).cur = s.cur := rfl
@[simp] theorem State.modCore_choice (s : State) (c : Nat) (f : CoreSt → CoreSt) : (s.modCore c f).choice = s.choice := rfl
@[simp] theorem State.modCore_inputs (s : State) (c : Nat) (f : CoreSt → CoreSt) : (s.modCore c f).inputs = s.inputs := rfl
@[simp] theorem State.modCore_free (s : State) (c : Nat) (f : CoreSt → CoreSt) : (s.modCore c f).free = s.free := rfl

@[simp] theorem State.modCluster_dev (s : State) (k : Nat) (f : Cluster → Cluster) : (s.modCluster k f).dev = s.dev := rfl
@[simp] theorem State.modCluster_ctxs (s : State) (k : Nat) (f : Cluster → Cluster) : (s.modCluster k f).ctxs = s.ctxs := rfl
@[simp] theorem State.modCluster_windows (s : State) (k : Nat) (f : Cluster → Cluster) : (s.modCluster k f).windows = s.windows := rfl
@[simp] theorem State.modCluster_mem (s : State) (k : Nat) (f : Cluster → Cluster) : (s.modCluster k f).mem = s.mem := rfl
@[simp] theorem State.modCluster_l2 (s : State) (k : Nat) (f : Cluster → Cluster) : (s.modCluster k f).l2 = s.l2 := rfl
@[simp] theorem State.modCluster_l2Clock (s : State) (k : Nat) (f : Cluster → Cluster) : (s.modCluster k f).l2Clock = s.l2Clock := rfl
@[simp] theorem State.modCluster_memPoison (s : State) (k : Nat) (f : Cluster → Cluster) : (s.modCluster k f).memPoison = s.memPoison := rfl
@[simp] theorem State.modCluster_sluice (s : State) (k : Nat) (f : Cluster → Cluster) : (s.modCluster k f).sluice = s.sluice := rfl
@[simp] theorem State.modCluster_sluicePoison (s : State) (k : Nat) (f : Cluster → Cluster) : (s.modCluster k f).sluicePoison = s.sluicePoison := rfl
@[simp] theorem State.modCluster_controllers (s : State) (k : Nat) (f : Cluster → Cluster) : (s.modCluster k f).controllers = s.controllers := rfl
@[simp] theorem State.modCluster_cores (s : State) (k : Nat) (f : Cluster → Cluster) : (s.modCluster k f).cores = s.cores := rfl
@[simp] theorem State.modCluster_launches (s : State) (k : Nat) (f : Cluster → Cluster) : (s.modCluster k f).launches = s.launches := rfl
@[simp] theorem State.modCluster_felts (s : State) (k : Nat) (f : Cluster → Cluster) : (s.modCluster k f).felts = s.felts := rfl
@[simp] theorem State.modCluster_batts (s : State) (k : Nat) (f : Cluster → Cluster) : (s.modCluster k f).batts = s.batts := rfl
@[simp] theorem State.modCluster_cur (s : State) (k : Nat) (f : Cluster → Cluster) : (s.modCluster k f).cur = s.cur := rfl
@[simp] theorem State.modCluster_choice (s : State) (k : Nat) (f : Cluster → Cluster) : (s.modCluster k f).choice = s.choice := rfl
@[simp] theorem State.modCluster_inputs (s : State) (k : Nat) (f : Cluster → Cluster) : (s.modCluster k f).inputs = s.inputs := rfl
@[simp] theorem State.modCluster_free (s : State) (k : Nat) (f : Cluster → Cluster) : (s.modCluster k f).free = s.free := rfl

@[simp] theorem State.modCtx_dev (s : State) (x : Nat) (f : Ctx → Ctx) : (s.modCtx x f).dev = s.dev := rfl
@[simp] theorem State.modCtx_windows (s : State) (x : Nat) (f : Ctx → Ctx) : (s.modCtx x f).windows = s.windows := rfl
@[simp] theorem State.modCtx_mem (s : State) (x : Nat) (f : Ctx → Ctx) : (s.modCtx x f).mem = s.mem := rfl
@[simp] theorem State.modCtx_l2 (s : State) (x : Nat) (f : Ctx → Ctx) : (s.modCtx x f).l2 = s.l2 := rfl
@[simp] theorem State.modCtx_l2Clock (s : State) (x : Nat) (f : Ctx → Ctx) : (s.modCtx x f).l2Clock = s.l2Clock := rfl
@[simp] theorem State.modCtx_memPoison (s : State) (x : Nat) (f : Ctx → Ctx) : (s.modCtx x f).memPoison = s.memPoison := rfl
@[simp] theorem State.modCtx_sluice (s : State) (x : Nat) (f : Ctx → Ctx) : (s.modCtx x f).sluice = s.sluice := rfl
@[simp] theorem State.modCtx_sluicePoison (s : State) (x : Nat) (f : Ctx → Ctx) : (s.modCtx x f).sluicePoison = s.sluicePoison := rfl
@[simp] theorem State.modCtx_controllers (s : State) (x : Nat) (f : Ctx → Ctx) : (s.modCtx x f).controllers = s.controllers := rfl
@[simp] theorem State.modCtx_cores (s : State) (x : Nat) (f : Ctx → Ctx) : (s.modCtx x f).cores = s.cores := rfl
@[simp] theorem State.modCtx_clusters (s : State) (x : Nat) (f : Ctx → Ctx) : (s.modCtx x f).clusters = s.clusters := rfl
@[simp] theorem State.modCtx_launches (s : State) (x : Nat) (f : Ctx → Ctx) : (s.modCtx x f).launches = s.launches := rfl
@[simp] theorem State.modCtx_felts (s : State) (x : Nat) (f : Ctx → Ctx) : (s.modCtx x f).felts = s.felts := rfl
@[simp] theorem State.modCtx_batts (s : State) (x : Nat) (f : Ctx → Ctx) : (s.modCtx x f).batts = s.batts := rfl
@[simp] theorem State.modCtx_cur (s : State) (x : Nat) (f : Ctx → Ctx) : (s.modCtx x f).cur = s.cur := rfl
@[simp] theorem State.modCtx_choice (s : State) (x : Nat) (f : Ctx → Ctx) : (s.modCtx x f).choice = s.choice := rfl
@[simp] theorem State.modCtx_inputs (s : State) (x : Nat) (f : Ctx → Ctx) : (s.modCtx x f).inputs = s.inputs := rfl
@[simp] theorem State.modCtx_free (s : State) (x : Nat) (f : Ctx → Ctx) : (s.modCtx x f).free = s.free := rfl

@[simp] theorem State.modWindow_dev (s : State) (w : Nat) (f : Window → Window) : (s.modWindow w f).dev = s.dev := rfl
@[simp] theorem State.modWindow_ctxs (s : State) (w : Nat) (f : Window → Window) : (s.modWindow w f).ctxs = s.ctxs := rfl
@[simp] theorem State.modWindow_mem (s : State) (w : Nat) (f : Window → Window) : (s.modWindow w f).mem = s.mem := rfl
@[simp] theorem State.modWindow_l2 (s : State) (w : Nat) (f : Window → Window) : (s.modWindow w f).l2 = s.l2 := rfl
@[simp] theorem State.modWindow_l2Clock (s : State) (w : Nat) (f : Window → Window) : (s.modWindow w f).l2Clock = s.l2Clock := rfl
@[simp] theorem State.modWindow_memPoison (s : State) (w : Nat) (f : Window → Window) : (s.modWindow w f).memPoison = s.memPoison := rfl
@[simp] theorem State.modWindow_sluice (s : State) (w : Nat) (f : Window → Window) : (s.modWindow w f).sluice = s.sluice := rfl
@[simp] theorem State.modWindow_sluicePoison (s : State) (w : Nat) (f : Window → Window) : (s.modWindow w f).sluicePoison = s.sluicePoison := rfl
@[simp] theorem State.modWindow_controllers (s : State) (w : Nat) (f : Window → Window) : (s.modWindow w f).controllers = s.controllers := rfl
@[simp] theorem State.modWindow_cores (s : State) (w : Nat) (f : Window → Window) : (s.modWindow w f).cores = s.cores := rfl
@[simp] theorem State.modWindow_clusters (s : State) (w : Nat) (f : Window → Window) : (s.modWindow w f).clusters = s.clusters := rfl
@[simp] theorem State.modWindow_launches (s : State) (w : Nat) (f : Window → Window) : (s.modWindow w f).launches = s.launches := rfl
@[simp] theorem State.modWindow_felts (s : State) (w : Nat) (f : Window → Window) : (s.modWindow w f).felts = s.felts := rfl
@[simp] theorem State.modWindow_batts (s : State) (w : Nat) (f : Window → Window) : (s.modWindow w f).batts = s.batts := rfl
@[simp] theorem State.modWindow_cur (s : State) (w : Nat) (f : Window → Window) : (s.modWindow w f).cur = s.cur := rfl
@[simp] theorem State.modWindow_choice (s : State) (w : Nat) (f : Window → Window) : (s.modWindow w f).choice = s.choice := rfl
@[simp] theorem State.modWindow_inputs (s : State) (w : Nat) (f : Window → Window) : (s.modWindow w f).inputs = s.inputs := rfl
@[simp] theorem State.modWindow_free (s : State) (w : Nat) (f : Window → Window) : (s.modWindow w f).free = s.free := rfl

@[simp] theorem State.modDev_ctxs (s : State) (f : Dev → Dev) : (s.modDev f).ctxs = s.ctxs := rfl
@[simp] theorem State.modDev_windows (s : State) (f : Dev → Dev) : (s.modDev f).windows = s.windows := rfl
@[simp] theorem State.modDev_mem (s : State) (f : Dev → Dev) : (s.modDev f).mem = s.mem := rfl
@[simp] theorem State.modDev_l2 (s : State) (f : Dev → Dev) : (s.modDev f).l2 = s.l2 := rfl
@[simp] theorem State.modDev_l2Clock (s : State) (f : Dev → Dev) : (s.modDev f).l2Clock = s.l2Clock := rfl
@[simp] theorem State.modDev_memPoison (s : State) (f : Dev → Dev) : (s.modDev f).memPoison = s.memPoison := rfl
@[simp] theorem State.modDev_sluice (s : State) (f : Dev → Dev) : (s.modDev f).sluice = s.sluice := rfl
@[simp] theorem State.modDev_sluicePoison (s : State) (f : Dev → Dev) : (s.modDev f).sluicePoison = s.sluicePoison := rfl
@[simp] theorem State.modDev_controllers (s : State) (f : Dev → Dev) : (s.modDev f).controllers = s.controllers := rfl
@[simp] theorem State.modDev_cores (s : State) (f : Dev → Dev) : (s.modDev f).cores = s.cores := rfl
@[simp] theorem State.modDev_clusters (s : State) (f : Dev → Dev) : (s.modDev f).clusters = s.clusters := rfl
@[simp] theorem State.modDev_launches (s : State) (f : Dev → Dev) : (s.modDev f).launches = s.launches := rfl
@[simp] theorem State.modDev_felts (s : State) (f : Dev → Dev) : (s.modDev f).felts = s.felts := rfl
@[simp] theorem State.modDev_batts (s : State) (f : Dev → Dev) : (s.modDev f).batts = s.batts := rfl
@[simp] theorem State.modDev_cur (s : State) (f : Dev → Dev) : (s.modDev f).cur = s.cur := rfl
@[simp] theorem State.modDev_choice (s : State) (f : Dev → Dev) : (s.modDev f).choice = s.choice := rfl
@[simp] theorem State.modDev_inputs (s : State) (f : Dev → Dev) : (s.modDev f).inputs = s.inputs := rfl
@[simp] theorem State.modDev_free (s : State) (f : Dev → Dev) : (s.modDev f).free = s.free := rfl

@[simp] theorem State.emit_ctxs (s : State) (o : Output) : (s.emit o).ctxs = s.ctxs := rfl
@[simp] theorem State.emit_windows (s : State) (o : Output) : (s.emit o).windows = s.windows := rfl
@[simp] theorem State.emit_mem (s : State) (o : Output) : (s.emit o).mem = s.mem := rfl
@[simp] theorem State.emit_l2 (s : State) (o : Output) : (s.emit o).l2 = s.l2 := rfl
@[simp] theorem State.emit_l2Clock (s : State) (o : Output) : (s.emit o).l2Clock = s.l2Clock := rfl
@[simp] theorem State.emit_memPoison (s : State) (o : Output) : (s.emit o).memPoison = s.memPoison := rfl
@[simp] theorem State.emit_sluice (s : State) (o : Output) : (s.emit o).sluice = s.sluice := rfl
@[simp] theorem State.emit_sluicePoison (s : State) (o : Output) : (s.emit o).sluicePoison = s.sluicePoison := rfl
@[simp] theorem State.emit_controllers (s : State) (o : Output) : (s.emit o).controllers = s.controllers := rfl
@[simp] theorem State.emit_cores (s : State) (o : Output) : (s.emit o).cores = s.cores := rfl
@[simp] theorem State.emit_clusters (s : State) (o : Output) : (s.emit o).clusters = s.clusters := rfl
@[simp] theorem State.emit_launches (s : State) (o : Output) : (s.emit o).launches = s.launches := rfl
@[simp] theorem State.emit_felts (s : State) (o : Output) : (s.emit o).felts = s.felts := rfl
@[simp] theorem State.emit_batts (s : State) (o : Output) : (s.emit o).batts = s.batts := rfl
@[simp] theorem State.emit_cur (s : State) (o : Output) : (s.emit o).cur = s.cur := rfl
@[simp] theorem State.emit_choice (s : State) (o : Output) : (s.emit o).choice = s.choice := rfl
@[simp] theorem State.emit_inputs (s : State) (o : Output) : (s.emit o).inputs = s.inputs := rfl
@[simp] theorem State.emit_free (s : State) (o : Output) : (s.emit o).free = s.free := rfl

@[simp] theorem State.modBatt_dev (s : State) (c n : Nat) (f : Batt → Batt) : (s.modBatt c n f).dev = s.dev := rfl
@[simp] theorem State.modBatt_ctxs (s : State) (c n : Nat) (f : Batt → Batt) : (s.modBatt c n f).ctxs = s.ctxs := rfl
@[simp] theorem State.modBatt_windows (s : State) (c n : Nat) (f : Batt → Batt) : (s.modBatt c n f).windows = s.windows := rfl
@[simp] theorem State.modBatt_mem (s : State) (c n : Nat) (f : Batt → Batt) : (s.modBatt c n f).mem = s.mem := rfl
@[simp] theorem State.modBatt_l2 (s : State) (c n : Nat) (f : Batt → Batt) : (s.modBatt c n f).l2 = s.l2 := rfl
@[simp] theorem State.modBatt_l2Clock (s : State) (c n : Nat) (f : Batt → Batt) : (s.modBatt c n f).l2Clock = s.l2Clock := rfl
@[simp] theorem State.modBatt_memPoison (s : State) (c n : Nat) (f : Batt → Batt) : (s.modBatt c n f).memPoison = s.memPoison := rfl
@[simp] theorem State.modBatt_sluice (s : State) (c n : Nat) (f : Batt → Batt) : (s.modBatt c n f).sluice = s.sluice := rfl
@[simp] theorem State.modBatt_sluicePoison (s : State) (c n : Nat) (f : Batt → Batt) : (s.modBatt c n f).sluicePoison = s.sluicePoison := rfl
@[simp] theorem State.modBatt_controllers (s : State) (c n : Nat) (f : Batt → Batt) : (s.modBatt c n f).controllers = s.controllers := rfl
@[simp] theorem State.modBatt_cores (s : State) (c n : Nat) (f : Batt → Batt) : (s.modBatt c n f).cores = s.cores := rfl
@[simp] theorem State.modBatt_clusters (s : State) (c n : Nat) (f : Batt → Batt) : (s.modBatt c n f).clusters = s.clusters := rfl
@[simp] theorem State.modBatt_launches (s : State) (c n : Nat) (f : Batt → Batt) : (s.modBatt c n f).launches = s.launches := rfl
@[simp] theorem State.modBatt_felts (s : State) (c n : Nat) (f : Batt → Batt) : (s.modBatt c n f).felts = s.felts := rfl
@[simp] theorem State.modBatt_cur (s : State) (c n : Nat) (f : Batt → Batt) : (s.modBatt c n f).cur = s.cur := rfl
@[simp] theorem State.modBatt_choice (s : State) (c n : Nat) (f : Batt → Batt) : (s.modBatt c n f).choice = s.choice := rfl
@[simp] theorem State.modBatt_inputs (s : State) (c n : Nat) (f : Batt → Batt) : (s.modBatt c n f).inputs = s.inputs := rfl
@[simp] theorem State.modBatt_free (s : State) (c n : Nat) (f : Batt → Batt) : (s.modBatt c n f).free = s.free := rfl

@[simp] theorem State.modBattOf_dev (s : State) (i : BattId) (f : Batt → Batt) : (s.modBattOf i f).dev = s.dev := rfl
@[simp] theorem State.modBattOf_ctxs (s : State) (i : BattId) (f : Batt → Batt) : (s.modBattOf i f).ctxs = s.ctxs := rfl
@[simp] theorem State.modBattOf_windows (s : State) (i : BattId) (f : Batt → Batt) : (s.modBattOf i f).windows = s.windows := rfl
@[simp] theorem State.modBattOf_mem (s : State) (i : BattId) (f : Batt → Batt) : (s.modBattOf i f).mem = s.mem := rfl
@[simp] theorem State.modBattOf_l2 (s : State) (i : BattId) (f : Batt → Batt) : (s.modBattOf i f).l2 = s.l2 := rfl
@[simp] theorem State.modBattOf_l2Clock (s : State) (i : BattId) (f : Batt → Batt) : (s.modBattOf i f).l2Clock = s.l2Clock := rfl
@[simp] theorem State.modBattOf_memPoison (s : State) (i : BattId) (f : Batt → Batt) : (s.modBattOf i f).memPoison = s.memPoison := rfl
@[simp] theorem State.modBattOf_sluice (s : State) (i : BattId) (f : Batt → Batt) : (s.modBattOf i f).sluice = s.sluice := rfl
@[simp] theorem State.modBattOf_sluicePoison (s : State) (i : BattId) (f : Batt → Batt) : (s.modBattOf i f).sluicePoison = s.sluicePoison := rfl
@[simp] theorem State.modBattOf_controllers (s : State) (i : BattId) (f : Batt → Batt) : (s.modBattOf i f).controllers = s.controllers := rfl
@[simp] theorem State.modBattOf_cores (s : State) (i : BattId) (f : Batt → Batt) : (s.modBattOf i f).cores = s.cores := rfl
@[simp] theorem State.modBattOf_clusters (s : State) (i : BattId) (f : Batt → Batt) : (s.modBattOf i f).clusters = s.clusters := rfl
@[simp] theorem State.modBattOf_launches (s : State) (i : BattId) (f : Batt → Batt) : (s.modBattOf i f).launches = s.launches := rfl
@[simp] theorem State.modBattOf_felts (s : State) (i : BattId) (f : Batt → Batt) : (s.modBattOf i f).felts = s.felts := rfl
@[simp] theorem State.modBattOf_cur (s : State) (i : BattId) (f : Batt → Batt) : (s.modBattOf i f).cur = s.cur := rfl
@[simp] theorem State.modBattOf_choice (s : State) (i : BattId) (f : Batt → Batt) : (s.modBattOf i f).choice = s.choice := rfl
@[simp] theorem State.modBattOf_inputs (s : State) (i : BattId) (f : Batt → Batt) : (s.modBattOf i f).inputs = s.inputs := rfl
@[simp] theorem State.modBattOf_free (s : State) (i : BattId) (f : Batt → Batt) : (s.modBattOf i f).free = s.free := rfl

@[simp] theorem State.modLaunch_dev (s : State) (n : Nat) (f : Launch → Launch) : (s.modLaunch n f).dev = s.dev := rfl
@[simp] theorem State.modLaunch_ctxs (s : State) (n : Nat) (f : Launch → Launch) : (s.modLaunch n f).ctxs = s.ctxs := rfl
@[simp] theorem State.modLaunch_windows (s : State) (n : Nat) (f : Launch → Launch) : (s.modLaunch n f).windows = s.windows := rfl
@[simp] theorem State.modLaunch_mem (s : State) (n : Nat) (f : Launch → Launch) : (s.modLaunch n f).mem = s.mem := rfl
@[simp] theorem State.modLaunch_l2 (s : State) (n : Nat) (f : Launch → Launch) : (s.modLaunch n f).l2 = s.l2 := rfl
@[simp] theorem State.modLaunch_l2Clock (s : State) (n : Nat) (f : Launch → Launch) : (s.modLaunch n f).l2Clock = s.l2Clock := rfl
@[simp] theorem State.modLaunch_memPoison (s : State) (n : Nat) (f : Launch → Launch) : (s.modLaunch n f).memPoison = s.memPoison := rfl
@[simp] theorem State.modLaunch_sluice (s : State) (n : Nat) (f : Launch → Launch) : (s.modLaunch n f).sluice = s.sluice := rfl
@[simp] theorem State.modLaunch_sluicePoison (s : State) (n : Nat) (f : Launch → Launch) : (s.modLaunch n f).sluicePoison = s.sluicePoison := rfl
@[simp] theorem State.modLaunch_controllers (s : State) (n : Nat) (f : Launch → Launch) : (s.modLaunch n f).controllers = s.controllers := rfl
@[simp] theorem State.modLaunch_cores (s : State) (n : Nat) (f : Launch → Launch) : (s.modLaunch n f).cores = s.cores := rfl
@[simp] theorem State.modLaunch_clusters (s : State) (n : Nat) (f : Launch → Launch) : (s.modLaunch n f).clusters = s.clusters := rfl
@[simp] theorem State.modLaunch_felts (s : State) (n : Nat) (f : Launch → Launch) : (s.modLaunch n f).felts = s.felts := rfl
@[simp] theorem State.modLaunch_batts (s : State) (n : Nat) (f : Launch → Launch) : (s.modLaunch n f).batts = s.batts := rfl
@[simp] theorem State.modLaunch_cur (s : State) (n : Nat) (f : Launch → Launch) : (s.modLaunch n f).cur = s.cur := rfl
@[simp] theorem State.modLaunch_choice (s : State) (n : Nat) (f : Launch → Launch) : (s.modLaunch n f).choice = s.choice := rfl
@[simp] theorem State.modLaunch_inputs (s : State) (n : Nat) (f : Launch → Launch) : (s.modLaunch n f).inputs = s.inputs := rfl
@[simp] theorem State.modLaunch_free (s : State) (n : Nat) (f : Launch → Launch) : (s.modLaunch n f).free = s.free := rfl

@[simp] theorem State.modFelt_dev (s : State) (n m : Nat) (f : Felt → Felt) : (s.modFelt n m f).dev = s.dev := rfl
@[simp] theorem State.modFelt_ctxs (s : State) (n m : Nat) (f : Felt → Felt) : (s.modFelt n m f).ctxs = s.ctxs := rfl
@[simp] theorem State.modFelt_windows (s : State) (n m : Nat) (f : Felt → Felt) : (s.modFelt n m f).windows = s.windows := rfl
@[simp] theorem State.modFelt_mem (s : State) (n m : Nat) (f : Felt → Felt) : (s.modFelt n m f).mem = s.mem := rfl
@[simp] theorem State.modFelt_l2 (s : State) (n m : Nat) (f : Felt → Felt) : (s.modFelt n m f).l2 = s.l2 := rfl
@[simp] theorem State.modFelt_l2Clock (s : State) (n m : Nat) (f : Felt → Felt) : (s.modFelt n m f).l2Clock = s.l2Clock := rfl
@[simp] theorem State.modFelt_memPoison (s : State) (n m : Nat) (f : Felt → Felt) : (s.modFelt n m f).memPoison = s.memPoison := rfl
@[simp] theorem State.modFelt_sluice (s : State) (n m : Nat) (f : Felt → Felt) : (s.modFelt n m f).sluice = s.sluice := rfl
@[simp] theorem State.modFelt_sluicePoison (s : State) (n m : Nat) (f : Felt → Felt) : (s.modFelt n m f).sluicePoison = s.sluicePoison := rfl
@[simp] theorem State.modFelt_controllers (s : State) (n m : Nat) (f : Felt → Felt) : (s.modFelt n m f).controllers = s.controllers := rfl
@[simp] theorem State.modFelt_cores (s : State) (n m : Nat) (f : Felt → Felt) : (s.modFelt n m f).cores = s.cores := rfl
@[simp] theorem State.modFelt_clusters (s : State) (n m : Nat) (f : Felt → Felt) : (s.modFelt n m f).clusters = s.clusters := rfl
@[simp] theorem State.modFelt_launches (s : State) (n m : Nat) (f : Felt → Felt) : (s.modFelt n m f).launches = s.launches := rfl
@[simp] theorem State.modFelt_batts (s : State) (n m : Nat) (f : Felt → Felt) : (s.modFelt n m f).batts = s.batts := rfl
@[simp] theorem State.modFelt_cur (s : State) (n m : Nat) (f : Felt → Felt) : (s.modFelt n m f).cur = s.cur := rfl
@[simp] theorem State.modFelt_choice (s : State) (n m : Nat) (f : Felt → Felt) : (s.modFelt n m f).choice = s.choice := rfl
@[simp] theorem State.modFelt_inputs (s : State) (n m : Nat) (f : Felt → Felt) : (s.modFelt n m f).inputs = s.inputs := rfl
@[simp] theorem State.modFelt_free (s : State) (n m : Nat) (f : Felt → Felt) : (s.modFelt n m f).free = s.free := rfl

@[simp] theorem State.modDev_dev (s : State) (f : Dev → Dev) : (s.modDev f).dev = f s.dev := rfl
@[simp] theorem State.modBatt_batts (s : State) (c n : Nat) (f : Batt → Batt) :
    (s.modBatt c n f).batts = mapIf (fun b => b.core == c && b.slot == n) f s.batts := rfl
@[simp] theorem State.modCore_cores (s : State) (c : Nat) (f : CoreSt → CoreSt) : (s.modCore c f).cores = modAt s.cores c f := rfl
@[simp] theorem State.modCluster_clusters (s : State) (k : Nat) (f : Cluster → Cluster) : (s.modCluster k f).clusters = modAt s.clusters k f := rfl
@[simp] theorem State.modCtx_ctxs (s : State) (x : Nat) (f : Ctx → Ctx) : (s.modCtx x f).ctxs = modAt s.ctxs x f := rfl
@[simp] theorem State.modWindow_windows (s : State) (w : Nat) (f : Window → Window) : (s.modWindow w f).windows = modAt s.windows w f := rfl
@[simp] theorem State.emit_dev (s : State) (o : Output) : (s.emit o).dev = { s.dev with outbox := s.dev.outbox ++ [o] } := rfl

end Sys2Proof.Machine
end

