-- ==== Sys2Proof/Laws/Issue.lean ====
section
/-! SUPPORT. What the issue of a word comes to: every statement about a word rests on these. -/

namespace Sys2Proof.Machine

/-- The issue carries the instruction it is for. -/
theorem issueWord_instr {i : Instr} {s t : State} {x : Iss} {n : Nat} (h : issueWord i s = .go x n t) : x.instr = i := by
  unfold issueWord at h
  split at h
  · cases h
  · cases h
  · dsimp only at h
    split at h
    · cases h
    · split at h
      · cases h
      · split at h
        · cases h
        · split at h
          · cases h; rfl
          · cases h

/-- A word issues unless no batt stands where it should. -/
theorem issueWord_ne_none {i : Instr} {s : State} {b : Batt} (h : s.batt? s.cur.1 s.cur.2 = some b) : issueWord i s ≠ .none := by
  have ht : s.theTurn ≠ .none := by
    unfold State.theTurn
    rw [h]
    simp only
    split
    · simp
    · split
      · simp
      · split <;> simp
  unfold issueWord
  split
  · contradiction
  · simp
  · dsimp only
    split
    · simp
    · split
      · simp
      · split
        · simp
        · split <;> simp

/-- A word of a batt that stands at `cur` is answered, whatever its meaning. -/
theorem runWord_answers {i : Instr} {body : Iss → State → Body} {s : State} {b : Batt} (h : s.batt? s.cur.1 s.cur.2 = some b) :
    ∃ t, runWord i body s = .next t := by
  unfold runWord
  have := issueWord_ne_none (i := i) h
  split
  · contradiction
  · exact ⟨_, rfl⟩
  · exact ⟨_, rfl⟩

/-- A word that issues clear takes its own effect. -/
theorem runWord_clear {i : Instr} {s t : State} {x : Iss} {n : Nat} {body : Iss → State → Body} (h : s.clear i = some (x, n, t)) :
    runWord i body s = .next (finishWord x n (body x t) t) := by
  unfold State.clear at h
  split at h
  next x' n' t' hi =>
    split at h
    · cases h
    next hc =>
      cases h
      have hx := issueWord_instr hi
      simp only [Bool.or_eq_true, not_or, Bool.not_eq_true, Bool.not_eq_false', Iss.at] at hc
      obtain ⟨⟨⟨⟨h1, h2⟩, h3⟩, h4⟩, h5⟩ := hc
      have hb : runBody x body t = body x t := by
        unfold runBody execStage
        have hd : (if x.active = 0 then none
            else (t.battAt x.core x.slot).deferred.find? fun d => t.touchesReport (t.battAt x.core x.slot) x.instr x.active d) = none := by
          split
          · rfl
          next ha =>
            rw [List.find?_eq_none]
            intro d hd
            have : (x.active != 0) = true := by simpa using ha
            rw [this, Bool.true_and, List.any_eq_false] at h3
            rw [hx]
            exact h3 d hd
        dsimp only
        rw [hd]
        dsimp only
        rw [List.isEmpty_iff] at h4 h5
        simp only [hx, h1, h2, h4, h5, Bool.false_eq_true, if_false]
      unfold runWord
      rw [hi]
      simp only [hb]
  · cases h

/-- A word that is guarded off only lets its lanes advance (R65, R215). -/
theorem runWord_guardedOff {i : Instr} {s t : State} {x : Iss} {n : Nat} {body : Iss → State → Body}
    (h : s.guardedOff i = some (x, n, t)) : runWord i body s = .next (wordDone x n t) := by
  unfold State.guardedOff at h
  split at h
  next x' n' t' hi =>
    split at h
    next hc =>
      cases h
      have hx := issueWord_instr hi
      simp only [Bool.and_eq_true, Bool.or_eq_true, decide_eq_true_eq, Bool.not_eq_true', Iss.at] at hc
      obtain ⟨hp, hc⟩ := hc
      have hb : runBody x body t = .done t := by
        unfold runBody execStage
        dsimp only
        by_cases ha : x.active = 0
        · simp [ha, hx, hp]
        · rw [if_neg ha]
          obtain hc | ⟨⟨hs, hl⟩, hd⟩ := hc
          · contradiction
          · have : (t.battAt x.core x.slot).deferred.find? (fun d => t.touchesReport (t.battAt x.core x.slot) i x.active d) = none := by
              rw [List.find?_eq_none]
              rw [List.any_eq_false] at hd
              exact hd
            rw [hx, this]
            simp [hs, hl]
      unfold runWord
      rw [hi]
      simp only [hb]
      rfl
    · cases h
  · cases h

/-- A clear word whose meaning is done. -/
theorem runWord_done {i : Instr} {s t u : State} {x : Iss} {n : Nat} {body : Iss → State → Body} (h : s.clear i = some (x, n, t))
    (hb : body x t = .done u) : runWord i body s = .next (wordDone x n u) := by
  rw [runWord_clear h, hb]; rfl

/-- A clear word whose meaning has moved its lanes. -/
theorem runWord_moved {i : Instr} {s t u : State} {x : Iss} {n : Nat} {body : Iss → State → Body} (h : s.clear i = some (x, n, t))
    (hb : body x t = .moved u) : runWord i body s = .next (wordMoved x n u) := by
  rw [runWord_clear h, hb]; rfl

/-- A clear word that comes to wait. -/
theorem runWord_waits {i : Instr} {s t u : State} {x : Iss} {n : Nat} {body : Iss → State → Body} (h : s.clear i = some (x, n, t))
    (hb : body x t = .wait u) : runWord i body s = .next (wordWaits x n u) := by
  rw [runWord_clear h, hb]; rfl

/-- A clear word that traps. -/
theorem runWord_traps {i : Instr} {s t u : State} {x : Iss} {n : Nat} {l : List LaneCause} {body : Iss → State → Body}
    (h : s.clear i = some (x, n, t)) (hb : body x t = .trap l u) : runWord i body s = .next (wordTraps x n l u) := by
  rw [runWord_clear h, hb]; rfl

/-- The issue of a clear word carries the word. -/
theorem clear_instr {i : Instr} {s t : State} {x : Iss} {n : Nat} (h : s.clear i = some (x, n, t)) : x.instr = i := by
  unfold State.clear at h
  split at h
  next hi =>
    split at h
    · cases h
    · cases h; exact issueWord_instr hi
  · cases h

/-- When every lane passes its checks, the access goes on with them (R267). -/
theorem reportOr_passed {rs : List LaneRes} {accs : List LaneAcc} {a : Nat} {s : State} {k : List LaneAcc → Body}
    (h : Passed rs accs) : reportOr rs a s k = k accs := by
  unfold Passed at h
  subst h
  simp [reportOr, okAccs, List.filterMap_map]

end Sys2Proof.Machine
end

