-- ==== Sys2Proof/Laws/Registers.lean ====
section
/-! SUPPORT. Reading a register back after a write, masks of lanes, and finding a batt after a change. -/

namespace Sys2Proof.Machine

/-! ### Masks -/

theorem maskOf_foldl_lt (p : Nat → Bool) (n : Nat) :
    (List.range n).foldl (fun acc l => if p l then acc + 2 ^ l else acc) 0 < 2 ^ n := by
  induction n with
  | zero => simp
  | succ n ih =>
    rw [List.range_succ, List.foldl_append]
    simp only [List.foldl_cons, List.foldl_nil]
    split <;> omega

theorem testBit_foldl (p : Nat → Bool) (n l : Nat) :
    Nat.testBit ((List.range n).foldl (fun acc l => if p l then acc + 2 ^ l else acc) 0) l = (decide (l < n) && p l) := by
  induction n with
  | zero => simp
  | succ n ih =>
    rw [List.range_succ, List.foldl_append]
    simp only [List.foldl_cons, List.foldl_nil]
    have hlt := maskOf_foldl_lt p n
    split
    next hp =>
      by_cases h : l = n
      · subst h
        rw [Nat.add_comm, Nat.testBit_two_pow_add_eq, ih]
        simp [hp]
      · by_cases h2 : l < n
        · rw [Nat.add_comm, Nat.testBit_two_pow_add_gt h2, ih]
          have : l < n + 1 := by omega
          simp [h2, this]
        · have h3 : ¬ l < n + 1 := by omega
          have : (List.range n).foldl (fun acc l => if p l then acc + 2 ^ l else acc) 0 + 2 ^ n < 2 ^ l := by
            have : 2 ^ (n + 1) ≤ 2 ^ l := Nat.pow_le_pow_right (by omega) (by omega)
            omega
          rw [Nat.testBit_lt_two_pow this]
          simp [h3]
    next hp =>
      rw [ih]
      by_cases h : l = n
      · subst h; simp [hp]
      · have : (l < n + 1) = (l < n) := by simp; omega
        simp [this]

/-- A mask built from a test has exactly the lanes that pass it. -/
theorem inMask_maskOf {p : Nat → Bool} {l : Nat} (h : l < 32) : inMask (maskOf p) l = p l := by
  unfold inMask maskOf laneIds
  rw [BitVec.getLsbD_ofNat, testBit_foldl]
  simp [h]

/-! ### Vector registers -/

theorem find_putVReg_same (l : List VReg) (r : VReg) : (putVReg l r).find? (fun x => x.num == r.num) = some r := by
  induction l with
  | nil => simp [putVReg]
  | cons x t ih =>
    unfold putVReg
    split
    · simp
    · split
      · simp
      next h _ =>
        rw [List.find?_cons]
        have : (x.num == r.num) = false := by simpa using h
        rw [this]
        exact ih

theorem find_putVReg_other (l : List VReg) (r : VReg) {n : Nat} (hn : n ≠ r.num) :
    (putVReg l r).find? (fun x => x.num == n) = l.find? (fun x => x.num == n) := by
  have hr : (r.num == n) = false := by simpa using fun h => hn h.symm
  induction l with
  | nil => simp [putVReg, hr]
  | cons x t ih =>
    unfold putVReg
    split
    next h =>
      have hx : (x.num == n) = false := by rw [h]; exact hr
      simp [hr, hx]
    · split
      · simp [hr]
      · simp only [List.find?_cons]
        split
        · rfl
        · exact ih

/-- The record that a write of vn leaves. -/
theorem Batt.vreg_setV (b : Batt) (n : Nat) (m : Mask) (f : Nat → Word) :
    ((b.setV n m f).vreg? n).map (·.lanes) =
      some (laneIds.map fun l => if inMask m l then f l else ((b.vreg? n).getD { num := n }).lanes.getD l 0) := by
  unfold Batt.setV Batt.vreg?
  simp only
  have h (r : VReg) (hr : r.num = n) : (putVReg b.vregs r).find? (fun x => x.num == n) = some r := by
    rw [← hr]; exact find_putVReg_same _ _
  rw [h _ rfl]
  rfl

theorem Batt.v_setV_same (b : Batt) (n : Nat) (m : Mask) (f : Nat → Word) {l : Nat} (h : l < 32) :
    (b.setV n m f).v n l = if inMask m l then f l else b.v n l := by
  have := b.vreg_setV n m f
  unfold Batt.v Batt.vlanes
  cases hr : (b.setV n m f).vreg? n with
  | none => rw [hr] at this; cases this
  | some r =>
    rw [hr] at this
    simp only [Option.map_some, Option.some.injEq] at this
    simp only [this]
    rw [List.getD_eq_getElem?_getD, List.getElem?_map]
    simp only [laneIds, List.getElem?_range h, Option.map_some, Option.getD_some]
    split
    · rfl
    · cases hb : b.vreg? n with
      | some r => simp
      | none => rfl

theorem Batt.v_setV_other (b : Batt) {n k : Nat} (m : Mask) (f : Nat → Word) (h : k ≠ n) (l : Nat) :
    (b.setV n m f).v k l = b.v k l := by
  unfold Batt.setV Batt.v Batt.vlanes Batt.vreg?
  simp only
  rw [find_putVReg_other _ _ h]

theorem join_halves (x : DWord) : ((x >>> 32).setWidth 32 : Word) ++ (x.setWidth 32 : Word) = x := by
  ext i hi
  simp only [BitVec.getElem_append, BitVec.getElem_setWidth]
  split
  · rfl
  · rw [BitVec.getLsbD_ushiftRight, BitVec.getElem_eq_testBit_toNat]
    simp only [BitVec.getLsbD]
    congr 1
    omega

/-- A pair reads back whole in the lanes written. -/
theorem Batt.w_setW_same (b : Batt) (n : Nat) (m : Mask) (f : Nat → DWord) {l : Nat} (h : l < 32) (hm : inMask m l = true) :
    (b.setW n m f).w n l = f l := by
  unfold Batt.w Batt.setW
  rw [Batt.v_setV_same _ _ _ _ h, Batt.v_setV_other _ (n := n + 1) (k := n) _ _ (by omega), Batt.v_setV_same _ _ _ _ h]
  simp only [hm, if_true]
  exact join_halves (f l)

theorem Batt.v_setW_other (b : Batt) {n k : Nat} (m : Mask) (f : Nat → DWord) (h : k ≠ n) (h2 : k ≠ n + 1) (l : Nat) :
    (b.setW n m f).v k l = b.v k l := by
  unfold Batt.setW
  rw [Batt.v_setV_other _ _ _ h2, Batt.v_setV_other _ _ _ h]

/-! ### Scalars -/

theorem Batt.s_setS_same (b : Batt) {n : Nat} (x : DWord) (h : n < b.scalars.length) : (b.setS n x).s n = x := by
  simp [Batt.setS, Batt.s, setAt, h]

theorem Batt.s_setS_other (b : Batt) {n k : Nat} (x : DWord) (h : k ≠ n) : (b.setS n x).s k = b.s k := by
  simp [Batt.setS, Batt.s, setAt, List.getD_eq_getElem?_getD, h.symm]

@[simp] theorem Batt.v_setS (b : Batt) (n : Nat) (x : DWord) (k l : Nat) : (b.setS n x).v k l = b.v k l := rfl
@[simp] theorem Batt.p_setS (b : Batt) (n : Nat) (x : DWord) (k : Nat) : (b.setS n x).p k = b.p k := rfl
@[simp] theorem Batt.s_setV (b : Batt) (n : Nat) (m : Mask) (f : Nat → Word) (k : Nat) : (b.setV n m f).s k = b.s k := rfl
@[simp] theorem Batt.p_setV (b : Batt) (n : Nat) (m : Mask) (f : Nat → Word) (k : Nat) : (b.setV n m f).p k = b.p k := rfl
@[simp] theorem Batt.s_setP (b : Batt) (n : Nat) (m x : Mask) (k : Nat) : (b.setP n m x).s k = b.s k := rfl
@[simp] theorem Batt.v_setP (b : Batt) (n : Nat) (m x : Mask) (k l : Nat) : (b.setP n m x).v k l = b.v k l := rfl

/-! ### Predicates -/

theorem getElem_modAt {α : Type} (l : List α) (n k : Nat) (f : α → α) :
    (modAt l n f)[k]? = if k = n then (l[k]?).map f else l[k]? := by
  induction l generalizing n k with
  | nil => simp [modAt]
  | cons x t ih =>
    cases n with
    | zero => cases k <;> simp [modAt]
    | succ n =>
      cases k with
      | zero => simp [modAt]
      | succ k => simp [modAt, ih]

theorem Batt.p_setP_same (b : Batt) {n : Nat} (m x : Mask) (h : n < b.preds.length) (h7 : n ≠ 7) :
    (b.setP n m x).p n = (b.p n &&& ~~~m) ||| (x &&& m) := by
  simp [Batt.setP, Batt.p, h7, List.getD_eq_getElem?_getD, getElem_modAt, h]

theorem Batt.p_setP_other (b : Batt) {n k : Nat} (m x : Mask) (h : k ≠ n) : (b.setP n m x).p k = b.p k := by
  simp [Batt.setP, Batt.p, List.getD_eq_getElem?_getD, getElem_modAt, h]

/-! ### Batts -/

theorem find_mapIf_place (l : List Batt) (c n : Nat) (f : Batt → Batt) (hf : ∀ b, (f b).core = b.core ∧ (f b).slot = b.slot) :
    (mapIf (fun b => b.core == c && b.slot == n) f l).find? (fun b => b.core == c && b.slot == n)
      = (l.find? fun b => b.core == c && b.slot == n).map f := by
  induction l with
  | nil => rfl
  | cons x t ih =>
    simp only [mapIf, List.map_cons, List.find?_cons] at *
    by_cases h : (x.core == c && x.slot == n) = true
    · simp only [h, if_true]
      rw [(hf x).1, (hf x).2, h]
      simp
    · simp only [Bool.not_eq_true] at h
      simp only [h, Bool.false_eq_true, if_false]
      exact ih

/-- The batt of a place after a change that leaves batts where they stand. -/
theorem State.batt?_modBatt_same (s : State) (c n : Nat) (f : Batt → Batt) (hf : ∀ b, (f b).core = b.core ∧ (f b).slot = b.slot) :
    (s.modBatt c n f).batt? c n = (s.batt? c n).map f := find_mapIf_place s.batts c n f hf

theorem find_mapIf_const (l : List Batt) (c n : Nat) (b' : Batt) (hc : b'.core = c) (hn : b'.slot = n) :
    (mapIf (fun b => b.core == c && b.slot == n) (fun _ => b') l).find? (fun b => b.core == c && b.slot == n)
      = (l.find? fun b => b.core == c && b.slot == n).map fun _ => b' := by
  induction l with
  | nil => rfl
  | cons x t ih =>
    simp only [mapIf, List.map_cons, List.find?_cons] at *
    by_cases h : (x.core == c && x.slot == n) = true
    · simp [h, hc, hn]
    · simp only [Bool.not_eq_true] at h
      simp only [h, Bool.false_eq_true, if_false]
      exact ih

theorem State.batt?_modBatt_const (s : State) {c n : Nat} {b' : Batt} (hc : b'.core = c) (hn : b'.slot = n) :
    (s.modBatt c n fun _ => b').batt? c n = (s.batt? c n).map fun _ => b' := find_mapIf_const s.batts c n b' hc hn

/-- A change at one place leaves the batts of the others. -/
theorem State.batt?_modBatt_other (s : State) {c n c' n' : Nat} (f : Batt → Batt)
    (hf : ∀ b, b.core = c → b.slot = n → (f b).core = b.core ∧ (f b).slot = b.slot) (h : (c', n') ≠ (c, n)) :
    (s.modBatt c n f).batt? c' n' = s.batt? c' n' := by
  unfold State.batt? State.modBatt
  simp only
  generalize s.batts = l
  induction l with
  | nil => rfl
  | cons x t ih =>
    simp only [mapIf, List.map_cons, List.find?_cons] at *
    by_cases hx : (x.core == c && x.slot == n) = true
    · have hx' : x.core = c ∧ x.slot = n := by simpa using hx
      have hno : (x.core == c' && x.slot == n') = false := by
        apply Bool.eq_false_iff.mpr
        intro hh
        have hh' : x.core = c' ∧ x.slot = n' := by simpa using hh
        exact h (by rw [← hh'.1, ← hh'.2, hx'.1, hx'.2])
      simp only [hx, if_true, (hf x hx'.1 hx'.2).1, (hf x hx'.1 hx'.2).2, hno]
      exact ih
    · simp only [Bool.not_eq_true] at hx
      simp only [hx, Bool.false_eq_true, if_false]
      split
      · rfl
      · exact ih

/-- The batt at a place stands there. -/
theorem State.batt?_place {s : State} {c n : Nat} {b : Batt} (h : s.batt? c n = some b) : b.core = c ∧ b.slot = n := by
  have := List.find?_some h
  simpa using this

end Sys2Proof.Machine
end

