-- ==== Sys2Proof/Laws/Clear.lean ====
section
/-! SUPPORT. What stands between a state and the state in which a clear word executes: the turn, the preparation of its registers
and the entry into a pure region, all in the issuing batt. -/

namespace Sys2Proof.Machine

/-- Two batts that differ at most in their vector registers. -/
def SameButV (b c : Batt) : Prop := c = { b with vregs := c.vregs }

theorem SameButV.refl (b : Batt) : SameButV b b := rfl

theorem SameButV.trans {a b c : Batt} (h : SameButV a b) (k : SameButV b c) : SameButV a c := by
  unfold SameButV at *
  rw [k, h]

theorem SameButV.of (b : Batt) (l : List VReg) : SameButV b { b with vregs := l } := rfl

/-- A step of preparation that, where it succeeds, changes vector registers alone. -/
def Keeps (f : Prep → PrepRes) : Prop := ∀ p q, f p = .ok q → SameButV p.b q.b

theorem Batt.back_keeps {b c : Batt} {avoid : List Nat} {n : Nat} (h : b.back avoid n = some c) : SameButV b c := by
  unfold Batt.back at h
  simp only at h
  split at h
  · cases h; exact .refl b
  · split at h
    · cases h; exact .of b _
    · rw [Option.map_eq_some_iff] at h
      obtain ⟨r, -, rfl⟩ := h
      rfl

theorem Prep.back_keeps (avoid : List Nat) (n : Nat) : Keeps (Prep.back avoid n) := by
  intro p q h
  unfold Prep.back at h
  split at h
  next hb => cases h; exact Batt.back_keeps hb
  · cases h

theorem Batt.untag_keeps (b : Batt) (n : Nat) : SameButV b (b.untag n) := by
  unfold Batt.untag
  split
  · split
    · exact .of b _
    · exact .refl b
  · exact .refl b

/-- Giving up a word's backing touches the vector registers alone (R147, R149). -/
theorem Batt.unreserve_keeps (b : Batt) : SameButV b b.unreserve := .of b _

/-- Keeping the backing that a word took touches the vector registers alone (R151). -/
theorem Batt.keepBacks_keeps (b : Batt) (ns : List Nat) : SameButV b (b.keepBacks ns) := .of b _

/-- An operation that wrote nothing gives its registers back and touches nothing else (R147). -/
theorem Batt.untake_keeps (b : Batt) (ns : List Nat) : SameButV b (b.untake ns) := .of b _

theorem bind_ok {r : PrepRes} {f : Prep → PrepRes} {c : Prep} (h : r.bind f = .ok c) : ∃ b, r = .ok b ∧ f b = .ok c := by
  cases r with
  | ok b => exact ⟨b, rfl, h⟩
  | fault _ _ => cases h

theorem prepEach_keeps {α : Type} (f : α → Prep → PrepRes) (hf : ∀ x, Keeps (f x)) (l : List α) {r : PrepRes} {b : Batt} {c : Prep}
    (hr : ∀ a, r = .ok a → SameButV b a.b) (h : prepEach f l r = .ok c) : SameButV b c.b := by
  unfold prepEach at h
  induction l generalizing r with
  | nil => exact hr c h
  | cons x t ih =>
    refine ih (r := r.bind (f x)) ?_ h
    intro a ha
    obtain ⟨a', h1, h2⟩ := bind_ok ha
    exact (hr a' h1).trans (hf x a' a h2)

/-- The same from a preparation that stands. -/
theorem prepEach_from {α : Type} (f : α → Prep → PrepRes) (hf : ∀ x, Keeps (f x)) (l : List α) : Keeps fun p => prepEach f l (.ok p) :=
  fun p _ h => prepEach_keeps f hf l (b := p.b) (by intro a ha; cases ha; exact .refl _) h

theorem State.replay_keeps (s : State) (avoid : List Nat) (fuel y : Nat) : Keeps (s.replay avoid fuel y) := by
  induction fuel generalizing y with
  | zero => intro b c h; simp only [State.replay] at h; cases h; exact .refl _
  | succ fuel ih =>
    intro p q h
    simp only [State.replay] at h
    split at h
    · cases h; exact .refl _
    · split at h
      · split at h
        · cases h; exact .refl _
        · obtain ⟨a, h1, h2⟩ := bind_ok h
          obtain ⟨a0, h0, h1⟩ := bind_ok h1
          have k1 := prepEach_from _ ih _ _ a0 h0
          have k2 := Prep.back_keeps avoid y a0 a h1
          split at h2
          · cases h2
          · cases h2
            exact (k1.trans k2).trans (.of a.b _)
      · cases h; exact .refl _

theorem State.rematerialise_keeps (s : State) (avoid : List Nat) (y : Nat) : Keeps (s.rematerialise avoid y) := by
  intro p q h
  obtain ⟨a, h1, h2⟩ := bind_ok h
  cases h2
  exact (s.replay_keeps avoid 3 y p a h1).trans (Batt.untag_keeps a.b y)

theorem State.handleDeps_keeps (s : State) (avoid : List Nat) (x : RegRef) : Keeps (s.handleDeps avoid x) :=
  fun p q h => prepEach_from _ (s.rematerialise_keeps avoid) _ p q h

theorem State.backDest_keeps (s : State) (avoid whole : List Nat) (x : Nat) : Keeps (s.backDest avoid whole x) := by
  intro p q h
  unfold State.backDest at h
  split at h
  · exact s.replay_keeps avoid 3 x p q h
  · exact Prep.back_keeps avoid x p q h

/-- Making a preparation again with more registers excluded keeps what each making of it keeps. -/
theorem settlePrep_keeps {run : List Nat → PrepRes} {b : Batt} (hr : ∀ av q, run av = .ok q → SameButV b q.b) (fuel : Nat) (avoid : List Nat)
    {q : Prep} (h : settlePrep run fuel avoid = .ok q) : SameButV b q.b := by
  induction fuel generalizing avoid with
  | zero => exact hr _ _ h
  | succ fuel ih =>
    simp only [settlePrep] at h
    split at h
    · exact hr _ _ h
    · exact ih _ h

/-- Preparation changes vector registers alone (R154). -/
theorem State.prepare_keeps (s : State) (b : Batt) (reads writes : List RegRef) (backing : Bool) (whole : List Nat) {q : Prep}
    (h : s.prepare b reads writes backing whole = .ok q) : SameButV b q.b := by
  unfold State.prepare at h
  refine settlePrep_keeps ?_ _ _ h
  intro av q h
  refine prepEach_keeps _ (s.backDest_keeps av whole) _ ?_ h
  intro a ha
  refine prepEach_keeps _ (fun y => s.replay_keeps av 3 y) _ ?_ ha
  intro a ha
  exact prepEach_from _ (s.handleDeps_keeps av) _ _ a ha

/-- Giving up backing changes vector registers alone too, and stops no preparation. -/
theorem PrepRes.without_ok {ns : List Nat} {r : PrepRes} {q : Prep} (h : r.without ns = .ok q) : ∃ p, r = .ok p ∧ SameButV p.b q.b := by
  cases r with
  | fault _ _ => cases h
  | ok p =>
    cases h
    refine ⟨p, rfl, ?_⟩
    split
    · exact .refl _
    · exact .of p.b _

/-- So does the preparation of every word (R79, R151, R154, R166). -/
theorem State.prepareWord_keeps (s : State) (b : Batt) (i : Instr) (split active : Mask) {q : Prep}
    (h : s.prepareWord b i split active = .ok q) : SameButV b q.b := by
  unfold State.prepareWord at h
  simp only at h
  split at h
  · split at h
    · cases h; exact .refl _
    · split at h
      · cases h
      · exact s.prepare_keeps _ _ _ _ _ h
  · split at h
    · cases h; exact .refl _
    · refine settlePrep_keeps ?_ _ _ h
      intro av q h
      exact prepEach_from _ (s.rematerialise_keeps av) _ _ q h
  · split at h
    · cases h; exact .refl _
    · exact s.prepare_keeps _ _ _ _ _ h
  · obtain ⟨p, hp, hq⟩ := PrepRes.without_ok h
    exact (s.prepare_keeps _ _ _ _ _ hp).trans hq

/-- What the issue of a word may have changed of its batt before it executes. -/
def Issued (b c : Batt) : Prop :=
  c = { b with vregs := c.vregs, cursor := c.cursor, quant := c.quant, tag := c.tag, absorbed := c.absorbed }

/-- A batt put in place and then changed is put in place changed. -/
theorem State.modBatt_const_then (s : State) {c n : Nat} {b : Batt} (f : Batt → Batt) (hc : b.core = c) (hn : b.slot = n) :
    (s.modBatt c n fun _ => b).modBatt c n f = s.modBatt c n fun _ => f b := by
  unfold State.modBatt
  simp only [mapIf, List.map_map]
  congr 1
  apply List.map_congr_left
  intro y _
  simp only [Function.comp_def]
  cases hy : (y.core == c && y.slot == n) with
  | true => simp only [if_true, hc, hn, beq_self_eq_true, Bool.and_self]
  | false => simp only [Bool.false_eq_true, if_false, hy]

/-- The issue of a word: who issues, and what has changed. -/
theorem issueWord_shape {i : Instr} {s t : State} {x : Iss} {n : Nat} (h : issueWord i s = .go x n t) :
    ∃ b c, s.batt? s.cur.1 s.cur.2 = some b ∧ x.core = s.cur.1 ∧ x.slot = s.cur.2 ∧
      t = s.modBatt x.core x.slot (fun _ => c) ∧ Issued b c := by
  unfold issueWord at h
  split at h
  · cases h
  · cases h
  next b0 low k hturn =>
    have hb : s.batt? s.cur.1 s.cur.2 = some b0 := by
      unfold State.theTurn at hturn
      split at hturn
      · cases hturn
      next b hb =>
        split at hturn
        · cases hturn
        · split at hturn
          · cases hturn
          · split at hturn
            · cases hturn; exact hb
            · cases hturn
    obtain ⟨hc, hn⟩ := State.batt?_place hb
    have ht : (b0.takeTurn low).core = b0.core ∧ (b0.takeTurn low).slot = b0.slot ∧ Issued b0 (b0.takeTurn low) := by
      unfold Batt.takeTurn
      split <;> exact ⟨rfl, rfl, rfl⟩
    dsimp only at h
    split at h
    · cases h
    · split at h
      · cases h
      next p hprep =>
        have hk : SameButV (b0.takeTurn low) p.b := s.prepareWord_keeps _ _ _ _ hprep
        generalize p.b = b' at *
        have hk' : Issued b0 b' := by
          unfold SameButV at hk
          unfold Issued at ht ⊢
          rw [hk, ht.2.2]
        have hcore : b'.core = b0.core := by rw [hk']
        have hslot : b'.slot = b0.slot := by rw [hk']
        split at h
        · cases h
        split at h
        next s' he =>
          cases h
          simp only [ht.1, ht.2.1, hc, hn] at he ⊢
          unfold State.enterRegion at he
          simp only at he
          split at he
          · cases he; exact ⟨b0, b', hb, trivial, trivial, rfl, hk'⟩
          · split at he
            · cases he
            · split at he
              next r _ _ =>
                cases he
                refine ⟨b0, { b' with tag := .region r.start, absorbed := [] }, hb, trivial, trivial, ?_, ?_⟩
                · have e1 : b'.core = s.cur.1 := hcore.trans hc
                  have e2 : b'.slot = s.cur.2 := hslot.trans hn
                  have := State.modBatt_const_then s (fun b : Batt => { b with tag := .region r.start, absorbed := [] }) e1 e2
                  rw [← e1, ← e2] at this ⊢
                  exact this
                · unfold Issued at hk' ⊢
                  rw [hk']
              · cases he; exact ⟨b0, b', hb, trivial, trivial, rfl, hk'⟩
            · cases he; exact ⟨b0, b', hb, trivial, trivial, rfl, hk'⟩
        · cases h

/-- A clear word's issue. -/
theorem clear_issue {i : Instr} {s t : State} {x : Iss} {n : Nat} (h : s.clear i = some (x, n, t)) : issueWord i s = .go x n t := by
  unfold State.clear at h
  split at h
  next hi =>
    split at h
    · cases h
    · cases h; exact hi
  · cases h

/-- Before a clear word executes, only its own batt has changed: the turn, vector registers brought back, the region's tag. -/
theorem clear_shape {i : Instr} {s t : State} {x : Iss} {n : Nat} (h : s.clear i = some (x, n, t)) :
    ∃ b c, s.batt? x.core x.slot = some b ∧ t.batt? x.core x.slot = some c ∧ t = s.modBatt x.core x.slot (fun _ => c) ∧
      Issued b c ∧ c.core = x.core ∧ c.slot = x.slot ∧ x.at t = c := by
  obtain ⟨b, c, hb, hc, hn, ht, hi⟩ := issueWord_shape (clear_issue h)
  rw [← hc, ← hn] at hb
  obtain ⟨h1, h2⟩ := State.batt?_place hb
  have hc1 : c.core = x.core := by rw [hi]; exact h1
  have hc2 : c.slot = x.slot := by rw [hi]; exact h2
  have hbt : t.batt? x.core x.slot = some c := by rw [ht, State.batt?_modBatt_const s hc1 hc2, hb]; rfl
  exact ⟨b, c, hb, hbt, ht, hi, hc1, hc2, by unfold Iss.at State.battAt; rw [hbt]; rfl⟩

end Sys2Proof.Machine
end

