-- ==== Sys2Proof/Laws/Words.lean ====
section
/-! SUPPORT. What follows a word that completes, as seen in its batt and in the rest of the state. -/

namespace Sys2Proof.Machine

/-- Two batts that differ at most in what the completion of a word changes: the lanes, the turn, the purity set. -/
def Finished (b c : Batt) : Prop :=
  c = { b with lanes := c.lanes, cursor := c.cursor, quant := c.quant, absorbed := c.absorbed }

/-- Two changes of the batt at a place, the first of which leaves it there. -/
theorem State.modBatt_then (s : State) (c n : Nat) (f g : Batt → Batt) (hf : ∀ b, (f b).core = b.core ∧ (f b).slot = b.slot) :
    (s.modBatt c n f).modBatt c n g = s.modBatt c n fun b => g (f b) := by
  unfold State.modBatt mapIf
  simp only [List.map_map]
  congr 1
  apply List.map_congr_left
  intro y _
  simp only [Function.comp_def]
  by_cases hy : (y.core == c && y.slot == n) = true
  · have hy2 : ((f y).core == c && (f y).slot == n) = true := by rw [(hf y).1, (hf y).2]; exact hy
    rw [if_pos hy, if_pos hy2, if_pos hy]
  · rw [if_neg hy, if_neg hy, if_neg hy]

/-- The purity set alone changes (R349). -/
theorem noteDefs_shape (s : State) (core slot : Nat) (i : Instr) (pc : DWord) (active : Mask) :
    ∃ f : Batt → Batt, s.noteDefs core slot i pc active = s.modBatt core slot f ∧ ∀ b, f b = { b with absorbed := (f b).absorbed } := by
  have h0 : s = s.modBatt core slot id := by
    unfold State.modBatt mapIf
    simp
  unfold State.noteDefs
  simp only
  split
  · exact ⟨id, h0, fun _ => rfl⟩
  · split
    · split
      · exact ⟨_, rfl, fun _ => rfl⟩
      · exact ⟨id, h0, fun _ => rfl⟩
    · exact ⟨id, h0, fun _ => rfl⟩

theorem countTurn_finished (b : Batt) (low n : Nat) : Finished b (b.countTurn low n) := by
  unfold Batt.countTurn
  generalize (if 1 < n then b.quant + 1 else b.quant) = q
  simp only
  split <;> rfl

theorem advance_finished (b : Batt) (m : Mask) : Finished b (b.advance m) := rfl

theorem Finished.trans {a b c : Batt} (h : Finished a b) (k : Finished b c) : Finished a c := by
  unfold Finished at *
  rw [k, h]

/-- A completed word leaves every other part of the state, and of its batt all but the lanes, the turn and the purity set. -/
theorem wordDone_shape (x : Iss) (n : Nat) (u : State) :
    ∃ f : Batt → Batt, wordDone x n u = u.modBatt x.core x.slot f ∧ ∀ b, Finished b (f b) := by
  obtain ⟨g, hg, hg'⟩ := noteDefs_shape u x.core x.slot x.instr x.pc x.acted
  refine ⟨fun b => ((g b).advance (x.split &&& (g b).lanesWhere fun l => l.st == .ready && l.pc == x.pc)).countTurn x.low n, ?_, ?_⟩
  · unfold wordDone finishWord
    simp only
    rw [hg]
    exact State.modBatt_then u _ _ g _ fun b => by rw [hg' b]; exact ⟨rfl, rfl⟩
  · intro b
    have h1 : Finished b (g b) := by unfold Finished; rw [hg' b]
    exact (h1.trans (advance_finished _ _)).trans (countTurn_finished _ _ _)

/-- The same for a word that has moved its lanes. -/
theorem wordMoved_shape (x : Iss) (n : Nat) (u : State) :
    ∃ f : Batt → Batt, wordMoved x n u = u.modBatt x.core x.slot f ∧ ∀ b, Finished b (f b) := by
  obtain ⟨g, hg, hg'⟩ := noteDefs_shape u x.core x.slot x.instr x.pc x.acted
  refine ⟨fun b => (g b).countTurn x.low n, ?_, ?_⟩
  · unfold wordMoved finishWord
    simp only
    rw [hg]
    exact State.modBatt_then u _ _ g _ fun b => by rw [hg' b]; exact ⟨rfl, rfl⟩
  · intro b
    have h1 : Finished b (g b) := by unfold Finished; rw [hg' b]
    exact h1.trans (countTurn_finished _ _ _)

theorem Finished.place {b c : Batt} (h : Finished b c) : c.core = b.core ∧ c.slot = b.slot := by
  unfold Finished at h
  rw [h]
  exact ⟨rfl, rfl⟩

/-- The batt after a completed word. -/
theorem wordDone_batt {x : Iss} {n : Nat} {u : State} {b : Batt} (h : u.batt? x.core x.slot = some b) :
    ∃ c, (wordDone x n u).batt? x.core x.slot = some c ∧ Finished b c := by
  obtain ⟨f, hf, hf'⟩ := wordDone_shape x n u
  refine ⟨f b, ?_, hf' b⟩
  rw [hf, State.batt?_modBatt_same _ _ _ _ fun b => (hf' b).place, h]
  rfl

/-- The batt after a word that has moved its lanes. -/
theorem wordMoved_batt {x : Iss} {n : Nat} {u : State} {b : Batt} (h : u.batt? x.core x.slot = some b) :
    ∃ c, (wordMoved x n u).batt? x.core x.slot = some c ∧ Finished b c := by
  obtain ⟨f, hf, hf'⟩ := wordMoved_shape x n u
  refine ⟨f b, ?_, hf' b⟩
  rw [hf, State.batt?_modBatt_same _ _ _ _ fun b => (hf' b).place, h]
  rfl

theorem OnlyBatt.refl (c n : Nat) (s : State) : OnlyBatt c n s s := ⟨rfl, fun _ _ _ => rfl⟩

theorem OnlyBatt.trans {c n : Nat} {s t u : State} (h : OnlyBatt c n s t) (k : OnlyBatt c n t u) : OnlyBatt c n s u := by
  refine ⟨?_, fun c' n' h' => (k.2 c' n' h').trans (h.2 c' n' h')⟩
  have h1 := h.1
  have k1 := k.1
  rw [k1, h1]

/-- A change of the batt at a place. -/
theorem modBatt_onlyBatt (s : State) (c n : Nat) (f : Batt → Batt)
    (hf : ∀ b, b.core = c → b.slot = n → (f b).core = b.core ∧ (f b).slot = b.slot) : OnlyBatt c n s (s.modBatt c n f) :=
  ⟨rfl, fun _ _ h => s.batt?_modBatt_other f hf h⟩

theorem wordDone_onlyBatt (x : Iss) (n : Nat) (u : State) : OnlyBatt x.core x.slot u (wordDone x n u) := by
  obtain ⟨f, hf, hf'⟩ := wordDone_shape x n u
  rw [hf]
  exact modBatt_onlyBatt u _ _ f fun b _ _ => (hf' b).place

theorem wordMoved_onlyBatt (x : Iss) (n : Nat) (u : State) : OnlyBatt x.core x.slot u (wordMoved x n u) := by
  obtain ⟨f, hf, hf'⟩ := wordMoved_shape x n u
  rw [hf]
  exact modBatt_onlyBatt u _ _ f fun b _ _ => (hf' b).place

/-- A word that issues clear has changed only its own batt before it executes. -/
theorem clear_onlyBatt {i : Instr} {s t : State} {x : Iss} {n : Nat} (h : s.clear i = some (x, n, t)) :
    OnlyBatt x.core x.slot s t := by
  obtain ⟨b, c, _, _, ht, _, hc, hn, _⟩ := clear_shape h
  rw [ht]
  exact modBatt_onlyBatt s _ _ _ fun b hb hs => ⟨by rw [hc, hb], by rw [hn, hs]⟩

end Sys2Proof.Machine
end

