-- ==== Sys2Proof/Laws/Lanes.lean ====
section
/-! SUPPORT. What a word that computes lane by lane writes. -/

namespace Sys2Proof.Machine

/-- The result list holds the lane function's value in every lane of the mask. -/
theorem resAt_laneList (fn : LaneFn) (m : Mask) (b : Batt) {l : Nat} (h : l < 32) (hm : inMask m l = true) :
    resAt (laneList fn m b) l = fn b b.fpcr l := by
  simp [resAt, laneList, laneIds, List.getD_eq_getElem?_getD, h, hm]

theorem inMask_lane1 {k l : Nat} (_hl : l < 32) (h : inMask (lane1 k) l = true) : l = k := by
  unfold inMask lane1 at h
  rw [BitVec.getLsbD_ofNat, Nat.testBit_two_pow] at h
  simp at h
  exact h.2.symm

theorem lowLane_lane1 {k : Nat} (h : k < 32) : lowLane (lane1 k) = some k := by
  revert h
  revert k
  decide

/-- A lane function that raises nothing. -/
theorem trapLanes_ires (fn : LaneFn) (v : Batt → Nat → Nat) (hv : ∀ b fp l, fn b fp l = ires (v b l)) (m : Mask) (b : Batt) (fp : Word) :
    trapLanes (laneList fn m b) m fp = 0 := by
  unfold trapLanes
  have : (fun l => inMask m l && (resAt (laneList fn m b) l).traps fp) = fun _ => false := by
    funext l
    have hr : (resAt (laneList fn m b) l).traps fp = false := by
      unfold resAt laneList
      rw [List.getD_eq_getElem?_getD, List.getElem?_map]
      cases laneIds[l]? with
      | none => simp [FRes.traps, FRes.tr]
      | some j =>
        simp only [Option.map_some, Option.getD_some]
        split
        · rw [hv]; simp [FRes.traps, FRes.tr, ires]
        · simp [FRes.traps, FRes.tr]
    rw [hr, Bool.and_false]
  rw [this]
  decide

/-- Reading a destination back. -/
theorem Batt.dstAt_put (b : Batt) (d : AluDst) (m : Mask) (r : Nat → Nat) {l : Nat} (hl : l < 32) (hm : inMask m l = true)
    (hp : ∀ n, d ≠ .p n) (hs : ∀ n, d = .s n → n < b.scalars.length ∧ ∃ k, m = lane1 k) :
    (b.put d m r).dstAt d l = r l % 2 ^ d.width := by
  cases d with
  | v n => simp [AluDst.width, Batt.put, Batt.dstAt, Batt.v_setV_same _ _ _ _ hl, hm]
  | w n => simp [AluDst.width, Batt.put, Batt.dstAt, Batt.w_setW_same _ _ _ _ hl hm]
  | s n =>
    obtain ⟨h1, k, hk⟩ := hs n rfl
    have hlk : l = k := by rw [hk] at hm; exact inMask_lane1 hl hm
    simp [AluDst.width, Batt.put, Batt.dstAt, Batt.s_setS_same _ _ h1, hk, lowLane_lane1 (hlk ▸ hl), hlk]
  | p n => exact absurd rfl (hp n)

/-- Other vector registers than the destination keep their lanes. -/
theorem Batt.v_put_other (b : Batt) (d : AluDst) (m : Mask) (r : Nat → Nat) {k : Nat} (h : k ∉ d.vectors) (l : Nat) :
    (b.put d m r).v k l = b.v k l := by
  cases d with
  | v n => exact Batt.v_setV_other _ _ _ (by simpa [AluDst.vectors] using h) l
  | w n =>
    simp [AluDst.vectors] at h
    exact Batt.v_setW_other _ _ _ h.1 h.2 l
  | s n => rfl
  | p n => rfl

/-- Lanes outside the mask keep the destination's value. -/
theorem Batt.v_put_outside (b : Batt) (d : AluDst) (m : Mask) (r : Nat → Nat) {l : Nat} (hl : l < 32) (hm : inMask m l = false) (k : Nat) :
    (b.put d m r).v k l = b.v k l := by
  cases d with
  | v n =>
    by_cases h : k = n
    · subst h; simp [Batt.put, Batt.v_setV_same _ _ _ _ hl, hm]
    · exact Batt.v_setV_other _ _ _ h l
  | w n =>
    unfold Batt.put Batt.setW
    simp only
    by_cases h2 : k = n + 1
    · subst h2
      rw [Batt.v_setV_same _ _ _ _ hl, Batt.v_setV_other _ _ _ (by omega)]
      simp [hm]
    · rw [Batt.v_setV_other _ _ _ h2]
      by_cases h : k = n
      · subst h; rw [Batt.v_setV_same _ _ _ _ hl]; simp [hm]
      · exact Batt.v_setV_other _ _ _ h l
  | s n => rfl
  | p n => rfl

theorem put_place (b : Batt) (d : AluDst) (m : Mask) (r : Nat → Nat) : (b.put d m r).core = b.core ∧ (b.put d m r).slot = b.slot := by
  cases d <;> exact ⟨rfl, rfl⟩

/-- The completion of a lane word, seen in its batt. -/
theorem laneBody_completes {i : Instr} {fn : LaneFn} {d : AluDst} {s t : State} {x : Iss} {n : Nat}
    (h : s.clear i = some (x, n, t)) (ht : trapLanes (laneList fn (resultLanes d x) (x.at t)) (resultLanes d x) (x.at t).fpcr = 0) :
    ∃ u c, runWord i (laneBody fn d) s = .next u ∧ u.batt? x.core x.slot = some c ∧ OnlyBatt x.core x.slot s u ∧
      Finished { (x.at t).put d (resultLanes d x) (fun l => (resAt (laneList fn (resultLanes d x) (x.at t)) l).bits) with
        fpsr := (x.at t).fpsr ||| flagsOver (laneList fn (resultLanes d x) (x.at t)) (resultLanes d x) } c := by
  obtain ⟨b, c, hb, hc, _, _, h1, h2, hx⟩ := clear_shape h
  have hcl := clear_onlyBatt h
  subst hx
  let g : Batt → Batt := fun b => { b.put d (resultLanes d x) (fun l => (resAt (laneList fn (resultLanes d x) (x.at t)) l).bits) with
    fpsr := b.fpsr ||| flagsOver (laneList fn (resultLanes d x) (x.at t)) (resultLanes d x) }
  have hg : ∀ b, (g b).core = b.core ∧ (g b).slot = b.slot := fun b => put_place b d _ _
  have hbody : laneBody fn d x t = .done (t.modBatt x.core x.slot g) := by
    unfold laneBody
    simp only
    have : t.battAt x.core x.slot = x.at t := rfl
    rw [this, ht]
    rfl
  have hu : (t.modBatt x.core x.slot g).batt? x.core x.slot = some (g (x.at t)) := by
    rw [State.batt?_modBatt_same _ _ _ _ hg, hc]
    rfl
  obtain ⟨c', hc', hf⟩ := wordDone_batt (n := n) hu
  exact ⟨_, c', runWord_done h hbody, hc',
    (hcl.trans (modBatt_onlyBatt t _ _ g fun b _ _ => hg b)).trans (wordDone_onlyBatt x n _), hf⟩

end Sys2Proof.Machine
end

