-- ==== Sys2Proof/Laws/Memory.lean ====
section
/-! SUPPORT. Sparse memory: reads after writes, and the canonical form is kept by every operation. -/

namespace Sys2Proof.Machine

theorem Memory.wfFrom_weaken {lo : Nat} {m : Memory} (o : Option Nat) (h : Memory.wfFrom (some lo) m = true)
    (ho : ∀ k, o = some k → k ≤ lo) : Memory.wfFrom o m = true := by
  cases m with
  | nil => rfl
  | cons c t =>
    obtain ⟨k, v⟩ := c
    simp only [Memory.wfFrom, Bool.and_eq_true, decide_eq_true_eq] at h ⊢
    refine ⟨⟨?_, h.1.2⟩, h.2⟩
    cases o with
    | none => rfl
    | some j => exact decide_eq_true (Nat.lt_of_le_of_lt (ho j rfl) h.1.1)

theorem Memory.get_of_lt {m : Memory} {lo a : Nat} (h : Memory.wfFrom (some lo) m = true) (ha : a ≤ lo) : m.get a = 0 := by
  cases m with
  | nil => rfl
  | cons c t =>
    obtain ⟨k, v⟩ := c
    simp only [Memory.wfFrom, Bool.and_eq_true, decide_eq_true_eq] at h
    have h1 : k ≠ a := by omega
    have h2 : a < k := by omega
    simp [Memory.get, h1, h2]

theorem Memory.put_wfFrom (m : Memory) (o : Option Nat) (a : Nat) (x : Byte) (h : Memory.wfFrom o m = true)
    (ho : ∀ k, o = some k → k < a) : Memory.wfFrom o (m.put a x) = true := by
  induction m generalizing o with
  | nil =>
    unfold Memory.put
    split
    · rfl
    next hx =>
      simp only [Memory.wfFrom, Bool.and_eq_true]
      refine ⟨⟨?_, by simpa using hx⟩, trivial⟩
      cases o with
      | none => rfl
      | some j => exact decide_eq_true (ho j rfl)
  | cons c t ih =>
    obtain ⟨k, v⟩ := c
    have h0 := h
    simp only [Memory.wfFrom, Bool.and_eq_true] at h
    obtain ⟨⟨h1, h2⟩, h3⟩ := h
    unfold Memory.put
    split
    next hk =>
      subst hk
      split
      · refine Memory.wfFrom_weaken o h3 fun j hj => Nat.le_of_lt (ho j hj)
      next hx =>
        simp only [Memory.wfFrom, Bool.and_eq_true]
        exact ⟨⟨h1, by simpa using hx⟩, h3⟩
    next hk =>
      split
      next hlt =>
        split
        · exact h0
        next hx =>
          simp only [Memory.wfFrom, Bool.and_eq_true]
          refine ⟨⟨?_, by simpa using hx⟩, ⟨by simpa using hlt, h2⟩, h3⟩
          cases o with
          | none => rfl
          | some j => exact decide_eq_true (ho j rfl)
      next hlt =>
        simp only [Memory.wfFrom, Bool.and_eq_true]
        refine ⟨⟨h1, h2⟩, ih (some k) h3 fun j hj => ?_⟩
        cases hj
        omega

/-- Writing one byte keeps the canonical form. -/
theorem Memory.put_wf (m : Memory) (a : Nat) (x : Byte) (h : m.wf = true) : (m.put a x).wf = true :=
  Memory.put_wfFrom m none a x h fun _ h => nomatch h

/-- A byte reads as it was written, and every other byte as before. -/
theorem Memory.get_put_from (m : Memory) (o : Option Nat) (a b : Nat) (x : Byte) (h : Memory.wfFrom o m = true) :
    (m.put a x).get b = if b = a then x else m.get b := by
  induction m generalizing o with
  | nil =>
    unfold Memory.put
    by_cases hb : b = a
    · subst hb
      split
      next hx => simp [Memory.get, hx]
      · simp [Memory.get]
    · have : a ≠ b := fun h => hb h.symm
      split <;> simp [Memory.get, this]
  | cons c t ih =>
    obtain ⟨k, v⟩ := c
    simp only [Memory.wfFrom, Bool.and_eq_true] at h
    obtain ⟨⟨h1, h2⟩, h3⟩ := h
    unfold Memory.put
    split
    next hk =>
      subst hk
      split
      next hx =>
        by_cases hb : b = k
        · subst hb; simp [hx, Memory.get_of_lt h3 (Nat.le_refl _)]
        · have : k ≠ b := fun h => hb h.symm
          by_cases hlt : b < k
          · simp [hb, Memory.get, this, hlt, Memory.get_of_lt h3 (Nat.le_of_lt hlt)]
          · simp [hb, Memory.get, this, hlt]
      · by_cases hb : b = k
        · subst hb; simp [Memory.get]
        · have : k ≠ b := fun h => hb h.symm
          simp [hb, Memory.get, this]
    next hk =>
      split
      next hlt =>
        split
        next hx =>
          by_cases hb : b = a
          · subst hb; simp [hx, Memory.get, hk, hlt]
          · simp [hb]
        · by_cases hb : b = a
          · subst hb; simp [Memory.get]
          · have : a ≠ b := fun h => hb h.symm
            by_cases hl : b < a
            · have h5 : k ≠ b := by omega
              have h6 : b < k := by omega
              simp [hb, Memory.get, this, hl, h5, h6]
            · simp [hb, Memory.get, this, hl]
      next hlt =>
        by_cases hkb : k = b
        · subst hkb; simp [Memory.get, hk]
        · by_cases hbk : b < k
          · have : b ≠ a := by omega
            simp [Memory.get, hkb, hbk, this]
          · simp [Memory.get, hkb, hbk, ih (some k) h3]

/-- A byte reads as it was written, and every other byte as before. -/
theorem Memory.get_put (m : Memory) (a b : Nat) (x : Byte) (h : m.wf = true) : (m.put a x).get b = if b = a then x else m.get b :=
  Memory.get_put_from m none a b x h

/-- Storing bytes keeps the canonical form. -/
theorem Memory.write_wf (bs : List Byte) (m : Memory) (a : Nat) (h : m.wf = true) : (m.write a bs).wf = true := by
  induction bs generalizing m a with
  | nil => exact h
  | cons b t ih => exact ih _ _ (Memory.put_wf m a b h)

/-- Storing masked bytes keeps the canonical form. -/
theorem Memory.writeMasked_wf (m : Memory) (a : Nat) (mask : DWord) (bs : List Byte) (h : m.wf = true) :
    (m.writeMasked a mask bs).wf = true := by
  unfold Memory.writeMasked
  generalize List.range 64 = l
  induction l generalizing m with
  | nil => exact h
  | cons i t ih =>
    simp only [List.foldl_cons]
    apply ih
    split
    · exact Memory.put_wf _ _ _ h
    · exact h

theorem Memory.filter_wfFrom (m : Memory) (p : Host.Cell → Bool) (o : Option Nat) (h : Memory.wfFrom o m = true) :
    Memory.wfFrom o (m.filter p) = true := by
  induction m generalizing o with
  | nil => exact h
  | cons c t ih =>
    obtain ⟨k, v⟩ := c
    simp only [Memory.wfFrom, Bool.and_eq_true] at h
    obtain ⟨⟨h1, h2⟩, h3⟩ := h
    rw [List.filter_cons]
    split
    · simp only [Memory.wfFrom, Bool.and_eq_true]
      exact ⟨⟨h1, h2⟩, ih (some k) h3⟩
    · refine Memory.wfFrom_weaken o (ih (some k) h3) fun j hj => ?_
      subst hj
      exact Nat.le_of_lt (of_decide_eq_true h1)

/-- Clearing a range keeps the canonical form. -/
theorem Memory.clearRange_wf (m : Memory) (a n : Nat) (h : m.wf = true) : (m.clearRange a n).wf = true :=
  Memory.filter_wfFrom m _ none h

/-- Bytes stored from an address read back, and every other byte as before. -/
theorem Memory.get_write (bs : List Byte) (m : Memory) (a b : Nat) (h : m.wf = true) :
    (m.write a bs).get b = if a ≤ b ∧ b < a + bs.length then bs.getD (b - a) 0 else m.get b := by
  induction bs generalizing m a with
  | nil =>
    simp only [Memory.write, List.length_nil]
    rw [if_neg (by omega)]
  | cons x t ih =>
    rw [Memory.write, ih _ _ (Memory.put_wf m a x h), Memory.get_put m a b x h]
    by_cases hb : b = a
    · subst hb
      rw [if_neg (by omega), if_pos rfl, if_pos ⟨Nat.le_refl _, by simp⟩]
      simp
    · by_cases h1 : a + 1 ≤ b ∧ b < a + 1 + t.length
      · have h2 : a ≤ b ∧ b < a + (x :: t).length := by simp; omega
        have h3 : b - a = (b - (a + 1)) + 1 := by omega
        rw [if_pos h1, if_pos h2, h3, List.getD_cons_succ]
      · have h2 : ¬(a ≤ b ∧ b < a + (x :: t).length) := by simp; omega
        rw [if_neg h1, if_neg h2, if_neg hb]

end Sys2Proof.Machine
end

