-- ==== Sys2Proof/Laws/Power.lean ====
section
/-! SUPPORT. What the passing of time may change: clusters, device registers and the count of free values, and nothing else. -/

namespace Sys2Proof.Machine

/-- A lapse of the watchdog reaches clusters and device registers alone (R435). -/
theorem State.lapse_keeps (s : State) : s.lapse = { s with clusters := s.lapse.clusters, dev := s.lapse.dev } := by
  unfold State.lapse State.holdBoost
  split <;> [split <;> rfl; rfl]

/-- What has come due reaches clusters, device registers and the count of free values alone (R430, R433 to R435). -/
theorem State.settle_keeps (s : State) : s.settle = { s with clusters := s.settle.clusters, dev := s.settle.dev, free := s.settle.free } := by
  simp only [State.settle]
  rw [State.lapse_keeps]
  split <;> rfl

/-- So does a pulse (R427, R429). -/
theorem State.onePulse_keeps (s : State) :
    s.onePulse = { s with clusters := s.onePulse.clusters, dev := s.onePulse.dev, free := s.onePulse.free } := by
  simp only [State.onePulse]
  split
  · rw [State.settle_keeps]; rfl
  · rfl

/-- So do several. -/
theorem State.pulses_keeps (n : Nat) (s : State) :
    s.pulses n = { s with clusters := (s.pulses n).clusters, dev := (s.pulses n).dev, free := (s.pulses n).free } := by
  induction n generalizing s with
  | zero => rfl
  | succ n ih => simp only [State.pulses]; rw [ih, State.onePulse_keeps]

/-- So does the time until a cluster's next cycle. -/
theorem State.untilCycle_keeps (k n : Nat) (s : State) : s.untilCycle k n =
    { s with clusters := (s.untilCycle k n).clusters, dev := (s.untilCycle k n).dev, free := (s.untilCycle k n).free } := by
  induction n generalizing s with
  | zero => rfl
  | succ n ih =>
    simp only [State.untilCycle]
    split
    · rw [ih, State.onePulse_keeps]
    · exact State.onePulse_keeps s

end Sys2Proof.Machine
end

