-- ==== Sys2Proof/Tests/Slice0.lean ====
section
/-! SUPPORT. Tests: ill-formed terms that are refused, words of the manual, a witness for the hypotheses of every statement, and
worked examples of the manual. Expected values come from the manual's own tables. -/

set_option maxRecDepth 100000
set_option exponentiation.threshold 4096

namespace Sys2Proof.Tests

open Sys2Proof.Machine

/-! ### A small machine for the witnesses -/

/-- One batt about to fetch the word; page 5 is writable memory, page 6 lies in the host aperture, page 7 is sealed; the batt and the
rest are as edited. -/
def fixture (w : DWord) (edit : Batt → Batt := id) (more : State → State := id) : State :=
  let s := State.reset.placeWord (bytesOf 8 w.toNat)
  let s : State := { s with mem := ((s.mem.write (0x30000 + 40) (bytesOf 8 0x50083)).write (0x30000 + 48) (bytesOf 8 0x80000600A3)).write (0x30000 + 56) (bytesOf 8 0x70089) }
  more (s.modBatt 0 1 edit)

/-- The same with an instruction's own word. -/
def wordAt (i : Instr) (edit : Batt → Batt := id) (more : State → State := id) : State := fixture ((encode i).getD 0) edit more

/-- In the state, the instruction's word issues clear, and there the condition holds. -/
def meets (s : State) (i : Instr) (c : Iss → State → Bool := fun _ _ => true) : Bool :=
  match s.clear i with
  | some (x, _, t) => c x t
  | none => false

/-- The instruction's word issues clear in the small machine as edited, and there the condition holds. -/
def meetsAt (i : Instr) (edit : Batt → Batt) (c : Iss → State → Bool := fun _ _ => true) : Bool := meets (wordAt i edit) i c

/-- Each of the words issues clear in the small machine. -/
def allClear (l : List Instr) : Bool := l.all fun i => meets (wordAt i) i

/-- Every lane passed its checks. -/
def allOk (rs : List LaneRes) : Bool := rs == (okAccs rs).map LaneRes.ok && rs != []

/-- A vector register with the same word in every lane. -/
def vreg (n : Nat) (x : Word) : VReg := { num := n, lanes := List.replicate 32 x }

/-- A vector register whose lane L holds the base plus 8 L. -/
def vaddr (n : Nat) (base : Nat) : VReg := { num := n, lanes := (List.range 32).map fun l => BitVec.ofNat 32 (base + 8 * l) }

/-- Set a scalar. -/
def sreg (n : Nat) (v : DWord) (b : Batt) : Batt := { b with scalars := b.scalars.set n v }

/-- Bytes put into memory. -/
def poke (l : List (Nat × List Byte)) (s : State) : State := { s with mem := l.foldl (fun m p => m.write p.1 p.2) s.mem }

/-! ### Ill-formed instructions are refused: one term for each check -/

/-- Every term of the list is refused, and so has no word that decodes. -/
def refused (l : List Instr) : Bool := l.all fun i => !wellFormed i

/-- The checks of every register word: an unused field, an odd pair, a scalar beyond s63, a predicate beyond p7, p7 as a destination, a
rejoin mask, a quad, U, BS, X where they mean nothing, BS with U (R63 to R66). -/
theorem test_refused_fields : refused
    [.nop { d := 1 }, .iadd64 { d := 5, a := 4, b := 6 }, .launch { d := 64, a := 4 }, .plop { d := 1, a := 8, b := 3 }, .plop { d := 7, a := 1, b := 3 },
     .rjset { d := 8 }, .sigq { d := 20, a := 9 }, .getsr { d := 2, mod := 0x80, u := true }, .popc { d := 1, a := 2, bs := true }, .trap { x := true },
     .iadd { d := 1, a := 2, b := 3, u := true, bs := true }, .iadd { d := 64, a := 2, b := 3, u := true }, .tex { d := 1021, a := 20 },
     .tex { d := 24, a := 1022 }, .ipa { d := 20, a := 1023 }] = true := by decide

/-- MOD bits: of the integer class, SGN where it is fixed, RND 5 and 6, modifiers, special registers, MOD of a fixed word (R67, R68, R170). -/
theorem test_refused_mod : refused
    [.and { d := 1, a := 2, b := 3, mod := 0x80 }, .iabs { d := 1, a := 2 }, .imin { d := 2, a := 2, b := 2, mod := 0x40 },
     .fadd { d := 1, a := 2, b := 3, mod := 0xA0 }, .fadd { d := 1, a := 2, b := 3, mod := 8 }, .fmin { d := 1, a := 2, b := 3, mod := 0x20 },
     .getsr { d := 2, mod := 0x98 }, .getsr { d := 2 }, .setsr { a := 3, mod := 19 }, .abfreeAll {}, .aldSp { a := 4, b := 5, c := 6 }, .brk { mod := 1 },
     .icmp { d := 1, a := 2, b := 3, mod := 0x0C }, .pfold { d := 1, a := 2, mod := 6 }, .vout { a := 20, c := 3, mod := 29 }] = true := by decide

/-- Checks of single instructions: shift counts, CVT codes and parts, accumulator references, exchange groups, tag ranges, immediates
(R69, R158, R178, R201, R208). -/
theorem test_refused_single : refused
    [.shl { d := 1, a := 2, b := 32, mod := 2 }, .shl { d := 2, a := 2, b := 64, mod := 3 }, .cvt { d := 3, a := 5, b := 0x48, c := 2 },
     .cvt { d := 3, a := 5, b := 0x81, c := 2 }, .cvt { d := 3, a := 5, b := 1, c := 2, mod := 2 }, .xclr { b := 25 }, .xclr { b := 56, mod := 2 },
     .lxch { d := 1, a := 2, b := 3, c := 6 }, .lxch { d := 1, a := 2, b := 3, mod := 0x20 }, .runtag { d := 1000, mod := 24 }, .rtag { d := 4, mod := 0x40 },
     .iaddi { d := 0x3C3, a := 4 }, .movi { d := 3, a := 1 }, .movhi { d := 3, a := 3, imm := 0x40000000 }, .movhi { d := 3, a := 3, imm := 0x10000 },
     .fcmp { d := 1, a := 2, b := 3, c := 0x10 }, .bra { d := 1 }, .brx { d := 1, a := 2 }, .call { d := 21 }, .call { d := 0x3C4 }] = true := by decide

/-- Checks of memory words, atomics, barriers, engines, the peat store and the paired word (R71, R72, R75, R76, R279, R300, R335, R344, R357). -/
theorem test_refused_memory : refused
    [.ld { d := 10, a := 8, wd := 5 }, .ld { d := 10, a := 8, cp := 3 }, .ld { d := 10, a := 8, wd := 2, sx := true }, .st { d := 10, a := 8, wd := 0, sx := true },
     .ld { d := 11, a := 8, wd := 3 }, .ld { d := 10, a := 8, wd := 4 }, .ld { d := 960, a := 8, wd := 4 }, .ld { d := 10, a := 9, wd := 2 },
     .ld { d := 0x3C3, a := 8, wd := 2 }, .ld { d := 0x3C3, a := 0x3C4, ix := 8, wd := 2 }, .lds { d := 5, a := 2, cp := 1, wd := 1 }, .pref { d := 1, a := 8 },
     .pref { a := 8, wd := 1 }, .atom { d := 10, a := 8, b := 11, c := 5 }, .atom { d := 10, a := 8, b := 11, c := 3, mod := 0xB0 },
     .red { a := 8, b := 11, c := 11 }, .red { a := 8, b := 11, c := 4, mod := 0xB0 }, .red { d := 1, a := 8, b := 11, c := 3 }, .waita { d := 6, a := 2, b := 3 },
     .bars { a := 0x230 }, .bars {}, .cpy { d := 24, a := 61 }, .cpy { d := 24, a := 20, mod := 8 }, .cpy2d { d := 24, a := 20, mod := 9 }, .gath { d := 24, a := 20, b := 9, mod := 4 },
     .cpy { d := 24, a := 20, mod := 0x4A }, .sigi { d := 8, c := 11 }, .mlook { d := 16, a := 8, b := 7, c := 12 }, .mlook { d := 16, a := 8, b := 1, c := 16 },
     .mlook { d := 8, a := 8, b := 1, c := 12 }, .mfill { a := 8, b := 1023, c := 12, mod := 1 }, .mlook { d := 16, a := 8, b := 1, c := 12, mod := 0x4F },
     .mlresLayer { d := 32, b := 6, mod := 1 },
     .pairedWord { x := { sop := 0x12, g := .always, d := 16, b := 9 }, y := { sop := 1, g := .always, d := 10, b := 25 } },
     .pairedWord { x := { sop := 0x1B, g := .always }, y := {} }, .pairedWord { x := { sop := 0x15, g := .always, d := 15, b := 8 }, y := {} },
     .pairedWord { x := { sop := 1, g := .always, d := 1, b := 2, imm5 := 1 }, y := {} }, .pairedWord { x := {}, y := { b := 1 } }] = true := by decide

/-! ### Words of the manual, written out bit by bit there, decode to what they stand for -/

/-- Every word of the list decodes to its instruction, which is well-formed and encodes to the word again. -/
def agrees (l : List (DWord × Instr)) : Bool :=
  l.all fun p => decode p.1 == some p.2 && wellFormed p.2 && encode p.2 == some p.1

/-- Control, special registers, traps and containment (chapters 5, 6, 16). -/
theorem test_words_system : agrees
    [(0x0070000000000000, .nop {}), (0x00F0000000000000, .yield {}), (0x0170000000000000, .exit {}),
     (0x01F00A0200000000, .launch { d := 5, a := 4 }), (0x0270040000000080, .getsr { d := 2, mod := 0x80 }),
     (0x02F0000180000010, .setsr { a := 3, mod := 16 }), (0x0370000000000005, .trap { mod := 5 }), (0x03F0000000000000, .brk {}),
     (0x0470000280000000, .conto { a := 5 }), (0x04F0000000000000, .contc {}), (0x05700E0000000000, .conts { d := 7 })] = true := by decide

/-- Integer words (chapters 3, 7, 18, 19). -/
theorem test_words_integer : agrees
    [(0x08700201006000C0, .iadd { d := 1, a := 2, b := 3, mod := 0xC0 }), (0x0870080200A00400, .iadd { d := 4, a := 4, b := 5, u := true }),
     (0x08F787E1FFFFFFFF, .iaddi { d := 0x3C3, a := 0x3C3, imm := 0x7FFFFFFF }), (0x08F00E0380000064, .iaddi { d := 7, a := 7, imm := 100 }),
     (0x09F0060080400000, .imul { d := 3, a := 1, b := 2 }), (0x12700A02800000FF, .logi { d := 5, a := 5, imm := 255 }),
     (0x12F00C0301800003, .shl { d := 6, a := 6, b := 12, mod := 3 }), (0x1370060183400002, .shr { d := 3, a := 3, b := 26, mod := 2 }),
     (0x14F0220800000400, .popc { d := 17, a := 16, u := true }), (0x1770100180800285, .lea { d := 8, a := 3, b := 4, bs := true, mod := 0x85 }),
     (0x1870040201200285, .icmp { d := 2, a := 4, b := 9, bs := true, mod := 0x85 })] = true := by decide

/-- Moves, predicates, lane exchange and tags (chapters 6, 18, 19). -/
theorem test_words_register : agrees
    [(0x1970060000E00000, .mov { d := 3, b := 7 }), (0x1970320003000400, .mov { d := 25, b := 24, u := true }),
     (0x19F00C007FFFFFFE, .movi { d := 6, imm := 0x7FFFFFFE }), (0x1A7787E1A000F00F, .movhi { d := 0x3C3, a := 0x3C3, imm := 0x2000F00F }),
     (0x1AF0020100600008, .plop { d := 1, a := 2, b := 3, mod := 8 }), (0x1B70020180000001, .pmov { d := 1, a := 3, mod := 1 }),
     (0x1BF01806000028A1, .lxch { d := 12, a := 12, c := 5, mod := 0xA1 }), (0x1C70200180000004, .pfold { d := 16, a := 3, mod := 4 }),
     (0x1E70500000000005, .rtag { d := 40, mod := 5 })] = true := by decide

/-- Floating-point words and the paired word (chapters 3, 8, 19). -/
theorem test_words_floating : agrees
    [(0x21F0140200A03020, .ffma { d := 10, a := 4, b := 5, c := 6, mod := 0x20 }),
     (0x29F0100100803008, .dfma { d := 8, a := 2, b := 4, c := 6, mod := 8 }),
     (0x2470060500405200, .fcmp { d := 3, a := 10, b := 2, c := 10, bs := true }), (0x26700E0480000004, .frcpa { d := 7, a := 9, mod := 4 }),
     (0x2EF0060280201001, .cvt { d := 3, a := 5, b := 1, c := 2, mod := 1 }), (0x2F70280500004800, .qmx { d := 20, a := 10, c := 9 }),
     (0x3070000418000003, .xacc { a := 8, b := 0xC0, mod := 3 }), (0x31F0280200000000, .lred { d := 20, a := 4 }),
     (0x92E1009003C14360, .pairedWord { x := { sop := 0x12, g := .always, d := 16, b := 9 }, y := { sop := 1, g := .always, d := 10, b := 27 } })] = true := by
  decide

/-- The second word of that example breaks the pairing rule over banks and decodes to no instruction (R75). -/
theorem test_word_pairing_rule : decode 0x92E1009003C14320 = none := by decide

/-- Control-flow words (chapter 9). -/
theorem test_words_flow : agrees
    [(0x3970280000000010, .call { d := 20, imm := 16 }), (0x39F0280F00000000, .callx { d := 20, a := 30 }), (0x3A70000A00000000, .ret { a := 20 }),
     (0x38F0000480000002, .brx { a := 9, imm := 2 }), (0x3AF0020000000000, .rjset { d := 1 }), (0x3AF0040280000001, .rjset { d := 2, a := 5, mod := 1 }),
     (0x3B70020000000000, .rjoin { d := 1 }), (0x3BF0020000000000, .rjdrop { d := 1 }), (0x3818000000000003, .bra { g := .pred 1 true, imm := 3 }),
     (0x383000007FFFFFF9, .bra { g := .pred 3 false, imm := 0x7FFFFFF9 })] = true := by decide

/-- Memory words (chapters 11, 18, 19). -/
theorem test_words_memory : agrees
    [(0x407014047FE01002, .ld { d := 10, a := 8, ofs := 16, wd := 2 }), (0x40F007E201000002, .st { d := 3, a := 0x3C4, ix := 8, wd := 2 }),
     (0x41700A017FFFFE21, .lds { d := 5, a := 2, ofs := 0x1FFE, sx := true, wd := 1 }), (0x41F02800FFE00000, .sts { d := 20, a := 1, wd := 0 }),
     (0x427789E07FE08003, .ldc { d := 0x3C4, a := 0x3C0, ofs := 128, wd := 3 }), (0x40B0340C7FE00003, .st { g := .pred 3 false, d := 26, a := 24, wd := 3 }),
     (0x4370000000000002, .acq { mod := 2 }), (0x43F0000000000002, .rel { mod := 2 }), (0x4470000100600000, .acqr { a := 2, b := 3 }),
     (0x44F0000000000000, .fence {}), (0x4570000000000000, .fenceo {}), (0x45F0000000000000, .full {}), (0x4670000000000000, .flushh {}),
     (0x4870280A81400090, .atom { d := 20, a := 21, b := 10, mod := 0x90 }),
     (0x48A0000500801800, .red { g := .pred 2 false, a := 10, b := 4, c := 3 }), (0x49700C010060003A, .waita { d := 6, a := 2, b := 3, mod := 0x3A }),
     (0x49F0000200A0300F, .puts { a := 4, b := 5, c := 6, mod := 15 })] = true := by decide

/-- Barrier and bank words (chapters 12, 13). -/
theorem test_words_barrier : agrees
    [(0x50700B0980000001, .barv { d := 5, a := 0x213, mod := 1 }), (0x50F0010000A00000, .barw { a := 0x200, b := 5 }),
     (0x5170010000000000, .bars { a := 0x200 }), (0x51F0010000C00001, .bart { a := 0x200, b := 6, mod := 1 }),
     (0x52700F1080000000, .barq { d := 7, a := 0x221 }), (0x52F0000200000000, .syncb { a := 4 }),
     (0x5870000000000003, .aballoc { mod := 3 }), (0x58F0000000000001, .abfreeAll { mod := 1 }),
     (0x5970100100000003, .ald { d := 8, a := 2, mod := 3 }), (0x5970000200A03004, .aldSp { a := 4, b := 5, c := 6, mod := 4 }),
     (0x59F00E0580000002, .ast { d := 7, a := 11, mod := 2 }), (0x5A70000200002800, .azero { a := 4, c := 5 })] = true := by decide

/-- Matrix, copy, signature and peat-store words (chapters 13, 14, 19). -/
theorem test_words_engine : agrees
    [(0x5AF0140200A00000, .mxi { d := 10, a := 4, b := 5 }), (0x5B700E0000000000, .mxq { d := 7 }), (0x6070300A00000020, .cpy { d := 24, a := 20, mod := 0x20 }),
     (0x61F0280201300860, .scat { d := 20, a := 4, b := 9, c := 0x201, mod := 0x60 }), (0x61701C0501200020, .gath { d := 14, a := 10, b := 9, mod := 0x20 }),
     (0x6870100000006000, .sigi { d := 8, c := 12 }), (0x68F0100080006002, .siga { d := 8, a := 1, c := 12, mod := 2 }),
     (0x6970280400000000, .sigq { d := 20, a := 8 }), (0x69F0100000006000, .sigf { d := 8, c := 12 }),
     (0x6A70200400206000, .mlook { d := 16, a := 8, b := 1, c := 12 }), (0x6AF0000402006000, .mfill { a := 8, b := 16, c := 12 }),
     (0x6B70000000C00001, .minvRegion { b := 6, mod := 1 }), (0x6BF0120200000000, .txsig { d := 9, a := 4 })] = true := by decide

/-- Words of the frame pipeline (chapter 15). -/
theorem test_words_frame : agrees
    [(0x70700A0200000000, .draw { d := 5, a := 4 }), (0x70F0000A00001800, .vout { a := 20, c := 3 }), (0x7170280100000004, .ipa { d := 20, a := 2, mod := 4 }),
     (0x71F0300A00000043, .tex { d := 24, a := 20, mod := 0x43 }), (0x7270380A00000000, .tld { d := 28, a := 20 }), (0x72F0000C00000000, .fout { a := 24 }),
     (0x7370400000C00000, .mlres { d := 32, a := 0, b := 6 }), (0x73F0120300000000, .mlclr { d := 9, a := 6 }),
     (0x7470480000C00002, .mlrd { d := 36, a := 0, b := 6, mod := 2 })] = true := by decide

/-! ### Witnesses: every hypothesis of every statement is met somewhere -/

/-- Hypotheses of the first clause of StepRunsTheDecodedInstruction: a NOP about to issue. -/
theorem test_hyp_step_word :
    (let s := wordAt (.nop {})
     let s1 : State := { s with inputs := [] }
     let s2 := s1.sweep (s1.quarterBatts 0 (quarterOfSlot 1))
     let s3 : State := { s2 with cur := (0, 1), choice := {} }
     let s4 := if (s3.quarter 0 (quarterOfSlot 1)).issuedAt == some (s3.cluster 0).cyc then s3.untilCycle 0 32 else s3
     let s5 := s4.modQuarter 0 (quarterOfSlot 1) fun x => { x with lastIssued := s4.positionOf 0 1, issuedAt := some (s4.cluster 0).cyc }
     s.inputs == [.issue 0 1 {}] && !s.dev.tripped && s1.answers && s2.nextIssuer 0 (quarterOfSlot 1) [] == some 1 &&
     (match s1.batt? 0 1, s5.theTurn with
      | some b, .go b0 low _ =>
        (s2.ctx b.space).ctxst != 1 && (match s5.fetch b0.core b0.space ((b0.takeTurn low).lane low).pc with
          | .ok w _ => decode w == some (.nop {})
          | _ => false)
      | _, _ => false)) = true := by decide

/-- Hypotheses of the second: the batt that the input names is stalled in this cycle. -/
theorem test_hyp_step_other :
    (let s : State := { wordAt (.nop {}) with inputs := [.issue 0 1 { stalled := [1] }] }
     let s1 : State := { s with inputs := [] }
     !s.dev.tripped && (s1.batt? 0 1).isSome && s1.answers && (s1.sweep (s1.quarterBatts 0 0)).nextIssuer 0 0 [1] != some 1) = true := by decide

/-- Hypotheses of the third, and of the first in a context that is being pre-empted: a NOP that is no listed point, one that is, and one whose
table of points does not translate. -/
theorem test_hyp_step_rest :
    ([(0, 0x70000), (1, 0x70000), (1, 0x100000)].all fun (p : Nat × DWord) =>
      let points (s : State) : State :=
        (poke [(0x70010, bytesOf 8 0x40000)] { s with launches := s.launches.map fun l => { l with points := p.1, recd := { l.recd with pretab := p.2 } } }).modCtx 0
          fun c => { c with ctxst := 1 }
      let s : State := wordAt (.nop {}) id points
      let s1 : State := { s with inputs := [] }
      let s2 := s1.sweep (s1.quarterBatts 0 0)
      s.inputs == [.issue 0 1 {}] && !s.dev.tripped && s1.answers && s2.nextIssuer 0 0 [] == some 1 &&
      (match s1.batt? 0 1 with
       | some b => b.space == 0 && (s2.ctx b.space).ctxst == 1 && (match s2.atRest b with
         | .ok r => p.2 == 0x70000 && r == (p.1 == 1)
         | .bad _ _ => p.2 == 0x100000)
       | none => false)) = true := by decide

/-- Hypotheses of the fourth: a temperature read over SMBus. -/
theorem test_hyp_step_event :
    (let s : State := { State.reset with inputs := [.event .smbusTemperature] }
     isEvent .smbusTemperature && ({ s with inputs := [] } : State).admits .smbusTemperature) = true := by decide

/-- What the fetch of the batt whose turn it is answers. -/
def fetched (s : State) : Option FetchRes :=
  match s.theTurn with
  | .go b low _ => some (s.fetch b.core b.space ((b.takeTurn low).lane low).pc)
  | _ => none

/-- The program counter of every lane. -/
def atPc (pc : DWord) (b : Batt) : Batt := { b with lanes := b.lanes.map fun l => { l with pc := pc } }

/-- Hypotheses of UnusableWordsTrap: a word that decodes to nothing; no valid entry; no root; a page that is not executable; poison. -/
theorem test_hyp_unusable_words :
    ((match fetched (fixture 0x6070) with | some (.ok w _) => decode w == none | _ => false) &&
     (fetched (fixture 0x6070 (atPc 0x100000)) == some (.xlat true 3)) &&
     (match fetched (fixture 0x6070 id fun s => s.modCtx 0 fun c => { c with root := 0 }) with | some (.xlat false _) => true | _ => false) &&
     (fetched (fixture 0x6070 (atPc 0x50000)) == some .prot) &&
     (fetched (fixture 0x6070 id fun s => { s with memPoison := [0x40000 / 64] }) == some .poison)) = true := by decide

/-- The word's stages before execution pass with a lane active, and there the condition holds. -/
def reaches (s : State) (i : Instr) (c : Iss → State → Bool) : Bool :=
  match issueWord i s with
  | .go x _ t => x.active != 0 && c x t
  | _ => false

/-- Launch 0 under PURECHECK, with a pure region that holds the placed word. -/
def checkedRegion (s : State) : State :=
  { s with mem := s.mem.write 0x70010 (bytesOf 8 0x40000 ++ bytesOf 8 0x40040 ++ bytesOf 8 0xB10C)
           launches := s.launches.map fun l => { l with pures := 1, recd := { l.recd with puretab := 0x70000, flags := 4 } } }

/-- Further hypotheses of UnusableWordsTrap: a quota with no room, a report that waits for a word, a read outside the purity set, a
poisoned lane. -/
theorem test_hyp_execution_stage :
    ((let s := wordAt (.iadd { d := 4, a := 4, b := 5 }) fun b => { b with regs := 0 }
      match s.theTurn with
      | .go b low _ => !s.wordWaits b (.iadd { d := 4, a := 4, b := 5 }) low &&
          (match s.prepareWord (b.takeTurn low) (.iadd { d := 4, a := 4, b := 5 }) (b.splitOf low) (b.activeFor (.iadd { d := 4, a := 4, b := 5 }) low) with
           | .fault .quota _ => true | _ => false) && (b.back [] 4).isNone
      | _ => false) &&
     reaches (wordAt (.setsr { a := 10, mod := 16 }) fun b => { b with deferred := [{ cause := cARRAY, token := 10, banks := [] }] }) (.setsr { a := 10, mod := 16 })
       (fun x t => ((x.at t).deferred.find? fun d => t.touchesReport (x.at t) (.setsr { a := 10, mod := 16 }) x.active d).isSome) &&
     reaches (wordAt (.iadd { d := 6, a := 4, b := 5 }) id checkedRegion) (.iadd { d := 6, a := 4, b := 5 }) (fun x t =>
       t.puritySet (x.at t) x.pc == some [] && ((t.readCodes (x.at t) (.iadd { d := 6, a := 4, b := 5 }) x.active).find? fun k => !([] : List Nat).contains k) == some 4) &&
     reaches (wordAt (.iadd { d := 6, a := 4, b := 5 }) fun b => { b with vregs := [{ vreg 4 0 with poison := 2 }] }) (.iadd { d := 6, a := 4, b := 5 })
       (fun x t => t.impure (x.at t) (.iadd { d := 6, a := 4, b := 5 }) x.pc x.active == [] &&
         (operandPoison (x.at t) (.iadd { d := 6, a := 4, b := 5 }) x.split x.active).map (·.lane) == [1])) = true := by decide

/-- Hypotheses of IssuePreparesItsBattAlone: a register without a tag, in a file in order. -/
theorem test_hyp_prepared :
    meets (wordAt (.iadd { d := 4, a := 4, b := 5 }) fun b => { b with vregs := [vreg 4 7, vreg 9 8] }) (.iadd { d := 4, a := 4, b := 5 })
      (fun x t => decide (((x.at t).vregs.map (·.num)).Pairwise (· < ·)) && (x.at t).vreg? 9 == some (vreg 9 8) && (vreg 9 8).tag.isNone && (vreg 9 8).backed &&
        !(vreg 9 8).fresh) = true := by
  decide

/-- Hypotheses of GuardedOffWordAdvances: the guard is true in no lane; a scalar form whose guard fails in the lowest lane. -/
theorem test_hyp_guarded_off :
    (((wordAt (.iadd { g := .pred 0 false, d := 4, a := 4, b := 5 })).guardedOff (.iadd { g := .pred 0 false, d := 4, a := 4, b := 5 })).isSome &&
     ((wordAt (.iadd { g := .pred 0 false, d := 4, a := 4, b := 5, u := true }) fun b => { b with preds := b.preds.set 0 2 }).guardedOff
       (.iadd { g := .pred 0 false, d := 4, a := 4, b := 5, u := true })).isSome) = true := by decide

/-- Hypotheses of the statements about one word at a time: each of these words issues clear. -/
theorem test_hyp_clear_integer : allClear
    [.iadd { d := 4, a := 4, b := 5 }, .iadd { d := 4, a := 4, b := 5, u := true }, .isub { d := 4, a := 4, b := 5 }, .imul { d := 4, a := 4, b := 5 },
     .iadd64 { d := 4, a := 4, b := 6 }, .isub64 { d := 4, a := 4, b := 6 }, .imul64 { d := 4, a := 4, b := 6 }, .imad { d := 4, a := 4, b := 5, c := 6 },
     .imadw { d := 4, a := 4, b := 5, c := 6 }, .imulhi { d := 4, a := 4, b := 5 }, .imin { d := 4, a := 4, b := 5 }, .imax { d := 4, a := 4, b := 5 },
     .iabs { d := 4, a := 4, mod := 0x80 }, .ineg { d := 4, a := 4, mod := 0x80 }, .idiv { d := 4, a := 4, b := 5 }, .irem { d := 4, a := 4, b := 5 },
     .and { d := 4, a := 4, b := 5 }, .or { d := 4, a := 4, b := 5 }, .xor { d := 4, a := 4, b := 5 }, .andn { d := 4, a := 4, b := 5 },
     .shl { d := 4, a := 4, b := 5 }, .shr { d := 4, a := 4, b := 5 }, .sar { d := 4, a := 4, b := 5 }, .rotl { d := 4, a := 4, b := 5 },
     .sel { d := 4, a := 4, b := 5, c := 2 }] = true := by decide

/-- The same for words on registers. -/
theorem test_hyp_clear_register : allClear
    [.getsr { d := 4, mod := 0x80 }, .getsr { d := 4, mod := 1 }, .setsr { a := 3, mod := 16 }, .setsr { a := 3, mod := 17 }, .setsr { a := 3, mod := 18 },
     .plop { d := 1, a := 2, b := 3, mod := 8 }, .pmov { d := 4, a := 1 }, .pmov { d := 1, a := 4, mod := 1 }, .pmov { d := 4, a := 1, mod := 2 },
     .pmov { d := 1, a := 4, mod := 3 }, .lxch { d := 4, a := 4, b := 5 }, .pfold { d := 1, a := 2 }, .pfold { d := 4, a := 2, mod := 4 },
     .peer { d := 4, a := 4 }, .lget { d := 4, a := 4, mod := 0x80 }, .lset { d := 4, a := 4, b := 3 }, .rfree { d := 8, mod := 3 }, .nop {}, .fence {},
     .rjset { d := 1 }, .rjoin { d := 1 }, .rjdrop { d := 1 }, .mxq { d := 4 }, .abfree { a := 4 }, .abfreeAll { mod := 1 }, .azeroAll { mod := 1 },
     .yield {}, .trap { mod := 5 }, .brk {}, .conts { d := 7 }, .conts { d := 7, mod := 1 }, .pref { a := 8 }, .fenceo {}, .full {}, .flushh {}, .hprio { a := 4 },
     .hdrop { a := 4 }, .sigi { d := 8, c := 12 }, .siga { d := 8, a := 1, c := 12 }, .sigf { d := 8, c := 12 }, .sigq { d := 8, a := 12 },
     .minvKey { a := 8, b := 4, c := 12 }, .minvRegion { b := 4, mod := 1 }, .minvCtx { mod := 2 }] = true := by decide

/-- The exceptions that a lane word meets in the lanes of its result. -/
def laneTraps (i : Instr) (x : Iss) (t : State) : Mask :=
  match laneWord i with
  | some (fn, d) => trapLanes (laneList fn (resultLanes d x) (x.at t)) (resultLanes d x) (x.at t).fpcr
  | none => 0

/-- The exceptions that a comparison meets. -/
def cmpTraps (i : Instr) (x : Iss) (t : State) : Mask :=
  match cmpWord i with
  | some (fn, u, _) => let m := if u then lane1 x.low else x.active; trapLanes (laneList fn m (x.at t)) m (x.at t).fpcr
  | none => 0

/-- Every enable set, and two registers that hold a signalling NaN and 1.0. -/
def strict (b : Batt) : Batt := { b with fpcr := 0x1F, vregs := [vreg 4 0x7F800001, vreg 5 0x3F800000] }

/-- Hypotheses of LaneWordsCompleteOrTrap and LaneWordsFrame: no exception (a scalar destination among them), and FPX. -/
theorem test_hyp_lane_words :
    (meetsAt (.fdiv { d := 6, a := 4, b := 5 }) (fun b => { b with vregs := [vreg 5 0x3F800000] }) (fun x t => laneTraps (.fdiv { d := 6, a := 4, b := 5 }) x t == 0) &&
     meetsAt (.iadd { d := 63, a := 4, b := 5, u := true }) id (fun x t => laneTraps (.iadd { d := 63, a := 4, b := 5, u := true }) x t == 0 &&
       (x.at t).scalars.length == 64) &&
     meetsAt (.fadd { d := 6, a := 4, b := 5 }) strict (fun x t => laneTraps (.fadd { d := 6, a := 4, b := 5 }) x t == BitVec.allOnes 32)) = true := by decide

/-- Hypotheses of CompareWords: an integer comparison under U, and a floating one that meets a signalling NaN. -/
theorem test_hyp_compare_words :
    (meetsAt (.icmp { d := 2, a := 4, b := 5, u := true }) id (fun x t => cmpTraps (.icmp { d := 2, a := 4, b := 5, u := true }) x t == 0) &&
     meetsAt (.fcmp { d := 2, a := 4, b := 5 }) strict (fun x t => cmpTraps (.fcmp { d := 2, a := 4, b := 5 }) x t != 0)) = true := by decide

/-- A batt that holds banks 0 and 1. -/
def banked (b : Batt) : Batt := { b with banks := [{ num := 0 }, { num := 1 }] }

/-- The lanes in which a value given for each lane raises an enabled exception. -/
def listTraps (r : Batt → Nat → FRes) (x : Iss) (t : State) : Mask := trapLanes (laneIds.map (r (x.at t))) x.active (x.at t).fpcr

/-- An exact sum that no binary64 holds: 1 and 2^-80. -/
def sumOfTwo : Acc := accAdd (accAdd (accOf []) (decodeF f32 0x3F800000)) (decodeF f32 0x17800000)

/-- Hypotheses of ReductionWords and ClearedObjectsReadZero, with and without an exception. -/
theorem test_hyp_reduction_words :
    (meetsAt (.xacc { a := 4, mod := 2 }) banked (fun x t => accChecks (x.at t) { a := 4, mod := 2 } x.active == [] &&
       listTraps (fun b l => { bits := 0, flags := if (decodeF f32 (b.v 4 l).toNat).isSig then NV else 0 }) x t == 0) &&
     meetsAt (.xacc { a := 4, mod := 2 }) (fun b => banked (strict b)) (fun x t => accChecks (x.at t) { a := 4, mod := 2 } x.active == [] &&
       listTraps (fun b l => { bits := 0, flags := if (decodeF f32 (b.v 4 l).toNat).isSig then NV else 0 }) x t != 0) &&
     meetsAt (.xrnd { d := 8, mod := 2 }) banked (fun x t => accChecks (x.at t) { d := 8, mod := 2 } x.active == [] &&
       listTraps (fun b l => accRound (rndMode 0 b.fpcr) (accOf (b.bankRead (accAddr { d := 8, mod := 2 } l) 288))) x t == 0) &&
     meetsAt (.xrnd { d := 8, mod := 2 })
       (fun b => { b with fpcr := 0x1F, banks := [{ num := 0, data := Memory.write [] 0 sumOfTwo.bytes }] })
       (fun x t => accChecks (x.at t) { d := 8, mod := 2 } x.active == [] &&
         listTraps (fun b l => accRound (rndMode 0 b.fpcr) (accOf (b.bankRead (accAddr { d := 8, mod := 2 } l) 288))) x t != 0) &&
     meetsAt (.xclr { mod := 2 }) banked (fun x t => accRange (x.at t) { mod := 2 } x.active == [] &&
       ((x.at t).bank? ((accAddr { mod := 2 } 31 + 287) / bankBytes)).isSome && (x.at t).banks.all fun k => k.data.wf)) = true := by decide

/-- Hypotheses of ReductionWords for RANGE and POISON: no bank; a poisoned word in the object that lane 0 reads. -/
theorem test_hyp_accumulator_failures :
    (([Instr.xacc { a := 4 }, .xrnd { d := 8 }, .xclr {}].all fun i => meetsAt i id fun x t => ((x.at t).bank? 0).isNone) &&
     ([Instr.xacc { a := 4 }, .xrnd { d := 8 }].all fun i => meetsAt i (fun b => { b with banks := [{ num := 0, poison := [71] }] }) fun x t =>
       ((x.at t).bank? 0).isSome && (x.at t).bankBad (bankBytes * 0 + 288 * 0) 288 == some 284)) = true := by decide

/-- The lanes that an LRED names in an FPX. -/
def lredTraps (f : RForm) (x : Iss) (t : State) : Mask :=
  let r := lredTree (if f.mb 0 then f64 else f32) (rndMode (f.mf 7 5) (x.at t).fpcr)
    (laneIds.map fun l => if inMask x.active l then some ((x.at t).rd false (f.mb 0) f.a.toNat l) else none)
  trapLanes (laneIds.map fun _ => r) x.active (x.at t).fpcr

/-- The lanes that a QMX names in an FPX. -/
def qmxTraps (f : RForm) (x : Iss) (t : State) : Mask :=
  let q := qmxBlock ((lanesOf x.active).map fun l => decodeF f32 ((x.at t).v f.a.toNat l).toNat)
  trapLanes (laneIds.map fun l => match findIdx (· == l) (lanesOf x.active) 0 with | some i => q.2.getD i { bits := 0 } | none => { bits := 0 })
    x.active (x.at t).fpcr

/-- Further hypotheses of ReductionWords: LRED and QMX with and without an exception. -/
theorem test_hyp_lred_qmx :
    (meetsAt (.lred { d := 20, a := 4 }) id (fun x t => lredTraps { d := 20, a := 4 } x t == 0) &&
     meetsAt (.lred { d := 20, a := 4 }) strict (fun x t => lredTraps { d := 20, a := 4 } x t != 0) &&
     meetsAt (.qmx { d := 20, a := 4, c := 9 }) id (fun x t => qmxTraps { d := 20, a := 4, c := 9 } x t == 0) &&
     meetsAt (.qmx { d := 20, a := 4, c := 9 }) strict (fun x t => qmxTraps { d := 20, a := 4, c := 9 } x t != 0)) = true := by decide

/-- A recipe of launch 0: number 5 adds v4 and v5 into v40. -/
def recipeSlot : RecipeSlot := { lnum := 0, num := 5, len := 1, words := [(encode (.iadd { d := 40, a := 4, b := 5 })).getD 0, 0, 0, 0] }

/-- The small machine with a recipe as number 5. -/
def recipeAt (i j : Instr) (edit : Batt → Batt := id) : State :=
  wordAt i edit fun s => s.modCore 0 fun c => { c with recipes := [{ recipeSlot with words := [(encode j).getD 0, 0, 0, 0] }] }

/-- How RTAG of number 5 into v40 evaluates: the lanes with an enabled exception, or whether it failed for good. -/
def rtagRun (t : State) (b : Batt) : Option (Mask ⊕ Bool) :=
  match t.rtagCheck b { d := 40, mod := 5 } with
  | some (l, _) => match t.evalWords b l [] [] with
    | .ok _ _ tr => some (.inl (maskOf fun i => (tr.getD i 0) &&& fld b.fpcr 4 0 != 0))
    | .fault _ rep _ => some (.inr rep)
  | none => none

/-- Hypotheses of TagAndPairedWords: RUNTAG over a dropped register; RTAG of a recipe that passes, of one with an enabled exception, of
one that loads from a page that nothing maps, and of one that is absent. -/
theorem test_hyp_tag_words :
    (meets (recipeAt (.runtag { d := 40 }) (.iadd { d := 40, a := 4, b := 5 }) fun b => { b with vregs := [{ num := 40, backed := false, tag := some (5, 1) }] })
       (.runtag { d := 40 }) (fun x t => ((x.at t).rangeRegs { d := 40 }).all fun y => (((x.at t).vreg? y).bind (·.tag)).isNone) &&
     meets (recipeAt (.rtag { d := 40, mod := 5 }) (.iadd { d := 40, a := 4, b := 5 })) (.rtag { d := 40, mod := 5 })
       (fun x t => rtagRun t (x.at t) == some (.inl 0)) &&
     meets (recipeAt (.rtag { d := 40, mod := 5 }) (.fadd { d := 40, a := 4, b := 5 }) strict) (.rtag { d := 40, mod := 5 })
       (fun x t => rtagRun t (x.at t) == some (.inl (BitVec.allOnes 32))) &&
     meets (recipeAt (.rtag { d := 40, mod := 5 }) (.ld { d := 40, a := 12, wd := 2 }) fun b => { b with vregs := [vreg 12 0x100000] })
       (.rtag { d := 40, mod := 5 }) (fun x t => rtagRun t (x.at t) == some (.inr true)) &&
     (let s := wordAt (.rtag { d := 40, mod := 5 })
      match s.theTurn with
      | .go b low _ => !s.wordWaits b (.rtag { d := 40, mod := 5 }) low && (b.takeTurn low).activeFor (.rtag { d := 40, mod := 5 }) low != 0 &&
          (s.rtagCheck (b.takeTurn low) { d := 40, mod := 5 }).isNone
      | _ => false)) = true := by decide

/-- The paired word of chapter 3, and the lanes in which one of its slots meets an exception. -/
def pairExample : PForm := { x := { sop := 0x12, g := .always, d := 16, b := 9 }, y := { sop := 1, g := .always, d := 10, b := 27 } }
def pairTraps (f : PForm) (x : Iss) (t : State) : Mask :=
  let rx := slotResults f.x (x.at t) ((x.at t).guarded x.split f.x.g)
  let ry := slotResults f.y (x.at t) ((x.at t).guarded x.split f.y.g)
  maskOf fun l => (resAt rx l).traps (x.at t).fpcr || (resAt ry l).traps (x.at t).fpcr

theorem test_hyp_paired_word :
    (meetsAt (.pairedWord pairExample) id (fun x t => pairTraps pairExample x t == 0) &&
     meetsAt (.pairedWord pairExample) (fun b => { b with fpcr := 0x1F, vregs := [vreg 9 0x7F800001, vreg 16 0x3F800000] })
       (fun x t => pairTraps pairExample x t != 0)) = true := by decide

/-- Targets of a transfer in the active lanes, by the cause that refuses them: 0 for a good one. -/
def targetBad (t : DWord) : Nat := if fld t 2 0 ≠ 0 then cALIGN else if fld t 63 49 ≠ 0 then cXLAT else 0

/-- Every active lane's target is good, or some lane's is not. -/
def allTargets (good : Bool) (target : Batt → Iss → Nat → DWord) (x : Iss) (t : State) : Bool :=
  ((lanesOf x.active).all fun l => targetBad (target (x.at t) x l) == 0) == good && x.active != 0

/-- Hypotheses of TransferWords. -/
theorem test_hyp_transfers :
    (meetsAt (.bra { imm := 4 }) id (allTargets true fun _ x _ => x.pc + BitVec.ofInt 64 (8 * sval 31 4)) &&
     meetsAt (.bra { imm := 0x7FF00000 }) id (allTargets false fun _ x _ => x.pc + BitVec.ofInt 64 (8 * sval 31 0x7FF00000)) &&
     meetsAt (.brx { a := 9, imm := 2 }) id (allTargets true fun b x l => x.pc + BitVec.ofInt 64 (8 * (2 + sval 32 (b.cv 9 l)))) &&
     meetsAt (.brx { a := 9, imm := 2 }) (fun b => { b with vregs := [vreg 9 0x80000000] })
       (allTargets false fun b x l => x.pc + BitVec.ofInt 64 (8 * (2 + sval 32 (b.cv 9 l)))) &&
     meetsAt (.call { d := 20, imm := 16 }) id (allTargets true fun _ x _ => x.pc + BitVec.ofInt 64 (8 * 16)) &&
     meetsAt (.call { d := 20, imm := 0x7FF00000 }) id (allTargets false fun _ x _ => x.pc + BitVec.ofInt 64 (8 * sval 31 0x7FF00000)) &&
     meetsAt (.ret { a := 20 }) (fun b => { b with vregs := [vreg 20 0x40040] }) (allTargets true fun b _ l => b.w 20 l) &&
     meetsAt (.ret { a := 20 }) (fun b => { b with vregs := [vreg 20 0x40044] }) (allTargets false fun b _ l => b.w 20 l)) = true := by decide

/-- A budget table at 0x70000 with one entry: target 0x40040, registers up to 3, none pinned. -/
def budgets (s : State) : State :=
  { s with mem := s.mem.write 0x70010 (bytesOf 8 0x40040 ++ bytesOf 2 3)
           launches := s.launches.map fun l => { l with budgets := 1, recd := { l.recd with budtab := 0x70000 } } }

/-- CALLX: the targets of the active lanes that their budgets refuse. -/
def callxFails (x : Iss) (t : State) : Option Bool :=
  match t.budgetFails (x.at t) ((lanesOf x.active).map fun l => (x.at t).w 30 l).eraseDups with
  | .ok bad => some ((lanesOf x.active).any fun l => targetBad ((x.at t).w 30 l) != 0 || bad.contains ((x.at t).w 30 l))
  | _ => none

theorem test_hyp_callx :
    (meets (wordAt (.callx { d := 20, a := 30 }) (fun b => { b with vregs := [vreg 30 0x40040] }) budgets) (.callx { d := 20, a := 30 })
       (fun x t => callxFails x t == some false) &&
     meets (wordAt (.callx { d := 20, a := 30 }) (fun b => { b with vregs := [vreg 30 0x40048] }) budgets) (.callx { d := 20, a := 30 })
       (fun x t => callxFails x t == some true) &&
     meets (wordAt (.callx { d := 20, a := 30 }) (fun b => { b with vregs := [vreg 30 0x40040] }) fun s => { budgets s with memPoison := [0x70000 / 64] })
       (.callx { d := 20, a := 30 }) (fun x t => (callxFails x t).isNone)) = true := by decide

/-- The masks of a SYNCB: what it refuses, and what it waits for. -/
def syncMasks (x : Iss) (t : State) : Mask × Mask :=
  let b := x.at t
  let m (l : Nat) : Mask := b.v 4 l
  let m0 := m ((lowLane x.active).getD 0)
  let own := (maskOf fun l => inMask x.active l && m l != m0) ||| (x.active &&& ~~~m0)
  let bad := if b.atSync ≠ 0 ∧ own = 0 ∧ m0 ≠ b.syncm then x.active else own
  (bad, m0 &&& ~~~(x.active ||| (b.advance (x.split &&& ~~~x.active)).exited ||| b.atSync))

/-- Lanes 16 to 31 stand at another word. -/
def halfAway (b : Batt) : Batt := { b with lanes := b.lanes.mapIdx fun l x => if 16 ≤ l then { x with pc := 0x40040 } else x }

/-- The lanes of an EXIT before the rejoin masks settle, and the lanes that have exited once they and SYNCM have. -/
def ended (x : Iss) (b : Batt) : Batt :=
  { b with lanes := b.lanes.mapIdx fun l y => if inMask x.active l then { y with st := .exited } else if inMask x.split l then { pc := y.pc + 8, st := .ready } else y }
def exitsTo (x : Iss) (b : Batt) : Mask := (((List.range 8).foldl Batt.settle (ended x b)).settleSync).exited

/-- Hypotheses of ReconvergenceWords: SYNCB that releases, waits and traps; EXIT with and without fragments of a pixel batt. -/
theorem test_hyp_reconvergence :
    (meetsAt (.syncb { a := 4 }) (fun b => { b with vregs := [vreg 4 0xFFFFFFFF] }) (fun x t => syncMasks x t == (0, 0)) &&
     meetsAt (.syncb { a := 4 }) (fun b => halfAway { b with vregs := [vreg 4 0xFFFFFFFF] }) (fun x t => syncMasks x t == (0, 0xFFFF0000)) &&
     meetsAt (.syncb { a := 4 }) (fun b => { b with vregs := [vreg 4 1] }) (fun x t => (syncMasks x t).1 != 0) &&
     meetsAt (.exit {}) id (fun x t => (x.at t).emits x.active == [] && exitsTo x (x.at t) == BitVec.allOnes 32) &&
     meetsAt (.exit {}) halfAway (fun x t => (x.at t).emits x.active == [] && exitsTo x (x.at t) == 0x0000FFFF) &&
     meetsAt (.exit {}) (fun b => { halfAway b with rejoinE := b.rejoinE.set 0 0xFFFF0000, rejoinA := b.rejoinA.set 0 0xFFFF0000 })
       (fun x t => (x.at t).lanes.length == 32 && (x.at t).rejoinA.length == 8 && (List.range 8).all fun n => (ended x (x.at t)).exited &&& (x.at t).rjA n == 0)) =
      true := by decide

/-- Hypotheses of TrapAndContainmentWords. -/
theorem test_hyp_containment :
    (meetsAt (.conto { a := 5 }) (sreg 5 0x40040) (fun x t => decide ((x.at t).regions.length < 4) && fld ((x.at t).s 5) 2 0 == 0 && fld ((x.at t).s 5) 63 49 == 0) &&
     meetsAt (.conto { a := 5 }) (fun b => { b with regions := List.replicate 4 { handler := 0 } }) (fun x t => decide (4 ≤ (x.at t).regions.length)) &&
     meetsAt (.conto { a := 5 }) (sreg 5 0x40044) (fun x t => decide ((x.at t).regions.length < 4) && fld ((x.at t).s 5) 2 0 != 0) &&
     meetsAt (.conto { a := 5 }) (sreg 5 0x2000000000000)
       (fun x t => decide ((x.at t).regions.length < 4) && fld ((x.at t).s 5) 2 0 == 0 && fld ((x.at t).s 5) 63 49 != 0) &&
     meetsAt (.contc {}) (fun b => { b with regions := [{ handler := 0x40040 }] }) (fun x t => (x.at t).regions != []) &&
     meetsAt (.contc {}) id (fun x t => (x.at t).regions == [])) = true := by decide

/-- Hypotheses of TrapAndContainmentWords for an unwind: a batt that waits at a barrier inside a region, with no operation of an engine. -/
theorem test_hyp_unwind :
    (let s := wordAt (.nop {}) fun b => { b with regions := [{ handler := 0x40040 }], wait := .held 0 3 0 (.nop {}), vregs := [vreg 4 7, vreg 9 8] }
     (s.core 0).engineOps.all (fun o => o.slot != 1) &&
     (match (s.completeEngines 0 1).batt? 0 1 with
      | some b => decide (b.space < s.windows.length) && b.regions.length == 1 && decide (0 < b.lanes.length) && (b.lane 0).st == .ready &&
          decide ((b.vregs.map (·.num)).Pairwise (· < ·)) && (match b.wait with | .held _ _ _ _ => true | _ => false)
      | none => false)) = true := by decide

/-- A pixel batt whose lane 0 holds a covered pixel with a colour. -/
def pixelBatt (b : Batt) : Batt :=
  { b with kind := .pixel
           pix := some { draw := 0, tri := 0, tile := 0, pos := 0, coords := [], zs := [], pixels := some (3, 5) :: List.replicate 31 none,
                         cover := 15 :: List.replicate 31 0, colours := some [0, 0, 0, 0] :: List.replicate 31 none } }

theorem test_hyp_exit_of_pixels : meetsAt (.exit {}) pixelBatt (fun x t => (x.at t).emits x.active != []) = true := by decide

/-- Addresses in page 5: w8 holds 0x50000 + 8 L, w12 a page that maps nothing, v14 odd addresses. -/
def addressed (b : Batt) : Batt := { b with vregs := [vaddr 8 0x50000, vreg 12 0x100000, vreg 14 0x50001] }

/-- The checked lanes of a LD, LDC, LDS and of a ST. -/
def ldLanes (f : MForm) (x : Iss) (t : State) : List LaneRes := (lanesOf (loadLanes f x)).map (t.ldLane x f (t.isChecked (x.at t) x.instr x.pc))
def ldcLanes (f : MForm) (x : Iss) (t : State) : List LaneRes := (lanesOf (loadLanes f x)).map (t.ldcLane x f (t.isChecked (x.at t) x.instr x.pc))
def ldsLanes (f : MForm) (x : Iss) (t : State) : List LaneRes := (lanesOf (loadLanes f x)).map (t.scratchLane x f (t.isChecked (x.at t) x.instr x.pc))
def stsLanes (f : MForm) (x : Iss) (t : State) : List LaneRes := (lanesOf x.active).map (t.scratchLane x f false)
def stLanes (f : MForm) (x : Iss) (t : State) : List LaneRes := (lanesOf x.active).map (t.stLane x f)

/-- No byte read is poisoned. -/
def cleanBytes (rs : List LaneRes) (rd : LaneAcc → List (Byte × Bool)) : Bool := (okAccs rs).all fun a => (rd a).all fun p => !p.2

/-- Hypotheses of LoadAndStoreWords for loads. -/
theorem test_hyp_loads :
    (meetsAt (.ld { d := 10, a := 8, wd := 2 }) addressed (fun x t => allOk (ldLanes { d := 10, a := 8, wd := 2 } x t) &&
       let seen := t.loadSettle x.core (okAccs (ldLanes { d := 10, a := 8, wd := 2 } x t))
       !seen.choice.late && cleanBytes (ldLanes { d := 10, a := 8, wd := 2 } x t) (seen.loadBytes x.core x.slot 0)) &&
     meetsAt (.ldc { d := 10, a := 6, wd := 2 }) (fun b => { b with params := 0x70000 }) (fun x t => allOk (ldcLanes { d := 10, a := 6, wd := 2 } x t) &&
       !t.choice.late && cleanBytes (ldcLanes { d := 10, a := 6, wd := 2 } x t) fun a => a.locs.map (t.constByte x.core (x.at t).space)) &&
     meetsAt (.lds { d := 10, a := 6, wd := 2 }) id (fun x t => allOk (ldsLanes { d := 10, a := 6, wd := 2 } x t) &&
       !(t.core x.core).loadLocked x.slot (x.at t).id.lnum (x.at t).id.felt (accRanges (okAccs (ldsLanes { d := 10, a := 6, wd := 2 } x t)) 4) &&
       cleanBytes (ldsLanes { d := 10, a := 6, wd := 2 } x t) fun a => t.scratchBytes (x.at t).id.lnum (x.at t).id.felt a.ea.toNat 4)) = true := by decide

/-- What the log has room for. -/
def roomFor (f : MForm) (x : Iss) (t : State) : Bool :=
  let bytes := storedBytes (okAccs (stLanes f x t)) ((x.at t).storeBytes f)
  !t.logWait x bytes && logRoom (t.core x.core) (sectorWrites ((bytes.filter fun p => !p.1.quar).map fun p => (p.1, p.2.1))) x.slot (x.at t).space
    (x.at t).pinDepth false t.choice.noCoalesce

/-- Hypotheses of LoadAndStoreWords for stores, of StoresStayInTheLog and of ScratchStoreFrame (lanes at one address, and lanes apart). -/
theorem test_hyp_stores :
    (meetsAt (.st { d := 10, a := 8, wd := 2 }) addressed (fun x t => allOk (stLanes { d := 10, a := 8, wd := 2 } x t) && roomFor { d := 10, a := 8, wd := 2 } x t) &&
     [0, 8].all fun (r : BitVec 10) =>
       meetsAt (.sts { d := 10, a := r, wd := 2 }) (fun b => { b with vregs := [vaddr 8 0x100] }) (fun x t =>
         allOk (stsLanes { d := 10, a := r, wd := 2 } x t) &&
         !(t.core x.core).storeLocked (x.at t).id.lnum (x.at t).id.felt (accRanges (okAccs (stsLanes { d := 10, a := r, wd := 2 } x t)) 4) &&
         (match t.felt? (x.at t).id.lnum (x.at t).id.felt with | some y => y.scratch.wf | none => false))) = true := by decide

/-- The failures of a word's lanes: there is one that is not replayable, or every one is replayable. -/
def someFinal (rs : List LaneRes) : Bool := rs.any fun r => match r with | .bad _ rep _ => !rep | _ => false
def allReplayable (rs : List LaneRes) : Bool := !rs.isEmpty && rs.all fun r => match r with | .bad _ rep _ => rep | _ => false

/-- Hypotheses of FailedChecksAreReported: an odd address, a page that nothing maps, an address beyond the scratchpad. -/
theorem test_hyp_failed_checks :
    (meetsAt (.ld { d := 10, a := 14, wd := 2 }) addressed (fun x t => someFinal (ldLanes { d := 10, a := 14, wd := 2 } x t)) &&
     meetsAt (.ld { d := 10, a := 12, wd := 2 }) addressed (fun x t => allReplayable (ldLanes { d := 10, a := 12, wd := 2 } x t)) &&
     meetsAt (.ldc { d := 10, a := 14, wd := 2 }) addressed (fun x t => someFinal (ldcLanes { d := 10, a := 14, wd := 2 } x t)) &&
     meetsAt (.ldc { d := 10, a := 6, wd := 2 }) (fun b => { b with params := 0x100000 }) (fun x t => allReplayable (ldcLanes { d := 10, a := 6, wd := 2 } x t)) &&
     meetsAt (.st { d := 10, a := 14, wd := 2 }) addressed (fun x t => someFinal (stLanes { d := 10, a := 14, wd := 2 } x t)) &&
     meetsAt (.st { d := 10, a := 12, wd := 2 }) addressed (fun x t => allReplayable (stLanes { d := 10, a := 12, wd := 2 } x t)) &&
     meetsAt (.lds { d := 10, a := 8, wd := 2 }) addressed (fun x t => someFinal (ldsLanes { d := 10, a := 8, wd := 2 } x t)) &&
     meetsAt (.sts { d := 10, a := 8, wd := 2 }) addressed (fun x t => someFinal (stsLanes { d := 10, a := 8, wd := 2 } x t))) = true := by decide

/-- Hypotheses of OrderingAndResidencyWords. -/
theorem test_hyp_ordering :
    (meetsAt (.acq { mod := 2 }) id (fun _ t => !t.choice.late) && meetsAt (.rel { d := 4, mod := 6 }) id (fun _ t => !t.choice.late) &&
     meetsAt (.rel {}) id && meetsAt (.acqr { a := 2, b := 3 }) (sreg 2 3) (fun _ t => !t.choice.late) &&
     meetsAt (.hbind { a := 4, b := 5, c := 6 }) (fun b => sreg 4 63 (sreg 5 0x50000 (sreg 6 0x10000 b))) (fun x t =>
       let b := x.at t
       decide ((b.s 4).toNat < 64) && (b.s 5).toNat % 65536 == 0 && (b.s 6).toNat % 65536 == 0 && (b.s 6).toNat != 0 &&
       decide ((b.s 5).toNat + (b.s 6).toNat ≤ 2 ^ 49)) &&
     meetsAt (.hbind { a := 4, b := 5, c := 6 }) (sreg 4 64) (fun x t => decide (64 ≤ ((x.at t).s 4).toNat)) &&
     meetsAt (.hbind { a := 4, b := 5, c := 6 }) id (fun x t => decide (((x.at t).s 4).toNat < 64) && ((x.at t).s 6).toNat == 0)) = true := by decide

/-- The checked lanes of an atomic. -/
def atomLanes (f : RForm) (x : Iss) (t : State) : List LaneRes := (lanesOf x.active).map (t.atomLaneCheck x f)

/-- What the statement about ATOM and RED asks of a word that completes. -/
def atomGoes (f : RForm) (x : Iss) (t : State) : Bool :=
  !nonRepro t x f && allOk (atomLanes f x t) && !atomLocked t x f (okAccs (atomLanes f x t)) && !(t.atomBefore x f (okAccs (atomLanes f x t))).choice.late

/-- The launch asks for reproducible sums (REPRO, R109). -/
def repro (s : State) : State := { s with launches := s.launches.map fun l => { l with recd := { l.recd with flags := 1 } } }

/-- Hypotheses of AtomicAndWaitWords for ATOM and RED: every lane at one location; a non-reproducible sum; a RED that names a barrier. -/
theorem test_hyp_atomics :
    (meetsAt (.atom { d := 10, a := 8, b := 11, c := 27 }) (fun b => { b with vregs := [vreg 8 0x50000] }) (fun x t =>
       let f : RForm := { d := 10, a := 8, b := 11, c := 27 }
       let pre := t.atomBefore x f (okAccs (atomLanes f x t))
       atomGoes f x t && (laneVals (pre.atomAll (x.at pre) (atomScope f) (atomOp f) (f.mb 0) (atomSize f) (okAccs (atomLanes f x t))
         (atomVals (x.at pre) f f.b) (atomVals (x.at pre) f f.d)).1).1 == 0) &&
     meets (wordAt (.atom { d := 10, a := 8, b := 11, c := 3, mod := 0xA0 }) id repro) (.atom { d := 10, a := 8, b := 11, c := 3, mod := 0xA0 })
       (fun x t => nonRepro t x { d := 10, a := 8, b := 11, c := 3, mod := 0xA0 }) &&
     meetsAt (.red { a := 8, b := 11, c := 3 }) (fun b => { b with vregs := [vreg 8 0x50000] }) (fun x t => atomGoes { a := 8, b := 11, c := 3 } x t) &&
     meetsAt (.red { d := 0x201, a := 8, b := 11, c := 3 }) (fun b => { b with vregs := [vreg 8 0x50000] }) (fun x t =>
       atomGoes { d := 0x201, a := 8, b := 11, c := 3 } x t && !barDenied t (x.at t) 0x201)) = true := by decide

/-- One read of a WAITA. -/
def waitaReads (f : RForm) (x : Iss) (t : State) : Option WaitRead :=
  match t.waitaCheck x.core (x.at t).space f ((x.at t).s f.a.toNat) with
  | .ok a => some (t.waitaTry x.core x.slot f a)
  | _ => none

/-- Hypotheses for WAITA: the condition holds, it fails, the address does not translate. -/
theorem test_hyp_waits :
    (meetsAt (.waita { d := 6, a := 2, b := 3, mod := 0x20 }) (sreg 2 0x50000) (fun x t => waitaReads { d := 6, a := 2, b := 3, mod := 0x20 } x t == some (.done 0)) &&
     meetsAt (.waita { d := 6, a := 2, b := 3, mod := 0x20 }) (fun b => sreg 2 0x50000 (sreg 3 1 b))
       (fun x t => waitaReads { d := 6, a := 2, b := 3, mod := 0x20 } x t == some .fail) &&
     meetsAt (.waita { d := 6, a := 2, b := 3, mod := 0x20 }) (sreg 2 0x100000) (fun x t =>
       match t.waitaCheck x.core (x.at t).space { d := 6, a := 2, b := 3, mod := 0x20 } ((x.at t).s 2) with | .bad _ rep _ => rep | _ => false)) = true := by
  decide

/-- The small machine's word with a choice of the issue. -/
def chosen (ch : Choice) (i : Instr) (edit : Batt → Batt) (more : State → State := id) : State := wordAt i edit fun s => { more s with choice := ch }

/-- What PUTS finds: whether its ranges pass their checks, and then the payload's poison and whether it goes at once. -/
def putsGoes (x : Iss) (t : State) : Option (Bool × Bool) :=
  let at' (n : Nat) : DWord := (x.at t).s n
  match t.putsRange x.core (x.at t).space (at' 4) 16 (fun _ _ => 0), t.putsRange x.core (x.at t).space (at' 5) 24 (fun _ _ => 0),
    t.putsRange x.core (x.at t).space (at' 4) 16 (fun pte _ => if pteBit pte 5 then cPROT else 0),
    t.putsRange x.core (x.at t).space (at' 5) 24 (fun pte _ => putsPage pte) with
  | .ok src, .ok _, .ok _, .ok _ =>
    let r := (t.hardenOpen x.core x.slot).putsRead x.core x.slot { lane := 0, ea := at' 4, locs := src.locs }
    if (at' 4).toNat % 16 = 0 && (at' 5).toNat % 16 = 0 && putsLen { a := 4, b := 5, c := 6 } == 16 then
      some (r.1.any (·.2), !r.2.choice.late && !(x.at t).putsOut)
    else none
  | _, _, _, _ => none

/-- Hypotheses for PUTS: it sends at once or late, reads poison, has a misaligned source or destination, a source that nothing maps, a
destination that nothing maps, neither mapped, a source in host memory, a destination that is not. -/
theorem test_hyp_puts :
    (let go : Batt → Batt := fun b => sreg 4 0x50000 (sreg 5 0x60000 b)
     let w : Instr := .puts { a := 4, b := 5, c := 6 }
     let fails (x : Iss) (t : State) : Bool × Bool :=
       (match t.putsRange x.core (x.at t).space ((x.at t).s 4) 16 (fun _ _ => 0) with | .bad _ r _ => r | _ => false,
        match t.putsRange x.core (x.at t).space ((x.at t).s 5) 24 (fun _ _ => 0) with | .bad _ r _ => r | _ => false)
     meets (chosen {} w go) w (fun x t => putsGoes x t == some (false, true)) &&
     meets (chosen { late := true } w go) w (fun x t => putsGoes x t == some (false, false)) &&
     meets (wordAt w go fun s => { s with memPoison := [0x50000 / 64] }) w (fun x t => putsGoes x t == some (true, true)) &&
     meetsAt w (sreg 4 8) (fun x t => ((x.at t).s 4).toNat % 16 != 0) && meetsAt w (sreg 5 8) (fun x t => ((x.at t).s 5).toNat % 16 != 0) &&
     meetsAt w (fun b => sreg 4 0x100000 (sreg 5 0x60000 b)) (fun x t => fails x t == (true, false)) &&
     meetsAt w (fun b => sreg 4 0x50000 (sreg 5 0x100000 b)) (fun x t => fails x t == (false, true)) &&
     meetsAt w (fun b => sreg 4 0x100000 (sreg 5 0x100000 b)) (fun x t => fails x t == (true, true)) &&
     [(0x60000, 0x60000), (0x50000, 0x50000)].all fun p =>
       meetsAt w (fun b => sreg 4 p.1 (sreg 5 p.2 b)) (fun x t => fails x t == (false, false) && (putsGoes x t).isNone)) = true := by decide

/-- The arrival of a word at its barrier counts. -/
def countsAt (v : BitVec 10) (bytes : Int) (turned : Option Bool) (x : Iss) (t : State) : Bool :=
  !barDenied t (x.at t) v && match t.arriveAt x v bytes with
    | (.counted g _, u) => (match turned with | none => true | some d => decide (g < (u.bar ((x.at t).namedBar v)).gen) == d)
    | _ => false

/-- Felt barrier 0 counts two members. -/
def twoMembers (s : State) : State := { s with felts := s.felts.map fun y => { y with bars := y.bars.map fun b => { b with count := 2 } } }

/-- Hypotheses of BarrierAndBankWords for barriers: the last arrival, an earlier one, a batt that is no member, bytes that fit and bytes
that do not, a phase that has turned, and a barrier that the launch does not declare. -/
theorem test_hyp_barriers :
    (meetsAt (.barv { d := 4, a := 0x200, mod := 1 }) id (countsAt 0x200 0 none) && meetsAt (.bars { a := 0x200 }) id (countsAt 0x200 0 (some true)) &&
     meets (wordAt (.bars { a := 0x200 }) id twoMembers) (.bars { a := 0x200 }) (countsAt 0x200 0 (some false)) &&
     meets (wordAt (.barv { a := 0x200 }) (fun b => { b with id := .batt 0 0 9 })) (.barv { a := 0x200 }) (fun x t => barDenied t (x.at t) 0x200) &&
     meetsAt (.bart { a := 0x200, b := 6, mod := 1 }) id (countsAt 0x200 0 none) &&
     meetsAt (.bart { a := 0x200, b := 6 }) (sreg 6 (2 ^ 23 - 1)) (fun x t => !barDenied t (x.at t) 0x200 &&
       (t.barBytes ((x.at t).namedBar 0x200) (sval 64 ((x.at t).s 6).toNat)).isSome) &&
     meetsAt (.bart { a := 0x200, b := 6 }) (sreg 6 (2 ^ 23)) (fun x t => !barDenied t (x.at t) 0x200 &&
       (t.barBytes ((x.at t).namedBar 0x200) (sval 64 ((x.at t).s 6).toNat)).isNone) &&
     meetsAt (.barw { a := 0x200, b := 5 }) (sreg 5 1) (fun x t => !barMissing t (x.at t) 0x200 &&
       (t.bar ((x.at t).namedBar 0x200)).phase != ((x.at t).s 5).getLsbD 0) &&
     meetsAt (.barq { d := 7, a := 0x22F }) id (fun x t => barMissing t (x.at t) 0x22F) &&
     meetsAt (.barq { d := 7, a := 0x223 }) id (fun x t => !barMissing t (x.at t) 0x223)) = true := by decide

/-- Hypotheses of BarrierAndBankWords for banks. -/
theorem test_hyp_banks :
    (meetsAt (.aballoc { mod := 15 }) id (fun x t => (x.at t).banks == [] && (t.core x.core).bankQueue == [] && decide (16 ≤ t.freeBanks x.core)) &&
     meetsAt (.aballoc {}) banked (fun x t => (x.at t).banks != []) &&
     meetsAt (.ald { d := 8, a := 4 }) banked (fun x t => aldCauses { d := 8, a := 4 } (x.at t) x.active == [] &&
       (lanesOf x.active).all fun l => ((x.at t).bankBad (aldAddr { d := 8, a := 4 } (x.at t) l) 4).isNone) &&
     meetsAt (.ast { d := 8, a := 4 }) banked (fun x t => aldCauses { d := 8, a := 4 } (x.at t) x.active == []) &&
     meetsAt (.ast { d := 8, a := 4 }) id (fun x t => aldCauses { d := 8, a := 4 } (x.at t) x.active != []) &&
     meetsAt (.aldSp { a := 4, b := 5, c := 6, mod := 4 }) (fun b => banked (sreg 6 64 b)) (fun x t =>
       spCheck (x.at t) (t.battScratch (x.at t)) 0 64 (some 0) == none && !(t.core x.core).storeLocked (x.at t).id.lnum (x.at t).id.felt [(0, 64)]) &&
     meetsAt (.astSp { a := 4, b := 5, c := 6, mod := 4 }) (fun b => banked (sreg 6 64 b)) (fun x t =>
       spCheck (x.at t) (t.battScratch (x.at t)) 0 64 (some 0) == none && !(t.core x.core).loadLocked x.slot (x.at t).id.lnum (x.at t).id.felt [(0, 64)]) &&
     meetsAt (.azero { a := 4, c := 6 }) (fun b => banked (sreg 6 32768 b)) (fun x t => spCheck (x.at t) 0 0 32768 none == none)) = true := by decide

/-- Hypotheses of AtomicOperations: signed order both ways. -/
theorem test_hyp_atomic_operations :
    ((BitVec.ofNat 32 0xFFFFFFFF).sle (BitVec.ofNat 32 0) && !(BitVec.ofNat 32 0).sle (BitVec.ofNat 32 0xFFFFFFFF) && decide (0xFFFFFFFF < 2 ^ 32)) = true := by decide

/-- Hypotheses of BarrierArrivals: room, full, bytes that do not fit; with one held, an arrival that is the last and one that is not, an
admission of each kind, and one that is refused; a member's exit that completes and one that does not. -/
theorem test_hyp_barrier_arrivals :
    (pendOk (0 + (2 ^ 23 - 1)) && !pendOk (1 + (2 ^ 23 - 1)) && decide (((1 : Nat) : Int) < (2 : Int)) && decide ((2 : Int) ≤ ((2 : Nat) : Int)) &&
     (let bar (n a : Nat) (h : List Held) : Barrier := { count := n, arrived := a, held := h }
      let room (x : Barrier) : Bool := decide ((x.arrived : Int) < x.count)
      let last (x : Barrier) : Bool := decide ((x.arrived : Int) + 1 = x.count) && x.pend == 0
      let who : Held := .batt (.batt 0 0 0) (2 ^ 23)
      room (bar 3 2 [.red]) && last (bar 3 2 [.red]) && room (bar 3 1 [.red]) && !last (bar 3 1 [.red]) && !(bar 3 1 [.red]).touched &&
      (bar 3 1 [who, .red]).held == who :: [.red] && !pendOk (0 + 2 ^ 23) && decide ((2 : Int) ≤ (bar 2 2 []).arrived) &&
      (let y : Barrier := { bar 3 2 [.red] with count := 2, touched := true }
       y.touched && decide ((y.arrived : Int) = y.count) && y.pend == 0 && !{ y with touched := false }.touched))) = true := by decide

/-- The parameter block and scratchpad of chapter 13's example, with bank 0 held: v4 holds its offset, v5 the format word. -/
def matrixBatt (b : Batt) : Batt := { b with banks := [{ num := 0 }], vregs := [vreg 4 0x100, vreg 5 0x1104] }
def matrixPad (s : State) : State :=
  { s with felts := s.felts.map fun y => { y with scratch := y.scratch.write 0x100 (([0x0000002000010108, 0x0001000100000000, 0x400, 0x600, 0x800, 0x840,
      0x0000002000000020, 0].map (bytesOf 8)).flatten) } }

/-- A texture of 4 by 4 texels of FMT 0 at 0x70000 and a layered target of 32 by 32 pixels, with their descriptors in page 5. -/
def texture : TexDesc := { base := 0x70000, width := 4, height := 4, levels := 1, fmt := 0, modeU := 0, modeV := 0 }
def descriptors : State → State :=
  poke [(0x50100, [0, 0, 0, 1] ++ bytesOf 2 4 ++ bytesOf 2 4 ++ bytesOf 8 0x70000), (0x50225, [1, 0, 1] ++ bytesOf 2 32 ++ bytesOf 2 32),
        (0x50244, bytesOf 4 128 ++ bytesOf 8 0x52000 ++ bytesOf 8 0x51000)]

/-- A copy word's group passes every check. -/
def copyGoes (kind : Nat) (f : RForm) (x : Iss) (t : State) : Bool :=
  let g := copyGroup kind f.mod ((x.at t).copyParams kind f)
  let ps := g.pieces x.active ((x.at t).copyVec kind f)
  !g.bad && !(bit1 f.c 9 && barMissing t (x.at t) f.c) && copyMisaligned g ps x.active == [] && copyRange g ps (t.battScratch (x.at t)) x.active == [] &&
  (t.enginePages x.core (x.at t).space (copyGlobals g ps)).2 == []

/-- The scalars of a copy group from number 20: destination and source, and the rest. -/
def copyRegs (l : List DWord) (b : Batt) : Batt := (l.zip (List.range 5)).foldl (fun b p => sreg (20 + p.2) p.1 b) b

/-- Hypotheses of EngineWords. -/
theorem test_hyp_matrix :
    (meets (wordAt (.mxi { d := 10, a := 4, b := 5 }) matrixBatt matrixPad) (.mxi { d := 10, a := 4, b := 5 }) (fun x t =>
       match t.mxiChecks x { d := 10, a := 4, b := 5 } with | .inr (w, d) => (t.mxiPages x w d).2 == [] | .inl _ => false) &&
     meetsAt (.mxi { d := 10, a := 4, b := 5 }) matrixBatt (fun x t =>
       match t.mxiChecks x { d := 10, a := 4, b := 5 } with | .inr _ => false | .inl _ => true)) = true := by decide

theorem test_hyp_copies :
    (meetsAt (.cpy { d := 30, a := 20, c := 0x200 }) (copyRegs [0x50000, 0x50400, 64, 0]) (copyGoes 0 { d := 30, a := 20, c := 0x200 }) &&
     meetsAt (.cpy2d { d := 30, a := 20 }) (copyRegs [0x50000, 0x50400, 0x0000000200000010, 0x0000002000000020, 0]) (copyGoes 1 { d := 30, a := 20 }) &&
     meetsAt (.gath { d := 30, a := 20, b := 9 }) (copyRegs [0x50000, 0x50400, 0x0000000400000004, 0]) (copyGoes 2 { d := 30, a := 20, b := 9 }) &&
     meetsAt (.scat { d := 30, a := 20, b := 9 }) (copyRegs [0x50000, 0x50400, 0x0000000400000004, 0]) (copyGoes 3 { d := 30, a := 20, b := 9 }) &&
     meetsAt (.cpy { d := 30, a := 20 }) (copyRegs [0x50000, 0x50400, 0x1000001, 0]) (fun x t => (copyGroup 0 0 ((x.at t).copyParams 0 { d := 30, a := 20 })).bad) &&
     meetsAt (.gath { d := 30, a := 20, b := 9 }) id (fun x t => (copyGroup 2 0 ((x.at t).copyParams 2 { d := 30, a := 20 })).bad)) = true := by decide

theorem test_hyp_table_words :
    (meets (wordAt (.txsig { d := 9, a := 4 }) (sreg 4 0x50100) descriptors) (.txsig { d := 9, a := 4 }) (fun x t =>
       match t.textureAt x 0x50100 with
       | .inr d => d == texture && (t.enginePages x.core (x.at t).space [(d.base.toNat, d.levelOffset d.levels, fun _ => false)]).2 == [] &&
         (t.enginePages x.core (x.at t).space [(0x50120, 16, fun pte => writeCause pte != 0)]).2 == []
       | .inl _ => false) &&
     meets (wordAt (.mlclr { d := 9, a := 6 }) (sreg 6 0x50200) descriptors) (.mlclr { d := 9, a := 6 }) (fun x t =>
       match t.targetAt x 0x50200 3 with
       | .inr d => (t.enginePages x.core (x.at t).space [(d.heads.toNat, 4 * d.width * d.height, fun pte => writeCause pte != 0),
           (0x50278, 8, fun pte => writeCause pte != 0)]).2 == []
       | .inl _ => false)) = true := by decide

/-- A pure-region table at 0x70000 with one region that holds the placed word. -/
def pureTable (s : State) : State :=
  { s with mem := s.mem.write 0x70010 (bytesOf 8 0x40000 ++ bytesOf 8 0x40040 ++ bytesOf 8 0xB10C)
           launches := s.launches.map fun l => { l with pures := 1, recd := { l.recd with puretab := 0x70000 } } }

/-- Hypotheses of SignatureAndPeatWords for MLOOK and MFILL: outside a pure region and inside one. -/
theorem test_hyp_peat_words :
    (meetsAt (.mlook { d := 16, a := 8, b := 1, c := 12 }) id (fun x t => t.regionAt (x.at t) x.pc == .ok none) &&
     meets (wordAt (.mlook { d := 16, a := 8, b := 1, c := 12 }) id pureTable) (.mlook { d := 16, a := 8, b := 1, c := 12 }) (fun x t =>
       match t.regionAt (x.at t) x.pc with | .ok (some _) => true | _ => false) &&
     meets (wordAt (.mfill { a := 8, b := 16, c := 12 }) id pureTable) (.mfill { a := 8, b := 16, c := 12 }) (fun x t =>
       match t.regionAt (x.at t) x.pc with
       | .ok reg => reg.isSome && ((memoUnits false x.active).foldl (fillUnit (x.at t) { a := 8, b := 16, c := 12 } x.core x.slot (Option.map PureRegion.ident reg))
           { audits := (x.at t).audits, store := t.cluster (clusterOf x.core) }).fails == 0 && !(t.recOf (x.at t)).flag 3
       | _ => false)) = true := by decide

/-- The absorption's hypothesis: equal states. -/
theorem test_hyp_absorption : (({ } : Sig).absorb 5 2 == ({ } : Sig).absorb 5 2) = true := by decide

/-- A render pass whose first draw has its vertex cache at 0x50000 and one texture; the batt is of a kind. -/
def passOf (kind : BattKind) (s : State) : State :=
  let d : DrawInfo := { raw := [], const := 0, vcache := 0x50000, ventry := 0, fentry := 0, ntri := 1, nout := 1, depthTest := false, depthWrite := false,
                        blend := false, cullBack := false, qmemo := false, texs := [texture] }
  let t : TargetDesc := { addr := 0, raw := [], sigPlane := 0, resolve := 0, depths := 0, colour := 0, heads := 0, pool := 0, poolNodes := 128, clearD := 0,
                          clearC := [], width := 32, height := 32, layered := false, cfmt := 0, samples := 1, load := false, retain := false, layers := 1,
                          rule := 0, policy := 0, pages := 0, drops := 0 }
  let p : Pass := { paramBase := 0, paramSize := 16, chunkMax := 0, draws := 0, fregs := 16, vregs := 8, ndraw := 1, target := t, infos := [d] }
  ({ s with launches := s.launches.map fun l => { l with pass := some p } } : State).modBatt 0 1 fun b => { b with kind := kind }

/-- Hypotheses of VertexPixelAndTextureWords. -/
theorem test_hyp_vertex_pixel :
    (meets (wordAt (.vout { a := 20, c := 3 }) id (passOf .vertex)) (.vout { a := 20, c := 3 }) (fun x t =>
       match t.vertexDraw (x.at t) with
       | some d => let rs := (lanesOf x.active).map (t.voutLane x { a := 20, c := 3 } d)
         allOk rs && !t.logWait x (storedBytes (okAccs rs) ((x.at t).voutData { a := 20, c := 3 }))
       | none => false) &&
     meetsAt (.vout { a := 20, c := 3 }) id (fun x t => (t.vertexDraw (x.at t)).isNone) &&
     meets (wordAt (.ipa { d := 20, a := 2, mod := 4 }) pixelBatt (passOf .pixel)) (.ipa { d := 20, a := 2, mod := 4 }) (fun x t =>
       match t.drawOf (x.at t), (x.at t).pix with
       | some d, some i => (x.at t).kind == .pixel && (t.triWord (x.at t).space d i.tri 3).isSome && (t.triWord (x.at t).space d i.tri 4).isSome
       | _, _ => false) &&
     meetsAt (.ipa { d := 20, a := 2, mod := 4 }) id (fun x t => (x.at t).kind != .pixel) &&
     meetsAt (.fout { a := 24 }) pixelBatt (fun x t => (x.at t).kind == .pixel && (x.at t).pix.isSome) &&
     meetsAt (.fout { a := 24 }) id (fun x t => (x.at t).kind != .pixel)) = true := by decide

/-- What a texture word needs: its texels read clean. -/
def texGoes (f : RForm) (lane : Batt → TexDesc → Nat → LaneTexels) (x : Iss) (t : State) : Bool :=
  match t.textureOf x f with
  | .inr d =>
    let looks := t.texLooks x d ((lanesOf x.active).map (lane (x.at t) d))
    let seen := t.loadSettle x.core (texAccs looks)
    allOk (looks.map texReport) && texBad (seen.texSeen x looks) == [] && !(seen.texFills x (texAccs looks)).choice.late
  | .inl _ => false

/-- What a list word needs: its walks read clean. -/
def listGoes (f : RForm) (x : Iss) (t : State) : Bool :=
  match t.targetAt x ((x.at t).s f.b.toNat) 0 with
  | .inr d => allOk ((t.listWalks x f d).map walkReport) && walkBad (t.listWalks x f d) == [] && !t.choice.late
  | .inl _ => false

theorem test_hyp_textures :
    (meets (wordAt (.tex { d := 24, a := 20, mod := 0x40 }) id (passOf .pixel)) (.tex { d := 24, a := 20, mod := 0x40 })
       (texGoes { d := 24, a := 20, mod := 0x40 } (texLane { d := 24, a := 20, mod := 0x40 })) &&
     meets (wordAt (.tld { d := 28, a := 20 }) id (passOf .pixel)) (.tld { d := 28, a := 20 }) (texGoes { d := 28, a := 20 } (tldLane { d := 28, a := 20 }))) = true := by
  decide

theorem test_hyp_lists :
    (meets (wordAt (.mlres { d := 32, b := 6 }) (sreg 6 0x50200) descriptors) (.mlres { d := 32, b := 6 }) (listGoes { d := 32, b := 6 }) &&
     meets (wordAt (.mlresLayer { d := 32, b := 6, mod := 9 }) (sreg 6 0x50200) descriptors) (.mlresLayer { d := 32, b := 6, mod := 9 })
       (listGoes { d := 32, b := 6, mod := 9 }) &&
     meets (wordAt (.mlrd { d := 36, b := 6, mod := 2 }) (sreg 6 0x50200) descriptors) (.mlrd { d := 36, b := 6, mod := 2 })
       (listGoes { d := 36, b := 6, mod := 2 })) = true := by decide

/-- A launch record at 0x50400 and a pass record at 0x50480 whose target is the plain one at 0x50500. -/
def records : State → State :=
  poke [(0x50400, bytesOf 8 0x40000), (0x50410, bytesOf 4 1 ++ [1]), (0x5041C, bytesOf 2 8), (0x5049C, bytesOf 2 8 ++ bytesOf 2 16),
        (0x504C8, bytesOf 8 0x50500), (0x504D4, bytesOf 4 16), (0x50525, [1, 0, 0] ++ bytesOf 2 32 ++ bytesOf 2 32)]

/-- How LAUNCH or DRAW finds its record. -/
def recordOf (f : RForm) (draw : Bool) (x : Iss) (t : State) : Nat × RecordRes Launch :=
  let rel := (t.hardenOpen x.core x.slot).releaseDevice x.core (x.at t).space 2
  let view := rel.2.launchView x.core rel.1
  (rel.2.launches.length, view.readRecord (x.at view) ((x.at view).s f.a.toNat) rel.1 f.d.toNat draw)

/-- Hypotheses of LaunchWords: a record that passes, 256 launches outstanding, a misaligned record, a poisoned one. -/
theorem test_hyp_launches :
    ([(Instr.launch { d := 5, a := 4 }, false, 0x50400), (.draw { d := 5, a := 4 }, true, 0x50480)].all fun p =>
      meets (wordAt p.1 (sreg 4 (BitVec.ofNat 64 p.2.2)) records) p.1 (fun x t => match recordOf { d := 5, a := 4 } p.2.1 x t with
        | (n, .ok _) => decide (n < 256) | _ => false) &&
      meets (wordAt p.1 (sreg 4 (BitVec.ofNat 64 p.2.2)) fun s => { s with launches := s.launches ++ List.replicate 255 { lnum := 9, recd := {}, owner := .ctl, token := 0 } })
        p.1 (fun x t => decide (256 ≤ (recordOf { d := 5, a := 4 } p.2.1 x t).1)) &&
      meetsAt p.1 (sreg 4 0x50408) (fun x t => match recordOf { d := 5, a := 4 } p.2.1 x t with | (n, .launchx _) => decide (n < 256) | _ => false) &&
      meets (wordAt p.1 (sreg 4 (BitVec.ofNat 64 p.2.2)) fun s => { records s with memPoison := [p.2.2 / 64] }) p.1
        (fun x t => match recordOf { d := 5, a := 4 } p.2.1 x t with | (n, .poison _) => decide (n < 256) | _ => false)) = true := by decide

/-- The small machine about to run a NOP; with its batt edited; and its batt waiting in state 3 with the given reason. -/
def base : State := wordAt (.nop {})
def withBatt (edit : Batt → Batt) : State := wordAt (.nop {}) edit

/-- A log entry of context 0. -/
def entry (pos sector : Nat) : LogEntry := { pos := pos, sector := sector, seq := 0, space := 0, mask := 1, data := [], owner := 1 }
def withLog (l : List LogEntry) (s : State) : State := s.modCore 0 fun c => { c with log := l, nextPos := l.length }

/-- A log with room for one more entry. -/
def nearlyFull (s : State) : State := withLog ((List.range 767).map fun k => entry k k) s

/-- Hypotheses of the first half of DispatchAndRetirementSteps. -/
theorem test_hyp_dispatch :
    ((let s := base.modQuarter 0 0 fun q => { q with active := List.replicate 8 none }
      match s.batt? 0 1 with
      | some b => b.free && b.turn == some 0 && (b.lane 0).st == .ready && !s.meetsLong b && !s.storeStalls b && !s.isActive 0 1 && !s.isQueued 0 1
      | none => false) &&
     (let s := (chosen { noCoalesce := true } (.st { d := 10, a := 8, wd := 2 }) addressed nearlyFull).modQuarter 0 0 fun q => { q with active := List.replicate 8 none }
      match s.batt? 0 1 with
      | some b => b.free && b.turn == some 0 && (b.lane 0).st == .ready && s.storeStalls b && !s.isActive 0 1 && !s.isQueued 0 1
      | none => false) &&
     (let q := (base.modQuarter 0 0 fun q => { q with ready := [5], freed := [0, 3, 1] }).quarter 0 0
      q.ready == [5] && q.nextFree == some 3 && q.active[0]? == some (some 1) && q.active[3]? == some none) &&
     ((List.range 9).all fun j => (((base.quarter 0 0).active[j]? == some (some 1)) == (j == 0))) &&
     ([Instr.launch { d := 5, a := 4 }, .draw { d := 5, a := 4 }].all fun i =>
       let s := withBatt fun b => { b with wait := .launch 0 i }
       (match s.batt? 0 1 with | some b => b.wait == .launch 0 i | none => false) && decide (s.launches.length < 256)) &&
     (let s : State := { base with launches := base.launches.map fun l => { l with next := 0 } }
      let s : State := { s with launches := s.launches.map (fun l => { l with lnum := 1, killed := true, recd := { l.recd with prio := 3 } }) ++ s.launches }
      match s.startLaunches.dispatchPick with
      | some (l, _, _) => (s.startLaunches.launches.any fun x => l.recd.prio < x.recd.prio && x.recd.prio ≤ 3) && (match s.startLaunches.claimFirst l with | .ok t => (t.launch? l.lnum).isSome | _ => false)
      | none => false) &&
     (State.reset.dispatchPick).isNone) = true := by decide

/-- The small machine with its batt gone and context 0 saving, and a save area at the address. -/
def saving (area : Nat) : State :=
  { (base.modCtx 0 fun c => { c with ctxst := 1, saveBase := some area }) with
    batts := [], felts := [], launches := base.launches.map fun l => { l with killed := true } }

/-- Hypotheses of the second half: a launch that has finished, a batt at rest, a context that can be saved and one that cannot. -/
theorem test_hyp_retirement :
    ((let s : State := { base with launches := base.launches.map fun l => { l with left := 0 } }
      match s.launch? 0 with | some l => l.finished && !l.killed | none => false) &&
     (let s := (withBatt fun b => { b with resting := true }).modCtx 0 fun c => { c with ctxst := 1 }
      (match s.batt? 0 1 with
       | some b => b.space == 0 && (s.ctx b.space).ctxst == 1 && b.ops == [] && s.atRest b == .ok true
       | none => false) &&
      (let t := s.battSettle 0 1
       match t.contributed (t.battAt 0 1) (t.battAt 0 1).splitLows with | .ok _ => true | _ => false)) &&
     ([(0x50000, true), (0x100000, false)].all fun p =>
       let s := saving p.1
       (s.ctx 0).ctxst == 1 && s.batts == [] && (s.launches.all fun l => l.killed || l.passAtRest) && (s.overHeldRef 0).isNone &&
       (s.ctx 0).saveBase == some p.1 && (s.keptFails 0).isNone && (match s.writeParts 0 p.1 (s.savePlan 0).parts with | .inr _ => p.2 | .inl _ => !p.2))) = true := by decide

/-- The small machine with one operation of an instruction pending, its number 7. -/
def pending (i : Instr) (f : Op → Op := id) : State :=
  withBatt fun b => { b with ops := [f { id := 7, instr := i, word := 0, pc := 0x40000, mask := BitVec.allOnes 32, active := BitVec.allOnes 32 }], nextOp := 8 }

/-- Hypotheses of OperationReturns: a load, a texture word, an atomic before and after its home, a RED, a PUTS. -/
theorem test_hyp_operations :
    (([Instr.ld { d := 10, a := 8, wd := 2 }, .ldc { d := 10, a := 6, wd := 2 }, .tex { d := 24, a := 20 }, .tld { d := 24, a := 20 },
       .mlres { d := 32, b := 6 }, .mlresLayer { d := 32, b := 6, mod := 9 }, .mlrd { d := 32, b := 6 }].all fun i =>
      match (pending i).opAt 0 1 7 with | some o => o.instr == i && o.poison == 0 | none => false) &&
     ([Instr.atom { d := 10, a := 8, b := 11, c := 3 }, .red { a := 8, b := 11, c := 3 }, .red { d := 0x200, a := 8, b := 11, c := 3 }].all fun i =>
      (match (pending i).opAt 0 1 7 with | some o => o.instr == i && o.phase == .sent | none => false) &&
      (match (pending i fun o => { o with phase := .performed }).opAt 0 1 7 with | some o => o.phase == .performed && o.poison == 0 | none => false) &&
      (match (pending i fun o => { o with phase := .performed, poison := 1 }).opAt 0 1 7 with | some o => o.phase == .performed && o.poison != 0 | none => false)) &&
     (let a (x : DWord) : LaneAcc := { lane := 0, ea := x, locs := [] }
      let s := pending (.puts { a := 4, b := 5, c := 6 }) fun o => { o with accs := [a 0x50000, a 0x60000] }
      match s.opAt 0 1 7 with
      | some o => o.accs == [a 0x50000, a 0x60000] && (s.battAt 0 1).ops.head? == some o && o.id == 7
      | none => false)) = true := by decide


/-- Hypotheses of PublicationAndFullingSteps: a granted release, an early publication, a promotion of core 127, acquires, a full log, one
with room, one wholly pinned; an entry to be taken, one to be applied, and one that an older entry of its sector precedes. -/
theorem test_hyp_publication :
    ((let s := (pending (.rel { mod := 2 })).modCore 0 fun c => { c with pubQueue := [some (1, 7)] }
      (s.core 0).pubQueue == [some (1, 7)] &&
      (match (s.modCore 0 fun c => { c with pubQueue := [] }).opAt 0 1 7 with | some o => o.instr == .rel { mod := 2 } | none => false)) &&
     ((withLog [entry 0 5] base).core 0).log.any (fun e => e.pos == 0 && e.depth == 0 && decide (e.scope ≤ 1)) &&
     (let s := pending (.acqr { a := 2, b := 3 }) fun o => { o with vals := [0, 0x8000000000000000] }
      match s.batt? 0 1 with
      | some b => (match b.ops with | [o] => o.instr == .acqr { a := 2, b := 3 } && namesCore (o.vals.getD 0 0) (o.vals.getD 1 0) 127 | _ => false)
      | none => false) &&
     ([Instr.acq { mod := 2 }, .acqr { a := 2, b := 3 }].all fun i => match (pending i).batt? 0 1 with
       | some b => (match b.ops with | [o] => o.instr == i && o.vals.all (· == 0) | _ => false)
       | none => false) &&
     (let l := ((withLog ((List.range 768).map fun k => { entry k k with depth := 1 }) base).core 0).log
      decide (768 ≤ l.length) && (l.all fun x => x.depth != 0) && l != []) && decide ((base.core 0).log.length < 768)) = true := by decide

theorem test_hyp_fulling :
    ((let s := withLog [{ entry 0 5 with num := 1, scope := 2 }] base
      decide (0 < s.cores.length) && ((s.core 0).nextTaken s.dev.granted).isSome) && ((base.core 0).nextTaken base.dev.granted).isNone &&
     (let e := { entry 0 5 with num := 1, scope := 2, taken := true }
      let s := withLog [e] base
      (s.core 0).log.find? (fun x => x.pos == 0 && x.taken && x.depth == 0) == some e && s.publishedOrder.find? (fun x => x.2.sector == e.sector) == some (0, e)) &&
     (let e := { entry 1 5 with num := 2, scope := 2, taken := true }
      let s := withLog [{ entry 0 5 with num := 1, scope := 2 }, e] base
      (s.core 0).log.find? (fun x => x.pos == 1 && x.taken && x.depth == 0) == some e &&
      (match s.publishedOrder.find? (fun x => x.2.sector == e.sector) with | some x => x.2.pos != 1 | none => false))) = true := by decide

/-- The numbers 2^48 - 1 and 1 with 1 granted last: the former is the lower (R245), and its entry, behind in the log, is taken first (R253). -/
theorem test_numbers_wrap :
    (numberAge 1 (2 ^ 48 - 1) == 2 && numberAge 1 1 == 0 && serialLt (2 ^ 48 - 1) 1 &&
     (let s := withLog [{ entry 0 5 with num := 1, scope := 2 }, { entry 1 5 with num := 2 ^ 48 - 1, scope := 2 }] (base.modDev fun d => { d with granted := 1 })
      ((s.core 0).nextTaken s.dev.granted).map (·.pos) == some 1 && s.publishedOrder.map (·.2.pos) == [1, 0])) = true := by decide

/-- Hypotheses of CacheSteps: a dirty sector at level two whose line is the slice's choice, a frame of one that is not held, a
superblock of whole sectors, and an address that walks. -/
def oneSector : State := { State.reset with cores := [], l2 := [{ sector := 20, slice := 4, valid := true, dirty := 1, written := 0, data := List.replicate 64 7 }] }

theorem test_hyp_eviction : oneSector.l2Victim 4 5 = some 5 ∧ oneSector.l2Victim 3 5 ≠ some 5 := by
  constructor <;> simp [oneSector, State.l2Victim, State.lowestLine, State.pinned, L2Sector.line, List.eraseDups_cons]

theorem test_hyp_caches :
    ((let xs : List L2Sector := (List.range 16).map fun k => { sector := 16 + k, slice := 4, valid := true, dirty := 0, written := 0, data := [], frames := 3 }
      let mine (x : L2Sector) : Bool := x.slice == 4 && x.sector / 16 == 1 && x.valid
      (xs.filter mine).length == 16 && xs.all fun x => !mine x || x.frames == 0 || decide (2 < x.frames)) &&
     oneSector.mem.wf && decide (oneSector.l2.length ≤ sliceFrames) && decide ((oneSector.l2.map fun x => (x.slice, x.sector)).Nodup) &&
     decide (0 < base.cores.length) && fld (0x40000 : DWord) 63 49 == 0 &&
     (match (base.walkFills 0 0x40000).walk 0 0x40000 with | .ok _ _ _ => true | _ => false)) = true := by decide

/-- An operation at the head of the array's or the copy engine's queue. -/
def engineOp (i : Instr) : EngineOp :=
  { id := 0, slot := 1, owner := .batt 0 0 0, space := 0, lnum := 0, felt := 0, instr := i, active := 1, params := [0, 0, 0, 0, 0, 0, 0, 0], token := 10 }

/-- The same with the parameters of chapter 13's example, its operands not fetched yet. -/
def matrixOp : EngineOp :=
  { engineOp (.mxi { d := 10, a := 4, b := 5 }) with
    params := [0x0000002000010108, 0x0001000100000000, 0x400, 0x600, 0x800, 0x840, 0x0000002000000020, 0], fmt := 0x1104 }

/-- The operation once its fetches are done. -/
def fetchedOp : EngineOp := { matrixOp with opA := [List.replicate 32 (0x3C, false)], opB := [List.replicate 32 (0x3C, false)],
                                            opSA := [List.replicate 1 (0x7F, false)], opSB := [List.replicate 1 (0x7F, false)] }

/-- An invalidation of everything that a store has still to apply. -/
def minv : Minv := { owner := .batt 0 0 0, space := 0, kind := .all }

/-- Hypotheses of WaitAndEngineSteps. -/
theorem test_hyp_wait_and_engine :
    ((let i : Instr := .waita { d := 6, a := 2, b := 3, mod := 0x20 }
      let s := (withBatt fun b => { b with wait := .watch false i }).modCluster 0 fun k =>
        { k with monitors := [{ core := 0, slot := 1, target := .dev, sector := 0x50000 / 64, noticed := true }] }
      match (s.cluster 0).monitors[0]? with | some m => m.noticed && (s.battAt m.core m.slot).wait == .watch false i | none => false) &&
     (let i : Instr := .waita { d := 6, a := 2, b := 3, mod := 0x20 }
      match (withBatt fun b => { b with wait := .watch true i }).batt? 0 1 with | some b => b.wait == .watch true i | none => false) &&
     (let c := (base.modCore 0 fun c => { c with mxiq := [matrixOp] }).core 0
      c.nextFetch == some matrixOp && c.pinsLeft matrixOp) &&
     decide (matrixOp.step < matrixOp.passes) && !matrixOp.ready && fetchedOp.ready && !fetchedOp.prm.memo &&
     (let o : EngineOp := { fetchedOp with looked := true, step := fetchedOp.passes }
      decide (o.passes ≤ o.step)) &&
     (let s := base.modCore 0 fun c => { c with copyq := [engineOp (.cpy { d := 30, a := 20 })] }
      !(s.core 0).opBlocked (engineOp (.cpy { d := 30, a := 20 }))) &&
     (let s : State := (base.modCluster 0 fun k => { k with peatPending := some 1, minvPending := [minv] })
      let s : State := { s with batts := [] }
      (s.cluster 0).peatPending == some 1 && (s.batts.all fun b => clusterOf b.core != 0 || b.id == .ctl) && (s.cluster 0).minvPending == [minv])) = true := by
  decide

/-- Launch 0 of the small machine as a pass, with no batt resident. -/
def passWith (f : Pass → Pass) (next : Nat := 1) : State :=
  let s := passOf .compute base
  { s with batts := [], launches := s.launches.map fun l => { l with pass := l.pass.map f, left := 0, next := next } }

/-- A draw entry of one triangle at 0x50600. -/
def drawBytes : State → State := poke [(0x50600 + 36, bytesOf 4 1), (0x50600 + 56, bytesOf 8 0x40000 ++ bytesOf 8 0x40000)]

/-- A fragment of tile 0. -/
def fragment : Fragment := { owner := .batt 0 0 0, lane := 0, draw := 0, tri := 0, tile := 0, x := 3, y := 5, cover := 15, colour := [0, 0, 0, 0], coords := [], zs := [] }

/-- Hypotheses of PassSteps up to binning. -/
theorem test_hyp_draw_steps :
    ((let s := drawBytes (passWith fun p => { p with draws := 0x50600 })
      match s.openPass 0 with
      | some (l, p) => p.stage == .start && s.applied l.point && (match s.sideRead l.recd.ctx (p.draws + BitVec.ofNat 64 (128 * p.draw)) 128 with
        | .ok bs => let e := drawEntry bs
          !drawEntryBad bs && (match s.readTexs l.recd.ctx e.textab e.ntex with | .inr _ => true | .inl _ => false) &&
          (match s.pureAt l e.info.ventry, s.pureAt l e.info.fentry with | .ok _, .ok _ => true | _, _ => false) &&
          (s.pipeRead l.recd.ctx e.info.const (16 * e.constLen)).isSome
        | _ => false)
      | none => false) &&
     (let s := passWith fun p => { p with stage := .vertices }
      match s.openPass 0 with
      | some (l, p) => (match p.infos[p.draw]? with
        | some d => p.stage == .vertices && l.next == vertexFelts d.ntri && l.left == 0 && l.saved == [] && d.vpure.isNone
        | none => false)
      | none => false) &&
     (let s := passWith fun p => { p with stage := .binning, paramBase := 0x50000, target := { p.target with addr := 0x50800 } }
      match s.openPass 0 with
      | some (l, p) => p.stage == .binning && (match s.beginBinning l p with | some (_, q) => (q.infos[q.draw]?).isSome | none => false)
      | none => false)) = true := by decide

/-- Hypotheses of PassSteps for tiles, fragments and retirement. -/
theorem test_hyp_tile_steps :
    (let w : TileWork := { tile := 0, depth := [], colour := [], upto := 0 }
     (match (passWith id).livePass 0 with | some (l, p) => ((passWith id).ctx l.recd.ctx).ctxst == 0 && p.work.all fun w => w.tile != 0 | none => false) &&
     ([(1, true), (0, false)].all fun q =>
       let s := passWith fun p => { p with work := [w], tiles := [{ list := List.replicate q.1 { draw := 0, tri := 0, coords := [] } }] }
       match s.livePass 0 with
       | some (_, p) => p.work.find? (fun w => w.tile == 0) == some w && (p.specs.all fun i => i.tile != 0) &&
         decide (w.upto < (p.tiles.getD 0 {}).list.length) == q.2 && !s.tileBusy 0 p 0
       | none => false) &&
     (let s := (passWith fun p => { p with work := [w] }).modCtx 0 fun c => { c with ctxst := 1 }
      match s.livePass 0 with
      | some (l, p) => (s.ctx l.recd.ctx).ctxst != 0 && p.work.find? (fun w => w.tile == 0) == some w && !s.tileBusy 0 p 0
      | none => false) &&
     (let s := passWith fun p => { p with work := [w], frags := [fragment] }
      match s.livePass 0 with | some (_, p) => p.frags.find? (fun g => s.mayCommit 0 p g) == some fragment | none => false) &&
     (let s := passWith fun p => { p with stage := .rendering, tiles := [{ finished := true }] }
      match s.openPass 0 with
      | some (l, p) => p.stage == .rendering && (p.tiles.all fun t => t.finished) && p.work == [] && p.specs == [] && p.frags == [] && l.left == 0 &&
        p.target.sigPlane == 0
      | none => false)) = true := by decide

/-- The small machine with the arguments of a command. -/
def command (a0 a1 : DWord) (more : State → State := id) : State := more (base.modDev fun d => { d with arg0 := a0, arg1 := a1 })
def ctxAt (st : Nat) (s : State) : State := s.modCtx 0 fun c => { c with ctxst := st }

/-- Hypotheses of HostCommands: a free command register, a busy one, and the condition of each command. -/
theorem test_hyp_commands :
    (base.answers && !base.dev.busy && ((base.modDev fun d => { d with busy := true, cmdDone := true }).dev.busy) &&
     (let s := command 0x10000 0; s.dev.arg0.toNat % 65536 == 0 && decide (s.dev.arg0.toNat < s.memTop)) &&
     ((command 0x10000 0).ctx 0).ctxst == 0 && (command 0x10000 0).dev.arg0.toNat % 4096 == 0 &&
     [1, 2].all (fun k => ((command 0x10000 0 (ctxAt k)).ctx 0).ctxst == k) &&
     (let s := command 3 0; decide (1 ≤ s.dev.arg0.toNat ∧ s.dev.arg0.toNat ≤ 3)) &&
     (let s := command 1 0; decide (s.dev.arg0.toNat ≤ 1) && (s.core 127).retired == 0) &&
     (let s := command 0x50000 0x10000
      (s.cores.all fun c => c.engineOps.all fun o => !o.inRange 0 (invRange 0x50000 0x10000)) && decide (s.dev.arg1.toNat % 65536 = 0)) &&
     (let o : EngineOp := { engineOp (.cpy { d := 30, a := 20 }) with pages := [(5, {})] }
      let s := command 0x50000 0x10000 fun s => s.modCore 0 fun c => { c with copyq := [o] }
      s.cores.any fun c => c.engineOps.any fun o => o.inRange 0 (invRange 0x50000 0x10000)) &&
     (command 0x50001 0).dev.arg0.toNat % 65536 != 0 && (command 0x50001 0).dev.arg0.toNat % 4096 != 0 &&
     (let s := command 0x1000000000000 0; decide (s.memTop ≤ s.dev.arg0.toNat)) &&
     [0, 4].all (fun k => let s := command k 0; s.dev.arg0.toNat == 0 || decide (3 < s.dev.arg0.toNat)) && decide (1 < (command 2 0).dev.arg0.toNat) &&
     (let s := command 1 0 fun s => s.modCore 127 fun c => { c with retired := 1 }
      decide (s.dev.arg0.toNat ≤ 1) && (s.core 127).retired != 0 && (s.core 127).retired != BitVec.ofNat 2 (s.dev.arg0.toNat + 1))) = true := by decide

/-- A .jxo file of 168 bytes at 0x50000: code, and one kernel of one batt per felt with a quota of 8. -/
def jxoFile : State → State :=
  poke [(0x50000, bytesOf 4 0x014F584A ++ bytesOf 4 1 ++ bytesOf 4 2 ++ bytesOf 4 32), (0x50020, bytesOf 4 1 ++ bytesOf 4 3 ++ bytesOf 8 160 ++ bytesOf 8 8),
        (0x50040, bytesOf 4 8 ++ bytesOf 4 3 ++ bytesOf 8 96 ++ bytesOf 8 64), (0x50068, [1, 1] ++ bytesOf 2 8)]

/-- Hypotheses of HostCommands for CTLLOAD. -/
theorem test_hyp_ctlload :
    (let s := command 0x50000 168 jxoFile
     let t := s.modDev fun d => { d with busy := true, cmdOp := 10, cmdTgt := 0, cmdDone := false, cmdArg0 := d.arg0, cmdArg1 := d.arg1 }
     let rd (i : Nat) : Byte := t.l2ByteAny (s.dev.arg0.toNat + i)
     decide (s.dev.arg1.toNat ≤ 2 ^ 24) && decide (s.dev.arg0.toNat + s.dev.arg1.toNat ≤ s.memTop) &&
     t.answers && t.dev.busy && t.dev.cmdOp == 10 && !t.dev.cmdDone && ((t.modDev fun d => { d with cmdOp := 9 }).dev.cmdOp != 10) &&
     jxoProgram rd s.dev.arg1.toNat == some { regs := 8, offset := 0, sections := [(1, 160, 8)] } && (jxoProgram rd 31).isNone) = true := by decide

/-- A trap window with one record of a kind in slot 63. -/
def windowWith (r : TrapRecord) : State := base.modWindow 0 fun x => { x with slots := setAt x.slots 63 (some r) }

/-- A fault record of the small machine's batt, in slot 0 of cluster 0's buffer. -/
def faultRecord : FaultRecord := { pc := 0x40000, lanes := [{ lane := 0, cause := cXLAT }], lnum := 0, core := 0, slot := 1, access := 0, level := 3, replay := false, space := 0, owner := .batt 0 0 0 }

/-- Hypotheses of WindowSteps: records of KIND 0 and 1, one that can be resumed and one that cannot, and a fault. -/
theorem test_hyp_windows :
    ([0, 1].all (fun k =>
       let r : TrapRecord := { owner := .batt 0 0 0, kind := k }
       let s := windowWith r
       s.answers && (s.window 0).slots.getD 63 none == some r && r.resumable 0 == (k == 0) && (s.battOf? r.owner).isSome) &&
     (let s := (withBatt fun b => { b with faulted := true }).modCluster 0 fun x => { x with faults := setAt x.faults 0 (some faultRecord) }
      match (s.cluster 0).faults.getD 0 none with
      | some r => (match s.batt? r.core r.slot with | some b => b.id == r.owner && b.faulted | none => false)
      | none => false)) = true := by decide

/-- Hypotheses of WindowSteps for a kill: a launch that runs, and log entries of its context and of another. -/
theorem test_hyp_kill :
    (let s := withLog [{ entry 0 5 with space := 1 }, entry 1 5] base
     decide (0 < s.ctxs.length) && decide (0 < s.windows.length) && decide ((s.launches.map (·.lnum)).Nodup) &&
     decide (∀ c ∈ s.cores, (c.log.map (·.pos)).Pairwise (· < ·) ∧ ∀ e ∈ c.log, e.pos < c.nextPos) &&
     decide ((s.l2.map fun x => (x.slice, x.sector)).Nodup) && decide ((s.batts.map fun b => (b.core, b.slot)).Nodup) &&
     (s.launches.any fun l => l.recd.ctx == 0 && !l.killed)) = true := by decide

/-- Hypotheses of HostAccesses: aligned and misaligned register accesses, both windows, an atomic on clean and on poisoned bytes, and failed
requests of a load and of an atomic's lane. -/
theorem test_hyp_host_accesses :
    (bar0Ok 0x3FFFFF8 8 && !bar0Ok 2 4 && !base.dev.tripped && base.answers && base.inBar 2 (base.dev.bar2Size - 8) 8 && base.inBar 4 (2 ^ 18 - 8) 8 &&
     (let s := { base with memPoison := [0x50000 / 64] }
      match base.barLoc 2 0x50000, s.barLoc 2 0x50000 with
      | some x, some y => ((x.run 8).map base.homeByte).all (fun b => !b.2) && ((y.run 4).map s.homeByte).any (fun b => b.2)
      | _, _ => false) &&
     (let a : LaneAcc := { lane := 3, ea := 0x60000, locs := [{ target := .host, pa := 0x8000060000 }] }
      (match (pending (.ld { d := 10, a := 8, wd := 2 }) fun o => { o with accs := [a] }).opAt 0 1 7 with
       | some o => o.instr == .ld { d := 10, a := 8, wd := 2 } && inMask o.hostLanes 3 | none => false) &&
      (match (pending (.atom { d := 10, a := 8, b := 11, c := 4 }) fun o => { o with accs := [a] }).opAt 0 1 7 with
       | some o => inMask o.hostLanes 3 | none => false))) = true := by decide

/-- A head whose timing and surface pass, one whose surface is refused, one whose timing is refused. -/
def goodHead : Head :=
  { en := true, fmt := 0, base := 0x50000, pitch := 256, hact := 16, vact := 2, htot := 32, hsync := 4, hstart := 20, hfp := 4, vtot := 8, vsync := 1, vstart := 4, vfp := 2,
    pclk := 1000, linkRate := 4000, stream := true }

/-- Hypotheses of DisplaySteps. -/
theorem test_hyp_display :
    (goodHead.en && decide (goodHead.fmt < 2) && { goodHead with linkRate := 3999 }.timingBad && !goodHead.timingBad &&
     (let s := base.modDev fun d => { d with heads := setAt d.heads 3 goodHead }
      match s.dev.heads[3]? with | some g => g.stream && s.answers | none => false) &&
     (match base.dev.heads[0]? with | some h => !h.stream | none => false)) = true := by decide

/-- Hypotheses of ErrorsAndResets for the sites of R416's table, and of PowerSteps at a reference tick and between two. -/
theorem test_hyp_errors :
    (decide (64 * 0 < base.memTop) && decide (base.memTop ≤ 64 * 2 ^ 33) && decide (homeSlice 0x50000 false / 2 < base.controllers.length) &&
     !base.pageQuarantined 0x50000 &&
     decide (0 < base.cores.length) && decide (0 < base.clusters.length) &&
     (let s : State := { base with launches := base.launches.map fun l => { l with recd := { l.recd with scratch := 64 } } }
      decide (4 * 15 < s.scratchSize 0) && (s.felt? 0 0).isSome) &&
     (match (withBatt fun b => { b with banks := [{ num := 3 }], vregs := [vreg 4 0, vreg 9 0] }).batt? 0 1 with
      | some b => (b.bank? 3).isSome && decide (4 * 4095 < bankBytes) && b.isBacked 9 && decide ((b.vregs.map (·.num)).Pairwise (· < ·))
      | none => false) &&
     (let e : PeatEntry := { key := { space := 0, f1 := 0, f2 := 0, ident := 1, mix := 1, len := 4, kind := 0 }, flags := 0, depth := 0, core := 0, slot := 1, owner := .batt 0 0 0, payload := [] }
      let s := base.modCluster 0 fun c => { c with peat := [{ e with err := true }] }
      ((s.cluster 0).peat[0]?).isSome && (match (s.cluster 0).peatFind e.key with | some x => x.err | none => false)) &&
     (base.dev.pulse % 20 == 0 && (base.modDev fun d => { d with pulse := 19 }).dev.pulse % 20 != 0)) = true := by decide

/-- The small machine with its power counters at the given values. -/
def counted (ticks window trim kick : Nat) : State :=
  (base.modCluster 0 fun c => { c with power := { c.power with ticks := ticks, window := window } }).modDev fun d => { d with trimTicks := trim, kickTicks := kick }

/-- Hypotheses of GovernorPeriod and PowerSteps: nothing due, each thing due, and a droop just begun and long past. -/
theorem test_hyp_due :
    (!(counted 127 4095 4095 (2 ^ 20 - 1)).anyDue && (counted 128 0 0 0).anyDue && (counted 0 4096 0 0).anyDue && (counted 0 0 4096 0).anyDue &&
     (counted 0 0 0 (2 ^ 20)).anyDue && (counted 0 0 0 (2 ^ 20)).dev.lapseDue && !base.dev.lapseDue &&
     decide ((base.cluster 0).power.droopAt + 256 ≤ (base.modDev fun d => { d with pulse := 256 }).dev.pulse) &&
     decide (base.dev.pulse < (base.cluster 0).power.droopAt + 256)) = true := by decide

/-- Hypotheses of GovernorPeriod, PowerSteps, ErrorsAndResets, SmbusAnswers, TrippedDeviceStays and StepKeepsMemory. -/
theorem test_hyp_device :
    (decide (15 < base.clusters.length) && [460, 560].all (fun v => decide (460 ≤ (base.modDev fun d => { d with railMv := v }).dev.railMv ∧ (base.modDev fun d => { d with railMv := v }).dev.railMv ≤ 560)) &&
     ((base.modDev fun d => { d with wdLapsed := true }).dev.wdLapsed || base.dev.hkcUpdate) &&
     [0, 1].all (fun (k : Nat) =>
       ({ base with l2 := [{ slice := 4, sector := 20, valid := true, written := 0, dirty := BitVec.ofNat 64 k, data := [] }] } : State).l2At 4 20 ==
         some { slice := 4, sector := 20, valid := true, written := 0, dirty := BitVec.ofNat 64 k, data := [] }) &&
     decide (79 < bandEdge 3 ∧ bandEdge 3 < 79 + 2) && decide (78 + 2 ≤ bandEdge 3) && decide (bandEdge 7 ≤ 105) && decide (bandEdge 0 < 0 + 2) &&
     !State.reset.dev.tripped && State.reset.dev.inReset && base.publishedOrder == [] && base.l2 == [] && decide (State.reset.clusters ≠ []) &&
     (let s : State := { base.modDev fun d => { d with tripped := true } with inputs := [.event .smbusStat] }
      s.dev.tripped && !s.inputs.contains (.event .coldReset)) &&
     (base.mem.wf && base.sluice.wf && (match step base with | .next _ => true | _ => false))) = true := by decide

/-! ### Further witnesses: late operations, waits, failed checks, steps of the units -/

/-- Late operations: OrderingAndResidencyWords and LoadAndStoreWords for words that complete as operations. -/
theorem test_hyp_late :
    ([Instr.acq { mod := 2 }, .rel { d := 4, mod := 6 }, .acqr { a := 2, b := 3 }].all fun i => meets (chosen { late := true } i id) i fun _ t => t.choice.late) &&
     meets (chosen { late := true } (.ld { d := 10, a := 8, wd := 2 }) addressed) (.ld { d := 10, a := 8, wd := 2 }) (fun x t =>
       allOk (ldLanes { d := 10, a := 8, wd := 2 } x t) && (t.loadSettle x.core (okAccs (ldLanes { d := 10, a := 8, wd := 2 } x t))).choice.late) &&
     meets (chosen { late := true } (.ldc { d := 10, a := 6, wd := 2 }) fun b => { b with params := 0x70000 }) (.ldc { d := 10, a := 6, wd := 2 })
       (fun x t => allOk (ldcLanes { d := 10, a := 6, wd := 2 } x t) && t.choice.late) &&
     meets (chosen { late := true } (.atom { d := 10, a := 8, b := 11, c := 27 }) fun b => { b with vregs := [vreg 8 0x50000] }) (.atom { d := 10, a := 8, b := 11, c := 27 })
       (fun x t => let f : RForm := { d := 10, a := 8, b := 11, c := 27 }
         allOk (atomLanes f x t) && !atomLocked t x f (okAccs (atomLanes f x t)) && (t.atomBefore x f (okAccs (atomLanes f x t))).choice.late) &&
     meets (chosen { late := true } (.red { a := 8, b := 11, c := 3 }) fun b => { b with vregs := [vreg 8 0x50000] }) (.red { a := 8, b := 11, c := 3 })
       (fun x t => let f : RForm := { a := 8, b := 11, c := 3 }
         allOk (atomLanes f x t) && !atomLocked t x f (okAccs (atomLanes f x t)) && (t.atomBefore x f (okAccs (atomLanes f x t))).choice.late) = true := by decide

/-- Poison that a load reads. -/
theorem test_hyp_load_poison :
    (meets (wordAt (.ld { d := 10, a := 8, wd := 2 }) addressed fun s => { s with memPoison := [0x50000 / 64] }) (.ld { d := 10, a := 8, wd := 2 }) (fun x t =>
       allOk (ldLanes { d := 10, a := 8, wd := 2 } x t) &&
       let seen := t.loadSettle x.core (okAccs (ldLanes { d := 10, a := 8, wd := 2 } x t))
       !seen.choice.late && !cleanBytes (ldLanes { d := 10, a := 8, wd := 2 } x t) (seen.loadBytes x.core x.slot 0)) &&
     meets (wordAt (.ldc { d := 10, a := 6, wd := 2 }) (fun b => { b with params := 0x70000 }) fun s => { s with memPoison := [0x70000 / 64] })
       (.ldc { d := 10, a := 6, wd := 2 }) (fun x t => allOk (ldcLanes { d := 10, a := 6, wd := 2 } x t) &&
         !t.choice.late && !cleanBytes (ldcLanes { d := 10, a := 6, wd := 2 } x t) fun a => a.locs.map (t.constByte x.core (x.at t).space)) &&
     meets (wordAt (.lds { d := 10, a := 6, wd := 2 }) id fun s => { s with felts := s.felts.map fun y => { y with scratchPoison := [0] } })
       (.lds { d := 10, a := 6, wd := 2 }) (fun x t => allOk (ldsLanes { d := 10, a := 6, wd := 2 } x t) &&
         !cleanBytes (ldsLanes { d := 10, a := 6, wd := 2 } x t) fun a => t.scratchBytes (x.at t).id.lnum (x.at t).id.felt a.ea.toNat 4)) = true := by decide

theorem test_hyp_store_waits :
    meets (chosen { late := true, noCoalesce := true } (.st { d := 10, a := 8, wd := 2 }) addressed nearlyFull) (.st { d := 10, a := 8, wd := 2 }) (fun x t =>
      allOk (stLanes { d := 10, a := 8, wd := 2 } x t) &&
      t.logWait x (storedBytes (okAccs (stLanes { d := 10, a := 8, wd := 2 } x t)) ((x.at t).storeBytes { d := 10, a := 8, wd := 2 }))) = true := by decide

/-- The premises of StoresStayInTheLog and of StepKeepsKeys on the state hold in the small machine. -/
theorem test_hyp_keys : State.KeysOk base ∧ 0 < base.cores.length ∧ ∃ t, step base = .next t := by
  refine ⟨?_, by decide, ?_⟩
  · unfold State.KeysOk; decide
  · exact ⟨_, rfl⟩

/-- A copy that reads 64 bytes of the felt's scratchpad from 0x400 on. -/
def copyReads (s : State) : State :=
  s.modCore 0 fun c => { c with copyq := [{ engineOp (.cpy { d := 30, a := 20, mod := 0x40 }) with params := [0x50000, 0x400, 64, 0] }] }

/-- Words that wait for a range that an operation has locked (R324). -/
theorem test_hyp_stalls :
    (meets (wordAt (.atom { d := 10, a := 8, b := 11 }) (fun b => { b with vregs := [vreg 8 0x43C] }) copyReads) (.atom { d := 10, a := 8, b := 11 }) (fun x t =>
       let f : RForm := { d := 10, a := 8, b := 11 }
       !nonRepro t x f && allOk (atomLanes f x t) && atomLocked t x f (okAccs (atomLanes f x t))) &&
     meets (wordAt (.red { a := 8, b := 11 }) (fun b => { b with vregs := [vreg 8 0x43C] }) copyReads) (.red { a := 8, b := 11 }) (fun x t =>
       let f : RForm := { a := 8, b := 11 }
       !nonRepro t x f && allOk (atomLanes f x t) && atomLocked t x f (okAccs (atomLanes f x t))) &&
     meets (wordAt (.lds { d := 10, a := 8, wd := 2 }) (fun b => { b with vregs := [vaddr 8 0x400] }) copyReads) (.lds { d := 10, a := 8, wd := 2 }) (fun x t =>
       allOk (ldsLanes { d := 10, a := 8, wd := 2 } x t) &&
       (t.core x.core).loadLocked x.slot (x.at t).id.lnum (x.at t).id.felt (accRanges (okAccs (ldsLanes { d := 10, a := 8, wd := 2 } x t)) 4)) &&
     meets (wordAt (.sts { d := 10, a := 8, wd := 2 }) (fun b => { b with vregs := [vaddr 8 0x400] }) copyReads) (.sts { d := 10, a := 8, wd := 2 }) (fun x t =>
       allOk (stsLanes { d := 10, a := 8, wd := 2 } x t) &&
       (t.core x.core).storeLocked (x.at t).id.lnum (x.at t).id.felt (accRanges (okAccs (stsLanes { d := 10, a := 8, wd := 2 } x t)) 4)) &&
     meets (wordAt (.aldSp { a := 4, b := 5, c := 6, mod := 4 }) (fun b => banked (sreg 5 0x400 (sreg 6 64 b))) copyReads) (.aldSp { a := 4, b := 5, c := 6, mod := 4 }) (fun x t =>
       spCheck (x.at t) (t.battScratch (x.at t)) 0 64 (some 0x400) == none && (t.core x.core).storeLocked (x.at t).id.lnum (x.at t).id.felt [(0x400, 64)]) &&
     meets (wordAt (.astSp { a := 4, b := 5, c := 6, mod := 4 }) (fun b => banked (sreg 5 0x400 (sreg 6 64 b))) copyReads) (.astSp { a := 4, b := 5, c := 6, mod := 4 }) (fun x t =>
       spCheck (x.at t) (t.battScratch (x.at t)) 0 64 (some 0x400) == none && (t.core x.core).loadLocked x.slot (x.at t).id.lnum (x.at t).id.felt [(0x400, 64)])) = true := by decide

/-- Felt barrier 0 as edited. -/
def barrierWith (g : Barrier → Barrier) (s : State) : State := { s with felts := s.felts.map fun y => { y with bars := y.bars.map g } }

/-- How a word's arrival ends: held, refused, or neither. -/
def arrivalAt (v : BitVec 10) (bytes : Int) (x : Iss) (t : State) : Nat :=
  if barDenied t (x.at t) v then 3 else match t.arriveAt x v bytes with | (.held, _) => 1 | (.refused, _) => 2 | _ => 0

/-- Further hypotheses of BarrierAndBankWords for barriers: arrivals that are held and that are refused, no member, a phase that has not turned. -/
theorem test_hyp_barrier_waits :
    ([Instr.barv { a := 0x200 }, .bars { a := 0x200 }, .bart { a := 0x200, b := 6, mod := 1 }].all fun i =>
      meets (wordAt i id (barrierWith fun y => { y with arrived := 1, count := 1 })) i (fun x t => arrivalAt 0x200 0 x t == 1) &&
      meets (wordAt i id (barrierWith fun y => { y with pend := 2 ^ 23 })) i (fun x t => arrivalAt 0x200 0 x t == 2) &&
      meets (wordAt i fun b => { b with id := .batt 0 0 9 }) i (fun x t => arrivalAt 0x200 0 x t == 3)) &&
    meetsAt (.barw { a := 0x200, b := 5 }) id (fun x t => !barMissing t (x.at t) 0x200 && (t.bar ((x.at t).namedBar 0x200)).phase == ((x.at t).s 5).getLsbD 0) &&
    meetsAt (.barw { a := 0x22F, b := 5 }) id (fun x t => barMissing t (x.at t) 0x22F) = true := by decide

/-- For banks: none free, a poisoned word, a .SP form or AZERO that is not aligned or out of range. -/
theorem test_hyp_bank_failures :
    (meets (wordAt (.aballoc {}) id fun s => s.modCore 0 fun c => { c with bankQueue := [7] }) (.aballoc {}) (fun x t =>
       (x.at t).banks == [] && (t.core x.core).bankQueue != []) &&
     meetsAt (.ald { d := 8, a := 4 }) (fun b => { b with banks := [{ num := 0, poison := [0] }] }) (fun x t =>
       aldCauses { d := 8, a := 4 } (x.at t) x.active == [] && (lanesOf x.active).any fun l => ((x.at t).bankBad (aldAddr { d := 8, a := 4 } (x.at t) l) 4).isSome) &&
     meetsAt (.aldSp { a := 4, b := 5, c := 6, mod := 4 }) (fun b => banked (sreg 6 62 b)) (fun x t =>
       spCheck (x.at t) (t.battScratch (x.at t)) 0 62 (some 0) == some (cALIGN, 62)) &&
     meetsAt (.astSp { a := 4, b := 5, c := 6, mod := 4 }) (sreg 6 64) (fun x t =>
       (spCheck (x.at t) (t.battScratch (x.at t)) 0 64 (some 0)).map (·.1) == some cRANGE) &&
     meetsAt (.azero { a := 4, c := 6 }) (sreg 6 64) (fun x t => (spCheck (x.at t) 0 0 64 none).map (·.1) == some cRANGE)) = true := by decide

/-- The first check of a copy word that fails: 1 the barrier, 2 alignment, 3 range, 4 pages. -/
def copyStops (kind : Nat) (f : RForm) (x : Iss) (t : State) : Nat :=
  let g := copyGroup kind f.mod ((x.at t).copyParams kind f)
  let ps := g.pieces x.active ((x.at t).copyVec kind f)
  if g.bad then 0 else if bit1 f.c 9 && barMissing t (x.at t) f.c then 1 else if copyMisaligned g ps x.active != [] then 2
  else if copyRange g ps (t.battScratch (x.at t)) x.active != [] then 3 else if (t.enginePages x.core (x.at t).space (copyGlobals g ps)).2 != [] then 4 else 5

/-- Hypotheses of EngineWords for the traps of MXI's pages and of the copy words. -/
theorem test_hyp_copy_failures :
    (meets (wordAt (.mxi { d := 10, a := 4, b := 5 }) matrixBatt fun s => { matrixPad s with
         felts := (matrixPad s).felts.map fun y => { y with scratch := (y.scratch.write 0x103 [1]).write 0x110 (bytesOf 8 0x100000) } })
       (.mxi { d := 10, a := 4, b := 5 }) (fun x t => match t.mxiChecks x { d := 10, a := 4, b := 5 } with | .inr (w, d) => (t.mxiPages x w d).2 != [] | .inl _ => false) &&
     meetsAt (.cpy { d := 30, a := 20, c := 0x22F }) (copyRegs [0x50000, 0x50400, 64, 0]) (fun x t => copyStops 0 { d := 30, a := 20, c := 0x22F } x t == 1) &&
     meetsAt (.cpy { d := 30, a := 20, mod := 1 }) (copyRegs [0x50000, 0x50402, 64, 0]) (fun x t => copyStops 0 { d := 30, a := 20, mod := 1 } x t == 2) &&
     meetsAt (.cpy { d := 30, a := 20, mod := 0x20 }) (copyRegs [0x100000, 0x50400, 64, 0]) (fun x t => copyStops 0 { d := 30, a := 20, mod := 0x20 } x t == 3) &&
     meetsAt (.cpy { d := 30, a := 20 }) (copyRegs [0x50000, 0x100000, 64, 0]) (fun x t => copyStops 0 { d := 30, a := 20 } x t == 4)) = true := by decide

/-- How a descriptor's checks come out: 1 alignment, 2 pages, 3 poison, 4 malformed, 0 none. -/
def lookAt (al n : Nat) (a : DWord) (good : List Byte → Bool) (x : Iss) (t : State) : Nat :=
  if a.toNat % al != 0 then 1 else match t.checkObject x.core (x.at t).space 0 a n fun _ _ => 0 with
  | .bad .. => 2
  | .ok acc => if (t.loadBytes x.core x.slot 0 acc).any (·.2) then 3 else if good ((t.loadBytes x.core x.slot 0 acc).map (·.1)) then 0 else 4

/-- Hypotheses for the descriptors of TXSIG, MLCLR and the list words. -/
theorem test_hyp_descriptors :
    (let tex (x : Iss) (t : State) : Nat := lookAt 16 48 ((x.at t).s 4) (fun bs => (texDesc bs).isSome) x t
     let target (x : Iss) (t : State) : Nat := lookAt 64 128 ((x.at t).s 6) (fun bs => ((targetDesc ((x.at t).s 6) bs).map (·.layered)).getD false) x t
     ([(0x50108, 1), (0x100000, 2), (0x50000, 4)].all fun p =>
       meets (wordAt (.txsig { d := 9, a := 4 }) (sreg 4 p.1) descriptors) (.txsig { d := 9, a := 4 }) fun x t => tex x t == p.2) &&
     meets (wordAt (.txsig { d := 9, a := 4 }) (sreg 4 0x50100) fun s => { descriptors s with memPoison := [0x50100 / 64] }) (.txsig { d := 9, a := 4 })
       (fun x t => tex x t == 3) &&
     [Instr.mlclr { d := 9, a := 6 }, .mlres { d := 32, b := 6 }, .mlrd { d := 36, b := 6 }].all fun i =>
       ([(0x50220, 1), (0x100000, 2), (0x50000, 4)].all fun p => meets (wordAt i (sreg 6 p.1) descriptors) i fun x t => target x t == p.2) &&
       meets (wordAt i (sreg 6 0x50200) fun s => { descriptors s with memPoison := [0x50240 / 64] }) i fun x t => target x t == 3) = true := by decide

/-- Hypotheses for TXSIG's barrier, its field within its texture, and its pages; for MLCLR's pages. -/
theorem test_hyp_table_failures :
    (let found (x : Iss) (t : State) : Option TexDesc := match t.textureAt x ((x.at t).s 4) with | .inr d => some d | .inl _ => none
     let at' (a base : Nat) : State → State := poke [(a, [0, 0, 0, 1] ++ bytesOf 2 4 ++ bytesOf 2 4 ++ bytesOf 8 base)]
     meets (wordAt (.txsig { d := 9, a := 4, c := 0x22F }) (sreg 4 0x50100) descriptors) (.txsig { d := 9, a := 4, c := 0x22F })
       (fun x t => (found x t).isSome && barMissing t (x.at t) 0x22F) &&
     meets (wordAt (.txsig { d := 9, a := 4 }) (sreg 4 0x50100) (at' 0x50100 0x50100)) (.txsig { d := 9, a := 4 }) (fun x t => match found x t with
       | some d => shareByte (d.base.toNat, d.levelOffset d.levels) (((x.at t).s 4).toNat + 32, 16) | none => false) &&
     meets (wordAt (.txsig { d := 9, a := 4 }) (sreg 4 0x50100) (at' 0x50100 0x100000)) (.txsig { d := 9, a := 4 }) (fun x t => match found x t with
       | some d => (t.enginePages x.core (x.at t).space [(d.base.toNat, d.levelOffset d.levels, fun _ => false)]).2 != [] | none => false) &&
     meets (wordAt (.txsig { d := 9, a := 4 }) (sreg 4 0x70100) (at' 0x70100 0x50000)) (.txsig { d := 9, a := 4 }) (fun x t => match found x t with
       | some d => (t.enginePages x.core (x.at t).space [(d.base.toNat, d.levelOffset d.levels, fun _ => false)]).2 == [] &&
           (t.enginePages x.core (x.at t).space [(0x70120, 16, fun pte => writeCause pte != 0)]).2 != [] | none => false) &&
     meets (wordAt (.mlclr { d := 9, a := 6 }) (sreg 6 0x50200) fun s => poke [(0x50248, bytesOf 8 0x52000), (0x50250, bytesOf 8 0x100000)] (descriptors s)) (.mlclr { d := 9, a := 6 })
       (fun x t => match t.targetAt x 0x50200 3 with
         | .inr d => (t.enginePages x.core (x.at t).space [(d.heads.toNat, 4 * d.width * d.height, fun pte => writeCause pte != 0)]).2 != []
         | .inl _ => false)) = true := by decide

/-- A pure-region table in a page that nothing maps. -/
def badPures (s : State) : State := { s with launches := s.launches.map fun l => { l with pures := 1, recd := { l.recd with puretab := 0x100000 } } }

/-- The launch asks for traps on audits (AUDITTRAP). -/
def auditTraps (s : State) : State := { s with launches := s.launches.map fun l => { l with recd := { l.recd with flags := 8 } } }

/-- Further hypotheses of SignatureAndPeatWords: an audit that fails under AUDITTRAP, and a table of pure regions that cannot be read. -/
theorem test_hyp_peat_failures :
    (let key : PeatKey := { space := 0, f1 := 0, f2 := 0, ident := 0, mix := 0, len := 0, kind := 0 }
     meets (wordAt (.mfill { a := 8, b := 16, c := 12 }) (fun b => { b with audits := [{ quad := false, idx := 0, key := key, payload := [1] }] }) fun s => auditTraps (pureTable s))
       (.mfill { a := 8, b := 16, c := 12 }) (fun x t => match t.regionAt (x.at t) x.pc with
         | .ok reg => ((memoUnits false x.active).foldl (fillUnit (x.at t) { a := 8, b := 16, c := 12 } x.core x.slot (Option.map PureRegion.ident reg))
             { audits := (x.at t).audits, store := t.cluster (clusterOf x.core) }).fails != 0 && (t.recOf (x.at t)).flag 3
         | _ => false) &&
     [Instr.mlook { d := 16, a := 8, b := 1, c := 12 }, .mfill { a := 8, b := 16, c := 12 }].all fun i =>
       meets (wordAt i id badPures) i (fun x t => match t.regionAt (x.at t) x.pc with | .bad .. => true | _ => false)) = true := by decide

/-- The late operation, the wait and the failed checks of the words of the frame pipeline. -/
theorem test_hyp_frame_failures :
    (meets (chosen { late := true, noCoalesce := true } (.vout { a := 20, c := 3 }) id fun s => nearlyFull (passOf .vertex s)) (.vout { a := 20, c := 3 }) (fun x t =>
       match t.vertexDraw (x.at t) with
       | some d => let rs := (lanesOf x.active).map (t.voutLane x { a := 20, c := 3 } d)
         allOk rs && t.logWait x (storedBytes (okAccs rs) ((x.at t).voutData { a := 20, c := 3 }))
       | none => false) &&
     meets (wordAt (.vout { a := 20, c := 3 }) id fun s => passOf .vertex (s.modCtx 0 fun c => { c with root := 0x20000 })) (.vout { a := 20, c := 3 }) (fun x t =>
       match t.vertexDraw (x.at t) with
       | some d => allReplayable ((lanesOf x.active).map (t.voutLane x { a := 20, c := 3 } d))
       | none => false)) = true := by decide

/-- The pass with its draw as edited. -/
def drawWith (g : DrawInfo → DrawInfo) (s : State) : State :=
  let s := passOf .pixel s
  { s with launches := s.launches.map fun l => { l with pass := l.pass.map fun p => { p with infos := p.infos.map g } } }

/-- What a texture word finds: whether its lanes pass, whether all fail replayably, whether a texel is poisoned, whether it is late. -/
def texFinds (f : RForm) (x : Iss) (t : State) : Option (Bool × Bool × Bool × Bool) :=
  match t.textureOf x f with
  | .inl _ => none
  | .inr d =>
    let looks := t.texLooks x d ((lanesOf x.active).map (texLane f (x.at t) d))
    let seen := t.loadSettle x.core (texAccs looks)
    some (allOk (looks.map texReport), allReplayable (looks.map texReport), texBad (seen.texSeen x looks) != [], (seen.texFills x (texAccs looks)).choice.late)

/-- The same for a list word. -/
def listFinds (f : RForm) (x : Iss) (t : State) : Option (Bool × Bool × Bool × Bool) :=
  match t.targetAt x ((x.at t).s f.b.toNat) 0 with
  | .inl _ => none
  | .inr d =>
    let walks := t.listWalks x f d
    some (allOk (walks.map walkReport), allReplayable (walks.map walkReport), walkBad walks != [], (t.listFills x (walks.map (·.2.1)).flatten).choice.late)

/-- Further hypotheses of VertexPixelAndTextureWords: an output that does not translate; no draw, no such texture; late words, poisoned
texels and nodes, and ones that do not translate. -/
theorem test_hyp_texture_failures :
    (let f : RForm := { g := .pred 0 false, d := 24, a := 20, mod := 0x40 }
     let one (b : Batt) : Batt := { b with preds := b.preds.set 0 1 }
     meets (wordAt (.ipa { d := 20, a := 2, mod := 4 }) pixelBatt (drawWith fun d => { d with vcache := 0x100000 })) (.ipa { d := 20, a := 2, mod := 4 }) (fun x t =>
       match t.drawOf (x.at t), (x.at t).pix with
       | some d, some i => (x.at t).kind == .pixel && (t.triWord (x.at t).space d i.tri 3).isNone
       | _, _ => false) &&
     meetsAt (.tex f) one (fun x t => (t.drawOf (x.at t)).isNone) &&
     meets (wordAt (.tex { f with mod := 0x41 }) one (passOf .pixel)) (.tex { f with mod := 0x41 }) (fun x t =>
       match t.drawOf (x.at t) with | some d => (d.texs[1]?).isNone | none => false) &&
     meets (chosen { late := true } (.tex f) one (passOf .pixel)) (.tex f) (fun x t => texFinds f x t == some (true, false, false, true)) &&
     meets (wordAt (.tex f) one fun s => { passOf .pixel s with memPoison := [0x70000 / 64] }) (.tex f) (fun x t => texFinds f x t == some (true, false, true, false)) &&
     meets (wordAt (.tex f) one (drawWith fun d => { d with texs := [{ texture with base := 0x100000 }] })) (.tex f)
       (fun x t => (texFinds f x t).map (fun r => (r.1, r.2.1)) == some (false, true))) = true := by decide

theorem test_hyp_list_failures :
    (let f : RForm := { g := .pred 0 false, d := 32, b := 6 }
     let one (b : Batt) : Batt := sreg 6 0x50200 { b with preds := b.preds.set 0 1 }
     meets (chosen { late := true } (.mlres f) one descriptors) (.mlres f) (fun x t => listFinds f x t == some (true, false, false, true)) &&
     meets (wordAt (.mlres f) one fun s => { descriptors s with memPoison := [0x51000 / 64, 0x52000 / 64] }) (.mlres f)
       (fun x t => listFinds f x t == some (true, false, true, false)) &&
     meets (wordAt (.mlres f) one fun s => poke [(0x50248, bytesOf 8 0x100000), (0x50250, bytesOf 8 0x100000)] (descriptors s)) (.mlres f)
       (fun x t => (listFinds f x t).map (fun r => (r.1, r.2.1)) == some (false, true))) = true := by decide

/-- Further hypotheses of DispatchAndRetirementSteps: a placement after the starts, a saved launch whose block cannot be read, nothing to
place; a batt whose rest cannot be told; a context without a base with and without a started launch, and one with an overfull barrier. -/
theorem test_hyp_dispatch_cycle :
    ((let u := ({ base with launches := base.launches.map fun l => { l with next := 0 } } : State).startLaunches
      match u.dispatchPick with
      | some (l, _, _) => (match u.claimFirst l with | .ok t => (t.launch? l.lnum).isSome | _ => false)
      | none => false) &&
     (let u := ({ base with launches := base.launches.map fun l => { l with next := 0, claimed := false, savedBlock := some 0x100000 } } : State).startLaunches
      match u.dispatchPick with
      | some (l, _, _) => (match u.claimFirst l with | .bad .. => true | _ => false)
      | none => false) &&
     State.reset.startLaunches.dispatchPick.isNone &&
     (let s := base.modCtx 0 fun c => { c with ctxst := 1 }
      let s : State := { s with launches := s.launches.map fun l => { l with points := 1, recd := { l.recd with pretab := 0x100000 } } }
      match s.batt? 0 1 with | some b => b.space == 0 && b.ops == [] && (match s.atRest b with | .ok _ => false | .bad .. => true) | none => false)) = true := by decide

/-- Further hypotheses of preempt completion: no base, a barrier that holds too many REDs, a block of an earlier save that is poisoned. -/
theorem test_hyp_save_failures :
    ((let s := { saving 0x50000 with memPoison := [0x58000 / 64] }
      let s : State := { s with launches := s.launches.map fun l => { l with killed := false, claimed := false, savedBlock := some 0x58000 } }
      (s.ctx 0).saveBase.isSome && (s.overHeldRef 0).isNone && (s.keptFails 0).isSome && s.launches.all fun l => l.killed || l.passAtRest) &&
     (let s := (saving 0x50000).modCtx 0 fun c => { c with saveBase := none }
      (s.ctx 0).saveBase.isNone && (s.startedLaunches 0).isEmpty && (s.overHeldRef 0).isNone) &&
     (let s := (saving 0x50000).modCtx 0 fun c => { c with saveBase := none }
      let s : State := { s with launches := s.launches.map fun l => { l with killed := false, started := true, claimed := true } }
      !(s.startedLaunches 0).isEmpty && (s.overHeldRef 0).isNone && s.launches.all fun l => l.killed || l.passAtRest) &&
     (let s := saving 0x50000
      let s : State := { s with launches := s.launches.map fun l => { l with killed := false, started := true, claimed := true, lbars := [{ count := 0, held := List.replicate 128 .red }] } }
      (s.overHeldRef 0).isSome)) = true := by decide

/-- Further hypotheses of OperationReturns and PublicationAndFullingSteps: a poisoned payload; a store that finds no room in its log. -/
theorem test_hyp_returns_and_logs :
    ((let a (x : DWord) : LaneAcc := { lane := 0, ea := x, locs := [] }
      [([], true), ([0x50004], false)].all fun p =>
        let s := pending (.puts { a := 4, b := 5, c := 6 }) fun o => { o with accs := [a 0x50000, a 0x60000], dvals := p.1 }
        match s.opAt 0 1 7 with
        | some o => o.dvals.isEmpty == p.2 && ((s.battAt 0 1).ops.find? fun x => match x.instr with | .puts _ => true | _ => false) == some o
        | none => false) &&
     (let s := chosen { noCoalesce := true } (.st { d := 10, a := 8, wd := 2 }) addressed nearlyFull
      s.logStalls 0 && s.batts.any fun b => b.core == 0 && s.storeStalls b) && !base.logStalls 0) = true := by decide

/-- Further hypotheses of WaitAndEngineSteps: the reads of a waiting WAITA, grants of banks new and restored, a hit of a memoised operation,
a copy that a lock holds up and one that subtracts from a barrier. -/
theorem test_hyp_engine_steps :
    (let f : RForm := { d := 6, a := 2, b := 3, mod := 0x20 }
     ([(0, true), (1, false)].all fun p =>
       let s := withBatt fun b => { sreg 2 0x50000 (sreg 3 p.1 b) with wait := .watch true (.waita f) }
       match s.waitaCheck 0 (s.battAt 0 1).space f ((s.battAt 0 1).s 2) with
       | .ok a => (s.waitaTry 0 1 f a == .done 0) == p.2 && (s.waitaTry 0 1 f a == .fail) == !p.2 && (s.battAt 0 1).wait == .watch true (.waita f)
       | _ => false) &&
     ([(true, Waiting.none), (false, .banks 16)].all fun p =>
       let s := (withBatt fun b => { b with claim := p.1, wait := p.2 }).modCore 0 fun c => { c with bankQueue := [1] }
       (s.core 0).bankQueue == [1] && (match s.batt? 0 1 with | some b => b.claim == p.1 && b.wait == p.2 | none => false)) &&
     (let o : EngineOp := { fetchedOp with params := [0x0000002000010118, 0x0001000100000000, 0x400, 0x600, 0x800, 0x840, 0x0000002000000020, 7] }
      o.ready && o.prm.memo && !o.looked && o.clean && !fetchedOp.begun &&
      (let q : EngineOp := { o with looked := true, begun := true, step := o.passes }
       q.prm.memo && q.begun && !q.mismatch && !q.poisonIn && q.clean && q.audit.isNone && decide (q.passes ≤ q.step))) &&
     (let o : EngineOp := { engineOp (.cpy { d := 30, a := 20, mod := 0x20 }) with params := [0x400, 0x50000, 64, 0], id := 1 }
      let e : EngineOp := { engineOp (.cpy { d := 30, a := 20, mod := 0x40 }) with params := [0x50000, 0x400, 64, 0] }
      ((base.modCore 0 fun c => { c with mxiq := [e], copyq := [o] }).core 0).opBlocked o && bit1 (0x200 : BitVec 10) 9)) = true := by decide

/-- Further hypotheses of WindowSteps: a slot with no record, and a record whose batt has gone; of ErrorsAndResets: no batt on a core, one
context's batts there; of StepKeepsMemory and HostAccesses: room in every slice. -/
theorem test_hyp_device_failures :
    (((base.cluster 0).faults.getD 0 none).isNone &&
     (base.faultedBatt faultRecord).isNone &&
     (base.batts.all fun b => b.core != 5) && (base.batts.any fun b => b.core == 0 && b.id != .ctl && b.space == 0) &&
     decide (base.l2.length + 8 ≤ sliceFrames)) = true := by decide

/-- The pass with its target's buffers in page 5 and three vertices in its cache that cover half the tile. -/
def drawnPass (f : Pass → Pass) (s0 : State → State := id) : State :=
  let v (x y : Nat) : List Byte := bytesOf 4 x ++ bytesOf 4 y ++ bytesOf 4 0 ++ bytesOf 4 0x3F800000
  s0 (poke [(0x50040, v 0xBF800000 0xBF800000), (0x500C0, v 0x3F800000 0xBF800000), (0x50140, v 0xBF800000 0x3F800000)]
    (passWith fun p => f { p with paramBase := 0x58000, paramSize := 65536, draws := 0x50600, tiles := [{}],
                                  target := { p.target with addr := 0x50800, colour := 0x52000, depths := 0x54000, heads := 0x52000, pool := 0x51000, resolve := 0x56000 } }))

/-- A triangle that is about to be binned: does `chk` hold of the draw, its window coordinates and the pass? -/
def binned (size : Nat) (s0 : State → State) (chk : State → Launch → Pass → DrawInfo → List Int → Bool) : Bool :=
  let s := drawnPass (fun p => { p with stage := .binning, paramSize := size, target := { p.target with width := 1, height := 1 } }) s0
  match s.openPass 0 with
  | none => false
  | some (l, p) => match s.beginBinning l p with
    | none => false
    | some (t, q) => match t.triVerts l.recd.ctx (q.infos.getD q.draw emptyDraw) q.tri with
      | none => false
      | some vs => match setupTri q.target (vs.map fun (v : List Word) => v.take 4) with
        | none => false
        | some (x, _) => chk t l q (q.infos.getD q.draw emptyDraw) x

/-- New chunks that a triangle needs. -/
def newChunks (q : Pass) (x : List Int) : Nat := ((boxTiles q.target x).filter fun i => (q.tiles.getD i {}).list.length % 7 == 0).length

/-- Further hypotheses of PassSteps: the header of a vertex cache is read and written; a triangle that is culled, one that finds no chunk, and
one that is binned. -/
theorem test_hyp_binning :
    (match (drawnPass id).openPass 0 with
     | some (l, _) => ((drawnPass id).pipeRead l.recd.ctx 0x50000 64).isSome && ((drawnPass id).pipeWrite l.recd.ctx 0x50018 [0]).isSome
     | none => false) = true ∧
    binned 1 (poke [(0x50040, zeroBytes 12), (0x500C0, zeroBytes 12), (0x50140, zeroBytes 12)]) (fun t l q d x =>
      culledTri d.cullBack x && (t.savePass l ({ q with culled := q.culled + 1 }.nextTri d)).isSome) = true := ⟨by decide +kernel, by decide +kernel⟩

theorem test_hyp_binned :
    binned 0 id (fun _ _ q d x => !culledTri d.cullBack x && decide (q.limit < q.chunks + newChunks q x)) = true ∧
    binned 1 id (fun t l q d x => !culledTri d.cullBack x && decide (q.chunks + newChunks q x ≤ q.limit) &&
      (t.savePass l (q.nextTri d)).isSome) = true := ⟨by decide +kernel, by decide +kernel⟩

/-- For tiles: one that is begun, one whose next entry is formed, one that ends in a flush and one at the pass's end; for fragments: a plain
target and a layered one. -/
theorem test_hyp_tiles :
    (let s := drawnPass fun p => { p with stage := .rendering, target := { p.target with width := 1, height := 1 } }
     match s.livePass 0 with
     | none => false
     | some (l, p) =>
       let w := clearWork p.target 0 0
       (s.startTile l p 0).isSome && s.skips l p 0 == some false && (s.triVerts l.recd.ctx (p.infos.getD 0 emptyDraw) 0).isSome &&
       (match s.pipeWrites l.recd.ctx (storeRows p.target w) with
        | some t => (match t.saveTile l { p with work := [] } 0 { stored := true } with | some (u, q) => (u.savePass l q.endFlush).isSome | none => false)
        | none => false) &&
       (s.pipeWrites l.recd.ctx (storeRows p.target w ++ resolveRows p.target w)).isSome &&
       (match s.pipeRead l.recd.ctx (p.target.headAddr 3 5) 4 with
        | some h => (s.pixelNodes l.recd.ctx p.target (numOf h / 2 ^ 28) (numOf h % 2 ^ 28)).isSome
        | none => false)) = true := by decide

/-- For a merged fragment: a tile of one sample a pixel. -/
theorem test_hyp_merge :
    (let w : TileWork := { tile := 0, depth := List.replicate 1024 0, colour := List.replicate 1024 [], upto := 0 }
     w.depth.length == 1024 * 1 && w.colour.length == 1024 * 1 && (samplePos 1).length == 1 && Nat.testBit fragment.cover 0 && (samplePos 1)[0]?.isSome) = true := by
  decide

/-! ### Worked examples of the manual, each one step of the small machine -/

/-- v4 in lane 31 and FPSR after one step that runs the word with v1, v2 and v3 as given in every lane. -/
def runs (i : Instr) (a b c : Word) : Option (Word × Word) :=
  match step (wordAt i fun y => { y with vregs := [vreg 1 a, vreg 2 b, vreg 3 c] }) with
  | .next u => some ((u.battAt 0 1).v 4 31, (u.battAt 0 1).fpsr)
  | _ => none

/-- The boundary results of chapter 7 (rules R172 to R180). -/
theorem test_boundary_integer :
    ([(Instr.iadd { d := 4, a := 1, b := 2, mod := 0x80 }, 0x7FFFFFF0, 0x20, 0x80000010), (.iadd { d := 4, a := 1, b := 2, mod := 0xC0 }, 0x7FFFFFF0, 0x20, 0x7FFFFFFF),
      (.isub { d := 4, a := 1, b := 2, mod := 0x40 }, 5, 7, 0), (.imulhi { d := 4, a := 1, b := 2 }, 0xFFFFFFFF, 0xFFFFFFFF, 0xFFFFFFFE),
      (.imulhi { d := 4, a := 1, b := 2, mod := 0x80 }, 0xFFFFFFFF, 0xFFFFFFFF, 0), (.idiv { d := 4, a := 1, b := 2, mod := 0x80 }, 0x80000000, 0xFFFFFFFF, 0x80000000),
      (.idiv { d := 4, a := 1, b := 2, mod := 0xC0 }, 0xFFFFFFF9, 0, 0x80000000), (.irem { d := 4, a := 1, b := 2, mod := 0x80 }, 0xFFFFFFF9, 2, 0xFFFFFFFF),
      (.ineg { d := 4, a := 1, mod := 0xC0 }, 0x80000000, 0, 0x7FFFFFFF), (.sar { d := 4, a := 1, b := 2 }, 0x80000000, 40, 0xFFFFFFFF),
      (.shl { d := 4, a := 1, b := 2 }, 0x80000000, 40, 0), (.rotl { d := 4, a := 1, b := 2 }, 0x80000001, 33, 3),
      (.bfe { d := 4, a := 1, b := 2, mod := 0x80 }, 0xABC, 0x804, 0xFFFFFFAB), (.bfe { d := 4, a := 1, b := 2, mod := 0x80 }, 0x80000000, 0x2004, 0x08000000)].all
      fun p => runs p.1 p.2.1 p.2.2.1 0 == some (p.2.2.2, 0)) = true := by decide

/-- The boundary outcomes of chapter 8 (rules R187 to R204), with the flags that each raises. -/
theorem test_boundary_floating :
    ([(Instr.fadd { d := 4, a := 1, b := 2, mod := 0x60 }, 0x3F800000, 0xBF800000, 0, 0x80000000, 0), (.fadd { d := 4, a := 1, b := 2 }, 0x3F800000, 0xBF800000, 0, 0, 0),
      (.ffma { d := 4, a := 1, b := 2, c := 3 }, 0x7F800000, 0, 0x7FC00000, 0x7FC00000, 1), (.fdiv { d := 4, a := 1, b := 2 }, 0x3F800000, 0x80000000, 0, 0xFF800000, 2),
      (.fsqrt { d := 4, a := 1 }, 0x80000000, 0, 0, 0x80000000, 0), (.fmin { d := 4, a := 1, b := 2 }, 0x7FC00000, 0x3F800000, 0, 0x3F800000, 0),
      (.fmin { d := 4, a := 1, b := 2, mod := 1 }, 0x7FC00000, 0x3F800000, 0, 0x7FC00000, 0), (.fmax { d := 4, a := 1, b := 2 }, 0x80000000, 0, 0, 0, 0)].all
      fun p => runs p.1 p.2.1 p.2.2.1 p.2.2.2.1 == some (p.2.2.2.2.1, p.2.2.2.2.2)) = true := by decide

/-- FRCPA of 3.0 and FSINA of 0.5 and -3.0 (R196); the LRED tree of 2^24, 1, 1 and -2^24 over lanes 0 to 3 (R54, R213). -/
theorem test_approximations_and_tree :
    (runs (.frcpa { d := 4, a := 1 }) 0x40400000 0 0 == some (0x3EAAAB00, 16) && runs (.fsina { d := 4, a := 1 }) 0x3F000000 0 0 == some (0x3F800000, 0) &&
     runs (.fsina { d := 4, a := 1 }) 0xC0400000 0 0 == some (0x80000000, 0) &&
     (lredTree f32 0 ([some 0x4B800000, some 0x3F800000, some 0x3F800000, some 0xCB800000] ++ List.replicate 28 none)).bits == 0x3F800000) = true := by decide

/-- R205, R206: 5.0, -0.1, 0.02 and 7.99 as one MX block. -/
theorem test_block_quantisation :
    (let q := qmxBlock ([0x40A00000, 0xBDCCCCCD, 0x3CA3D70A, 0x40FFAE14].map fun x => decodeF f32 x)
     q.1 == 0x81 && q.2.map (·.bits) == [0x50, 0xFE, 0, 0x7F]) = true := by decide

/-- R234, R235: homes of two addresses. -/
theorem test_homes :
    ((locOf 0x1234567800 false).home == 59 && (locOf 0x1234567B00 false).home == 56 && (locOf 0x1234567B00 true).home == 59) = true := by decide

/-- The adds of lanes 0 to 3 to a location that holds 10 (R282): 10, 11, 13, 16, and 20 at the end. -/
theorem test_atomic_order :
    (let s := wordAt (.atom { g := .pred 0 false, d := 4, a := 8, b := 11, c := 3 })
       (fun b => { b with preds := b.preds.set 0 15, vregs := [{ num := 11, lanes := [1, 2, 3, 4] ++ List.replicate 28 0 }, vreg 8 0x50000] }) (poke [(0x50000, [10])])
     match step s with
     | .next u => [0, 1, 2, 3].map ((u.battAt 0 1).v 4) == [10, 11, 13, 16] && (u.homeByte (locOf 0x50000 false)).1 == 20
     | _ => false) = true := by decide

/-- Quantised values of tolerance classes (R342, R343). -/
theorem test_tolerance_classes :
    ([(0x3F800001, 2, 0x3F800000), (0x3F800080, 2, 0x3F800000), (0x3F800180, 2, 0x3F800200), (0x3F800100, 2, 0x3F800100), (0x80000000, 2, 0),
      (0x7FA00000, 3, 0x7FC00000), (0x40490FDB, 6, 0x40480000), (0x12345678, 7, 0x12345600)].all fun p => sigQuant p.2.1 p.1 == p.2.2) = true := by decide

/-- The governor's example (R430): four periods from step 10 with A = 60,000, in band 4 and, in the last, band 5. -/
theorem test_governor_example :
    (let run (used credit band : Nat) (s : State) : State :=
       match step { s.modCluster 0 fun c => { c with power := { c.power with credit := credit, tband := band, ticks := 128 } } with inputs := [.event (.governorPeriod 0 used 63)] } with
       | .next u => u
       | _ => s
     let s0 := base.modCluster 0 fun c => { c with power := { c.power with a := 60000 } }
     let s1 := run 9000 1280 4 s0
     let s2 := run 8000 4096 4 s1
     let s3 := run 12000 0 4 s2
     let s4 := run 12000 0 5 s3
     [s1, s2, s3, s4].map (fun s => ((s.cluster 0).power.a, (s.cluster 0).power.nextStep)) == [(62520, 10), (68856, 11), (67096, 11), (65336, 10)]) = true := by decide

/-- The walk of R412's example. -/
theorem test_walk_example :
    (let s := poke [(0x10000 + 8 * 72, bytesOf 8 0x20001), (0x20000 + 8 * 1674, bytesOf 8 0x30001), (0x30000 + 8 * 1656, bytesOf 8 0x0000001234560083)] base
     match s.walk 0 0x0000123456789ABC with | .ok loc _ big => loc.pa == 0x1234569ABC && !big | _ => false) = true := by decide

end Sys2Proof.Tests
end

section
/-! What reading a core, a quarter or a cluster gives after an update of the state. -/

namespace Sys2Proof.Machine

/-! ### Reading a cluster after an update -/

/-- A change at entry `n` depends on what the function makes of that entry alone. -/
theorem modAt_congr {α : Type} (l : List α) (n : Nat) (d : α) {f g : α → α} (h : f (l.getD n d) = g (l.getD n d)) :
    modAt l n f = modAt l n g := by
  induction l generalizing n with
  | nil => rfl
  | cons x t ih =>
    cases n with
    | zero => simpa [modAt] using h
    | succ n => simpa [modAt] using ih n h

theorem modAt_id {α : Type} (l : List α) (n : Nat) : modAt l n id = l := by
  induction l generalizing n with
  | nil => rfl
  | cons x t ih => cases n <;> simp [modAt, ih]

theorem State.modPower_congr (s : State) (k : Nat) {f g : Power → Power} (h : f (s.cluster k).power = g (s.cluster k).power) :
    s.modPower k f = s.modPower k g := by
  have same := modAt_congr s.clusters k {} (f := fun c => { c with power := f c.power }) (g := fun c => { c with power := g c.power })
    (congrArg (fun p => ({ s.cluster k with power := p } : Cluster)) h)
  simp only [State.modPower, State.modCluster, same]

theorem State.modPower_same (s : State) (k : Nat) {f : Power → Power} (h : f (s.cluster k).power = (s.cluster k).power) :
    s.modPower k f = s := by
  rw [State.modPower_congr s k (g := id) h]
  show ({ s with clusters := modAt s.clusters k id } : State) = s
  rw [modAt_id]

theorem getD_map_lt {α : Type} {l : List α} {k : Nat} (d : α) (f : α → α) (h : k < l.length) : (l.map f).getD k d = f (l.getD k d) := by
  simp [List.getD_eq_getElem?_getD, h]

theorem getD_mapIdx_lt {α : Type} {l : List α} {k : Nat} (d : α) (f : Nat → α → α) (h : k < l.length) :
    (l.mapIdx f).getD k d = f k (l.getD k d) := by
  simp [List.getD_eq_getElem?_getD, h]

/-! ### Reading a core after an update -/

theorem State.core_modCore {s : State} {c : Nat} (f : CoreSt → CoreSt) (h : c < s.cores.length) : (s.modCore c f).core c = f (s.core c) := by
  simp [State.core, State.modCore, List.getD_eq_getElem?_getD, getElem_modAt, h]

/-- Where an update of every core leaves an empty core as it is, any core reads as updated. -/
theorem State.core_of_map {s t : State} {f : CoreSt → CoreSt} (ht : t.cores = s.cores.map f) (h : f {} = {}) (c : Nat) :
    t.core c = f (s.core c) := by
  simp only [State.core, List.getD_eq_getElem?_getD, ht, List.getElem?_map]
  cases s.cores[c]? with
  | none => exact h.symm
  | some x => rfl

theorem State.quarter_modQuarter {s : State} {core q : Nat} (f : Quarter → Quarter) (hc : core < s.cores.length)
    (hq : q < (s.core core).quarters.length) : (s.modQuarter core q f).quarter core q = f (s.quarter core q) := by
  have at_core := State.core_modCore (fun c => { c with quarters := modAt c.quarters q f }) hc
  simp only [State.quarter, State.modQuarter, at_core, List.getD_eq_getElem?_getD, getElem_modAt, if_true, List.getElem?_eq_getElem hq,
    Option.map_some, Option.getD_some]

end Sys2Proof.Machine
end

section
/-! Proofs about the host's commands (R413, R441, R442): what starts a command, how one ends, and what each does. -/

namespace Sys2Proof.Machine

/-! ### Starting a command (R441) -/

/-- The device after a write of CMD that starts a command. -/
def State.cmdStarted (s : State) (op tgt : Nat) : State :=
  s.modDev fun d => { d with busy := true, cmdOp := op, cmdTgt := tgt, cmdDone := false, cmdArg0 := d.arg0, cmdArg1 := d.arg1 }

/-- The device after a command found a bad argument. -/
def State.cmdBad (s : State) : State := s.modDev fun d => { d with cmdResult := 1, cmdCres := d.cres, cmdDone := true }

/-- A command without a result value has ended with result `r`: of the device its result waits, with a free value for CRES. -/
def State.CmdEnds (s : State) (r : Nat) (u : State) : Prop :=
  u = { s with dev := u.dev, free := s.free + 1 } ∧ ∃ v, u.dev = { s.dev with cmdResult := r, cmdCres := v, cmdDone := true }

theorem State.startCmd_busy {s : State} (op tgt : Nat) (run : State → State) (ha : s.answers = true) (hb : s.dev.busy = true) :
    s.startCmd op tgt run = s.modDev fun d => { d with lost := true } := by
  simp [State.startCmd, ha, hb]

theorem State.startCmd_free {s : State} (op tgt : Nat) (run : State → State) (ha : s.answers = true) (hb : s.dev.busy = false) :
    s.startCmd op tgt run = run (s.cmdStarted op tgt) := by
  simp [State.startCmd, State.cmdStarted, ha, hb]

/-! ### Ending a command -/

theorem State.endPlain_bad (s : State) : s.endPlain rBad = s.cmdBad := rfl

theorem State.endPlain_ends (s : State) {r : Nat} (h : r ≠ rBad) : s.CmdEnds r (s.endPlain r) := by
  simp only [State.endPlain, if_neg h]
  exact ⟨rfl, _, rfl⟩

theorem State.cmdOn_outside {s : State} {n tgt : Nat} (run : State → Nat × State) (h : n ≤ tgt) : s.cmdOn n tgt run = s.cmdBad := by
  simp only [State.cmdOn, if_pos h, State.endPlain_bad]

theorem State.cmdOn_inside {s t : State} {n tgt r : Nat} {run : State → Nat × State} (h : tgt < n) (hr : run s = (r, t)) :
    s.cmdOn n tgt run = t.endPlain r := by
  simp [State.cmdOn, Nat.not_le.2 h, hr]

/-! ### A command on a target (R442) -/

/-- `i` is the row of a command `op` whose check and effect on target `tgt` below `n` are `run`. -/
def IsCommand (i : Instr) (op tgt n : Nat) (run : State → Nat × State) : Prop :=
  ∀ s : State, exec i s = .next (s.startCmd op tgt fun s => s.cmdOn n tgt run)

/-- The command finds a bad argument where `wrong` holds: result 1, and nothing else changes. -/
def CommandDenies (i : Instr) (op tgt n : Nat) (wrong : State → Prop) : Prop :=
  ∀ s : State, s.answers = true → s.dev.busy = false → tgt < n → wrong s → exec i s = .next (s.cmdStarted op tgt).cmdBad

/-- The command finds a bad target at `n` and above, and ends with result `r` and effect `eff` where `ok` holds. -/
def CommandRuns (i : Instr) (op tgt n : Nat) (ok : State → Prop) (r : Nat) (eff : State → State) : Prop :=
  ∀ s : State, s.answers = true → s.dev.busy = false →
    (n ≤ tgt → exec i s = .next (s.cmdStarted op tgt).cmdBad) ∧
    (tgt < n → ok s → ∃ u, exec i s = .next u ∧ (eff (s.cmdStarted op tgt)).CmdEnds r u)

section
variable {i : Instr} {op tgt n : Nat} {run : State → Nat × State}

theorem IsCommand.busy (h : IsCommand i op tgt n run) {s : State} (ha : s.answers = true) (hb : s.dev.busy = true) :
    exec i s = .next (s.modDev fun d => { d with lost := true }) := by
  rw [h, State.startCmd_busy _ _ _ ha hb]

theorem IsCommand.free (h : IsCommand i op tgt n run) {s : State} (ha : s.answers = true) (hb : s.dev.busy = false) :
    exec i s = .next ((s.cmdStarted op tgt).cmdOn n tgt run) := by
  rw [h, State.startCmd_free _ _ _ ha hb]

/-- A target out of range is a bad argument. -/
theorem IsCommand.outside (h : IsCommand i op tgt n run) {s : State} (ha : s.answers = true) (hb : s.dev.busy = false) (ht : n ≤ tgt) :
    exec i s = .next (s.cmdStarted op tgt).cmdBad := by
  rw [h.free ha hb, State.cmdOn_outside run ht]

/-- A check that fails leaves the state and ends with result 1. -/
theorem IsCommand.denies (h : IsCommand i op tgt n run) {wrong : State → Prop}
    (hs : ∀ s : State, wrong s → wrong (s.cmdStarted op tgt)) (hw : ∀ s : State, wrong s → run s = (rBad, s)) :
    CommandDenies i op tgt n wrong := by
  intro s ha hb ht w
  rw [h.free ha hb, State.cmdOn_inside ht (hw _ (hs s w)), State.endPlain_bad]

/-- Where the check passes, the command ends with its result and effect. -/
theorem IsCommand.runs (h : IsCommand i op tgt n run) {ok : State → Prop} {r : Nat} {eff : State → State} (hr : r ≠ rBad)
    (hs : ∀ s : State, ok s → ok (s.cmdStarted op tgt)) (hok : ∀ s : State, ok s → run s = (r, eff s)) :
    CommandRuns i op tgt n ok r eff := by
  intro s ha hb
  refine ⟨h.outside ha hb, fun ht w => ⟨_, ?_, State.endPlain_ends _ hr⟩⟩
  rw [h.free ha hb, State.cmdOn_inside ht (hok _ (hs s w))]

end

/-! ### The commands -/

/-- A write of CMD while BUSY is discarded and sets LOST, whatever the command (R441). -/
theorem command_busy {s : State} {tgt : Nat} {i : Instr} (hi : i ∈ [Instr.setroot tgt, .tlbinv tgt, .setsave tgt, .preempt tgt,
      .restore tgt, .kill tgt, .peatsize tgt, .retire tgt, .engstat tgt, .unknownOp]) (ha : s.answers = true) (hb : s.dev.busy = true) :
    exec i s = .next (s.modDev fun d => { d with lost := true }) := by
  have starts : ∃ op t run, exec i s = .next (s.startCmd op t run) := by
    simp only [List.mem_cons, List.not_mem_nil, or_false] at hi
    obtain rfl | rfl | rfl | rfl | rfl | rfl | rfl | rfl | rfl | rfl := hi <;> exact ⟨_, _, _, rfl⟩
  obtain ⟨op, t, run, h⟩ := starts
  rw [h, State.startCmd_busy _ _ _ ha hb]

theorem ctlload_busy {s : State} (image : CtlImage) (ha : s.answers = true) (hb : s.dev.busy = true)
    (h : s.dev.cmdOp ≠ 10 ∨ s.dev.cmdDone = true) : exec (.ctlload image) s = .next (s.modDev fun d => { d with lost := true }) := by
  have eq : exec (.ctlload image) s = .next (s.startCmd 0x0A 0 fun s => s.cmdCtlload image) := by
    show Host.Outcome.next (if _ then _ else _) = _
    rw [if_neg]
    obtain h | h := h <;> simp [h]
  rw [eq, State.startCmd_busy _ _ _ ha hb]

@[simp] theorem State.cmdStarted_arg0 (s : State) (op tgt : Nat) : (s.cmdStarted op tgt).dev.arg0 = s.dev.arg0 := rfl
@[simp] theorem State.cmdStarted_arg1 (s : State) (op tgt : Nat) : (s.cmdStarted op tgt).dev.arg1 = s.dev.arg1 := rfl

theorem setroot_isCommand (tgt : Nat) : IsCommand (.setroot tgt) 1 tgt 16 fun s =>
    if s.dev.arg0.toNat % 65536 != 0 || s.memTop ≤ s.dev.arg0.toNat then (rBad, s)
    else (rDone, s.modCtx tgt fun c => { c with root := s.dev.arg0.toNat }) := fun _ => rfl

theorem setroot_denies (tgt : Nat) :
    CommandDenies (.setroot tgt) 1 tgt 16 fun s => s.dev.arg0.toNat % 65536 ≠ 0 ∨ s.memTop ≤ s.dev.arg0.toNat :=
  (setroot_isCommand tgt).denies (fun _ h => h) fun s h => by simp [h]

theorem setroot_runs (tgt : Nat) :
    CommandRuns (.setroot tgt) 1 tgt 16 (fun s => s.dev.arg0.toNat % 65536 = 0 ∧ s.dev.arg0.toNat < s.memTop) 0
      fun s => s.modCtx tgt fun c => { c with root := s.dev.arg0.toNat } :=
  (setroot_isCommand tgt).runs (by decide) (fun _ h => h) fun s ⟨aligned, inside⟩ => by simp [aligned, inside, rDone]

theorem setsave_isCommand (tgt : Nat) : IsCommand (.setsave tgt) 3 tgt 16 fun s =>
    if s.dev.arg0.toNat % 4096 != 0 then (rBad, s) else if (s.ctx tgt).ctxst != 0 then (rRefused, s)
    else (rDone, s.modCtx tgt fun c => { c with saveBase := if s.dev.arg0.toNat = 0 then none else some s.dev.arg0.toNat }) := fun _ => rfl

theorem setsave_denies (tgt : Nat) : CommandDenies (.setsave tgt) 3 tgt 16 fun s => s.dev.arg0.toNat % 4096 ≠ 0 :=
  (setsave_isCommand tgt).denies (fun _ h => h) fun s h => by simp [h]

theorem setsave_runs (tgt : Nat) :
    CommandRuns (.setsave tgt) 3 tgt 16 (fun s => s.dev.arg0.toNat % 4096 = 0 ∧ (s.ctx tgt).ctxst = 0) 0
      fun s => s.modCtx tgt fun c => { c with saveBase := if s.dev.arg0.toNat = 0 then none else some s.dev.arg0.toNat } :=
  (setsave_isCommand tgt).runs (by decide) (fun _ h => h) fun s ⟨aligned, runs⟩ => by simp [aligned, runs, rDone]

theorem setsave_refused (tgt : Nat) :
    CommandRuns (.setsave tgt) 3 tgt 16 (fun s => s.dev.arg0.toNat % 4096 = 0 ∧ (s.ctx tgt).ctxst ≠ 0) 2 id :=
  (setsave_isCommand tgt).runs (by decide) (fun _ h => h) fun s ⟨aligned, saved⟩ => by simp [aligned, saved, rRefused]

theorem preempt_isCommand (tgt : Nat) : IsCommand (.preempt tgt) 4 tgt 16 fun s =>
    if (s.ctx tgt).ctxst != 0 then (rRefused, s) else (rDone, s.preempt tgt) := fun _ => rfl

theorem preempt_runs (tgt : Nat) :
    CommandRuns (.preempt tgt) 4 tgt 16 (fun s => (s.ctx tgt).ctxst = 0) 0 fun s => s.preempt tgt :=
  (preempt_isCommand tgt).runs (by decide) (fun _ h => h) fun s runs => by simp [runs, rDone]

theorem preempt_refused (tgt : Nat) : CommandRuns (.preempt tgt) 4 tgt 16 (fun s => (s.ctx tgt).ctxst ≠ 0) 2 id :=
  (preempt_isCommand tgt).runs (by decide) (fun _ h => h) fun s saved => by simp [saved, rRefused]

theorem restore_isCommand (tgt : Nat) : IsCommand (.restore tgt) 5 tgt 16 fun s =>
    if (s.ctx tgt).ctxst != 2 then (rRefused, s) else (rDone, s.startRestore tgt) := fun _ => rfl

theorem restore_runs (tgt : Nat) :
    CommandRuns (.restore tgt) 5 tgt 16 (fun s => (s.ctx tgt).ctxst = 2) 0 fun s => s.startRestore tgt :=
  (restore_isCommand tgt).runs (by decide) (fun _ h => h) fun s saved => by simp [saved, rDone]

theorem restore_refused (tgt : Nat) : CommandRuns (.restore tgt) 5 tgt 16 (fun s => (s.ctx tgt).ctxst ≠ 2) 2 id :=
  (restore_isCommand tgt).runs (by decide) (fun _ h => h) fun s notSaved => by simp [notSaved, rRefused]

theorem kill_isCommand (tgt : Nat) : IsCommand (.kill tgt) 6 tgt 16 fun s => (rDone, s.killContext tgt 2 0) := fun _ => rfl

theorem kill_runs (tgt : Nat) : CommandRuns (.kill tgt) 6 tgt 16 (fun _ => True) 0 fun s => s.killContext tgt 2 0 :=
  (kill_isCommand tgt).runs (by decide) (fun _ h => h) fun _ _ => rfl

theorem peatsize_isCommand (tgt : Nat) : IsCommand (.peatsize tgt) 7 tgt 16 fun s =>
    if s.dev.arg0.toNat < 1 || 3 < s.dev.arg0.toNat then (rBad, s)
    else (rDone, (s.modCluster tgt fun k => { k with peatPending := some s.dev.arg0.toNat }).settlePeat tgt) := fun _ => rfl

theorem peatsize_denies (tgt : Nat) :
    CommandDenies (.peatsize tgt) 7 tgt 16 fun s => s.dev.arg0.toNat = 0 ∨ 3 < s.dev.arg0.toNat :=
  (peatsize_isCommand tgt).denies (fun _ h => h) fun s h => by simp [h]

theorem peatsize_runs (tgt : Nat) :
    CommandRuns (.peatsize tgt) 7 tgt 16 (fun s => 1 ≤ s.dev.arg0.toNat ∧ s.dev.arg0.toNat ≤ 3) 0
      fun s => (s.modCluster tgt fun k => { k with peatPending := some s.dev.arg0.toNat }).settlePeat tgt :=
  (peatsize_isCommand tgt).runs (by decide) (fun _ h => h) fun s ⟨low, high⟩ => by simp [Nat.ne_of_gt low, Nat.not_lt.2 high, rDone]

theorem retire_isCommand (tgt : Nat) : IsCommand (.retire tgt) 8 tgt 128 fun s =>
    if 1 < s.dev.arg0.toNat then (rBad, s)
    else if (s.core tgt).retired != 0 && (s.core tgt).retired != BitVec.ofNat 2 (s.dev.arg0.toNat + 1) then (rRefused, s)
    else (rDone, s.modCore tgt fun c => { c with retired := BitVec.ofNat 2 (s.dev.arg0.toNat + 1) }) := fun _ => rfl

theorem retire_denies (tgt : Nat) : CommandDenies (.retire tgt) 8 tgt 128 fun s => 1 < s.dev.arg0.toNat :=
  (retire_isCommand tgt).denies (fun _ h => h) fun s h => by simp [h]

theorem retire_runs (tgt : Nat) :
    CommandRuns (.retire tgt) 8 tgt 128 (fun s => s.dev.arg0.toNat ≤ 1 ∧
        ((s.core tgt).retired = 0 ∨ (s.core tgt).retired = BitVec.ofNat 2 (s.dev.arg0.toNat + 1))) 0
      fun s => s.modCore tgt fun c => { c with retired := BitVec.ofNat 2 (s.dev.arg0.toNat + 1) } :=
  (retire_isCommand tgt).runs (by decide) (fun _ h => h) fun s ⟨half, here⟩ => by
    obtain here | here := here <;> simp [Nat.not_lt.2 half, here, rDone]

theorem retire_refused (tgt : Nat) :
    CommandRuns (.retire tgt) 8 tgt 128 (fun s => s.dev.arg0.toNat ≤ 1 ∧ (s.core tgt).retired ≠ 0 ∧
      (s.core tgt).retired ≠ BitVec.ofNat 2 (s.dev.arg0.toNat + 1)) 2 id :=
  (retire_isCommand tgt).runs (by decide) (fun _ h => h) fun s ⟨half, retired, other⟩ => by simp_all [rRefused]

/-! ### TLBINV (R413) -/

/-- Dropping translations leaves every engine queue, so what is outstanding in a range is asked of either state. -/
theorem State.dropTlbs_outstanding (s : State) (space : Nat) (r q : Nat × Nat) :
    ((s.dropTlbs space r).cores.any fun c => c.engineOps.any fun o => o.inRange space q) =
      s.cores.any fun c => c.engineOps.any fun o => o.inRange space q := by
  simp only [State.dropTlbs, List.any_map]
  congr 1
  funext c
  simp only [Function.comp]
  split <;> rfl


/-- A TLBINV whose arguments are in order drops the translations of its range, and ends where no engine operation is outstanding in it. -/
theorem State.cmdTlbinv_good (s : State) {tgt : Nat} (ht : tgt < 16) (hva : s.dev.arg0.toNat % 65536 = 0) (hlen : s.dev.arg1.toNat % 65536 = 0) :
    s.cmdTlbinv tgt =
      if s.cores.any fun c => c.engineOps.any fun o => o.inRange tgt (invRange s.dev.arg0.toNat s.dev.arg1.toNat)
      then s.dropTlbs tgt (invRange s.dev.arg0.toNat s.dev.arg1.toNat)
      else (s.dropTlbs tgt (invRange s.dev.arg0.toNat s.dev.arg1.toNat)).endPlain rDone := by
  have good : ¬ ((16 ≤ tgt || s.dev.arg0.toNat % 65536 != 0 || s.dev.arg1.toNat % 65536 != 0) = true) := by simp [hva, hlen]; omega
  simp only [State.cmdTlbinv, if_neg good, State.tryTlbinv, State.dropTlbs_outstanding]

theorem tlbinv_free {s : State} (tgt : Nat) (ha : s.answers = true) (hb : s.dev.busy = false) :
    exec (.tlbinv tgt) s = .next ((s.cmdStarted 2 tgt).cmdTlbinv tgt) :=
  congrArg Host.Outcome.next (State.startCmd_free _ _ (fun s => s.cmdTlbinv tgt) ha hb)

theorem tlbinv_denied {s : State} (tgt : Nat) (ha : s.answers = true) (hb : s.dev.busy = false)
    (h : 16 ≤ tgt ∨ s.dev.arg0.toNat % 65536 ≠ 0 ∨ s.dev.arg1.toNat % 65536 ≠ 0) :
    exec (.tlbinv tgt) s = .next (s.cmdStarted 2 tgt).cmdBad := by
  have wrong : (16 ≤ tgt || s.dev.arg0.toNat % 65536 != 0 || s.dev.arg1.toNat % 65536 != 0) = true := by simp [or_assoc, h]
  rw [tlbinv_free tgt ha hb, State.cmdTlbinv, State.cmdStarted_arg0, State.cmdStarted_arg1, if_pos wrong, State.endPlain_bad]

theorem tlbinv_ends {s : State} {tgt : Nat} (ha : s.answers = true) (hb : s.dev.busy = false) (ht : tgt < 16)
    (hva : s.dev.arg0.toNat % 65536 = 0) (hlen : s.dev.arg1.toNat % 65536 = 0)
    (h : ∀ c ∈ s.cores, ∀ o ∈ c.engineOps, o.inRange tgt (invRange s.dev.arg0.toNat s.dev.arg1.toNat) = false) :
    ∃ u, exec (.tlbinv tgt) s = .next u ∧
      ((s.cmdStarted 2 tgt).dropTlbs tgt (invRange s.dev.arg0.toNat s.dev.arg1.toNat)).CmdEnds 0 u := by
  have none_left : ¬ ((s.cmdStarted 2 tgt).cores.any (fun c =>
      c.engineOps.any fun o => o.inRange tgt (invRange s.dev.arg0.toNat s.dev.arg1.toNat)) = true) := by
    simpa [State.cmdStarted] using h
  refine ⟨_, tlbinv_free tgt ha hb, ?_⟩
  rw [State.cmdTlbinv_good (s.cmdStarted 2 tgt) ht hva hlen, State.cmdStarted_arg0, State.cmdStarted_arg1, if_neg none_left]
  exact State.endPlain_ends _ (by decide)

theorem tlbinv_waits {s : State} {tgt : Nat} (ha : s.answers = true) (hb : s.dev.busy = false) (ht : tgt < 16)
    (hva : s.dev.arg0.toNat % 65536 = 0) (hlen : s.dev.arg1.toNat % 65536 = 0)
    (h : ∃ c ∈ s.cores, ∃ o ∈ c.engineOps, o.inRange tgt (invRange s.dev.arg0.toNat s.dev.arg1.toNat) = true) :
    exec (.tlbinv tgt) s = .next ((s.cmdStarted 2 tgt).dropTlbs tgt (invRange s.dev.arg0.toNat s.dev.arg1.toNat)) := by
  have outstanding : ((s.cmdStarted 2 tgt).cores.any fun c =>
      c.engineOps.any fun o => o.inRange tgt (invRange s.dev.arg0.toNat s.dev.arg1.toNat)) = true := by
    simpa [State.cmdStarted] using h
  rw [tlbinv_free tgt ha hb, State.cmdTlbinv_good (s.cmdStarted 2 tgt) ht hva hlen, State.cmdStarted_arg0, State.cmdStarted_arg1, if_pos outstanding]

/-! ### ENGSTAT, UNKNOWN_OP and CTLLOAD (R332, R441, R442) -/

theorem engstat_free {s : State} (tgt : Nat) (ha : s.answers = true) (hb : s.dev.busy = false) :
    exec (.engstat tgt) s = .next ((s.cmdStarted 9 tgt).cmdEngstat tgt) :=
  congrArg Host.Outcome.next (State.startCmd_free _ _ (fun s => s.cmdEngstat tgt) ha hb)

theorem engstat_outside (s : State) (tgt : Nat) (ht : 128 ≤ tgt) (ha : s.answers = true) (hb : s.dev.busy = false) :
    exec (.engstat tgt) s = .next (s.cmdStarted 9 tgt).cmdBad := by
  rw [engstat_free tgt ha hb, State.cmdEngstat, if_pos ht, State.endPlain_bad]

theorem engstat_inside (s : State) (tgt : Nat) (ht : tgt < 128) (ha : s.answers = true) (hb : s.dev.busy = false) :
    exec (.engstat tgt) s = .next ((s.cmdStarted 9 tgt).endCmd 0 ((s.cmdStarted 9 tgt).engineStatus tgt)) := by
  rw [engstat_free tgt ha hb, State.cmdEngstat, if_neg (Nat.not_le.2 ht), rDone]

theorem unknownOp_ends {s : State} (ha : s.answers = true) (hb : s.dev.busy = false) :
    ∃ u, exec .unknownOp s = .next u ∧ (s.cmdStarted 0 0).CmdEnds 3 u :=
  ⟨_, congrArg Host.Outcome.next (State.startCmd_free 0 0 (fun s => s.endPlain rUnknown) ha hb), State.endPlain_ends _ (by decide)⟩

/-- A CTLLOAD that starts, or one that a write of CMD has started, runs on the state in which it has started. -/
theorem ctlload_runs {s t : State} (image : CtlImage) (ha : s.answers = true)
    (h : s.dev.busy = false ∧ t = s.cmdStarted 10 0 ∨ s.dev.busy = true ∧ s.dev.cmdOp = 10 ∧ s.dev.cmdDone = false ∧ t = s) :
    exec (.ctlload image) s = .next (t.cmdCtlload image) := by
  show Host.Outcome.next (if _ then _ else _) = _
  obtain ⟨hb, rfl⟩ | ⟨hb, ho, hd, rfl⟩ := h
  · rw [if_neg (by simp [hb]), State.startCmd_free _ _ _ ha hb]
  · rw [if_pos (by simp [ha, hb, ho, hd])]

theorem State.cmdCtlload_denied {s : State} (image : CtlImage)
    (h : ¬ (s.dev.cmdArg1.toNat ≤ 2 ^ 24 ∧ s.dev.cmdArg0.toNat + s.dev.cmdArg1.toNat ≤ s.memTop) ∨
      jxoProgram (fun i => s.l2ByteAny (s.dev.cmdArg0.toNat + i)) s.dev.cmdArg1.toNat = none) :
    s.cmdCtlload image = s.cmdBad := by
  unfold State.cmdCtlload
  by_cases hf : (2 ^ 24 < s.dev.cmdArg1.toNat || s.memTop < s.dev.cmdArg0.toNat + s.dev.cmdArg1.toNat) = true
  · simp only [if_pos hf, State.endPlain_bad]
  · have fits : s.dev.cmdArg1.toNat ≤ 2 ^ 24 ∧ s.dev.cmdArg0.toNat + s.dev.cmdArg1.toNat ≤ s.memTop := by simpa using hf
    have malformed := h.resolve_left (not_not_intro fits)
    simp only [if_neg hf, malformed, State.endPlain_bad]

theorem State.cmdCtlload_loads {s : State} (image : CtlImage) {p : JxoProgram}
    (hf : s.dev.cmdArg1.toNat ≤ 2 ^ 24 ∧ s.dev.cmdArg0.toNat + s.dev.cmdArg1.toNat ≤ s.memTop)
    (hp : jxoProgram (fun i => s.l2ByteAny (s.dev.cmdArg0.toNat + i)) s.dev.cmdArg1.toNat = some p) :
    s.cmdCtlload image = (s.endControl.startControl
      (loadImage image (fun i => s.l2ByteAny (s.dev.cmdArg0.toNat + i)) p) p.regs).endPlain rDone := by
  have fits : ¬ ((2 ^ 24 < s.dev.cmdArg1.toNat || s.memTop < s.dev.cmdArg0.toNat + s.dev.cmdArg1.toNat) = true) := by simpa using hf
  simp only [State.cmdCtlload, if_neg fits, hp]

/-- CTLLOAD denies a file that does not fit or is malformed, and loads any other (R442). -/
theorem ctlload_outcome {s t : State} (image : CtlImage) (ha : s.answers = true)
    (h : s.dev.busy = false ∧ t = s.cmdStarted 10 0 ∨ s.dev.busy = true ∧ s.dev.cmdOp = 10 ∧ s.dev.cmdDone = false ∧ t = s) :
    let rd (i : Nat) : Byte := t.l2ByteAny (t.dev.cmdArg0.toNat + i)
    let fits := t.dev.cmdArg1.toNat ≤ 2 ^ 24 ∧ t.dev.cmdArg0.toNat + t.dev.cmdArg1.toNat ≤ s.memTop
    (¬ fits ∨ jxoProgram rd t.dev.cmdArg1.toNat = none → exec (.ctlload image) s = .next t.cmdBad) ∧
    (∀ p, fits → jxoProgram rd t.dev.cmdArg1.toNat = some p →
      ∃ u, exec (.ctlload image) s = .next u ∧ (t.endControl.startControl (loadImage image rd p) p.regs).CmdEnds 0 u) := by
  have top : s.memTop = t.memTop := by obtain ⟨-, rfl⟩ | ⟨-, -, -, rfl⟩ := h <;> rfl
  rw [ctlload_runs image ha h, top]
  refine ⟨fun wrong => by rw [State.cmdCtlload_denied image wrong], fun p hf hp => ⟨_, rfl, ?_⟩⟩
  rw [State.cmdCtlload_loads image hf hp]
  exact State.endPlain_ends _ (by decide)

/-! ### COMMAND_COMPLETE and LOST_CLEAR (R441) -/

theorem commandComplete_done {s : State} (hb : s.dev.busy = true) (hd : s.dev.cmdDone = true) : exec .commandComplete s =
    .next (s.modDev fun d => { d with busy := false, cmdDone := false, result := d.cmdResult, cres := d.cmdCres }).cmdMessage := by
  show execCommandComplete s = _
  simp [execCommandComplete, hb, hd]

theorem lostClear_answers {s : State} (ha : s.answers = true) : exec .lostClear s = .next (s.modDev fun d => { d with lost := false }) := by
  show Host.Outcome.next s.clearLost = _
  simp [State.clearLost, ha]

/-! ### The statement -/

/-- Settles O53: each command through `IsCommand`, TLBINV, CTLLOAD and ENGSTAT through their own lemmas. -/
theorem hostCommands : Obligations.HostCommands := by
  unfold Obligations.HostCommands
  intro started bad ends runs
  have runs_eq : runs = CommandRuns := rfl
  clear_value runs
  subst runs_eq
  exact ⟨fun s tgt i hi ha hb => command_busy hi ha hb, fun s image ha hb h => ctlload_busy image ha hb h,
    setroot_denies, setsave_denies, peatsize_denies, retire_denies, retire_refused, engstat_outside, setroot_runs, setsave_runs,
    setsave_refused, preempt_runs, preempt_refused, restore_runs, restore_refused, kill_runs, peatsize_runs, retire_runs, engstat_inside,
    fun s tgt ha hb => ⟨tlbinv_denied tgt ha hb, fun ht hva hlen => ⟨tlbinv_ends ha hb ht hva hlen, tlbinv_waits ha hb ht hva hlen⟩⟩,
    fun s t image ha h => ctlload_outcome image ha h, fun s => unknownOp_ends, fun s => commandComplete_done,
    fun s => lostClear_answers⟩

end Sys2Proof.Machine
end

section
/-! Proofs about clocks, droops, temperature, the rail, the load and the watchdog (R12, R427 to R435). -/

namespace Sys2Proof.Machine

/-! ### Pulses of the master clock (R12, R427 to R430) -/

theorem patternPasses_iff (k i : Nat) : patternPasses k i = true ↔ i * k / 16 < (i + 1) * k / 16 := by simp [patternPasses]

@[simp] theorem Cluster.pulse_step (c : Cluster) (slot : Nat) (tick : Bool) : (c.pulse slot tick).power.step = c.power.step := rfl

/-- Where the pattern does not pass the slot, the cluster takes no cycle. -/
theorem Cluster.pulse_blocked {c : Cluster} {slot : Nat} (tick : Bool) (h : patternPasses c.power.step slot = false) :
    c.pulse slot tick = { c with tim := if tick then c.tim + 1 else c.tim,
                                 power := { c.power with ticks := if tick then c.power.ticks + 1 else c.power.ticks } } := by
  simp [Cluster.pulse, h]

/-- Where it passes, the cluster takes a cycle, but for every second time under a stretch. -/
theorem Cluster.pulse_taken {c : Cluster} {slot : Nat} (tick : Bool) (h : patternPasses c.power.step slot = true)
    (hs : c.power.stretch = false ∨ c.power.skip = false) :
    c.pulse slot tick = { c with cyc := c.cyc + 1, tim := if tick then c.tim + 1 else c.tim,
                                 power := { c.power with ticks := if tick then c.power.ticks + 1 else c.power.ticks,
                                                         skip := c.power.stretch, window := c.power.window + 1 } } := by
  have takes : (c.power.stretch && c.power.skip) = false := by obtain hs | hs := hs <;> simp [hs]
  simp [Cluster.pulse, h, takes]

theorem Cluster.pulse_skipped {c : Cluster} {slot : Nat} (tick : Bool) (h : patternPasses c.power.step slot = true)
    (hs : c.power.stretch = true) (hk : c.power.skip = true) :
    c.pulse slot tick = { c with tim := if tick then c.tim + 1 else c.tim,
                                 power := { c.power with ticks := if tick then c.power.ticks + 1 else c.power.ticks, skip := false } } := by
  simp [Cluster.pulse, h, hs, hk]

theorem State.onePulse_idle {s : State} (h : s.anyDue = false) : s.onePulse = s.pulseOn := by simp [State.onePulse, h]

theorem State.pulseOn_cluster {s : State} {k : Nat} (h : k < s.clusters.length) :
    s.pulseOn.cluster k = (s.cluster k).pulse (s.dev.pulse % 16) (s.dev.pulse % 20 == 19) :=
  getD_map_lt {} (fun c : Cluster => c.pulse (s.dev.pulse % 16) (s.dev.pulse % 20 == 19)) h

/-- A pulse changes the clusters and, of the device, the counts of pulses and ticks and at a tick the step of the fabric. -/
theorem State.pulseOn_shape (s : State) : s.pulseOn = { s with clusters := s.pulseOn.clusters, dev := { s.dev with
    pulse := s.dev.pulse + 1, fabricStep := if s.dev.pulse % 20 = 19 then s.topStep else s.dev.fabricStep
    trimTicks := if s.dev.pulse % 20 = 19 then s.dev.trimTicks + 1 else s.dev.trimTicks
    kickTicks := if s.dev.pulse % 20 = 19 then s.dev.kickTicks + 1 else s.dev.kickTicks } } := by
  have steps : (s.clusters.map fun k => k.pulse (s.dev.pulse % 16) (s.dev.pulse % 20 == 19)).map (fun k => k.power.step) =
      s.clusters.map fun k => k.power.step := by simp [Function.comp_def]
  simp only [State.pulseOn, State.modDev, State.topStep, steps, beq_iff_eq]

/-! ### What has come due (R430, R433 to R435; log 142) -/

theorem Dev.lapseDue_iff (d : Dev) : d.lapseDue = true ↔ 2 ^ 20 ≤ d.kickTicks ∧ d.wdLapsed = false ∧ d.hkcUpdate = false := by
  simp [Dev.lapseDue, and_assoc]

theorem State.anyDue_iff (s : State) : s.anyDue = true ↔ 4096 ≤ s.dev.trimTicks ∨
    (2 ^ 20 ≤ s.dev.kickTicks ∧ s.dev.wdLapsed = false ∧ s.dev.hkcUpdate = false) ∨
    ∃ c ∈ s.clusters, 128 ≤ c.power.ticks ∨ 4096 ≤ c.power.window := by
  rw [← Dev.lapseDue_iff]
  simp [State.anyDue, Dev.trimDue, Power.governorDue, Power.windowDue, or_assoc]

/-- The counts of a cluster's governor period and load window, which say what of it is due. -/
def Cluster.Idle (c : Cluster) : Prop := c.power.ticks < 128 ∧ c.power.window < 4096

theorem Power.govern_ticks (p : Power) (frozen : Bool) (used slackUp : Nat) : (p.govern frozen used slackUp).ticks < 128 := by
  unfold Power.govern Power.governorDue
  split
  · exact (by decide : 0 < 128)
  · simp_all

theorem Power.measure_ticks (p : Power) (real : Nat) : (p.measure real).ticks = p.ticks := by
  unfold Power.measure Power.endWindow
  split <;> rfl

theorem Power.measure_window (p : Power) (real : Nat) : (p.measure real).window < 4096 := by
  unfold Power.measure Power.windowDue
  split
  · exact (by decide : 0 < 4096)
  · simp_all

theorem Cluster.measured_idle (c : Cluster) (frozen : Bool) (used slackUp real : Nat) :
    ({ c with power := (c.power.govern frozen used slackUp).measure real } : Cluster).Idle :=
  ⟨by rw [Power.measure_ticks]; exact Power.govern_ticks _ _ _ _, Power.measure_window _ _⟩

/-- A property of clusters that an update gives each of them holds of all afterwards. -/
theorem forall_mapIdx {α : Type} {l : List α} {P : α → Prop} {f : Nat → α → α} (h : ∀ i, ∀ x ∈ l, P (f i x)) : ∀ y ∈ l.mapIdx f, P y := by
  intro y hy
  obtain ⟨i, hi, rfl⟩ := List.mem_mapIdx.1 hy
  exact h i _ (List.getElem_mem hi)

/-! ### Settling: the rail and the watchdog keep the counts of the clusters -/

/-- No governor period and no load window has ended. -/
def State.ClustersIdle (s : State) : Prop := ∀ c ∈ s.clusters, c.Idle

theorem State.trimRail_idle {s : State} (slacks : List Nat) (h : s.ClustersIdle) : (s.trimRail slacks).ClustersIdle := by
  refine List.forall_mem_map.2 ?_
  exact forall_mapIdx (P := fun c : Cluster => c.Idle) fun _ c hc => h c hc

theorem State.holdBoost_idle {s : State} (h : s.ClustersIdle) : s.holdBoost.ClustersIdle := by
  unfold State.holdBoost
  split
  · exact List.forall_mem_map.2 fun c hc => h c hc
  · exact h

theorem State.lapse_idle {s : State} (h : s.ClustersIdle) : s.lapse.ClustersIdle := by
  unfold State.lapse
  split
  · exact State.holdBoost_idle h
  · exact h

@[simp] theorem State.holdBoost_dev (s : State) : s.holdBoost.dev = s.dev := by
  unfold State.holdBoost; split <;> rfl

@[simp] theorem State.lapse_trimTicks (s : State) : s.lapse.dev.trimTicks = s.dev.trimTicks := by
  unfold State.lapse; split <;> simp

theorem State.lapse_dev (s : State) : s.lapse.dev = if s.dev.lapseDue then { s.dev with wdLapsed := true } else s.dev := by
  unfold State.lapse; split <;> simp

theorem State.lapse_notDue (s : State) : s.lapse.dev.lapseDue = false := by
  rw [State.lapse_dev]
  split
  · simp [Dev.lapseDue]
  · exact Bool.eq_false_of_not_eq_true ‹_›

/-- The clusters after what has come due of their own periods and windows, for given measurements. -/
def State.measured (s : State) (used slackUp real : Nat → Nat) : State := { s with clusters := s.clusters.mapIdx fun k c =>
  { c with power := (c.power.govern s.dev.frozen (used k) (slackUp k)).measure (real k) } }

theorem State.measured_idle (s : State) (used slackUp real : Nat → Nat) : (s.measured used slackUp real).ClustersIdle :=
  forall_mapIdx (P := fun c : Cluster => c.Idle) fun _ _ _ => Cluster.measured_idle _ _ _ _ _

/-- The rail, where a trim is due. -/
def State.trimmed (s : State) (slacks : List Nat) : State := if s.dev.trimDue then s.trimRail slacks else s

theorem State.trimmed_idle {s : State} (slacks : List Nat) (h : s.ClustersIdle) : (s.trimmed slacks).ClustersIdle := by
  unfold State.trimmed
  split
  · exact State.trimRail_idle slacks h
  · exact h

theorem State.trimmed_notDue (s : State) (slacks : List Nat) : (s.trimmed slacks).dev.trimDue = false := by
  unfold State.trimmed
  split
  · rfl
  · exact Bool.eq_false_of_not_eq_true ‹_›

theorem State.trimmed_free (s : State) (slacks : List Nat) : (s.trimmed slacks).free = s.free := by
  unfold State.trimmed; split <;> rfl

/-- What has come due happens once, in the order governor and load, rail, watchdog, with free measurements. -/
theorem State.settle_eq (s : State) : ∃ (used slackUp real : Nat → Nat) (slacks : List Nat),
    s.settle = { ((s.measured used slackUp real).trimmed slacks).lapse with free := s.free + 64 } :=
  ⟨fun k => (Config.freeValue (s.free + 4 * k)).toNat, fun k => (Config.freeValue (s.free + (4 * k + 1))).toNat % 64,
    fun k => (Config.freeValue (s.free + (4 * k + 2))).toNat % 256,
    (List.range 16).map fun k => (Config.freeValue (s.free + (4 * k + 3))).toNat % 64, rfl⟩

theorem State.anyDue_eq_false {s : State} (ht : s.dev.trimDue = false) (hl : s.dev.lapseDue = false) (h : s.ClustersIdle) :
    s.anyDue = false := by
  have idle : (s.clusters.any fun k => k.power.governorDue || k.power.windowDue) = false := by
    simp only [List.any_eq_false, Bool.or_eq_true, Power.governorDue, Power.windowDue, decide_eq_true_eq]
    intro c hc
    obtain ⟨ticks, window⟩ := h c hc
    omega
  simp [State.anyDue, ht, hl, idle]

theorem State.settle_notDue (s : State) : s.settle.anyDue = false := by
  obtain ⟨used, slackUp, real, slacks, eq⟩ := s.settle_eq
  rw [eq]
  refine State.anyDue_eq_false ?_ (State.lapse_notDue _) (State.lapse_idle (State.trimmed_idle slacks (State.measured_idle _ _ _ _)))
  have trim := State.trimmed_notDue (s.measured used slackUp real) slacks
  simpa [Dev.trimDue] using trim

theorem railTrim_trimmed (s : State) (slacks : List Nat) : exec (.railTrim slacks) s = .next (s.trimmed slacks) := rfl

theorem watchdogLapse_lapse (s : State) : exec .watchdogLapse s = .next s.lapse := rfl

theorem State.lapse_free (s : State) : s.lapse.free = s.free := by rw [State.lapse_keeps]

theorem State.withFree_back {s : State} {m n : Nat} (h : s.free = n) : { ({ s with free := m } : State) with free := n } = s := by
  subst h; rfl

/-- What is overdue happens before the next pulse, as the events of the rail and the watchdog have it. -/
theorem State.onePulse_overdue {s : State} (h : s.anyDue = true) :
    s.onePulse = s.settle.onePulse ∧ s.settle.anyDue = false ∧
    ∃ (used slackUp real : Nat → Nat) (slacks : List Nat) (a b : State),
      a = { s with clusters := s.clusters.mapIdx fun k c =>
        { c with power := (c.power.govern (s.dev.wdLapsed || s.dev.hkcUpdate) (used k) (slackUp k)).measure (real k) } } ∧
      exec (.railTrim slacks) a = .next b ∧ exec .watchdogLapse b = .next { s.settle with free := s.free } := by
  refine ⟨?_, s.settle_notDue, ?_⟩
  · rw [State.onePulse_idle s.settle_notDue, State.onePulse, if_pos h]
  · obtain ⟨used, slackUp, real, slacks, eq⟩ := s.settle_eq
    refine ⟨used, slackUp, real, slacks, s.measured used slackUp real, _, rfl, railTrim_trimmed _ _, ?_⟩
    rw [watchdogLapse_lapse, eq]
    refine congrArg Host.Outcome.next (State.withFree_back ?_).symm
    rw [State.lapse_free, State.trimmed_free]
    rfl

/-! ### Temperature bands (R431) -/

theorem bandEdge_mono : ∀ a ≤ 7, ∀ b ≤ 7, a ≤ b → bandEdge a ≤ bandEdge b := by decide

/-- `bandOf` counts the edges at or below the temperature, so it is the band with that highest edge. -/
theorem bandOf_eq {temp n : Nat} (hn : n ≤ 7) (low : bandEdge n ≤ temp) (high : ∀ b ≤ 7, n < b → temp < bandEdge b) : bandOf temp = n := by
  have upto : ∀ n ≤ 7, (([1, 2, 3, 4, 5, 6, 7] : List Nat).filter fun b => b ≤ n).length = n := by decide
  rw [← upto n hn]
  refine congrArg List.length (List.filter_congr fun b hb => ?_)
  have hb : b ≤ 7 := by simp at hb; omega
  by_cases h : b ≤ n
  · simp [h, (bandEdge_mono b hb n hn h).trans low]
  · simp [h, high b hb (Nat.lt_of_not_le h)]

theorem bandOf_findGreatest (temp : Nat) : bandOf temp = Nat.findGreatest (fun b => bandEdge b ≤ temp) 7 :=
  bandOf_eq (Nat.findGreatest_le 7) (Nat.findGreatest_spec (P := fun b => bandEdge b ≤ temp) (Nat.zero_le 7) (Nat.zero_le temp))
    fun _ hb h => Nat.lt_of_not_le (Nat.findGreatest_is_greatest (P := fun b => bandEdge b ≤ temp) h hb)

theorem bandOf_le (temp : Nat) : bandOf temp ≤ 7 := by rw [bandOf_findGreatest]; exact Nat.findGreatest_le 7

theorem le_bandOf {b temp : Nat} (hb : b ≤ 7) : b ≤ bandOf temp ↔ bandEdge b ≤ temp := by
  constructor
  · intro h
    have own : bandEdge (bandOf temp) ≤ temp := by
      rw [bandOf_findGreatest]
      exact Nat.findGreatest_spec (P := fun b => bandEdge b ≤ temp) (Nat.zero_le 7) (Nat.zero_le temp)
    exact (bandEdge_mono b hb _ (bandOf_le temp) h).trans own
  · intro h
    rw [bandOf_findGreatest]
    exact Nat.le_findGreatest hb h

theorem nextBand_left {b temp : Nat} (h : temp + 2 ≤ bandEdge (b + 1)) : nextBand (b + 1) temp = nextBand b temp := if_pos h

/-- A band is kept from 2 degrees below its edge on, unless a higher one is entered. -/
theorem nextBand_kept {band temp : Nat} (h : bandEdge band < temp + 2) : nextBand band temp = max band (bandOf temp) := by
  cases band with
  | zero => simp [nextBand]
  | succ b => exact if_neg (Nat.not_le.2 h)

theorem nextBand_le {band : Nat} (temp : Nat) (h : band ≤ 7) : nextBand band temp ≤ 7 := by
  induction band with
  | zero => exact bandOf_le temp
  | succ b ih =>
    by_cases left : temp + 2 ≤ bandEdge (b + 1)
    · rw [nextBand_left left]
      exact ih (by omega)
    · rw [nextBand_kept (Nat.lt_of_not_le left)]
      exact max_le h (bandOf_le temp)

theorem bandOf_le_nextBand (band temp : Nat) : bandOf temp ≤ nextBand band temp := by
  induction band with
  | zero => exact le_rfl
  | succ b ih =>
    by_cases left : temp + 2 ≤ bandEdge (b + 1)
    · rwa [nextBand_left left]
    · rw [nextBand_kept (Nat.lt_of_not_le left)]
      exact le_max_right _ _

/-- A band whose edge lies 2 degrees above is left, for the highest one below it not so left. -/
theorem nextBand_leaves {band temp : Nat} (hb : band ≤ 7) (h : temp + 2 ≤ bandEdge band) : nextBand band temp < band ∧
    bandEdge (nextBand band temp) < temp + 2 ∧ ∀ b, b ≤ band → bandEdge b < temp + 2 → b ≤ nextBand band temp := by
  induction band with
  | zero => exact absurd h (by simp [bandEdge])
  | succ n ih =>
    rw [nextBand_left h]
    have below : ∀ b, b ≤ n + 1 → bandEdge b < temp + 2 → b ≤ n := fun b hle hlt => by
      rcases Nat.lt_or_eq_of_le hle with hlt' | rfl <;> omega
    by_cases left : temp + 2 ≤ bandEdge n
    · obtain ⟨lower, edge, highest⟩ := ih (by omega) left
      exact ⟨by omega, edge, fun b hle hlt => highest b (below b hle hlt) hlt⟩
    · have stays : nextBand n temp = n := by
        rw [nextBand_kept (Nat.lt_of_not_le left)]
        have cold : ¬ n + 1 ≤ bandOf temp := by rw [le_bandOf hb]; omega
        exact max_eq_left (by omega)
      rw [stays]
      exact ⟨n.lt_succ_self, Nat.lt_of_not_le left, below⟩

theorem nextBand_spec {band : Nat} (temp : Nat) (hb : band ≤ 7) : nextBand band temp ≤ 7 ∧
    (bandEdge band ≤ temp → bandEdge (nextBand band temp) ≤ temp) ∧
    (∀ b, b ≤ 7 → bandEdge b ≤ temp → b ≤ nextBand band temp) ∧
    (0 < band → bandEdge band < temp + 2 → band ≤ nextBand band temp) ∧
    (temp < bandEdge band → bandEdge band < temp + 2 → nextBand band temp = band) ∧
    (temp + 2 ≤ bandEdge band → nextBand band temp < band ∧ bandEdge (nextBand band temp) < temp + 2 ∧
      ∀ b, b ≤ band → bandEdge b < temp + 2 → b ≤ nextBand band temp) := by
  refine ⟨nextBand_le temp hb, fun h => ?_, fun b h7 h => ((le_bandOf h7).2 h).trans (bandOf_le_nextBand band temp), fun _ h => ?_,
    fun cold near => ?_, nextBand_leaves hb⟩
  · rw [nextBand_kept (by omega), max_eq_right ((le_bandOf hb).2 h)]
    exact (le_bandOf (bandOf_le temp)).1 le_rfl
  · rw [nextBand_kept h]
    exact le_max_left _ _
  · have low : ¬ band ≤ bandOf temp := by rw [le_bandOf hb]; omega
    rw [nextBand_kept near]
    exact max_eq_left (by omega)

/-! ### The rail (R433) -/

theorem State.trip_running {s : State} (h : s.dev.tripped = false) :
    s.trip = s.modDev fun d => { d with tripped := true, railMv := 0, outbox := d.outbox ++ [.thermTrip] } := by
  simp [State.trip, h, State.emit, State.modDev]

theorem State.trip_tripped {s : State} (h : s.dev.tripped = true) : s.trip = s := by simp [State.trip, h]

/-- The clusters with the slacks that a trim measures. -/
def State.withSlacks (s : State) (slacks : List Nat) : State :=
  { s with clusters := s.clusters.mapIdx fun i k => { k with power := { k.power with slack := min 63 (slacks.getD i k.power.slack) } } }

/-- An update that keeps a property of each entry keeps whether some entry has it. -/
theorem any_mapIdx_of_keeps {α : Type} {l : List α} {f : Nat → α → α} {q : α → Bool} (h : ∀ i x, q (f i x) = q x) :
    (l.mapIdx f).any q = l.any q := by
  induction l generalizing f with
  | nil => rfl
  | cons x t ih => rw [List.mapIdx_cons, List.any_cons, List.any_cons, h, ih fun i => h (i + 1)]

/-- Has a replica check failed since the last trim? -/
def State.replicaFailed (s : State) : Bool := s.clusters.any fun k => k.power.replicaFailed

theorem State.replicaFailed_iff (s : State) : s.replicaFailed = true ↔ ∃ k ∈ s.clusters, k.power.replicaFailed = true := by
  simp [State.replicaFailed]

theorem State.replicaFailed_withSlacks (s : State) (slacks : List Nat) : (s.withSlacks slacks).replicaFailed = s.replicaFailed :=
  any_mapIdx_of_keeps fun _ _ => rfl

/-- The rail after a trim, by the worst slack and its threshold. -/
def trimmedMv (mv slack tslack : Nat) (failed : Bool) : Nat :=
  if slack < tslack || failed then min 560 (mv + 5) else if tslack + 2 < slack then max 460 (mv - 5) else mv

theorem State.trimRail_worstSlack (s : State) (slacks : List Nat) : (s.trimRail slacks).worstSlack = (s.withSlacks slacks).worstSlack := by
  have same (l : List Cluster) : (l.map fun k => ({ k with power := { k.power with replicaFailed := false } } : Cluster)).map
      (fun k => (k.power.slack, k.power.tslack)) = l.map fun k => (k.power.slack, k.power.tslack) := by simp [Function.comp_def]
  exact congrArg (List.foldl _ (64, 0)) (same (s.withSlacks slacks).clusters)

theorem State.trimRail_shape (s : State) (slacks : List Nat) : s.trimRail slacks = { s with
    dev := { s.dev with trimTicks := 0, railMv := trimmedMv s.dev.railMv (s.trimRail slacks).worstSlack.1 (s.trimRail slacks).worstSlack.2 s.replicaFailed }
    clusters := (s.trimRail slacks).clusters } := by
  rw [State.trimRail_worstSlack, ← State.replicaFailed_withSlacks s slacks]
  rfl

theorem State.trimRail_cluster {s : State} {k : Nat} (slacks : List Nat) (h : k < s.clusters.length) :
    (s.trimRail slacks).cluster k = { s.cluster k with
      power := { (s.cluster k).power with slack := min 63 (slacks.getD k (s.cluster k).power.slack), replicaFailed := false } } := by
  have h' : k < (s.withSlacks slacks).clusters.length := by simpa [State.withSlacks] using h
  refine (getD_map_lt {} (fun c : Cluster => { c with power := { c.power with replicaFailed := false } }) h').trans ?_
  exact congrArg (fun c : Cluster => ({ c with power := { c.power with replicaFailed := false } } : Cluster)) (getD_mapIdx_lt {} _ h)

theorem trimmedMv_within {mv : Nat} (slack tslack : Nat) (failed : Bool) (low : 460 ≤ mv) (high : mv ≤ 560) :
    460 ≤ trimmedMv mv slack tslack failed ∧ trimmedMv mv slack tslack failed ≤ 560 := by
  unfold trimmedMv
  split
  · omega
  · split <;> omega

theorem trimmedMv_up {slack tslack : Nat} {failed : Bool} (mv : Nat) (h : slack < tslack ∨ failed = true) :
    trimmedMv mv slack tslack failed = min 560 (mv + 5) := if_pos (by simpa using h)

theorem trimmedMv_down {slack tslack : Nat} (mv : Nat) (h : tslack + 2 < slack) :
    trimmedMv mv slack tslack false = max 460 (mv - 5) := by
  have notUp : ¬ slack < tslack := by omega
  simp [trimmedMv, notUp, h]

theorem trimmedMv_stays {slack tslack : Nat} (mv : Nat) (low : tslack ≤ slack) (high : slack ≤ tslack + 2) :
    trimmedMv mv slack tslack false = mv := by
  simp [trimmedMv, Nat.not_lt.2 low, Nat.not_lt.2 high]

theorem railTrim_due {s : State} (slacks : List Nat) (h : 4096 ≤ s.dev.trimTicks) : exec (.railTrim slacks) s = .next (s.trimRail slacks) := by
  rw [railTrim_trimmed, State.trimmed, if_pos (by simpa [Dev.trimDue] using h)]

theorem railTrim_early {s : State} (slacks : List Nat) (h : s.dev.trimTicks < 4096) : exec (.railTrim slacks) s = .next s := by
  rw [railTrim_trimmed, State.trimmed, if_neg (by simpa [Dev.trimDue] using h)]

/-- A trim moves the rail one step within its bounds, by the worst slack, up after a failed replica check (R433). -/
theorem railTrim_outcome {s : State} (slacks : List Nat) (due : 4096 ≤ s.dev.trimTicks) (low : 460 ≤ s.dev.railMv) (high : s.dev.railMv ≤ 560) :
    ∃ t, exec (.railTrim slacks) s = .next t ∧
    460 ≤ t.dev.railMv ∧ t.dev.railMv ≤ 560 ∧ t = { s with dev := { s.dev with railMv := t.dev.railMv, trimTicks := 0 }, clusters := t.clusters } ∧
    (∀ k, k < s.clusters.length → t.cluster k = { s.cluster k with
      power := { (s.cluster k).power with slack := min 63 (slacks.getD k (s.cluster k).power.slack), replicaFailed := false } }) ∧
    let failed := ∃ k ∈ s.clusters, k.power.replicaFailed = true
    (t.worstSlack.1 < t.worstSlack.2 ∨ failed → t.dev.railMv = min 560 (s.dev.railMv + 5)) ∧
    (¬ failed → t.worstSlack.2 + 2 < t.worstSlack.1 → t.dev.railMv = max 460 (s.dev.railMv - 5)) ∧
    (¬ failed → t.worstSlack.2 ≤ t.worstSlack.1 → t.worstSlack.1 ≤ t.worstSlack.2 + 2 → t.dev.railMv = s.dev.railMv) := by
  obtain ⟨t, ht⟩ : ∃ t, t = s.trimRail slacks := ⟨_, rfl⟩
  have shape := State.trimRail_shape s slacks
  rw [← ht] at shape
  have mv : t.dev.railMv = trimmedMv s.dev.railMv t.worstSlack.1 t.worstSlack.2 s.replicaFailed := congrArg (fun u => u.dev.railMv) shape
  obtain ⟨above, below⟩ := trimmedMv_within t.worstSlack.1 t.worstSlack.2 s.replicaFailed low high
  rw [← mv] at above below
  refine ⟨t, ht ▸ railTrim_due slacks due, above, below, ?_, fun k hk => ht ▸ State.trimRail_cluster slacks hk, ?_⟩
  · rw [mv]; exact shape
  · simp only [← State.replicaFailed_iff, Bool.not_eq_true]
    refine ⟨fun up => mv.trans (trimmedMv_up _ up), fun ok slack => ?_, fun ok least most => ?_⟩
    · rw [mv, ok, trimmedMv_down _ slack]
    · rw [mv, ok, trimmedMv_stays _ least most]

/-! ### The watchdog (R435) -/

/-- `t` is `s` but for device registers, with A of every cluster at 0 and its credits discarded. -/
def State.BoostHeld (s t : State) : Prop :=
  t = { s with dev := t.dev, clusters := t.clusters } ∧ t.clusters.length = s.clusters.length ∧
    ∀ k, k < s.clusters.length → t.cluster k = { s.cluster k with power := { (s.cluster k).power with a := 0, credit := 0 } }

/-- A cluster with A at 0 and its credits discarded. -/
def Cluster.held (c : Cluster) : Cluster := { c with power := { c.power with a := 0, credit := 0 } }

theorem State.holdBoost_frozen {s : State} (h : s.dev.frozen = true) : s.holdBoost = { s with clusters := s.clusters.map Cluster.held } :=
  if_pos h

theorem State.holdBoost_free {s : State} (h : s.dev.frozen = false) : s.holdBoost = s := if_neg (by simp [h])

/-- Holding twice is holding once. -/
theorem Cluster.map_held_held (l : List Cluster) : (l.map Cluster.held).map Cluster.held = l.map Cluster.held := by
  simp [Function.comp_def, Cluster.held]

theorem State.boostHeld_of {s t : State} (h : t = { s with dev := t.dev, clusters := s.clusters.map Cluster.held }) : s.BoostHeld t := by
  have clusters : t.clusters = s.clusters.map Cluster.held := congrArg State.clusters h
  refine ⟨by rw [clusters]; exact h, by simp [clusters], fun k hk => ?_⟩
  show t.clusters.getD k {} = _
  rw [clusters]
  exact getD_map_lt {} Cluster.held hk

theorem watchdogLapse_due {s : State} (h : 2 ^ 20 ≤ s.dev.kickTicks ∧ s.dev.wdLapsed = false ∧ s.dev.hkcUpdate = false) :
    ∃ t, exec .watchdogLapse s = .next t ∧ s.BoostHeld t ∧ t.dev = { s.dev with wdLapsed := true } := by
  have due := (Dev.lapseDue_iff s.dev).2 h
  refine ⟨_, watchdogLapse_lapse s, ?_, by rw [State.lapse_dev, if_pos due]⟩
  rw [State.lapse, if_pos due, State.holdBoost_frozen (by rfl)]
  exact State.boostHeld_of rfl

theorem watchdogLapse_early {s : State} (h : ¬ (2 ^ 20 ≤ s.dev.kickTicks ∧ s.dev.wdLapsed = false ∧ s.dev.hkcUpdate = false)) :
    exec .watchdogLapse s = .next s := by
  rw [← Dev.lapseDue_iff] at h
  rw [watchdogLapse_lapse, State.lapse, if_neg h]

theorem wdkick_outcome (s : State) : ∃ t, exec .wdkick s = .next t ∧ t.dev = { s.dev with wdLapsed := false, kickTicks := 0 } ∧
    ((s.dev.wdLapsed || s.dev.hkcUpdate) = true → s.BoostHeld t) ∧
    ((s.dev.wdLapsed || s.dev.hkcUpdate) = false → t.clusters = s.clusters) := by
  refine ⟨s.holdBoost.modDev fun d => { d with wdLapsed := false, kickTicks := 0 }, rfl, by simp, fun frozen => ?_, fun free => ?_⟩
  · rw [State.holdBoost_frozen frozen]
    exact State.boostHeld_of rfl
  · rw [State.holdBoost_free free]
    rfl

/-- Before or after its start or end an update freezes boost, so A is held either way. -/
theorem hkcFirmwareUpdate_outcome (s : State) : ∃ t, exec .hkcFirmwareUpdate s = .next t ∧
    t.dev = { s.dev with hkcUpdate := !s.dev.hkcUpdate, kickTicks := 0 } ∧ s.BoostHeld t := by
  refine ⟨(s.holdBoost.modDev fun d => { d with hkcUpdate := !d.hkcUpdate, kickTicks := 0 }).holdBoost, rfl, by simp, ?_⟩
  cases update : s.dev.hkcUpdate with
  | false =>
    rw [State.holdBoost_frozen (by simp [Dev.frozen, update])]
    cases frozen : s.dev.frozen with
    | false => rw [State.holdBoost_free frozen]; exact State.boostHeld_of rfl
    | true =>
      rw [State.holdBoost_frozen frozen, State.modDev_clusters, Cluster.map_held_held]
      exact State.boostHeld_of rfl
  | true =>
    rw [State.holdBoost_frozen (s := s) (by simp [Dev.frozen, update])]
    cases frozen : ({ s.dev with hkcUpdate := !s.dev.hkcUpdate, kickTicks := 0 } : Dev).frozen with
    | false => rw [State.holdBoost_free frozen]; exact State.boostHeld_of rfl
    | true =>
      rw [State.holdBoost_frozen frozen, State.modDev_clusters, Cluster.map_held_held]
      exact State.boostHeld_of rfl

/-! ### The statement -/

/-- A pulse of the master clock where nothing is overdue (R12, R427 to R430). -/
theorem State.onePulse_outcome {s : State} {k : Nat} (hk : k < s.clusters.length) (idle : s.anyDue = false) :
    let p := (s.cluster k).power
    let c := s.onePulse.cluster k
    let passes := s.dev.pulse % 16 * p.step / 16 < (s.dev.pulse % 16 + 1) * p.step / 16
    let tick := s.dev.pulse % 20 = 19
    let q : Power := { p with ticks := if tick then p.ticks + 1 else p.ticks }
    s.onePulse = { s with clusters := s.onePulse.clusters, dev := { s.dev with
      pulse := s.dev.pulse + 1, fabricStep := if tick then (s.clusters.map fun c => c.power.step).foldl max 0 else s.dev.fabricStep
      trimTicks := if tick then s.dev.trimTicks + 1 else s.dev.trimTicks, kickTicks := if tick then s.dev.kickTicks + 1 else s.dev.kickTicks } } ∧
    c.tim = (if tick then (s.cluster k).tim + 1 else (s.cluster k).tim) ∧
    (¬ passes → c.cyc = (s.cluster k).cyc ∧ c.power = q) ∧
    (passes → p.stretch = false ∨ p.skip = false → c.cyc = (s.cluster k).cyc + 1 ∧ c.power = { q with skip := p.stretch, window := p.window + 1 }) ∧
    (passes → p.stretch = true → p.skip = true → c.cyc = (s.cluster k).cyc ∧ c.power = { q with skip := false }) := by
  intro p c passes tick q
  have eq : c = (s.cluster k).pulse (s.dev.pulse % 16) (s.dev.pulse % 20 == 19) := by
    show s.onePulse.cluster k = _
    rw [State.onePulse_idle idle, State.pulseOn_cluster hk]
  have count (a b : Nat) : (if (s.dev.pulse % 20 == 19) = true then a else b) = if tick then a else b := by simp only [beq_iff_eq, tick]
  refine ⟨?_, ?_, fun h => ?_, fun h hs => ?_, fun h hs hk => ?_⟩
  · rw [State.onePulse_idle idle]
    exact State.pulseOn_shape s
  · rw [eq]
    simp only [Cluster.pulse, beq_iff_eq, tick]
  · rw [eq, Cluster.pulse_blocked _ (Bool.eq_false_of_not_eq_true (mt (patternPasses_iff _ _).1 h)), count]
    exact ⟨rfl, rfl⟩
  · rw [eq, Cluster.pulse_taken _ ((patternPasses_iff _ _).2 h) hs, count]
    exact ⟨rfl, rfl⟩
  · rw [eq, Cluster.pulse_skipped _ ((patternPasses_iff _ _).2 h) hs hk, count]
    exact ⟨rfl, rfl⟩

theorem droopOnset_outcome (s : State) (k : Nat) : exec (.droopOnset k) s = .next (s.modPower k fun p =>
    let q := { p with droops := (p.droops + 1) % 2 ^ 32, stretch := true, droopAt := s.dev.pulse }
    if p.dalarm < (q.droops + 2 ^ 32 - p.droopsAt) % 2 ^ 32 then { q with alarm := true, alarmSeen := true } else q) := by
  refine congrArg Host.Outcome.next (State.modPower_congr s k ?_)
  simp only [Power.droopAlarm, Power.raiseAlarm, decide_eq_true_eq]

theorem droopRecovery_outcome (s : State) (k : Nat) :
    ((s.cluster k).power.droopAt + 256 ≤ s.dev.pulse → exec (.droopRecovery k) s = .next (s.modPower k fun p => { p with stretch := false })) ∧
    (s.dev.pulse < (s.cluster k).power.droopAt + 256 → exec (.droopRecovery k) s = .next s) :=
  ⟨fun h => congrArg Host.Outcome.next (State.modPower_congr s k (if_pos h)),
    fun h => congrArg Host.Outcome.next (State.modPower_same s k (if_neg (Nat.not_le.2 h)))⟩

theorem loadWindow_outcome (s : State) (k real : Nat) :
    ((s.cluster k).power.window < 4096 → exec (.loadWindow k real) s = .next s) ∧
    (4096 ≤ (s.cluster k).power.window → exec (.loadWindow k real) s = .next (s.modPower k fun p => p.endWindow real)) :=
  ⟨fun h => congrArg Host.Outcome.next (State.modPower_same s k (if_neg (by simpa [Power.windowDue] using h))),
    fun h => congrArg Host.Outcome.next (State.modPower_congr s k (if_pos (by simpa [Power.windowDue] using h)))⟩

theorem temperatureBandChange_outcome (s : State) (k temp : Nat) :
    let t := s.modPower k fun p => { p with temp := temp, tband := nextBand p.tband temp }
    (temp < 115 ∨ s.dev.tripped = true → exec (.temperatureBandChange k temp) s = .next t) ∧
    (115 ≤ temp → s.dev.tripped = false → exec (.temperatureBandChange k temp) s =
      .next (t.modDev fun d => { d with tripped := true, railMv := 0, outbox := d.outbox ++ [.thermTrip] })) := by
  intro t
  have eq : exec (.temperatureBandChange k temp) s = .next (if 115 ≤ temp then t.trip else t) := rfl
  rw [eq]
  refine ⟨fun h => ?_, fun hot running => ?_⟩
  · split
    · rw [State.trip_tripped (s := t) (h.resolve_left (by omega))]
    · rfl
  · rw [if_pos hot, State.trip_running (s := t) running]

/-- Settles O58: pulses, what comes due, droops, bands, rail, load and watchdog, each by its own lemma. -/
theorem powerSteps : Obligations.PowerSteps := by
  unfold Obligations.PowerSteps
  refine ⟨fun s k hk idle => State.onePulse_outcome hk idle, State.anyDue_iff, fun s => State.onePulse_overdue,
    fun s k used slackUp real => ⟨rfl, rfl⟩, fun s k => ⟨fun h => congrArg Host.Outcome.next (if_pos h), fun h => congrArg Host.Outcome.next (if_neg h)⟩,
    fun s => ⟨fun h => congrArg Host.Outcome.next (if_pos h), fun h => congrArg Host.Outcome.next (if_neg h)⟩, droopOnset_outcome,
    droopRecovery_outcome, fun s k => rfl, temperatureBandChange_outcome, fun band temp hb => nextBand_spec temp hb, by decide,
    fun s => ⟨fun h => congrArg Host.Outcome.next (State.trip_running h), fun h => congrArg Host.Outcome.next (State.trip_tripped h)⟩,
    fun s slacks => railTrim_early slacks, fun s slacks => railTrim_outcome slacks, loadWindow_outcome,
    fun s => ⟨watchdogLapse_due, watchdogLapse_early⟩, wdkick_outcome, hkcFirmwareUpdate_outcome⟩

end Sys2Proof.Machine
end

section
/-! Proofs about caches: what an eviction at level one or two, a write-back, a compression and a page walk change
(R11, R17, R236 to R240, R285, R411, R413). -/

namespace Sys2Proof.Machine

/-! ### The partition of the L1 (R17, R238) -/

theorem l1Trim_sublist (n : Nat) (l : List L1Sector) : (l1Trim n l).Sublist l := by
  induction l generalizing n with
  | nil => cases n <;> exact .slnil
  | cons x t ih =>
    cases n with
    | zero => exact .refl _
    | succ n =>
      rw [l1Trim]
      split
      · exact (ih n).cons x
      · exact (ih (n + 1)).cons_cons x

/-- A held sector stays. -/
theorem mem_l1Trim_of_held {n : Nat} {l : List L1Sector} {x : L1Sector} (hx : x ∈ l) (held : x.held.isEmpty = false) : x ∈ l1Trim n l := by
  induction l generalizing n with
  | nil => exact absurd hx (List.not_mem_nil)
  | cons y t ih =>
    cases n with
    | zero => exact hx
    | succ n =>
      rw [l1Trim]
      rcases List.mem_cons.1 hx with rfl | ht
      · rw [if_neg (by simp [held])]
        exact List.mem_cons_self
      · split
        · exact ih ht
        · exact List.mem_cons_of_mem _ (ih ht)

/-- As many sectors leave as are asked for, where so many are not held. -/
theorem length_l1Trim {n : Nat} {l : List L1Sector} (h : n ≤ (l.filter fun x => x.held.isEmpty).length) :
    (l1Trim n l).length + n = l.length := by
  induction l generalizing n with
  | nil => cases n <;> simp_all [l1Trim]
  | cons x t ih =>
    cases n with
    | zero => rfl
    | succ n =>
      rw [l1Trim]
      split
      next free =>
        have := ih (n := n) (by simpa [List.filter_cons, free] using h)
        simp only [List.length_cons]; omega
      next held =>
        have := ih (n := n + 1) (by simpa [List.filter_cons, held] using h)
        simp only [List.length_cons]; omega

/-- A partition change waits where held sectors need more than it leaves. -/
theorem l1PartitionChange_waits {s : State} {core : Nat}
    (h : (576 - s.wantedPartition core) * 16 < ((s.core core).l1.filter fun x => !x.held.isEmpty).length) :
    exec (.l1PartitionChange core) s = .next s := congrArg Host.Outcome.next (if_pos h)

theorem l1PartitionChange_trims {s : State} {core : Nat}
    (h : ((s.core core).l1.filter fun x => !x.held.isEmpty).length ≤ (576 - s.wantedPartition core) * 16) :
    exec (.l1PartitionChange core) s = .next (s.modCore core fun c => { c with
      partition := s.wantedPartition core
      l1 := l1Trim (c.l1.length - (576 - s.wantedPartition core) * 16) c.l1 }) := congrArg Host.Outcome.next (if_neg (Nat.not_lt.2 h))

/-- The L1 after a trim to `room` sectors that its held ones keep to. -/
theorem l1Trim_fits {l : List L1Sector} {room : Nat} (h : (l.filter fun x => !x.held.isEmpty).length ≤ room) :
    (l1Trim (l.length - room) l).length = min room l.length := by
  have split := List.length_eq_length_filter_add (l := l) (fun x => x.held.isEmpty)
  have enough : l.length - room ≤ (l.filter fun x => x.held.isEmpty).length := by omega
  have := length_l1Trim enough
  omega

theorem l1PartitionChange_outcome {s : State} {core : Nat} (hc : core < s.cores.length) :
    let room := (576 - s.wantedPartition core) * 16
    let l1 := (s.core core).l1
    let held := l1.filter fun x => !x.held.isEmpty
    (room < held.length → exec (.l1PartitionChange core) s = .next s) ∧
    (held.length ≤ room → ∃ t, exec (.l1PartitionChange core) s = .next t ∧ t = { s with cores := t.cores } ∧
      t.core core = { s.core core with partition := s.wantedPartition core, l1 := (t.core core).l1 } ∧
      (t.core core).l1.Sublist l1 ∧ (t.core core).l1.length = min room l1.length ∧ ∀ x ∈ held, x ∈ (t.core core).l1) := by
  intro room l1 held
  refine ⟨l1PartitionChange_waits, fun h => ⟨_, l1PartitionChange_trims h, rfl, ?_⟩⟩
  rw [State.core_modCore _ hc]
  refine ⟨rfl, l1Trim_sublist _ _, l1Trim_fits h, fun x hx => ?_⟩
  obtain ⟨mem, isHeld⟩ := List.mem_filter.1 hx
  exact mem_l1Trim_of_held mem (by simpa using isHeld)

theorem l1Eviction_outcome (s : State) (core sector : Nat) : ∃ t, exec (.l1Eviction core sector) s = .next t ∧ t = { s with cores := t.cores } ∧
    (core < s.cores.length → (t.core core).l1 = (s.core core).l1.filter fun x => !(x.sector == sector && x.held.isEmpty)) :=
  ⟨_, rfl, rfl, fun h => congrArg CoreSt.l1 (State.core_modCore (fun c => { c with l1 := c.l1.filter _ }) h)⟩

/-! ### Writing dirty bytes to memory (R236) -/

/-- A masked write changes the bytes whose mask bit is set, and no other. -/
theorem Memory.get_writeMasked {m : Memory} (a : Nat) (mask : DWord) (bs : List Byte) (b : Nat) (h : m.wf = true) :
    (m.writeMasked a mask bs).get b =
      if a ≤ b ∧ b < a + 64 ∧ mask.getLsbD (b - a) = true then bs.getD (b - a) 0 else m.get b := by
  have upto : ∀ n, let w := (List.range n).foldl (fun m i => if mask.getLsbD i then m.put (a + i) (bs.getD i 0) else m) m
      w.wf = true ∧ w.get b = if a ≤ b ∧ b < a + n ∧ mask.getLsbD (b - a) = true then bs.getD (b - a) 0 else m.get b := by
    intro n
    induction n with
    | zero => exact ⟨h, (if_neg (by omega)).symm⟩
    | succ n ih =>
      obtain ⟨wf, get⟩ := ih
      simp only [List.range_succ, List.foldl_append, List.foldl_cons, List.foldl_nil]
      by_cases hb : b = a + n
      · subst hb
        by_cases hn : mask.getLsbD n = true
        · simp only [if_pos hn, Memory.get_put _ _ _ _ wf]
          exact ⟨Memory.put_wf _ _ _ wf, by simp [hn]⟩
        · simp only [if_neg hn, get]
          exact ⟨wf, by simp [hn]⟩
      · have same : b < a + (n + 1) ↔ b < a + n := by omega
        by_cases hn : mask.getLsbD n = true
        · simp only [if_pos hn, Memory.get_put _ _ _ _ wf, if_neg hb, same, get]
          exact ⟨Memory.put_wf _ _ _ wf, trivial⟩
        · simp only [if_neg hn, same, get]
          exact ⟨wf, trivial⟩
  exact (upto 64).2

/-- Memory after the dirty bytes of sectors were written to it. -/
def flushed (xs : List L2Sector) (m : Memory) : Memory := xs.foldl (fun m x => m.writeMasked (64 * x.sector) x.dirty x.data) m

theorem flushed_wf (xs : List L2Sector) {m : Memory} (h : m.wf = true) : (flushed xs m).wf = true := by
  induction xs generalizing m with
  | nil => exact h
  | cons x t ih => exact ih (Memory.writeMasked_wf _ _ _ _ h)

/-- A byte that no sector holds dirty stays. -/
theorem flushed_get_clean {xs : List L2Sector} {m : Memory} {a : Nat} (h : m.wf = true)
    (clean : ∀ x ∈ xs, x.sector = a / 64 → x.dirty.getLsbD (a % 64) = false) : (flushed xs m).get a = m.get a := by
  induction xs generalizing m with
  | nil => rfl
  | cons x t ih =>
    refine (ih (Memory.writeMasked_wf _ _ _ _ h) fun y hy => clean y (List.mem_cons_of_mem _ hy)).trans ?_
    rw [Memory.get_writeMasked _ _ _ _ h, if_neg]
    rintro ⟨low, high, dirty⟩
    have place : a - 64 * x.sector = a % 64 := by omega
    rw [place, clean x List.mem_cons_self (by omega)] at dirty
    exact absurd dirty Bool.false_ne_true

/-- Each sector's own dirty bytes are in memory afterwards. -/
theorem flushed_get_own {xs : List L2Sector} {m : Memory} {x : L2Sector} {i : Nat} (h : m.wf = true)
    (distinct : xs.Pairwise fun a b => a.sector ≠ b.sector) (hx : x ∈ xs) (hi : i < 64) :
    (flushed xs m).get (64 * x.sector + i) = if x.dirty.getLsbD i then x.data.getD i 0 else m.get (64 * x.sector + i) := by
  induction xs generalizing m with
  | nil => exact absurd hx List.not_mem_nil
  | cons y t ih =>
    obtain ⟨first, rest⟩ := List.pairwise_cons.1 distinct
    have wf := Memory.writeMasked_wf m (64 * y.sector) y.dirty y.data h
    rcases List.mem_cons.1 hx with rfl | ht
    · refine (flushed_get_clean wf fun z hz same => absurd ?_ (first z hz)).trans ?_
      · omega
      · rw [Memory.get_writeMasked _ _ _ _ h, Nat.add_sub_cancel_left]
        have inside : 64 * x.sector ≤ 64 * x.sector + i ∧ 64 * x.sector + i < 64 * x.sector + 64 := by omega
        simp only [inside, true_and]
    · refine (ih wf rest ht).trans ?_
      rw [Memory.get_writeMasked _ _ _ _ h, if_neg (c := _ ∧ _)]
      have := first x ht
      omega

/-! ### Evicting a line of level two (R17, R236, R237, R240) -/

/-- The lines of a superblock are no longer compressed (R237). -/
theorem State.expand_eq (s : State) (slice sector : Nat) : s.expand slice sector =
    { s with l2 := s.l2.map fun x => if x.slice == slice && x.sector / 16 == sector / 16 then { x with frames := 0 } else x } := by
  unfold State.expand
  split
  · rfl
  next none_compressed =>
    have same : (s.l2.map fun x => if x.slice == slice && x.sector / 16 == sector / 16 then { x with frames := 0 } else x) = s.l2 := by
      refine (List.map_congr_left fun x hx => ?_).trans (List.map_id s.l2)
      split
      next mine =>
        have frames : x.frames = 0 := by
          by_contra compressed
          exact none_compressed (List.any_eq_true.2 ⟨x, hx, by rw [mine]; simpa using compressed⟩)
        rw [← frames]; rfl
      · rfl
    rw [same]

/-- The cores after level two gave up the sectors of `p`: no L1 keeps a copy but a held one (R17). -/
theorem State.forgetL1_eq (s : State) (p : Nat → Bool) :
    s.forgetL1 p = { s with cores := s.cores.map fun c => { c with l1 := c.l1.filter fun x => !(p x.sector && x.held.isEmpty) } } := by
  refine congrArg (fun l => ({ s with cores := l } : State)) (List.map_congr_left fun c _ => ?_)
  split
  · rfl
  next no_copy =>
    have all : c.l1.filter (fun x => !(p x.sector && x.held.isEmpty)) = c.l1 := by
      refine List.filter_eq_self.2 fun x hx => ?_
      by_contra copy
      exact no_copy (List.any_eq_true.2 ⟨x, hx, by simpa using copy⟩)
    rw [all]

/-- Sectors of level two after the superblock of a line was expanded and the line left. -/
def keptSectors (slice line : Nat) (l : List L2Sector) : List L2Sector :=
  (l.map fun x => if x.slice == slice && x.sector / 16 == 4 * line / 16 then { x with frames := 0 } else x).filter
    fun y => !(y.slice == slice && y.line == line)

theorem foldl_withMem (f : Memory → L2Sector → Memory) (xs : List L2Sector) (s : State) :
    xs.foldl (fun s x => { s with mem := f s.mem x }) s = { s with mem := xs.foldl f s.mem } := by
  induction xs generalizing s with
  | nil => rfl
  | cons x t ih => exact ih _

/-- A line leaves level two: its dirty bytes are in memory, and the L1s have no copy of it but held ones. -/
theorem State.evictLine_eq (s : State) (slice line : Nat) : s.evictLine slice line = { s with
    l2 := keptSectors slice line s.l2
    mem := flushed (s.lineSectors slice line) s.mem
    cores := s.cores.map fun c => { c with l1 := c.l1.filter fun y =>
      !((s.lineSectors slice line).any (fun x => x.sector == y.sector) && y.held.isEmpty) } } := by
  simp only [State.evictLine]
  rw [State.forgetL1_eq, foldl_withMem (fun m x => m.writeMasked (64 * x.sector) x.dirty x.data), State.expand_eq]
  rfl

theorem State.evictLine_core (s : State) (slice line c : Nat) : (s.evictLine slice line).core c = { s.core c with
    l1 := (s.core c).l1.filter fun y => !((s.lineSectors slice line).any (fun x => x.sector == y.sector) && y.held.isEmpty) } :=
  State.core_of_map (f := fun c => { c with l1 := c.l1.filter fun y =>
      !((s.lineSectors slice line).any (fun x => x.sector == y.sector) && y.held.isEmpty) })
    (congrArg State.cores (s.evictLine_eq slice line)) rfl c

/-- A victim leaves as any line; the contexts may demote a handle of it. -/
theorem State.evictVictim_eq (s : State) (slice line : Nat) :
    ∃ ctxs, s.evictVictim slice line = ({ s with ctxs := ctxs } : State).evictLine slice line := by
  simp only [State.evictVictim]
  split
  · split
    · exact ⟨_, rfl⟩
    · exact ⟨s.ctxs, rfl⟩
  · exact ⟨s.ctxs, rfl⟩

theorem State.evictVictim_l2 (s : State) (slice line : Nat) : (s.evictVictim slice line).l2 = keptSectors slice line s.l2 := by
  obtain ⟨ctxs, eq⟩ := s.evictVictim_eq slice line
  rw [eq, State.evictLine_eq]

theorem State.evictVictim_mem (s : State) (slice line : Nat) :
    (s.evictVictim slice line).mem = flushed (s.lineSectors slice line) s.mem := by
  obtain ⟨ctxs, eq⟩ := s.evictVictim_eq slice line
  rw [eq, State.evictLine_eq]
  rfl

/-- The L1s keep no copy of the victim's sectors but held ones (R17). -/
theorem State.evictVictim_core (s : State) (slice line c : Nat) : (s.evictVictim slice line).core c = { s.core c with
    l1 := (s.core c).l1.filter fun y =>
      !(y.held.isEmpty && s.l2.any fun x => x.slice == slice && x.line == line && x.sector == y.sector) } := by
  obtain ⟨ctxs, eq⟩ := s.evictVictim_eq slice line
  rw [eq, State.evictLine_core]
  simp only [State.lineSectors, List.any_filter, Bool.and_comm (_ : Bool) (L1Sector.held _).isEmpty]
  rfl

theorem State.evictVictim_shape (s : State) (slice line : Nat) : s.evictVictim slice line = { s with
    l2 := (s.evictVictim slice line).l2, mem := (s.evictVictim slice line).mem, ctxs := (s.evictVictim slice line).ctxs
    cores := (s.evictVictim slice line).cores } := by
  obtain ⟨ctxs, eq⟩ := s.evictVictim_eq slice line
  rw [eq, State.evictLine_eq]

/-! ### What evictions and reads of level two leave unchanged -/

/-- `t` is `s` but for memory, level two, the contexts' handles and the L1 copies. -/
def CachesOnly (s t : State) : Prop :=
  t = { s with l2 := t.l2, mem := t.mem, ctxs := t.ctxs, l2Clock := t.l2Clock, cores := t.cores } ∧
    ∀ c, t.core c = { s.core c with l1 := (t.core c).l1 }

theorem CachesOnly.refl (s : State) : CachesOnly s s := ⟨rfl, fun _ => rfl⟩

theorem CachesOnly.trans {s t u : State} (h : CachesOnly s t) (k : CachesOnly t u) : CachesOnly s u := by
  obtain ⟨ht, hc⟩ := h
  obtain ⟨ku, kc⟩ := k
  refine ⟨?_, fun c => ?_⟩
  · rw [ku, ht]
  · rw [kc c, hc c]

theorem CachesOnly.of_l2 (s : State) (l : List L2Sector) (n : Nat) : CachesOnly s { s with l2 := l, l2Clock := n } := ⟨rfl, fun _ => rfl⟩

/-- A step by step update keeps what each step keeps. -/
theorem CachesOnly.foldl {α : Type} {f : State → α → State} (h : ∀ s x, CachesOnly s (f s x)) (l : List α) (s : State) :
    CachesOnly s (l.foldl f s) := by
  induction l generalizing s with
  | nil => exact .refl s
  | cons x t ih => exact (h s x).trans (ih _)

theorem State.evictLine_cachesOnly (s : State) (slice line : Nat) : CachesOnly s (s.evictLine slice line) := by
  refine ⟨?_, fun c => ?_⟩
  · rw [State.evictLine_eq]
  · rw [State.evictLine_core]

theorem State.evictVictim_cachesOnly (s : State) (slice line : Nat) : CachesOnly s (s.evictVictim slice line) := by
  obtain ⟨ctxs, eq⟩ := s.evictVictim_eq slice line
  rw [eq]
  exact CachesOnly.trans ⟨rfl, fun _ => rfl⟩ (State.evictLine_cachesOnly _ slice line)

/-- What every eviction of a line keeps, trimming a slice to its frames keeps. -/
theorem State.l2Fit_induction {P : State → Prop} {slice : Nat} (victim : ∀ s line, P s → P (s.evictVictim slice line))
    (evict : ∀ s line, P s → P (s.evictLine slice line)) {s : State} (sector : Nat) (h : P s) : P (s.l2Fit slice sector) := by
  have from_fuel : ∀ fuel line s, P s → P (l2FitFrom slice line fuel s) := by
    intro fuel line
    induction fuel with
    | zero => exact fun s h => h
    | succ fuel ih =>
      intro s h
      rw [l2FitFrom]
      split
      · exact h
      · split
        · exact ih _ (victim _ _ h)
        · exact List.foldlRecOn [0, 1, 2, 3] _ h fun u hu k _ => evict u _ hu
  unfold State.l2Fit
  split
  · exact h
  · exact from_fuel _ _ _ h

theorem State.l2Fit_cachesOnly (s : State) (slice sector : Nat) : CachesOnly s (s.l2Fit slice sector) :=
  State.l2Fit_induction (P := CachesOnly s) (fun t line h => h.trans (t.evictVictim_cachesOnly slice line))
    (fun t line h => h.trans (t.evictLine_cachesOnly slice line)) sector (.refl s)

theorem State.putL2_cachesOnly (s : State) (x : L2Sector) : CachesOnly s (s.putL2 x) := by
  unfold State.putL2
  split <;> exact CachesOnly.of_l2 s _ s.l2Clock

theorem State.l2Hit_cachesOnly (s : State) (x : Loc) (hs : List (Nat × Nat)) : CachesOnly s (s.l2Hit x hs) := by
  unfold State.l2Hit
  split
  next y _ _ => exact (s.putL2_cachesOnly _).trans (CachesOnly.of_l2 _ _ _)
  · exact .refl s

theorem State.l2Read_cachesOnly (s : State) (x : Loc) (need : DWord) (hs : List (Nat × Nat)) : CachesOnly s (s.l2Read x need hs) := by
  unfold State.l2Read
  split
  · exact .refl s
  · split
    · refine CachesOnly.trans ?_ (State.l2Hit_cachesOnly _ x hs)
      split
      · exact .refl s
      · exact s.putL2_cachesOnly _
    · exact ((s.putL2_cachesOnly _).trans (State.l2Hit_cachesOnly _ x hs)).trans (State.l2Fit_cachesOnly _ _ _)

theorem State.walkFills_cachesOnly (s : State) (space : Nat) (va : DWord) : CachesOnly s (s.walkFills space va) := by
  unfold State.walkFills
  split
  · exact .refl s
  · refine CachesOnly.foldl (fun s a => ?_) _ s
    split <;> exact State.l2Read_cachesOnly s _ _ _

/-! ### Bytes of memory that evictions keep -/

/-- The byte of memory at `a` is `v`, and level two holds no newer one. -/
def State.ByteClean (a : Nat) (v : Byte) (s : State) : Prop :=
  s.mem.wf = true ∧ s.mem.get a = v ∧ ∀ x ∈ s.l2, x.sector = a / 64 → x.dirty.getLsbD (a % 64) = false

theorem not_onLine_iff (x : L2Sector) (slice line : Nat) :
    (!(x.slice == slice && x.line == line)) = true ↔ ¬ (x.slice = slice ∧ x.sector / 4 = line) := by
  rw [Bool.not_eq_true', ← Bool.not_eq_true, Bool.and_eq_true, beq_iff_eq, beq_iff_eq]
  rfl

/-- The sectors that stay are as before but for their frames. -/
theorem mem_keptSectors {slice line : Nat} {l : List L2Sector} {x : L2Sector} (h : x ∈ keptSectors slice line l) :
    ¬ (x.slice = slice ∧ x.sector / 4 = line) ∧ ∃ y ∈ l, x = { y with frames := x.frames } := by
  obtain ⟨hx, out⟩ := List.mem_filter.1 h
  refine ⟨(not_onLine_iff x slice line).1 out, ?_⟩
  obtain ⟨y, hy, rfl⟩ := List.mem_map.1 hx
  refine ⟨y, hy, ?_⟩
  split <;> rfl

theorem keptSectors_of_mem {slice line : Nat} {l : List L2Sector} {y : L2Sector} (hy : y ∈ l) (out : ¬ (y.slice = slice ∧ y.sector / 4 = line)) :
    ∃ x ∈ keptSectors slice line l, x = { y with frames := x.frames } := by
  refine ⟨_, List.mem_filter.2 ⟨List.mem_map_of_mem hy, ?_⟩, ?_⟩
  · split <;> exact (not_onLine_iff y slice line).2 out
  · split <;> rfl

theorem State.ByteClean.evictLine {a : Nat} {v : Byte} {s : State} (h : s.ByteClean a v) (slice line : Nat) :
    (s.evictLine slice line).ByteClean a v := by
  obtain ⟨wf, get, clean⟩ := h
  rw [State.evictLine_eq]
  refine ⟨flushed_wf _ wf, ?_, fun x hx => ?_⟩
  · rw [← get]
    exact flushed_get_clean wf fun x hx => clean x (List.mem_filter.1 hx).1
  · obtain ⟨-, y, hy, same⟩ := mem_keptSectors hx
    rw [same]
    exact clean y hy

theorem State.ByteClean.evictVictim {a : Nat} {v : Byte} {s : State} (h : s.ByteClean a v) (slice line : Nat) :
    (s.evictVictim slice line).ByteClean a v := by
  obtain ⟨ctxs, eq⟩ := s.evictVictim_eq slice line
  rw [eq]
  exact State.ByteClean.evictLine (s := { s with ctxs := ctxs }) h slice line

theorem State.ByteClean.l2Fit {a : Nat} {v : Byte} {s : State} (h : s.ByteClean a v) (slice sector : Nat) :
    (s.l2Fit slice sector).ByteClean a v :=
  State.l2Fit_induction (P := State.ByteClean a v) (fun _ line h => h.evictVictim slice line) (fun _ line h => h.evictLine slice line) sector h

/-! ### The victim of R240 -/

/-- Line `m` is to leave before line `n`, or as soon: its rank is lower, or the same and it was used no later. -/
def State.LeavesFirst (s : State) (slice m n : Nat) : Prop :=
  s.lineRank slice m < s.lineRank slice n ∨ (s.lineRank slice m = s.lineRank slice n ∧ s.lineUsed slice m ≤ s.lineUsed slice n)

theorem State.LeavesFirst.refl (s : State) (slice m : Nat) : s.LeavesFirst slice m m := .inr ⟨rfl, le_rfl⟩

theorem State.LeavesFirst.trans {s : State} {slice m n k : Nat} (h : s.LeavesFirst slice m n) (j : s.LeavesFirst slice n k) :
    s.LeavesFirst slice m k := by
  unfold State.LeavesFirst at *
  omega

/-- Of a line chosen so far and another one that leaves first. -/
def State.lower (s : State) (slice : Nat) (acc : Option Nat) (n : Nat) : Option Nat :=
  match acc with
  | none => some n
  | some m =>
    if s.lineRank slice n < s.lineRank slice m ||
      (s.lineRank slice n == s.lineRank slice m && s.lineUsed slice n < s.lineUsed slice m) then some n else some m

theorem State.lower_spec (s : State) (slice : Nat) (acc : Option Nat) (n : Nat) : ∃ m, s.lower slice acc n = some m ∧
    (m = n ∨ acc = some m) ∧ s.LeavesFirst slice m n ∧ ∀ k, acc = some k → s.LeavesFirst slice m k := by
  cases acc with
  | none => exact ⟨n, rfl, .inl rfl, .refl s slice n, fun _ h => nomatch h⟩
  | some m =>
    rw [State.lower]
    split
    next lower =>
      have lower : s.lineRank slice n < s.lineRank slice m ∨
        (s.lineRank slice n = s.lineRank slice m ∧ s.lineUsed slice n < s.lineUsed slice m) := by simpa using lower
      refine ⟨n, rfl, .inl rfl, .refl s slice n, fun k h => ?_⟩
      obtain rfl := Option.some.inj h
      exact lower.imp id fun ⟨rank, used⟩ => ⟨rank, used.le⟩
    next higher =>
      have higher : ¬ (s.lineRank slice n < s.lineRank slice m ∨
        (s.lineRank slice n = s.lineRank slice m ∧ s.lineUsed slice n < s.lineUsed slice m)) := by simpa using higher
      refine ⟨m, rfl, .inr rfl, ?_, fun k h => ?_⟩
      · unfold State.LeavesFirst
        omega
      · obtain rfl := Option.some.inj h
        exact .refl s slice m

/-- `lowestLine` picks one of the lines, that leaves first of all. -/
theorem State.lowestLine_spec {s : State} {slice : Nat} {lines : List Nat} {m : Nat} (h : s.lowestLine slice lines = some m) :
    m ∈ lines ∧ ∀ n ∈ lines, s.LeavesFirst slice m n := by
  have from_acc : ∀ (l : List Nat) (acc : Option Nat), l.foldl (s.lower slice) acc = some m →
      (m ∈ l ∨ acc = some m) ∧ (∀ n ∈ l, s.LeavesFirst slice m n) ∧ ∀ k, acc = some k → s.LeavesFirst slice m k := by
    intro l
    induction l with
    | nil =>
      intro acc h
      refine ⟨.inr h, fun n hn => absurd hn List.not_mem_nil, fun k hk => ?_⟩
      obtain rfl := Option.some.inj (hk.symm.trans h)
      exact .refl s slice k
    | cons n t ih =>
      intro acc h
      obtain ⟨p, picked, source, before_n, before_acc⟩ := s.lower_spec slice acc n
      rw [List.foldl_cons, picked] at h
      obtain ⟨mem, before_t, before_p⟩ := ih _ h
      have before_p := before_p p rfl
      refine ⟨?_, List.forall_mem_cons.2 ⟨before_p.trans before_n, before_t⟩, fun k hk => before_p.trans (before_acc k hk)⟩
      rcases mem with mem | mem
      · exact .inl (List.mem_cons_of_mem _ mem)
      · obtain rfl := Option.some.inj mem
        exact source.imp (fun own => by rw [own]; exact List.mem_cons_self) id
  obtain ⟨mem, first, -⟩ := from_acc lines none h
  exact ⟨mem.resolve_right (fun h => nomatch h), first⟩

theorem State.l2Victim_spec {s : State} {slice line m : Nat} (h : s.l2Victim slice line = some m) :
    s.pinned m = false ∧ ∀ y ∈ s.l2, y.slice = slice → Config.l2Set y.line = Config.l2Set line → s.pinned y.line = false →
      s.LeavesFirst slice m y.line := by
  obtain ⟨mem, first⟩ := State.lowestLine_spec h
  simp only [List.mem_eraseDups, List.mem_map, List.mem_filter, Bool.and_eq_true, beq_iff_eq, Bool.not_eq_true'] at mem first
  obtain ⟨x, ⟨-, -, unpinned⟩, rfl⟩ := mem
  exact ⟨unpinned, fun y hy hs hset hp => first _ ⟨y, ⟨hy, ⟨hs, hset⟩, hp⟩, rfl⟩⟩

/-! ### The statement -/

theorem l2Eviction_victim {s : State} {slice line : Nat} (h : s.l2Victim slice line = some line) :
    exec (.l2Eviction slice line) s = .next ((s.evictVictim slice line).l2Fit slice (4 * line)) := congrArg Host.Outcome.next (if_pos h)

theorem l2Eviction_other {s : State} {slice line : Nat} (h : s.l2Victim slice line ≠ some line) :
    exec (.l2Eviction slice line) s = .next s := congrArg Host.Outcome.next (if_neg h)

/-- Sectors of one slice are told apart by their numbers where level two holds each once. -/
theorem State.lineSectors_distinct {s : State} (slice line : Nat) (h : (s.l2.map fun x => (x.slice, x.sector)).Nodup) :
    (s.lineSectors slice line).Pairwise fun a b => a.sector ≠ b.sector := by
  have all : s.l2.Pairwise fun a b => (a.slice, a.sector) ≠ (b.slice, b.sector) := List.pairwise_map.1 h
  refine (all.filter _).imp_of_mem fun {a b} ha hb ne same => ?_
  have slice_of : ∀ x ∈ s.lineSectors slice line, x.slice = slice := fun x hx => by
    have := (List.mem_filter.1 hx).2
    simp at this
    exact this.1
  exact ne (by rw [slice_of a ha, slice_of b hb, same])

theorem State.mem_lineSectors {s : State} {slice line : Nat} {x : L2Sector} :
    x ∈ s.lineSectors slice line ↔ x ∈ s.l2 ∧ x.slice = slice ∧ x.sector / 4 = line := by
  simp [State.lineSectors, L2Sector.line]

/-- What the eviction of a victim does to memory, level two and the L1s (R17, R236, R237). -/
theorem l2Eviction_outcome {s : State} {slice line : Nat} (wf : s.mem.wf = true) (distinct : (s.l2.map fun x => (x.slice, x.sector)).Nodup)
    (victim : s.l2Victim slice line = some line) :
    ∃ t : State, exec (.l2Eviction slice line) s = .next (t.l2Fit slice (4 * line)) ∧ (s.l2.length ≤ sliceFrames → t.l2Fit slice (4 * line) = t) ∧
      (∀ a, (∀ x ∈ s.l2, x.sector = a / 64 → x.dirty.getLsbD (a % 64) = false) → (t.l2Fit slice (4 * line)).mem.get a = s.mem.get a) ∧
      t = { s with l2 := t.l2, mem := t.mem, ctxs := t.ctxs, cores := t.cores } ∧
      (∀ c, t.core c = { s.core c with l1 := (s.core c).l1.filter fun y =>
        !(y.held.isEmpty && s.l2.any fun x => x.slice == slice && x.line == line && x.sector == y.sector) }) ∧
      (∀ a, (∀ x ∈ s.l2, x.slice = slice → x.sector / 4 = line → x.sector ≠ a / 64) → t.mem.get a = s.mem.get a) ∧
      (∀ x ∈ t.l2, ¬(x.slice = slice ∧ x.sector / 4 = line) ∧ ∃ y ∈ s.l2, x = { y with frames := x.frames }) ∧
      (∀ y ∈ s.l2, ¬(y.slice = slice ∧ y.sector / 4 = line) → ∃ x ∈ t.l2, x = { y with frames := x.frames }) ∧
      ∀ x ∈ s.l2, x.slice = slice → x.sector / 4 = line →
        ∀ i, i < 64 → t.mem.get (64 * x.sector + i) = if x.dirty.getLsbD i then x.data.getD i 0 else s.mem.get (64 * x.sector + i) := by
  refine ⟨s.evictVictim slice line, l2Eviction_victim victim, fun room => if_pos (le_trans ?fits room), fun a ha => ?clean,
    s.evictVictim_shape slice line, s.evictVictim_core slice line, fun a ha => ?others, fun x hx => ?kept, fun y hy out => ?stays,
    fun x hx hs hl i hi => ?own⟩
  case fits =>
    rw [State.evictVictim_l2]
    exact (List.length_filter_le _ _).trans (List.length_map _).le
  case clean =>
    have clean : State.ByteClean a (s.mem.get a) s := ⟨wf, rfl, ha⟩
    obtain ⟨-, get, -⟩ := (clean.evictVictim slice line).l2Fit slice (4 * line)
    exact get
  case others =>
    rw [State.evictVictim_mem]
    refine flushed_get_clean wf fun x hx same => ?_
    obtain ⟨hx, hs, hl⟩ := State.mem_lineSectors.1 hx
    exact absurd same (ha x hx hs hl)
  case kept =>
    rw [State.evictVictim_l2] at hx
    exact mem_keptSectors hx
  case stays =>
    rw [State.evictVictim_l2]
    exact keptSectors_of_mem hy out
  case own =>
    rw [State.evictVictim_mem]
    exact flushed_get_own wf (State.lineSectors_distinct slice line distinct) (State.mem_lineSectors.2 ⟨hx, hs, hl⟩) hi

/-- Compression takes fewer frames for a superblock that is whole, and leaves any other as it is (R237). -/
theorem superblockCompression_outcome (s : State) (slice block frames : Nat) :
    let mine (x : L2Sector) : Bool := x.slice == slice && x.sector / 16 == block && x.valid
    let fits : Prop := 1 ≤ frames ∧ frames ≤ 3 ∧ (s.l2.filter mine).length = 16 ∧ ∀ x ∈ s.l2, mine x = true → x.frames = 0 ∨ frames < x.frames
    (fits → exec (.superblockCompression slice block frames) s =
      .next { s with l2 := s.l2.map fun x => if mine x then { x with frames := frames } else x }) ∧
    (¬ fits → exec (.superblockCompression slice block frames) s = .next s) := by
  intro mine fits
  have eq : exec (.superblockCompression slice block frames) s = if 1 ≤ frames && frames ≤ 3 && (s.l2.filter mine).length == 16 &&
      (s.l2.filter mine).all (fun x => x.frames == 0 || frames < x.frames) then .next { s with l2 := mapIf mine (fun x => { x with frames := frames }) s.l2 }
      else .next s := rfl
  have check : (1 ≤ frames && frames ≤ 3 && (s.l2.filter mine).length == 16 &&
      (s.l2.filter mine).all (fun x => x.frames == 0 || frames < x.frames)) = true ↔ fits := by
    simp only [fits, Bool.and_eq_true, Bool.or_eq_true, decide_eq_true_eq, beq_iff_eq, List.all_eq_true, List.mem_filter, and_imp, and_assoc]
  rw [eq]
  exact ⟨fun h => if_pos (check.2 h), fun h => if_neg (mt check.1 h)⟩

/-- A walk reads its entries through level two and keeps its leaf in both levels of the TLB (R411, R413). -/
theorem pageWalk_outcome (s : State) (core space : Nat) (va : DWord) (loc : Loc) (pte : DWord) (big : Bool) (hva : fld va 63 49 = 0)
    (hs : space ≤ 16) :
    let u := s.walkFills space va
    u = { s with l2 := u.l2, mem := u.mem, ctxs := u.ctxs, l2Clock := u.l2Clock, cores := u.cores } ∧
    (∀ c, u.core c = { s.core c with l1 := (u.core c).l1 }) ∧
    (u.walk space va = .ok loc pte big →
      let t : TlbEntry := { space := space, vpage := vpageOf big va, big := big, pte := pte }
      exec (.pageWalk core space va) s = .next ((u.modCore core fun c => { c with tlb1 := tlbKeep 192 c.tlb1 t }).modCluster (clusterOf core)
        fun k => { k with tlb2 := tlbKeep 4096 k.tlb2 t })) := by
  intro u
  obtain ⟨shape, cores⟩ := s.walkFills_cachesOnly space va
  refine ⟨shape, cores, fun leaf => ?_⟩
  have walks : exec (.pageWalk core space va) s = .next (s.tlbFill core space va) :=
    congrArg Host.Outcome.next (if_pos (by simp [hva, hs]))
  rw [walks, State.tlbFill, leaf]

/-- Settles O50: each step by its own lemma. -/
theorem cacheSteps : Obligations.CacheSteps := by
  unfold Obligations.CacheSteps
  exact ⟨l1Eviction_outcome, fun s core => l1PartitionChange_outcome, fun s slice line => l2Eviction_outcome,
    fun s slice line => State.l2Victim_spec, fun s slice line => l2Eviction_other, superblockCompression_outcome,
    fun s core space => rfl, fun s k space => rfl, pageWalk_outcome⟩

end Sys2Proof.Machine
end

section
/-! Proofs about the issue queues, the dispatcher, retirement and the saving of batts and contexts
(R14, R19, R21, R112 to R121, R128 to R139, R257, R310, R422). -/

namespace Sys2Proof.Machine

/-! ### Issue queues (R121, R122, R257) -/

/-- A batt that is free to issue, and neither active nor queued, joins its ready queue once its next word meets no long-latency dependence. -/
theorem dependenceResolved_outcome (s : State) (core slot : Nat) (b : Batt) (l : Nat) (hb : s.batt? core slot = some b) (free : b.free = true)
    (turn : b.turn = some l) (ready : (b.lane l).st = .ready) (idle : s.isActive core slot = false) (out : s.isQueued core slot = false) :
    (s.meetsLong b = false → s.storeStalls b = false → exec (.dependenceResolved core slot) s = .next (s.joinReady core slot)) ∧
    (s.meetsLong b = true ∨ s.storeStalls b = true → exec (.dependenceResolved core slot) s = .next s) := by
  have resolved : s.isResolved b = (!s.meetsLong b && !s.storeStalls b) := by simp [State.isResolved, free, turn, ready]
  have eq : exec (.dependenceResolved core slot) s =
      .next (if !s.meetsLong b && !s.storeStalls b then s.joinReady core slot else s) := by
    show Host.Outcome.next (s.resolve core slot) = _
    simp [State.resolve, hb, resolved, idle, out]
  rw [eq]
  refine ⟨fun long stalls => by simp [long, stalls], fun waits => ?_⟩
  rcases waits with long | stalls
  · simp [long]
  · simp [stalls]

theorem activePositionFill_outcome (s : State) (core q slot : Nat) (rest : List Nat) (i : Nat)
    (head : (s.quarter core q).ready = slot :: rest) (free : (s.quarter core q).nextFree = some i) :
    exec (.activePositionFill core q) s =
      .next (s.modQuarter core q fun x => { x with ready := rest, active := setAt x.active i (some slot), freed := x.freed.filter (· != i) }) := by
  show execActivePositionFill core q s = _
  simp only [execActivePositionFill, head, free]

/-- Is a position free? -/
def Quarter.isFree (q : Quarter) (i : Nat) : Bool := i < q.active.length && q.active.getD i none == none

theorem Quarter.isFree_iff (q : Quarter) (i : Nat) : q.isFree i = true ↔ q.active[i]? = some none := by
  simp only [Quarter.isFree, List.getD_eq_getElem?_getD, Bool.and_eq_true, decide_eq_true_eq, beq_iff_eq]
  constructor
  · rintro ⟨bound, free⟩
    rw [List.getElem?_eq_getElem bound] at free ⊢
    exact congrArg some free
  · intro free
    exact ⟨(List.getElem?_eq_some_iff.1 free).1, by rw [free]; rfl⟩

/-- Of the free positions the first in the order of freeing is next. -/
theorem Quarter.nextFree_first (q : Quarter) (before : List Nat) (i : Nat) (after : List Nat) (order : q.freed = before ++ i :: after)
    (free : q.active[i]? = some none) (taken : ∀ j ∈ before, ∃ n, q.active[j]? = some (some n)) : q.nextFree = some i := by
  have none_before : before.find? q.isFree = none := List.find?_eq_none.2 fun j hj => by
    obtain ⟨n, hn⟩ := taken j hj
    simp [Quarter.isFree_iff, hn]
  have found : q.freed.find? q.isFree = some i := by
    rw [order, List.find?_append, none_before, List.find?_cons_of_pos ((q.isFree_iff i).2 free)]
    rfl
  show (q.freed.find? q.isFree).orElse _ = some i
  rw [found]
  rfl

/-- A slot that holds one position gives it up, and that is now the one freed last. -/
theorem Quarter.release_one {q : Quarter} {slot i : Nat} (one : ∀ j, q.active[j]? = some (some slot) ↔ j = i) :
    q.release slot = { q with active := setAt q.active i none, freed := (q.freed.filter fun j => j != i) ++ [i] } := by
  have holds : ∀ j, q.active.getD j none = some slot ↔ j = i := fun j => by
    rw [← one j, List.getD_eq_getElem?_getD]
    cases q.active[j]? <;> simp
  obtain ⟨bound, here⟩ := List.getElem?_eq_some_iff.1 ((one i).2 rfl)
  have out : ((List.range q.active.length).filter fun j => q.active.getD j none == some slot) = [i] := by
    have test : (fun j => q.active.getD j none == some slot) = fun j => j == i := by
      funext j
      rw [Bool.eq_iff_iff, beq_iff_eq, beq_iff_eq, holds]
    rw [test, List.filter_beq]
    simp [List.nodup_range.count, bound]
  have active : (q.active.map fun x => if x = some slot then none else x) = q.active.set i none := by
    refine List.ext_getElem? fun j => ?_
    rw [List.getElem?_map, List.getElem?_set]
    by_cases hj : i = j
    · subst hj
      simp [bound, here]
    · have other : q.active[j]? ≠ some (some slot) := fun h => hj ((one j).1 h).symm
      rw [if_neg hj]
      cases h : q.active[j]? with
      | none => rfl
      | some x => simp [show x ≠ some slot from fun e => other (by rw [h, e])]
  simp only [Quarter.release, out, active, setAt, List.contains_cons, List.contains_nil, Bool.or_false]
  rfl

/-! ### LAUNCH_ENQUEUE (R112) -/

theorem launchEnqueue_outcome (s : State) (core slot : Nat) (b : Batt) (f : RForm) (p : Nat) (i : Instr) (draw : Bool)
    (hi : (i, draw) ∈ [(Instr.launch f, false), (.draw f, true)]) (hb : s.batt? core slot = some b) (wait : b.wait = .launch p i)
    (room : s.launches.length < 256) :
    exec (.launchEnqueue core slot) s =
      .next (endWaiting (b.waitingIss i) (s.launchRest (b.waitingIss i) f.d.toNat f.a.toNat p draw) s) := by
  show execLaunchEnqueue core slot s = _
  simp only [List.mem_cons, Prod.mk.injEq, List.not_mem_nil, or_false] at hi
  rcases hi with ⟨rfl, rfl⟩ | ⟨rfl, rfl⟩
  · simp only [execLaunchEnqueue, hb, wait, if_neg (Nat.not_le.2 room)]
  · simp only [execLaunchEnqueue, hb, wait, if_neg (Nat.not_le.2 room)]

/-! ### The start of launches (R14, R19; log 85) -/

/-- A launch but for whether it has started. -/
def Launch.unstarted (l : Launch) : Launch := { l with started := false }

theorem Launch.fields_of_unstarted {x l : Launch} (h : x.unstarted = l.unstarted) :
    x.recd = l.recd ∧ x.killed = l.killed ∧ x.savedBlock = l.savedBlock := by
  simp only [Launch.unstarted, Launch.mk.injEq] at h
  tauto

/-- One launch starts, where it may. -/
def State.startOne (s : State) (l : Launch) : State :=
  if s.mayStart l then s.modLaunch l.lnum fun l => { l with started := true } else s

theorem State.startLaunches_eq (s : State) : s.startLaunches = s.launches.foldl State.startOne s := rfl

/-- What a fold of starts keeps each start keeps. -/
theorem State.startLaunches_induction {P : State → Prop} {s : State} (h : P s) (step : ∀ u, P u → ∀ l ∈ s.launches, P (u.startOne l)) :
    P s.startLaunches := by
  rw [State.startLaunches_eq]
  exact List.foldlRecOn s.launches _ h step

/-- `u` is `s` but for which of its launches have started. -/
def StartsOnly (s u : State) : Prop :=
  u = { s with launches := u.launches } ∧ u.launches.map Launch.unstarted = s.launches.map Launch.unstarted

theorem StartsOnly.startOne {s u : State} (h : StartsOnly s u) (l : Launch) : StartsOnly s (u.startOne l) := by
  obtain ⟨shape, same⟩ := h
  unfold State.startOne
  split
  · refine ⟨?_, Eq.trans ?_ same⟩
    · simp only [State.modLaunch]
      rw [shape]
    · simp only [State.modLaunch, mapIf, List.map_map]
      refine List.map_congr_left fun x _ => ?_
      simp only [Function.comp]
      split <;> rfl
  · exact ⟨shape, same⟩

theorem State.startLaunches_startsOnly (s : State) : StartsOnly s s.startLaunches :=
  State.startLaunches_induction (P := StartsOnly s) ⟨rfl, rfl⟩ fun _ h l _ => h.startOne l

/-- Launches are told apart by their numbers; a start changes none of these. -/
theorem StartsOnly.nodup {s u : State} (h : StartsOnly s u) (distinct : (s.launches.map (·.lnum)).Nodup) : (u.launches.map (·.lnum)).Nodup := by
  have numbers : ∀ l : List Launch, (l.map Launch.unstarted).map (·.lnum) = l.map (·.lnum) := fun l => by
    simp [Function.comp_def, Launch.unstarted]
  rwa [← numbers, h.2, numbers]

/-- The launch of a number is the same before and after starts but for its start. -/
theorem StartsOnly.unstarted_eq {s u : State} (h : StartsOnly s u) (distinct : (s.launches.map (·.lnum)).Nodup) {x l : Launch}
    (hx : x ∈ u.launches) (hl : l ∈ s.launches) (same : x.lnum = l.lnum) : x.unstarted = l.unstarted := by
  have mem : x.unstarted ∈ s.launches.map Launch.unstarted := h.2 ▸ List.mem_map_of_mem hx
  obtain ⟨y, hy, eq⟩ := List.mem_map.1 mem
  have number : y.lnum = l.lnum := (congrArg Launch.lnum eq).trans same
  rw [← eq, List.inj_on_of_nodup_map distinct hy hl number]

theorem sumOf_cons {α : Type} (x : α) (t : List α) (f : α → Nat) : sumOf (x :: t) f = f x + sumOf t f := by
  simp only [sumOf, ← List.sum_eq_foldl_nat, List.map_cons, List.sum_cons]

/-- The launch-barrier slots that a launch holds (R14). -/
def Launch.slotsHeld (l : Launch) : Nat := if l.started && !l.killed then l.recd.lbar else 0

theorem State.lbarsUsed_eq (s : State) : s.lbarsUsed = sumOf s.launches Launch.slotsHeld := by
  unfold State.lbarsUsed
  induction s.launches with
  | nil => rfl
  | cons x t ih =>
    rw [sumOf_cons, List.filter_cons, Launch.slotsHeld]
    split
    · rw [sumOf_cons, ih]
    · rw [ih, Nat.zero_add]

/-- The launch of a number starts. -/
def startNumbered (n : Nat) (l : List Launch) : List Launch := mapIf (fun x => x.lnum == n) (fun x => { x with started := true }) l

theorem startNumbered_absent {n : Nat} {l : List Launch} (h : n ∉ l.map (·.lnum)) : startNumbered n l = l := by
  refine (List.map_congr_left fun x hx => ?_).trans (List.map_id l)
  have other : (x.lnum == n) = false := by
    simp only [beq_eq_false_iff_ne]
    exact fun same => h (same ▸ List.mem_map_of_mem hx)
  simp [other]

/-- A start adds the slots of the launch that starts, at the most. -/
theorem slotsHeld_startNumbered_le {n c : Nat} {l : List Launch} (distinct : (l.map (·.lnum)).Nodup)
    (own : ∀ x ∈ l, x.lnum = n → x.recd.lbar = c) : sumOf (startNumbered n l) Launch.slotsHeld ≤ sumOf l Launch.slotsHeld + c := by
  induction l with
  | nil => exact Nat.zero_le _
  | cons x t ih =>
    obtain ⟨absent, distinct⟩ := List.nodup_cons.1 distinct
    by_cases same : x.lnum = n
    · have rest : startNumbered n (x :: t) = { x with started := true } :: t := by
        have tail := startNumbered_absent (n := n) (l := t) (by rwa [← same])
        simp only [startNumbered, mapIf, List.map_cons] at tail ⊢
        rw [tail]
        simp [same]
      have most : Launch.slotsHeld { x with started := true } ≤ c := by
        rw [← own x List.mem_cons_self same, Launch.slotsHeld]
        split
        · exact le_rfl
        · exact Nat.zero_le _
      rw [rest, sumOf_cons, sumOf_cons]
      omega
    · have rest : startNumbered n (x :: t) = x :: startNumbered n t := by simp [startNumbered, mapIf, same]
      have := ih distinct fun y hy => own y (List.mem_cons_of_mem _ hy)
      rw [rest, sumOf_cons, sumOf_cons]
      omega

theorem startOne_lbars {s u : State} (h : StartsOnly s u) (distinct : (s.launches.map (·.lnum)).Nodup) {l : Launch} (hl : l ∈ s.launches)
    (room : u.lbarsUsed ≤ 64) : (u.startOne l).lbarsUsed ≤ 64 := by
  unfold State.startOne
  split
  next may =>
    simp only [State.mayStart, Bool.and_eq_true, decide_eq_true_eq] at may
    have own : ∀ x ∈ u.launches, x.lnum = l.lnum → x.recd.lbar = l.recd.lbar := fun x hx same => by
      rw [(Launch.fields_of_unstarted (h.unstarted_eq distinct hx hl same)).1]
    have added := slotsHeld_startNumbered_le (h.nodup distinct) own
    rw [State.lbarsUsed_eq] at may ⊢
    exact added.trans may.2
  · exact room

/-- A started launch had started before, or may start: its context runs, and it is a new one only while the control batt is not halted. -/
def MayHaveStarted (s : State) (l : Launch) : Prop := l ∈ s.launches ∨
  (l.killed = false ∧ (s.ctx l.recd.ctx).ctxst = 0 ∧ (s.ctlHalted = true → l.savedBlock.isSome = true))

theorem startOne_mayHaveStarted {s u : State} (h : StartsOnly s u) (distinct : (s.launches.map (·.lnum)).Nodup) {l : Launch} (hl : l ∈ s.launches)
    (all : ∀ x ∈ u.launches, x.started = true → MayHaveStarted s x) : ∀ x ∈ (u.startOne l).launches, x.started = true → MayHaveStarted s x := by
  unfold State.startOne
  split
  next may =>
    intro x hx started
    obtain ⟨y, hy, rfl⟩ := List.mem_map.1 hx
    by_cases same : y.lnum = l.lnum
    · obtain ⟨record, killed, block⟩ := Launch.fields_of_unstarted (h.unstarted_eq distinct hy hl same)
      have ctx : u.ctx l.recd.ctx = s.ctx l.recd.ctx := by rw [h.1]; rfl
      have halted : u.ctlHalted = s.ctlHalted := by rw [h.1]; rfl
      simp only [State.mayStart, ctx, halted, Bool.and_eq_true, Bool.or_eq_true, Bool.not_eq_true', beq_iff_eq] at may
      obtain ⟨⟨⟨⟨-, alive⟩, runs⟩, resumes⟩, -⟩ := may
      refine .inr ?_
      simp only [same, beq_self_eq_true, if_true, killed, record, block]
      refine ⟨alive, runs, fun h => resumes.resolve_left (by simp [h])⟩
    · have other : (y.lnum == l.lnum) = false := by simpa using same
      simp only [other] at started ⊢
      exact all y hy started
  · exact all

theorem State.startLaunches_outcome (s : State) : s.startLaunches = { s with launches := s.startLaunches.launches } ∧
    s.startLaunches.launches.map (fun l => { l with started := false }) = s.launches.map (fun l => { l with started := false }) ∧
    ((s.launches.map (·.lnum)).Nodup → s.lbarsUsed ≤ 64 → s.startLaunches.lbarsUsed ≤ 64) ∧
    ((s.launches.map (·.lnum)).Nodup → ∀ l ∈ s.startLaunches.launches, l.started = true → l ∈ s.launches ∨
      (l.killed = false ∧ (s.ctx l.recd.ctx).ctxst = 0 ∧ (s.ctlHalted = true → l.savedBlock.isSome = true))) := by
  obtain ⟨shape, same⟩ := s.startLaunches_startsOnly
  refine ⟨shape, same, fun distinct room => ?_, fun distinct => ?_⟩
  · exact (State.startLaunches_induction (P := fun u => StartsOnly s u ∧ u.lbarsUsed ≤ 64) ⟨⟨rfl, rfl⟩, room⟩
      fun u ⟨h, hr⟩ l hl => ⟨h.startOne l, startOne_lbars h distinct hl hr⟩).2
  · exact (State.startLaunches_induction (P := fun u => StartsOnly s u ∧ ∀ x ∈ u.launches, x.started = true → MayHaveStarted s x)
      ⟨⟨rfl, rfl⟩, fun x hx _ => .inl hx⟩ fun u ⟨h, ha⟩ l hl => ⟨h.startOne l, startOne_mayHaveStarted h distinct hl ha⟩).2

/-! ### What the dispatcher picks (R112, R118) -/

/-- The dispatcher places nothing of the launch: it may not, or has no felt to place, or no core takes it. -/
def State.CannotPlace (u : State) (x : Launch) : Prop :=
  u.mayPlace x = false ∨ x.nextFelt = none ∨ ∃ n, x.nextFelt = some n ∧ u.coreFor x n = none

/-- The placement that a launch offers. -/
def State.offer (s : State) (l : Launch) : Option (Launch × NextFelt × Nat) :=
  if !s.mayPlace l then none else
  match l.nextFelt with
  | none => none
  | some n => (s.coreFor l n).map fun c => (l, n, c)

theorem State.dispatchPick_eq (s : State) : s.dispatchPick = s.dispatchOrder.findSome? s.offer := rfl

theorem State.offer_eq_none {s : State} {l : Launch} (h : s.offer l = none) : s.CannotPlace l := by
  unfold State.offer at h
  split at h
  next may => exact .inl (by simpa using may)
  next may =>
    cases hn : l.nextFelt with
    | none => exact .inr (.inl hn)
    | some n =>
      rw [hn] at h
      exact .inr (.inr ⟨n, hn, by simpa using h⟩)

theorem State.offer_eq_some {s : State} {l m : Launch} {n : NextFelt} {c : Nat} (h : s.offer l = some (m, n, c)) :
    m = l ∧ s.mayPlace l = true ∧ l.nextFelt = some n ∧ s.coreFor l n = some c := by
  unfold State.offer at h
  split at h
  · exact nomatch h
  next may =>
    cases hn : l.nextFelt with
    | none => rw [hn] at h; exact nomatch h
    | some k =>
      rw [hn] at h
      obtain ⟨d, hd, eq⟩ := Option.map_eq_some_iff.1 h
      simp only [Prod.mk.injEq] at eq
      obtain ⟨rfl, rfl, rfl⟩ := eq
      exact ⟨rfl, by simpa using may, rfl, hd⟩

/-- Where the dispatcher picks nothing, no launch could be placed. -/
theorem State.dispatchPick_none {s : State} (h : s.dispatchPick = none) : ∀ x ∈ s.launches, x.recd.prio ≤ 3 → s.CannotPlace x := by
  intro x hx prio
  refine State.offer_eq_none (List.findSome?_eq_none_iff.1 h x ?_)
  refine List.mem_flatten.2 ⟨s.launches.filter fun l => l.recd.prio == x.recd.prio, List.mem_map.2 ⟨x.recd.prio, ?_, rfl⟩, by simp [hx]⟩
  simp; omega

theorem findSome?_flatten {α β : Type} (f : α → Option β) (ls : List (List α)) :
    ls.flatten.findSome? f = ls.findSome? fun l => l.findSome? f := by
  induction ls with
  | nil => rfl
  | cons l t ih =>
    rw [List.flatten_cons, List.findSome?_append, ih, List.findSome?_cons]
    cases l.findSome? f <;> rfl

/-- The pick is the first launch, in order of priority and then of enqueueing, that can be placed. -/
theorem State.dispatchPick_some {s : State} {l : Launch} {n : NextFelt} {c : Nat} (h : s.dispatchPick = some (l, n, c)) :
    s.mayPlace l = true ∧ l.nextFelt = some n ∧ s.coreFor l n = some c ∧
    ∃ before after, s.launches = before ++ l :: after ∧ ∀ x ∈ s.launches,
      l.recd.prio < x.recd.prio ∧ x.recd.prio ≤ 3 ∨ x.recd.prio = l.recd.prio ∧ x ∈ before → s.CannotPlace x := by
  rw [State.dispatchPick_eq, State.dispatchOrder, findSome?_flatten, List.findSome?_map, List.findSome?_eq_some_iff] at h
  obtain ⟨higher, p, lower, order, picked, none_higher⟩ := h
  obtain ⟨pre, m, post, own, offers, none_pre⟩ := List.findSome?_eq_some_iff.1 picked
  obtain ⟨rfl, may, next, core⟩ := State.offer_eq_some offers
  refine ⟨may, next, core, ?_⟩
  obtain ⟨first, rest, split, pre_eq, rest_eq⟩ := List.filter_eq_append_iff.1 own
  obtain ⟨skipped, after, rest_split, none_skipped, prio, -⟩ := List.filter_eq_cons_iff.1 rest_eq
  have prio : l.recd.prio = p := by simpa using prio
  refine ⟨first ++ skipped, after, by rw [split, rest_split, List.append_assoc], fun x hx => ?_⟩
  rintro (⟨above, known⟩ | ⟨equal, earlier⟩)
  · -- a higher priority comes before in the order, and nothing of it was placed
    have falling : (higher ++ p :: lower).Pairwise (· > ·) := order ▸ (by decide)
    have listed : x.recd.prio ∈ higher ++ p :: lower := by rw [← order]; simp; omega
    have mem : x.recd.prio ∈ higher := by
      obtain ⟨-, below, -⟩ := List.pairwise_append.1 falling
      rcases List.mem_append.1 listed with h | h
      · exact h
      · rcases List.mem_cons.1 h with h | h
        · omega
        · have := (List.pairwise_cons.1 below).1 _ h
          omega
    exact State.offer_eq_none (List.findSome?_eq_none_iff.1 (none_higher _ mem) x (by simp [hx]))
  · -- of its own priority it was enqueued before
    have own_prio : (x.recd.prio == p) = true := by simpa using equal.trans prio
    refine State.offer_eq_none (none_pre x ?_)
    rcases List.mem_append.1 earlier with h | h
    · exact pre_eq ▸ List.mem_filter.2 ⟨h, own_prio⟩
    · exact absurd own_prio (none_skipped x h)

/-- Does a core take the felt: it fits there, and a restored one is in its cluster (R118, R140)? -/
def State.takesFelt (s : State) (l : Launch) (n : NextFelt) (k : Nat) : Bool :=
  s.fits (s.askOf l n) k && (match n with | .saved f => clusterOf k == f.cluster | _ => true)

theorem State.coreFor_eq (s : State) (l : Launch) (n : NextFelt) : s.coreFor l n = s.coreOrder.find? (s.takesFelt l n) := rfl

theorem State.takesFelt_iff (s : State) (l : Launch) (n : NextFelt) (k : Nat) :
    s.takesFelt l n k = true ↔ s.fits (s.askOf l n) k = true ∧ ∀ f, n = .saved f → k / 8 = f.cluster := by
  cases n <;> simp [State.takesFelt, clusterOf]

/-- The first core in the round from the one after the last placement that takes the felt (R118). -/
theorem State.coreFor_first (s : State) (l : Launch) (n : NextFelt) (c : Nat) (h : s.coreFor l n = some c) :
    let core (i : Nat) : Nat := (s.dev.dispatchLast + 1 + i) % 128
    let takes (k : Nat) : Prop := s.fits (s.askOf l n) k = true ∧ ∀ f, n = .saved f → k / 8 = f.cluster
    ∃ i, i < 128 ∧ core i = c ∧ takes c ∧ ∀ j, j < i → ¬ takes (core j) := by
  intro core takes
  rw [State.coreFor_eq, State.coreOrder, List.find?_map] at h
  obtain ⟨i, found, rfl⟩ := Option.map_eq_some_iff.1 h
  obtain ⟨at_i, bound, before_i⟩ := List.find?_range_eq_some.1 found
  refine ⟨i, List.mem_range.1 bound, rfl, (s.takesFelt_iff l n _).1 at_i, fun j hj fit => ?_⟩
  have := before_i j hj
  rw [Function.comp, (s.takesFelt_iff l n _).2 fit] at this
  exact nomatch this

theorem State.applied_iff (s : State) (p : Nat) : s.applied p = true ↔
    ∀ c ∈ s.cores, ∀ e ∈ c.log, e.published = true → e.depth = 0 → serialLe e.num p = false := by
  have entry : ∀ e : LogEntry, (!(e.published && e.depth == 0 && serialLe e.num p)) = true ↔
      (e.published = true → e.depth = 0 → serialLe e.num p = false) := fun e => by
    cases e.published <;> simp [Decidable.imp_iff_not_or]
  simp only [State.applied, List.all_eq_true, entry]

theorem State.mayPlace_iff (s : State) (l : Launch) : s.mayPlace l = true ↔ l.killed = false ∧ (s.ctx l.recd.ctx).ctxst = 0 ∧ l.started = true ∧
    (∀ c ∈ s.cores, ∀ e ∈ c.log, e.published = true → e.depth = 0 → serialLe e.num l.point = false) ∧
    ((s.ctx l.recd.ctx).poolStop = true → l.pass = none) := by
  have gate : (!(l.pass.isSome && (s.ctx l.recd.ctx).poolStop)) = true ↔ ((s.ctx l.recd.ctx).poolStop = true → l.pass = none) := by
    cases l.pass <;> simp
  rw [← State.applied_iff, ← gate]
  simp only [State.mayPlace, Bool.and_eq_true, Bool.not_eq_true', beq_iff_eq]
  tauto

/-! ### DISPATCH_CYCLE (R118, R422) -/

theorem dispatchCycle_places {s t : State} {l m : Launch} {n : NextFelt} {c : Nat} (pick : s.startLaunches.dispatchPick = some (l, n, c))
    (claim : s.startLaunches.claimFirst l = .ok t) (found : t.launch? l.lnum = some m) : exec .dispatchCycle s = .next (t.place m n c) := by
  show execDispatchCycle s = _
  simp only [execDispatchCycle, pick, claim, found]

theorem dispatchCycle_unreadable {s : State} {l : Launch} {n : NextFelt} {c e : Nat} {a : DWord}
    (pick : s.startLaunches.dispatchPick = some (l, n, c)) (claim : s.startLaunches.claimFirst l = .bad e a) :
    exec .dispatchCycle s = .next (s.startLaunches.restoreFails l.recd.ctx e a) := by
  show execDispatchCycle s = _
  simp only [execDispatchCycle, pick, claim]

theorem dispatchCycle_idle {s : State} (pick : s.startLaunches.dispatchPick = none) : exec .dispatchCycle s = .next s.startLaunches := by
  show execDispatchCycle s = _
  simp only [execDispatchCycle, pick]

/-! ### Retirement and the saving of a batt (R21, R114, R130) -/

theorem launchRetirement_outcome (s : State) (lnum : Nat) (l : Launch) (hl : s.launch? lnum = some l) (done : l.finished = true) :
    let t := (if l.killed then s else s.settleContext l.recd.ctx).dropMarks l.recd.ctx
    exec (.launchRetirement lnum) s =
      .next (({ t with launches := t.launches.filter fun x => x.lnum != lnum } : State).giveToken l.owner l.token
        (BitVec.ofNat 64 (l.lnum * 2 ^ 32 + l.cause % 256 * 2 ^ 8 + l.status % 256))) := by
  show execLaunchRetirement lnum s = _
  simp only [execLaunchRetirement, hl, done, Bool.not_true, Bool.false_eq_true, if_false, Launch.tokenWord]

/-- A batt of a context that is being pre-empted passes the gate of BATT_SAVE once its operations have ended. -/
theorem battSave_gate {s : State} {b : Batt} (space : b.space ≠ 16) (preempting : (s.ctx b.space).ctxst = 1) (ended : b.ops = []) :
    ¬ ((b.space = 16 || (s.ctx b.space).ctxst != 1 || !b.ops.isEmpty) = true) := by simp [space, preempting, ended]

theorem battSave_saves (s : State) (core slot : Nat) (b c : Batt) (set : List Nat) (hb : s.batt? core slot = some b) (space : b.space ≠ 16)
    (preempting : (s.ctx b.space).ctxst = 1) (ended : b.ops = []) (rest : s.atRest b = .ok true) :
    let t := s.battSettle core slot
    t.batt? core slot = some c → t.contributed c c.splitLows = .ok set →
    exec (.battSave core slot) s = .next ((t.saveBatt core slot set).fetchRuns c.space (t.saveRuns c)) := by
  intro t hc readable
  have stands : (t.batt? core slot).isNone = false := by rw [hc]; rfl
  have here : t.battAt core slot = c := by rw [State.battAt, hc]; rfl
  show execBattSave core slot s = _
  simp only [execBattSave, hb, if_neg (battSave_gate space preempting ended), rest, show s.battSettle core slot = t from rfl, stands, here,
    readable, Bool.false_eq_true, if_false]

theorem battSave_unreadable (s : State) (core slot : Nat) (b : Batt) (e : Nat) (a : DWord) (hb : s.batt? core slot = some b) (space : b.space ≠ 16)
    (preempting : (s.ctx b.space).ctxst = 1) (ended : b.ops = []) (rest : s.atRest b = .bad e a) :
    exec (.battSave core slot) s = .next (s.killUnreadable b.space e a) := by
  show execBattSave core slot s = _
  simp only [execBattSave, hb, if_neg (battSave_gate space preempting ended), rest]

/-! ### The save of a context (R128, R139, R310, R422) -/

/-- The layout of felts adds no launch. -/
theorem State.planLaunch_launches (s : State) (space : Nat) (p : SavePlan) (l : Launch) :
    (s.planLaunch space p l).launches = p.launches ++ [(l.lnum, p.next)] := by
  unfold State.planLaunch
  refine List.foldlRecOn (motive := fun q : SavePlan => q.launches = p.launches ++ [(l.lnum, p.next)]) _ _ rfl fun q hq x _ => ?_
  cases x.2 <;> exact hq

/-- A save area describes every started launch, and so none only where none has started. -/
theorem State.savePlan_launches_isEmpty (s : State) (space : Nat) : (s.savePlan space).launches.isEmpty = (s.startedLaunches space).isEmpty := by
  have grows : ∀ (ls : List Launch) (p : SavePlan), (ls.foldl (s.planLaunch space) p).launches.length = p.launches.length + ls.length := by
    intro ls
    induction ls with
    | nil => exact fun p => rfl
    | cons l t ih =>
      intro p
      rw [List.foldl_cons, ih, State.planLaunch_launches, List.length_append, List.length_cons, List.length_cons, List.length_nil]
      omega
  have length : (s.savePlan space).launches.length = (s.startedLaunches space).length := (grows _ {}).trans (Nat.zero_add _)
  rw [Bool.eq_iff_iff, List.isEmpty_iff_length_eq_zero, List.isEmpty_iff_length_eq_zero, length]

/-- A context whose batts are gone and whose passes rest passes the gate of PREEMPT_COMPLETE. -/
theorem preemptComplete_gate {s : State} {c : Nat} (hc : c < 16) (preempting : (s.ctx c).ctxst = 1) (gone : ∀ b ∈ s.batts, b.space ≠ c)
    (rest : ∀ l ∈ s.launches, l.recd.ctx = c → l.killed = true ∨ l.passAtRest = true) :
    ¬ (((s.ctx c).ctxst != 1 || (s.batts.any fun b => b.space == c) || 16 ≤ c ||
      !(s.launches.all fun l => l.recd.ctx != c || l.killed || l.passAtRest)) = true) := by
  have no_batt : (s.batts.any fun b => b.space == c) = false := by simpa using gone
  have at_rest : (s.launches.all fun l => l.recd.ctx != c || l.killed || l.passAtRest) = true := by
    simp only [List.all_eq_true, Bool.or_eq_true, bne_iff_ne]
    intro l hl
    by_cases own : l.recd.ctx = c
    · rcases rest l hl own with h | h <;> simp [h]
    · exact .inl (.inl own)
  simp [preempting, no_batt, at_rest, Nat.not_le.2 hc]

/-- A context is saved, or killed with a record where its save fails. -/
theorem preemptComplete_outcome (s : State) (c : Nat) (hc : c < 16) (preempting : (s.ctx c).ctxst = 1) (gone : ∀ b ∈ s.batts, b.space ≠ c)
    (rest : ∀ l ∈ s.launches, l.recd.ctx = c → l.killed = true ∨ l.passAtRest = true) :
    let p := s.savePlan c
    let fails (cause : Nat) (a : DWord) (off : Nat) : Prop :=
      exec (.preemptComplete c) s = .next (s.saveFails c cause a (s.failedBatt c p off))
    (∀ r, s.overHeldRef c = some r → fails cBARTX (BitVec.ofNat 64 r) 0) ∧
    (s.overHeldRef c = none →
      ((s.ctx c).saveBase = none → (s.startedLaunches c = [] → exec (.preemptComplete c) s = .next (s.markSaved c 0 p)) ∧
        (s.startedLaunches c ≠ [] → fails cXLAT 0 0)) ∧
      ∀ base, (s.ctx c).saveBase = some base →
        (∀ e a, s.keptFails c = some (e, a) → exec (.preemptComplete c) s = .next (s.restoreFails c e a)) ∧
        (s.keptFails c = none →
          (∀ t, s.writeParts c base p.parts = .inr t → exec (.preemptComplete c) s = .next ((t.markSaved c base p).fetchRuns c (s.keptRuns c))) ∧
          (∀ e a, s.writeParts c base p.parts = .inl (e, a) → fails (if e = cPROT then cPROT else cXLAT) a (a.toNat - base)))) := by
  intro p fails
  have eq : exec (.preemptComplete c) s = .next (s.completePreempt c) := rfl
  have gate := preemptComplete_gate hc preempting gone rest
  simp only [fails, eq, State.completePreempt, if_neg gate]
  refine ⟨fun r held => ?_, fun held => ⟨fun base => ⟨fun empty => ?_, fun laid => ?_⟩, fun base hbase =>
    ⟨fun e a unreadable => ?_, fun readable => ⟨fun t written => ?_, fun e a failed => ?_⟩⟩⟩⟩
  · simp only [held, p]
  · simp only [held, base, State.savePlan_launches_isEmpty, empty, List.isEmpty_nil, if_true, p]
  · simp only [held, base, State.savePlan_launches_isEmpty, List.isEmpty_iff, laid, if_false, p]
  · simp only [held, hbase, unreadable]
  · simp only [held, hbase, readable, show s.writeParts c base (s.savePlan c).parts = .inr t from written, p]
  · simp only [held, hbase, readable, show s.writeParts c base (s.savePlan c).parts = .inl (e, a) from failed, p]

/-! ### The statement -/

/-- Settles O47: the queues, the dispatcher and the saves, each by its own lemmas. -/
theorem dispatchAndRetirementSteps : Obligations.DispatchAndRetirementSteps := by
  unfold Obligations.DispatchAndRetirementSteps
  refine ⟨⟨dependenceResolved_outcome, activePositionFill_outcome, Quarter.nextFree_first, fun s core slot i hc hq one => ?release,
    launchEnqueue_outcome, State.startLaunches_outcome, fun s t l n c m pick claim found => ?places, State.coreFor_first, State.mayPlace_iff,
    fun s l n c e a => dispatchCycle_unreadable, fun s idle => ⟨dispatchCycle_idle idle, State.dispatchPick_none idle⟩⟩,
    launchRetirement_outcome, fun s core slot b c set hb space preempting ended rest => battSave_saves s core slot b c set hb space preempting ended rest,
    battSave_unreadable, preemptComplete_outcome, fun s space cause addr m => rfl⟩
  case release => exact (State.quarter_modQuarter _ hc hq).trans (Quarter.release_one one)
  case places =>
    obtain ⟨may, next, core, first⟩ := State.dispatchPick_some pick
    exact ⟨dispatchCycle_places pick claim found, may, next, core, first⟩

end Sys2Proof.Machine
end

section
/-! Proofs about the special registers (R46, R47, R159, R365), the register tags (R147, R151, R166) and the paired word (R74). -/

namespace Sys2Proof.Machine

/-! ### Words that complete, trap or report -/

/-- A word whose meaning is one change of its batt completes with that change. -/
theorem wordDoes_of_doneBatt {i : Instr} {body : Iss → State → Body} (g : Iss → State → Batt → Batt)
    (runs : ∀ s, exec i s = runWord i body s) (done : ∀ x t, body x t = doneBatt x t (g x t)) :
    WordDoes i (fun _ _ => True) fun x t => x.set t (g x t) :=
  fun s x _ t clear _ => (runs s).trans (runWord_done clear (done x t))

/-- A clear word whose meaning is a failed check or evaluation of its own ends in that report. -/
theorem runWord_prep {i : Instr} {s t u : State} {x : Iss} {n : Nat} {f : PrepFault} {body : Iss → State → Body}
    (h : s.clear i = some (x, n, t)) (hb : body x t = .prep f u) : runWord i body s = .next (prepFault x n f u) := by
  rw [runWord_clear h, hb]; rfl

/-- Lanes are named alike by two functions that agree on each of them. -/
theorem map_lanesOf_congr {β : Type} {m : Mask} {f g : Nat → β} (h : ∀ l, inMask m l = true → f l = g l) :
    (lanesOf m).map f = (lanesOf m).map g :=
  List.map_congr_left fun l hl => h l (List.mem_filter.1 hl).2

theorem inMask_and (m k : Mask) (l : Nat) : inMask (m &&& k) l = (inMask m l && inMask k l) := BitVec.getLsbD_and

/-- Of the active lanes, those that are bad are named, and each where none is bad. -/
theorem inMask_named (bad : Mask) {active : Mask} {l : Nat} (acts : inMask active l = true) :
    inMask (if bad &&& active = 0 then active else bad &&& active) l = true ↔ bad &&& active = 0 ∨ inMask bad l = true := by
  split
  next apart => simp [acts, apart]
  next meet => rw [inMask_and, acts, Bool.and_true, or_iff_right meet]

/-! ### The special registers -/

theorem getsr_does (f : RForm) : WordDoes (.getsr f) (fun _ _ => True) fun x t => x.set t fun b =>
    if f.mb 7 then b.setV f.d.toNat x.active fun l => (t.special (x.at t) x (f.mf 4 0) l).setWidth 32
    else b.setS f.d.toNat (t.special (x.at t) x (f.mf 4 0) x.low) :=
  wordDoes_of_doneBatt _ (fun _ => rfl) fun _ _ => rfl

/-- What a SETSR makes of its batt. -/
def setsrTo (f : RForm) (b : Batt) : Batt :=
  if f.m = 16 then { b with fpcr := newFpcr b.fpcr (b.s f.a.toNat) }
  else if f.m = 17 then { b with fpsr := (b.s f.a.toNat).setWidth 32 &&& 0x3F }
  else { b with memo := b.s f.a.toNat &&& 0xFFFFFFFFFFFFFF03 }

theorem setsr_does {f : RForm} {g : Batt → Batt} (h : ∀ b, setsrTo f b = g b) :
    WordDoes (.setsr f) (fun _ _ => True) fun x t => x.set t g := by
  obtain rfl : setsrTo f = g := funext h
  exact wordDoes_of_doneBatt (fun _ _ => setsrTo f) (fun _ => rfl) fun _ _ => rfl

/-- Settles O20: GETSR and SETSR are one change of their batt each, and each special register is read off its number. -/
theorem specialRegisters : Obligations.SpecialRegisters := by
  unfold Obligations.SpecialRegisters
  refine ⟨⟨getsr_does, fun f sel => setsr_does fun b => ?fpcr, fun f sel => setsr_does fun b => ?fpsr, fun f sel => setsr_does fun b => ?memo⟩,
    fun s b x l => rfl⟩
  all_goals simp [setsrTo, sel]

/-! ### Records of vector registers -/

/-- The records of a batt's vector registers stand in the order of their numbers. -/
def Batt.Ordered (b : Batt) : Prop := (b.vregs.map (·.num)).Pairwise (· < ·)

theorem mem_putVReg {l : List VReg} {r x : VReg} (h : x ∈ putVReg l r) : x = r ∨ x ∈ l := by
  induction l with
  | nil => exact .inl (List.mem_singleton.1 h)
  | cons y t ih =>
    unfold putVReg at h
    split at h
    · exact (List.mem_cons.1 h).imp_right (List.mem_cons_of_mem _)
    · split at h
      · exact List.mem_cons.1 h
      · rcases List.mem_cons.1 h with rfl | h
        · exact .inr List.mem_cons_self
        · exact (ih h).imp_right (List.mem_cons_of_mem _)

theorem putVReg_ordered {l : List VReg} (r : VReg) (h : (l.map (·.num)).Pairwise (· < ·)) :
    ((putVReg l r).map (·.num)).Pairwise (· < ·) := by
  rw [List.pairwise_map] at h ⊢
  induction l with
  | nil => exact List.pairwise_singleton _ _
  | cons y t ih =>
    obtain ⟨above, rest⟩ := List.pairwise_cons.1 h
    unfold putVReg
    split
    next same => exact List.pairwise_cons.2 ⟨fun z hz => same ▸ above z hz, rest⟩
    next differs =>
      split
      next below =>
        refine List.pairwise_cons.2 ⟨fun z hz => ?_, h⟩
        rcases List.mem_cons.1 hz with rfl | hz
        · exact below
        · exact below.trans (above z hz)
      next not_below =>
        refine List.pairwise_cons.2 ⟨fun z hz => ?_, ih rest⟩
        rcases mem_putVReg hz with rfl | hz
        · omega
        · exact above z hz

/-- A record in order is the one found under its number. -/
theorem Batt.Ordered.vreg?_of_mem {b : Batt} (h : b.Ordered) {r : VReg} (hr : r ∈ b.vregs) : b.vreg? r.num = some r := by
  unfold Batt.Ordered at h
  unfold Batt.vreg?
  rw [List.pairwise_map] at h
  generalize b.vregs = l at h hr
  induction l with
  | nil => exact absurd hr List.not_mem_nil
  | cons y t ih =>
    obtain ⟨above, rest⟩ := List.pairwise_cons.1 h
    rcases List.mem_cons.1 hr with rfl | hr
    · simp
    · have differs : (y.num == r.num) = false := by have := above r hr; simp; omega
      rw [List.find?_cons, differs]
      exact ih rest hr

/-- What stands under a number once a record has been put in place. -/
theorem Batt.vreg?_put (b : Batt) (r : VReg) (n : Nat) :
    ({ b with vregs := putVReg b.vregs r } : Batt).vreg? n = if n = r.num then some r else b.vreg? n := by
  unfold Batt.vreg?
  split
  next own => rw [own]; exact find_putVReg_same _ _
  next other => exact find_putVReg_other _ _ other

/-- The records stand in order, and none of these registers is tagged. -/
def Batt.UntaggedOn (ys : List Nat) (b : Batt) : Prop := b.Ordered ∧ ∀ y ∈ ys, (b.vreg? y).bind (·.tag) = none

/-- A record put in place keeps registers untagged unless it tags one of them. -/
theorem Batt.UntaggedOn.put {ys : List Nat} {b : Batt} (h : b.UntaggedOn ys) {r : VReg} (hr : r.num ∈ ys → r.tag = none) :
    ({ b with vregs := putVReg b.vregs r } : Batt).UntaggedOn ys := by
  obtain ⟨ordered, untagged⟩ := h
  refine ⟨putVReg_ordered r ordered, fun y hy => ?_⟩
  rw [Batt.vreg?_put]
  split
  next own => exact hr (own ▸ hy)
  next => exact untagged y hy

/-- A tagged register is none of the untagged ones. -/
theorem Batt.UntaggedOn.not_mem {ys : List Nat} {b : Batt} (h : b.UntaggedOn ys) {n : Nat} {r : VReg} {t : Nat × Nat}
    (hr : b.vreg? n = some r) (ht : r.tag = some t) : n ∉ ys := by
  intro hn
  have := h.2 n hn
  rw [hr, Option.bind_some, ht] at this
  exact nomatch this

theorem Batt.vreg?_num {b : Batt} {n : Nat} {r : VReg} (h : b.vreg? n = some r) : r.num = n := by
  simpa using List.find?_some h

/-- Untagging adds its register to those that are not tagged. -/
theorem Batt.UntaggedOn.untag {ys : List Nat} {b : Batt} (h : b.UntaggedOn ys) (y : Nat) : (b.untag y).UntaggedOn (ys ++ [y]) := by
  have add {c : Batt} (hc : c.UntaggedOn ys) (own : (c.vreg? y).bind (·.tag) = none) : c.UntaggedOn (ys ++ [y]) :=
    ⟨hc.1, fun z hz => (List.mem_append.1 hz).elim (hc.2 z) fun hz => List.mem_singleton.1 hz ▸ own⟩
  unfold Batt.untag
  cases hr : b.vreg? y with
  | none => exact add h (by rw [hr]; rfl)
  | some r =>
    dsimp only
    split
    next => exact add (h.put fun _ => rfl) (by rw [Batt.vreg?_put, if_pos (Batt.vreg?_num hr).symm]; rfl)
    next untagged => exact add h (by simpa [hr] using untagged)

/-! ### Preparation keeps untagged registers untagged (R149, R152, R153) -/

/-- Backing a register, with the drop of another that it may need, tags nothing (R149). -/
theorem Batt.UntaggedOn.back {ys : List Nat} {b c : Batt} (h : b.UntaggedOn ys) {avoid : List Nat} {n : Nat} (hb : b.back avoid n = some c) :
    c.UntaggedOn ys := by
  -- the record that takes the backing is the register's own, or a new one without a tag
  have take {d : Batt} (hd : d.UntaggedOn ys) (lanes : List Word) :
      ({ d with vregs := putVReg d.vregs { (d.vreg? n).getD { num := n } with backed := true, fresh := true, lanes := lanes } } : Batt).UntaggedOn
        ys := by
    refine hd.put fun hn => ?_
    cases hr : d.vreg? n with
    | none => rfl
    | some r =>
      rw [hr] at hn
      have := hd.2 n (Batt.vreg?_num hr ▸ hn)
      rwa [hr] at this
  unfold Batt.back at hb
  simp only at hb
  split at hb
  · cases hb; exact h
  · split at hb
    · cases hb; exact take h _
    · obtain ⟨r, found, rfl⟩ := Option.map_eq_some_iff.1 hb
      refine take (h.put fun hr => ?_) _
      -- the dropped register was tagged before, and so is none of ys
      have := h.2 r.num hr
      rwa [h.1.vreg?_of_mem (List.mem_of_find?_eq_some found)] at this

/-- What each step of a preparation keeps of the batt, their sequence keeps. -/
theorem prepEach_preserves {α : Type} {P : Batt → Prop} (f : α → Prep → PrepRes) (hf : ∀ x p q, f x p = .ok q → P p.b → P q.b) (l : List α)
    {r : PrepRes} {c : Prep} (hr : ∀ p, r = .ok p → P p.b) (h : prepEach f l r = .ok c) : P c.b := by
  unfold prepEach at h
  induction l generalizing r with
  | nil => exact hr c h
  | cons x t ih =>
    refine ih (r := r.bind (f x)) (fun p hp => ?_) h
    obtain ⟨q, hq, hx⟩ := bind_ok hp
    exact hf x q p hx (hr q hq)

/-- A replay tags no register that was not tagged: it puts back the tag of the dropped register (R152). -/
theorem State.replay_untaggedOn (s : State) (avoid ys : List Nat) (fuel y : Nat) (p q : Prep) (h : s.replay avoid fuel y p = .ok q)
    (hp : p.b.UntaggedOn ys) : q.b.UntaggedOn ys := by
  induction fuel generalizing y p q with
  | zero => cases h; exact hp
  | succ fuel ih =>
    simp only [State.replay] at h
    split at h
    · cases h; exact hp
    · split at h
      next r rn depth found tagged =>
        have tagged : r.tag = some (rn, depth) := by simpa [found] using tagged
        split at h
        · cases h; exact hp
        next l d _ =>
          obtain ⟨backed, prepared, evaluated⟩ := bind_ok h
          obtain ⟨sources, replayed, back⟩ := bind_ok prepared
          have hsources : sources.b.UntaggedOn ys := prepEach_preserves _ ih _ (fun a ha => by cases ha; exact hp) replayed
          have hbacked : backed.b.UntaggedOn ys := by
            unfold Prep.back at back
            split at back
            next hb => cases back; exact hsources.back hb
            · cases back
          split at evaluated
          · cases evaluated
          · cases evaluated
            exact hbacked.put fun hy => absurd hy (hp.not_mem found tagged)
      · cases h; exact hp

theorem State.rematerialise_untaggedOn (s : State) (avoid ys : List Nat) (y : Nat) (p q : Prep) (h : s.rematerialise avoid y p = .ok q)
    (hp : p.b.UntaggedOn ys) : q.b.UntaggedOn (ys ++ [y]) := by
  obtain ⟨a, replayed, untagged⟩ := bind_ok h
  cases untagged
  exact (s.replay_untaggedOn avoid ys 3 y p a replayed hp).untag y

/-- After each register of a list has been brought back, none of the list is tagged. -/
theorem State.rematerialiseEach_untaggedOn (s : State) (avoid ys l : List Nat) {r : PrepRes} {q : Prep} (hr : ∀ p, r = .ok p → p.b.UntaggedOn ys)
    (h : prepEach (s.rematerialise avoid) l r = .ok q) : q.b.UntaggedOn (ys ++ l) := by
  unfold prepEach at h
  induction l generalizing r ys with
  | nil => exact (List.append_nil ys).symm ▸ hr q h
  | cons y t ih =>
    have step : ∀ p, r.bind (s.rematerialise avoid y) = .ok p → p.b.UntaggedOn (ys ++ [y]) := fun p hp => by
      obtain ⟨a, ha, hy⟩ := bind_ok hp
      exact s.rematerialise_untaggedOn avoid ys y a p hy (hr a ha)
    simpa using ih (ys ++ [y]) step h

/-- A preparation that settles is one of the runs it was made of. -/
theorem settlePrep_run {run : List Nat → PrepRes} {fuel : Nat} {avoid : List Nat} {q : Prep} (h : settlePrep run fuel avoid = .ok q) :
    ∃ av, run av = .ok q := by
  induction fuel generalizing avoid with
  | zero => exact ⟨avoid, h⟩
  | succ fuel ih =>
    simp only [settlePrep] at h
    split at h
    · exact ⟨avoid, h⟩
    · exact ih h

/-- The preparation of a RUNTAG that acts leaves no register of its range tagged (R147, R166). -/
theorem State.prepareWord_runtag {s : State} {b : Batt} {f : RForm} {split active : Mask} {q : Prep} (acts : active ≠ 0) (ordered : b.Ordered)
    (h : s.prepareWord b (.runtag f) split active = .ok q) : q.b.UntaggedOn (b.rangeRegs f) := by
  unfold State.prepareWord at h
  simp only [if_neg acts] at h
  obtain ⟨av, h⟩ := settlePrep_run h
  have start : ∀ p, PrepRes.ok { b := b } = .ok p → p.b.UntaggedOn [] := fun p hp => by
    cases hp
    exact ⟨ordered, fun _ hy => absurd hy List.not_mem_nil⟩
  simpa using s.rematerialiseEach_untaggedOn av [] _ start h

/-! ### The batt of a word that issues, as its preparation left it -/

/-- The turn is that of the batt of `cur`. -/
theorem State.theTurn_go {s : State} {b : Batt} {low n : Nat} (h : s.theTurn = .go b low n) : s.batt? s.cur.1 s.cur.2 = some b := by
  unfold State.theTurn at h
  split at h
  · cases h
  next c hc =>
    split at h
    · cases h
    · split at h
      · cases h
      · split at h
        · cases h; exact hc
        · cases h

/-- Entering a pure region changes at most the tag and the purity set of the batt (R349). -/
theorem State.enterRegion_ok {s t : State} {core slot : Nat} {pc : DWord} (h : s.enterRegion core slot pc = .ok t) :
    t = s ∨ ∃ r, t = s.modBatt core slot fun b => { b with tag := .region r, absorbed := [] } := by
  unfold State.enterRegion at h
  simp only at h
  split at h
  · cases h; exact .inl rfl
  · split at h
    · cases h
    next r _ =>
      split at h
      · cases h; exact .inr ⟨r.start, rfl⟩
      · cases h; exact .inl rfl
    · cases h; exact .inl rfl

/-- A word issues from the turn of a batt whose preparation for it succeeds. -/
theorem issueWord_go {i : Instr} {s t : State} {x : Iss} {n : Nat} (h : issueWord i s = .go x n t) :
    ∃ b low p, s.theTurn = .go b low n ∧ x.core = (b.takeTurn low).core ∧ x.slot = (b.takeTurn low).slot ∧
      s.prepareWord (b.takeTurn low) i x.split x.active = .ok p ∧
      (s.modBatt x.core x.slot fun _ => p.b).enterRegion p.b.core p.b.slot x.pc = .ok t := by
  unfold issueWord at h
  split at h
  · cases h
  · cases h
  next b low k turn =>
    dsimp only at h
    split at h
    · cases h
    · split at h
      · cases h
      next p prepared =>
        split at h
        · cases h
        · split at h
          next entered => cases h; exact ⟨b, low, p, turn, rfl, rfl, prepared, entered⟩
          · cases h

/-- A word that issues clear finds its vector registers as its preparation left them. -/
theorem clear_prepared {i : Instr} {s t : State} {x : Iss} {n : Nat} {b : Batt} (h : s.clear i = some (x, n, t))
    (hb : s.batt? x.core x.slot = some b) :
    ∃ low p, s.prepareWord (b.takeTurn low) i x.split x.active = .ok p ∧ (x.at t).vregs = p.b.vregs := by
  obtain ⟨b', low, p, turn, core, slot, prepared, entered⟩ := issueWord_go (clear_issue h)
  obtain ⟨_, _, _, hcore, hslot, -, -⟩ := issueWord_shape (clear_issue h)
  have same : b' = b := by
    have := State.theTurn_go turn
    rw [← hcore, ← hslot, hb] at this
    exact (Option.some.inj this).symm
  subst same
  have kept := s.prepareWord_keeps _ _ _ _ prepared
  unfold SameButV at kept
  have pcore : p.b.core = x.core := by rw [kept, core]
  have pslot : p.b.slot = x.slot := by rw [kept, slot]
  have stands : (s.modBatt x.core x.slot fun _ => p.b).batt? x.core x.slot = some p.b := by
    rw [State.batt?_modBatt_const s pcore pslot, hb]; rfl
  refine ⟨low, p, prepared, ?_⟩
  rw [pcore, pslot] at entered
  rcases State.enterRegion_ok entered with rfl | ⟨r, rfl⟩
  · rw [Iss.at, State.battAt, stands]; rfl
  · have moved := State.batt?_modBatt_same (s.modBatt x.core x.slot fun _ => p.b) x.core x.slot
      (fun b => { b with tag := .region r, absorbed := [] }) fun _ => ⟨rfl, rfl⟩
    rw [Iss.at, State.battAt, moved, stands]; rfl

/-- A word that issues clear acts in some lane, but for a paired word, each of whose slots has lanes of its own. -/
theorem clear_acts {i : Instr} {s t : State} {x : Iss} {n : Nat} (h : s.clear i = some (x, n, t)) (single : isPaired i = false) :
    x.active ≠ 0 := by
  unfold State.clear at h
  intro none_acts
  split at h
  next hi =>
    split at h
    · cases h
    next passed => cases h; simp [none_acts, single] at passed
  · cases h

/-! ### RUNTAG and RFREE (R147, R166) -/

theorem runtag_does (f : RForm) :
    WordDoes (.runtag f) (fun _ _ => True) fun x t => x.set t fun b => (b.rangeRegs f).foldl Batt.untag b :=
  wordDoes_of_doneBatt _ (fun _ => rfl) fun _ _ => rfl

theorem rfree_does (f : RForm) : WordDoes (.rfree f) (fun _ _ => True) fun x t => x.set t fun b =>
    { b with vregs := b.vregs.filter fun r => !(b.rangeRegs f).contains r.num } :=
  wordDoes_of_doneBatt _ (fun _ => rfl) fun _ _ => rfl

theorem Batt.takeTurn_vregs (b : Batt) (low : Nat) : (b.takeTurn low).vregs = b.vregs := by
  unfold Batt.takeTurn; split <;> rfl

theorem Batt.takeTurn_pinned (b : Batt) (low : Nat) : (b.takeTurn low).pinned = b.pinned := by
  unfold Batt.takeTurn; split <;> rfl

theorem Batt.rangeRegs_congr {b c : Batt} (h : b.pinned = c.pinned) (f : RForm) : b.rangeRegs f = c.rangeRegs f := by
  simp only [Batt.rangeRegs, Batt.isPinned, h]

/-- Where a RUNTAG executes, no register of its range is tagged. -/
theorem runtag_range_untagged (f : RForm) (s : State) (x : Iss) (n : Nat) (t : State) (b : Batt) (clear : s.clear (.runtag f) = some (x, n, t))
    (hb : s.batt? x.core x.slot = some b) (ordered : b.Ordered) : ∀ y ∈ (x.at t).rangeRegs f, ((x.at t).vreg? y).bind (·.tag) = none := by
  obtain ⟨low, p, prepared, vregs⟩ := clear_prepared clear hb
  obtain ⟨c, _, hc, -, -, issued, -, -, rfl⟩ := clear_shape clear
  obtain rfl : b = c := Option.some.inj (hb.symm.trans hc)
  have pinned : (x.at t).pinned = (b.takeTurn low).pinned := by rw [issued, Batt.takeTurn_pinned]
  have ordered : (b.takeTurn low).Ordered := by rwa [Batt.Ordered, Batt.takeTurn_vregs]
  obtain ⟨-, untagged⟩ := State.prepareWord_runtag (clear_acts clear rfl) ordered prepared
  simp only [Batt.rangeRegs_congr pinned, Batt.vreg?, vregs]
  exact untagged

/-! ### RTAG (R48, R151) -/

/-- The lanes of an evaluation in which an enabled exception arises. -/
def rtagBad (b : Batt) (tr : List Nat) : Mask := maskOf fun i => (tr.getD i 0) &&& fld b.fpcr 4 0 != 0

/-- The target's registers of an evaluated recipe, with their tag and its depth. -/
def tagTarget (b : Batt) (f : RForm) (l : List Instr) (d : AluDst) (e : Batt) : Batt :=
  (dstRegs d).foldl (fun (e : Batt) n => match e.vreg? n with
    | some r => { e with vregs := putVReg e.vregs { r with tag := some (f.mf 5 0, recipeDepth b l d) } }
    | none => e) e

section
variable {f : RForm} {l : List Instr} {d : AluDst} {x : Iss} {t : State} (checked : t.rtagCheck (x.at t) f = some (l, d))
include checked

theorem rtagBody_done {e : Batt} {flags tr : List Nat} (ran : t.evalWords (x.at t) l [] [] = .ok e flags tr) (clean : rtagBad (x.at t) tr = 0) :
    rtagBody f x t = .done (x.set t fun b => { tagTarget (x.at t) f l d e with
      fpsr := b.fpsr ||| BitVec.ofNat 32 ((lanesOf x.active).foldl (fun a i => a ||| flags.getD i 0) 0) }) := by
  unfold rtagBody
  simp only [show t.battAt x.core x.slot = x.at t from rfl, checked, ran]
  exact if_neg fun raised => bne_iff_ne.1 raised clean

/-- An FPX of RTAG names the active lanes that raise it, or every active lane where it arises in others only (log 31). -/
theorem rtagBody_trap {e : Batt} {flags tr : List Nat} (ran : t.evalWords (x.at t) l [] [] = .ok e flags tr) (raised : rtagBad (x.at t) tr ≠ 0) :
    rtagBody f x t = .trap ((lanesOf x.active).map fun i =>
      { lane := i, cause := if rtagBad (x.at t) tr &&& x.active = 0 ∨ inMask (rtagBad (x.at t) tr) i = true then cFPX else 0, flags := tr.getD i 0 })
      (x.set t fun b => b.keepBacks (dstRegs d)) := by
  unfold rtagBody
  simp only [show t.battAt x.core x.slot = x.at t from rfl, checked, ran]
  refine (if_pos (bne_iff_ne.2 raised)).trans (congrArg (Body.trap · _) (map_lanesOf_congr fun i hi => ?_))
  exact congrArg (fun c : Nat => ({ lane := i, cause := c, flags := tr.getD i 0 } : LaneCause)) (if_congr (inMask_named _ hi) rfl rfl)

theorem rtagBody_fault {lanes : List LaneCause} {rep : Bool} {lv : Nat} (failed : t.evalWords (x.at t) l [] [] = .fault lanes rep lv) :
    rtagBody f x t = .prep (.eval lanes rep lv) (x.set t fun b => b.keepBacks (dstRegs d)) := by
  unfold rtagBody
  simp only [show t.battAt x.core x.slot = x.at t from rfl, checked, failed]
  rfl

end

/-- A refused RTAG ends as it is prepared. -/
theorem prepareWord_rtag_refused {s : State} {b : Batt} {f : RForm} {split active : Mask} (acts : active ≠ 0) (refused : s.rtagCheck b f = none) :
    s.prepareWord b (.rtag f) split active = .fault (.refused (s.recipeAddr b (f.mf 5 0))) { b := b } := by
  unfold State.prepareWord
  simp only [if_neg acts, refused, Option.isNone_none, if_true]

theorem rtag_refused (f : RForm) (s : State) (b0 : Batt) (low n : Nat) (turn : s.theTurn = .go b0 low n)
    (free : s.wordWaits b0 (.rtag f) low = false) :
    let b := b0.takeTurn low
    let active := b.activeFor (.rtag f) low
    active ≠ 0 → s.rtagCheck b f = none →
    exec (.rtag f) s = .next (((s.modBatt b.core b.slot fun _ => b).modBatt b.core b.slot fun b => b.countTurn low n).takeTrap b.core b.slot
      ((encode (.rtag f)).getD 0) (b.lane low).pc (b.splitOf low) 0 (causesOf active cUNDEF (s.recipeAddr b (f.mf 5 0)))) := by
  intro b active acts refused
  have ended : s.prepareWord (b0.takeTurn low) (.rtag f) ((b0.takeTurn low).splitOf low) ((b0.takeTurn low).activeFor (.rtag f) low) = _ :=
    prepareWord_rtag_refused acts refused
  show runWord (.rtag f) (rtagBody f) s = _
  unfold runWord issueWord
  simp only [turn, free, Bool.false_eq_true, if_false, ended]
  rfl

/-! ### The paired word (R74, R147) -/

/-- The lanes in which a slot of a paired word meets an enabled exception. -/
def pairBad (b : Batt) (rx ry : List FRes) : Mask := maskOf fun l => (resAt rx l).traps b.fpcr || (resAt ry l).traps b.fpcr

/-- What a slot writes: nothing for an empty slot, or where its guard is true in no lane. -/
def slotWrite (sl : Slot) (m : Mask) (rs : List FRes) (b : Batt) : Batt :=
  if sl.sop = 0 ∨ m = 0 then b else b.put (slotDst sl) m fun l => (resAt rs l).bits

section
variable (f : PForm) (x : Iss) (t : State)

/-- The lanes of a slot of the paired word. -/
abbrev slotLanes (sl : Slot) : Mask := (x.at t).guarded x.split sl.g

/-- The results of a slot, from the registers as they stand before either slot writes. -/
abbrev slotRes (sl : Slot) : List FRes := slotResults sl (x.at t) (slotLanes x t sl)

theorem pairBody_done (clean : pairBad (x.at t) (slotRes x t f.x) (slotRes x t f.y) = 0) :
    pairBody f x t = .done (x.set t fun b =>
      { slotWrite f.y (slotLanes x t f.y) (slotRes x t f.y) (slotWrite f.x (slotLanes x t f.x) (slotRes x t f.x) b) with
        fpsr := b.fpsr ||| BitVec.ofNat 32 ((slotRes x t f.x ++ slotRes x t f.y).foldl (fun acc q => acc ||| q.flags) 0) }) := by
  unfold pairBody
  refine (if_neg fun raised => bne_iff_ne.1 raised clean).trans ?_
  simp only [slotWrite, Bool.or_eq_true, decide_eq_true_eq]
  rfl

theorem pairBody_trap (raised : pairBad (x.at t) (slotRes x t f.x) (slotRes x t f.y) ≠ 0) :
    pairBody f x t = .trap ((lanesOf (slotLanes x t f.x ||| slotLanes x t f.y)).map fun l =>
      { lane := l, cause := if inMask (pairBad (x.at t) (slotRes x t f.x) (slotRes x t f.y)) l then cFPX else 0,
        flags := (resAt (slotRes x t f.x) l).tr ||| (resAt (slotRes x t f.y) l).tr }) t := by
  unfold pairBody
  exact if_pos (bne_iff_ne.2 raised)

end

/-- Settles O24: RUNTAG and RFREE change their batt once, RTAG and the paired word by the cases of their own meaning. -/
theorem tagAndPairedWords : Obligations.TagAndPairedWords := by
  unfold Obligations.TagAndPairedWords
  refine ⟨⟨runtag_does, runtag_range_untagged, rfree_does, fun f l d e flags tr => ⟨?tagged, ?fpx⟩,
    fun f l d lanes rep lv s x n t clear checked failed => ?fault, rtag_refused⟩, fun f => ⟨?written, ?trapped⟩⟩
  case tagged =>
    rintro s x n t clear ⟨⟨checked, ran⟩, clean⟩
    exact runWord_done clear (rtagBody_done checked ran clean)
  case fpx =>
    rintro s x n t clear ⟨⟨checked, ran⟩, raised⟩
    exact runWord_traps clear (rtagBody_trap checked ran raised)
  case fault => exact runWord_prep clear (rtagBody_fault checked failed)
  case written => exact fun s x n t clear clean => runWord_done clear (pairBody_done f x t clean)
  case trapped => exact fun s x n t clear raised => runWord_traps clear (pairBody_trap f x t raised)

end Sys2Proof.Machine
end

section
/-! Proofs about instruction words (R60 to R80): the fields of a layout are read back from its word, a word is put together again from
its fields, and each row of the opcode table stands at one place of the decoder and of the encoder. -/

namespace Sys2Proof

open Machine (fld)

/-! ### The guard field (R65) -/

theorem guardBits_lt (g : Guard) : guardBits g < 16 := by
  cases g with
  | always => decide
  | pred n neg =>
    have := n.isLt
    have := neg.toNat_lt
    simp only [guardBits]
    omega

theorem guardOf_guardBits (g : Guard) : guardOf (guardBits g / 2) (guardBits g % 2) = some g := by
  cases g with
  | always => rfl
  | pred n neg =>
    have bit := neg.toNat_lt
    have high : guardBits (.pred n neg) / 2 = n.val := by simp only [guardBits]; omega
    have low : guardBits (.pred n neg) % 2 = neg.toNat := by simp only [guardBits]; omega
    rw [high, low, guardOf, dif_pos n.isLt]
    cases neg <;> rfl

theorem guardBits_guardOf {pg pn : Nat} {g : Guard} (hpg : pg < 8) (hpn : pn < 2) (h : guardOf pg pn = some g) :
    guardBits g = pg * 2 + pn := by
  have bit : pn = 0 ∨ pn = 1 := by omega
  unfold guardOf at h
  split at h
  · cases h
    obtain rfl | rfl := bit <;> rfl
  · have seven : pg = 7 := by omega
    obtain rfl | rfl := bit
    · cases h
      rw [seven]
      rfl
    · cases h

/-! ### One bit, and a field as a bit vector -/

theorem toNat_beq_one (b : Bool) : (b.toNat == 1) = b := by cases b <;> rfl

theorem beq_one_toNat {n : Nat} (h : n < 2) : (n == 1).toNat = n := by
  obtain rfl | rfl : n = 0 ∨ n = 1 := by omega
  · rfl
  · rfl

theorem fld_lt {n : Nat} (x : BitVec n) (hi lo : Nat) : fld x hi lo < 2 ^ (hi + 1 - lo) := Nat.mod_lt _ (Nat.two_pow_pos _)

/-- A field stands above the bits below it. -/
theorem fld_step {n : Nat} (w : BitVec n) (hi lo next : Nat) (hn : hi + 1 = next) (h : lo < next) :
    fld w hi lo * 2 ^ lo + w.toNat % 2 ^ lo = w.toNat % 2 ^ next := by
  have split : 2 ^ next = 2 ^ lo * 2 ^ (hi + 1 - lo) := by rw [← Nat.pow_add, hn, Nat.add_sub_cancel' h.le]
  rw [split, Nat.mod_mul, fld, Nat.mul_comm, Nat.add_comm]

theorem fld_whole {n : Nat} (w : BitVec n) : w.toNat % 2 ^ n = w.toNat := Nat.mod_eq_of_lt w.isLt

/-! ### The head of a word of the register, immediate and memory layouts: OP, PG and PN (R63, R69, R71) -/

/-- Bit 63 of the word is 0, and its fields OP, PG and PN are those of the opcode and the guard. -/
structure Headed (w : BitVec 64) (op : Nat) (g : Guard) : Prop where
  top : fld w 63 63 = 0
  code : fld w 62 55 = op
  high : fld w 54 52 = guardBits g / 2
  low : fld w 51 51 = guardBits g % 2

theorem headed_of {w : BitVec 64} {op rest : Nat} {g : Guard} (hop : op < 256) (hrest : rest < 2 ^ 51)
    (h : w.toNat = op * 2 ^ 55 + guardBits g * 2 ^ 51 + rest) : Headed w op g := by
  have hg := guardBits_lt g
  constructor <;> simp only [fld, h] <;> omega

/-- Below a top bit of 0, a word is its head and its other 51 bits. -/
theorem toNat_of_head {w : BitVec 64} {g : Guard} (top : fld w 63 63 = 0) (hg : guardBits g = fld w 54 52 * 2 + fld w 51 51) :
    w.toNat = fld w 62 55 * 2 ^ 55 + guardBits g * 2 ^ 51 + w.toNat % 2 ^ 51 := by
  have whole := fld_whole w
  have topStep := fld_step w 63 63 64 rfl (by omega)
  have code := fld_step w 62 55 63 rfl (by omega)
  have high := fld_step w 54 52 55 rfl (by omega)
  have low := fld_step w 51 51 52 rfl (by omega)
  omega

/-- What the layouts come to for a word with a head (R60, R77). -/
theorem parse_headed {w : BitVec 64} {op : Nat} {g : Guard} (h : Headed w op g) : parse w =
    match immInstr op (immFields w g) with
    | some i => some i
    | none => match memInstr op (memFields w g) with
      | some i => if fld w 6 6 == 1 then none else some i
      | none => regInstr op (regFields w g) := by
  simp only [parse, h.top, h.code, h.high, h.low, guardOf_guardBits] <;> rfl

/-! ### The register layout (R63) -/

section
variable {op : Nat} (f : RForm)

/-- The fields below the guard as a number. -/
def RForm.bits : Nat := f.d.toNat * 2 ^ 41 + f.a.toNat * 2 ^ 31 + f.b.toNat * 2 ^ 21 + f.c.toNat * 2 ^ 11 + f.u.toNat * 2 ^ 10 +
  f.bs.toNat * 2 ^ 9 + f.x.toNat * 2 ^ 8 + f.mod.toNat

theorem RForm.bits_lt : f.bits < 2 ^ 51 := by
  have := f.d.isLt; have := f.a.isLt; have := f.b.isLt; have := f.c.isLt; have := f.mod.isLt
  have := f.u.toNat_lt; have := f.bs.toNat_lt; have := f.x.toNat_lt
  simp only [RForm.bits]
  omega

theorem regWord_eq (op : Nat) : regWord op f = BitVec.ofNat 64 (op * 2 ^ 55 + guardBits f.g * 2 ^ 51 + f.bits) := by
  simp only [regWord, RForm.bits, Nat.add_assoc]

theorem regWord_toNat (hop : op < 256) : (regWord op f).toNat = op * 2 ^ 55 + guardBits f.g * 2 ^ 51 + f.bits := by
  have := f.bits_lt
  have := guardBits_lt f.g
  rw [regWord_eq, BitVec.toNat_ofNat, Nat.mod_eq_of_lt (by omega)]

theorem regWord_headed (hop : op < 256) : Headed (regWord op f) op f.g := headed_of hop f.bits_lt (regWord_toNat f hop)

theorem regFields_regWord (hop : op < 256) : regFields (regWord op f) f.g = f := by
  have word := regWord_toNat f hop
  have := f.d.isLt; have := f.a.isLt; have := f.b.isLt; have := f.c.isLt; have := f.mod.isLt
  have := f.u.toNat_lt; have := f.bs.toNat_lt; have := f.x.toNat_lt
  simp only [RForm.bits] at word
  have hd : fld (regWord op f) 50 41 = f.d.toNat := by simp only [fld, word]; omega
  have ha : fld (regWord op f) 40 31 = f.a.toNat := by simp only [fld, word]; omega
  have hb : fld (regWord op f) 30 21 = f.b.toNat := by simp only [fld, word]; omega
  have hc : fld (regWord op f) 20 11 = f.c.toNat := by simp only [fld, word]; omega
  have hu : fld (regWord op f) 10 10 = f.u.toNat := by simp only [fld, word]; omega
  have hbs : fld (regWord op f) 9 9 = f.bs.toNat := by simp only [fld, word]; omega
  have hx : fld (regWord op f) 8 8 = f.x.toNat := by simp only [fld, word]; omega
  have hm : fld (regWord op f) 7 0 = f.mod.toNat := by simp only [fld, word]; omega
  simp only [regFields, hd, ha, hb, hc, hu, hbs, hx, hm, toNat_beq_one, BitVec.ofNat_toNat, BitVec.setWidth_eq]

end

theorem regFields_bits (w : BitVec 64) (g : Guard) : (regFields w g).bits =
    fld w 50 41 * 2 ^ 41 + fld w 40 31 * 2 ^ 31 + fld w 30 21 * 2 ^ 21 + fld w 20 11 * 2 ^ 11 + fld w 10 10 * 2 ^ 10 +
      fld w 9 9 * 2 ^ 9 + fld w 8 8 * 2 ^ 8 + fld w 7 0 := by
  simp only [regFields, RForm.bits, BitVec.toNat_ofNat, beq_one_toNat (fld_lt w 10 10), beq_one_toNat (fld_lt w 9 9),
    beq_one_toNat (fld_lt w 8 8)]
  rw [Nat.mod_eq_of_lt (fld_lt w 50 41), Nat.mod_eq_of_lt (fld_lt w 40 31), Nat.mod_eq_of_lt (fld_lt w 30 21), Nat.mod_eq_of_lt (fld_lt w 20 11),
    Nat.mod_eq_of_lt (fld_lt w 7 0)]

theorem regWord_regFields {w : BitVec 64} {g : Guard} (top : fld w 63 63 = 0)
    (hg : guardBits g = fld w 54 52 * 2 + fld w 51 51) : regWord (fld w 62 55) (regFields w g) = w := by
  have bits : (regFields w g).bits = w.toNat % 2 ^ 51 := by
    rw [regFields_bits, ← fld_step w 50 41 51 rfl (by omega), ← fld_step w 40 31 41 rfl (by omega), ← fld_step w 30 21 31 rfl (by omega),
      ← fld_step w 20 11 21 rfl (by omega), ← fld_step w 10 10 11 rfl (by omega), ← fld_step w 9 9 10 rfl (by omega),
      ← fld_step w 8 8 9 rfl (by omega), ← fld_step w 7 0 8 rfl (by omega)]
    simp only [Nat.pow_zero, Nat.mul_one, Nat.mod_one, Nat.add_zero, Nat.add_assoc]
  refine BitVec.eq_of_toNat_eq ?_
  rw [regWord_toNat _ (fld_lt w 62 55), bits]
  exact (toNat_of_head top hg).symm

/-! ### The immediate layout (R69) -/

section
variable {op : Nat} (f : IForm)

def IForm.bits : Nat := f.d.toNat * 2 ^ 41 + f.a.toNat * 2 ^ 31 + f.imm.toNat

theorem IForm.bits_lt : f.bits < 2 ^ 51 := by
  have := f.d.isLt; have := f.a.isLt; have := f.imm.isLt
  simp only [IForm.bits]
  omega

theorem immWord_eq (op : Nat) : immWord op f = BitVec.ofNat 64 (op * 2 ^ 55 + guardBits f.g * 2 ^ 51 + f.bits) := by
  simp only [immWord, IForm.bits, Nat.add_assoc]

theorem immWord_toNat (hop : op < 256) : (immWord op f).toNat = op * 2 ^ 55 + guardBits f.g * 2 ^ 51 + f.bits := by
  have := f.bits_lt
  have := guardBits_lt f.g
  rw [immWord_eq, BitVec.toNat_ofNat, Nat.mod_eq_of_lt (by omega)]

theorem immWord_headed (hop : op < 256) : Headed (immWord op f) op f.g := headed_of hop f.bits_lt (immWord_toNat f hop)

theorem immFields_immWord (hop : op < 256) : immFields (immWord op f) f.g = f := by
  have word := immWord_toNat f hop
  have := f.d.isLt; have := f.a.isLt; have := f.imm.isLt
  simp only [IForm.bits] at word
  have hd : fld (immWord op f) 50 41 = f.d.toNat := by simp only [fld, word]; omega
  have ha : fld (immWord op f) 40 31 = f.a.toNat := by simp only [fld, word]; omega
  have hi : fld (immWord op f) 30 0 = f.imm.toNat := by simp only [fld, word]; omega
  simp only [immFields, hd, ha, hi, BitVec.ofNat_toNat, BitVec.setWidth_eq]

end

theorem immFields_bits (w : BitVec 64) (g : Guard) : (immFields w g).bits =
    fld w 50 41 * 2 ^ 41 + fld w 40 31 * 2 ^ 31 + fld w 30 0 := by
  simp only [immFields, IForm.bits, BitVec.toNat_ofNat]
  rw [Nat.mod_eq_of_lt (fld_lt w 50 41), Nat.mod_eq_of_lt (fld_lt w 40 31), Nat.mod_eq_of_lt (fld_lt w 30 0)]

theorem immWord_immFields {w : BitVec 64} {g : Guard} (top : fld w 63 63 = 0)
    (hg : guardBits g = fld w 54 52 * 2 + fld w 51 51) : immWord (fld w 62 55) (immFields w g) = w := by
  have bits : (immFields w g).bits = w.toNat % 2 ^ 51 := by
    rw [immFields_bits, ← fld_step w 50 41 51 rfl (by omega), ← fld_step w 40 31 41 rfl (by omega), ← fld_step w 30 0 31 rfl (by omega)]
    simp only [Nat.pow_zero, Nat.mul_one, Nat.mod_one, Nat.add_zero, Nat.add_assoc]
  refine BitVec.eq_of_toNat_eq ?_
  rw [immWord_toNat _ (fld_lt w 62 55), bits]
  exact (toNat_of_head top hg).symm

/-! ### The memory layout (R71) -/

section
variable {op : Nat} (f : MForm)

def MForm.bits : Nat := f.d.toNat * 2 ^ 41 + f.a.toNat * 2 ^ 31 + f.ix.toNat * 2 ^ 21 + f.ofs.toNat * 2 ^ 8 + f.x.toNat * 2 ^ 7 +
  f.sx.toNat * 2 ^ 5 + f.cp.toNat * 2 ^ 3 + f.wd.toNat

theorem MForm.bits_lt : f.bits < 2 ^ 51 := by
  have := f.d.isLt; have := f.a.isLt; have := f.ix.isLt; have := f.ofs.isLt; have := f.cp.isLt; have := f.wd.isLt
  have := f.x.toNat_lt; have := f.sx.toNat_lt
  simp only [MForm.bits]
  omega

theorem memWord_eq (op : Nat) : memWord op f = BitVec.ofNat 64 (op * 2 ^ 55 + guardBits f.g * 2 ^ 51 + f.bits) := by
  simp only [memWord, MForm.bits, Nat.add_assoc]

theorem memWord_toNat (hop : op < 256) : (memWord op f).toNat = op * 2 ^ 55 + guardBits f.g * 2 ^ 51 + f.bits := by
  have := f.bits_lt
  have := guardBits_lt f.g
  rw [memWord_eq, BitVec.toNat_ofNat, Nat.mod_eq_of_lt (by omega)]

theorem memWord_headed (hop : op < 256) : Headed (memWord op f) op f.g := headed_of hop f.bits_lt (memWord_toNat f hop)

/-- Bit 6, which is no field, is 0 in the word. -/
theorem memWord_reserved (hop : op < 256) : fld (memWord op f) 6 6 = 0 := by
  have word := memWord_toNat f hop
  have := f.sx.toNat_lt; have := f.cp.isLt; have := f.wd.isLt
  simp only [MForm.bits] at word
  simp only [fld, word]
  omega

theorem memFields_memWord (hop : op < 256) : memFields (memWord op f) f.g = f := by
  have word := memWord_toNat f hop
  have := f.d.isLt; have := f.a.isLt; have := f.ix.isLt; have := f.ofs.isLt; have := f.cp.isLt; have := f.wd.isLt
  have := f.x.toNat_lt; have := f.sx.toNat_lt
  simp only [MForm.bits] at word
  have hd : fld (memWord op f) 50 41 = f.d.toNat := by simp only [fld, word]; omega
  have ha : fld (memWord op f) 40 31 = f.a.toNat := by simp only [fld, word]; omega
  have hix : fld (memWord op f) 30 21 = f.ix.toNat := by simp only [fld, word]; omega
  have hofs : fld (memWord op f) 20 8 = f.ofs.toNat := by simp only [fld, word]; omega
  have hx : fld (memWord op f) 7 7 = f.x.toNat := by simp only [fld, word]; omega
  have hsx : fld (memWord op f) 5 5 = f.sx.toNat := by simp only [fld, word]; omega
  have hcp : fld (memWord op f) 4 3 = f.cp.toNat := by simp only [fld, word]; omega
  have hwd : fld (memWord op f) 2 0 = f.wd.toNat := by simp only [fld, word]; omega
  simp only [memFields, hd, ha, hix, hofs, hx, hsx, hcp, hwd, toNat_beq_one, BitVec.ofNat_toNat, BitVec.setWidth_eq]

end

theorem memFields_bits (w : BitVec 64) (g : Guard) : (memFields w g).bits =
    fld w 50 41 * 2 ^ 41 + fld w 40 31 * 2 ^ 31 + fld w 30 21 * 2 ^ 21 + fld w 20 8 * 2 ^ 8 + fld w 7 7 * 2 ^ 7 +
      fld w 5 5 * 2 ^ 5 + fld w 4 3 * 2 ^ 3 + fld w 2 0 := by
  simp only [memFields, MForm.bits, BitVec.toNat_ofNat, beq_one_toNat (fld_lt w 7 7), beq_one_toNat (fld_lt w 5 5)]
  rw [Nat.mod_eq_of_lt (fld_lt w 50 41), Nat.mod_eq_of_lt (fld_lt w 40 31), Nat.mod_eq_of_lt (fld_lt w 30 21), Nat.mod_eq_of_lt (fld_lt w 20 8),
    Nat.mod_eq_of_lt (fld_lt w 4 3), Nat.mod_eq_of_lt (fld_lt w 2 0)]

theorem memWord_memFields {w : BitVec 64} {g : Guard} (top : fld w 63 63 = 0) (reserved : fld w 6 6 = 0)
    (hg : guardBits g = fld w 54 52 * 2 + fld w 51 51) : memWord (fld w 62 55) (memFields w g) = w := by
  have bits : (memFields w g).bits = w.toNat % 2 ^ 51 := by
    rw [memFields_bits, ← fld_step w 50 41 51 rfl (by omega), ← fld_step w 40 31 41 rfl (by omega), ← fld_step w 30 21 31 rfl (by omega),
      ← fld_step w 20 8 21 rfl (by omega), ← fld_step w 7 7 8 rfl (by omega), ← fld_step w 6 6 7 rfl (by omega),
      ← fld_step w 5 5 6 rfl (by omega), ← fld_step w 4 3 5 rfl (by omega), ← fld_step w 2 0 3 rfl (by omega)]
    simp only [reserved, Nat.zero_mul, Nat.zero_add, Nat.pow_zero, Nat.mul_one, Nat.mod_one, Nat.add_zero, Nat.add_assoc]
  refine BitVec.eq_of_toNat_eq ?_
  rw [memWord_toNat _ (fld_lt w 62 55), bits]
  exact (toNat_of_head top hg).symm

/-! ### The paired word (R73) -/

theorem slotBits_lt (s : Slot) : slotBits s < 2 ^ 31 := by
  have := s.sop.isLt; have := guardBits_lt s.g; have := s.d.isLt; have := s.b.isLt; have := s.imm5.isLt
  simp only [slotBits]
  omega

theorem slotFields_of_toNat {v : BitVec 31} {s : Slot} (word : v.toNat = slotBits s) : slotFields v = some s := by
  have := s.sop.isLt; have := guardBits_lt s.g; have := s.d.isLt; have := s.b.isLt; have := s.imm5.isLt
  simp only [slotBits] at word
  have hsop : fld v 30 25 = s.sop.toNat := by simp only [fld, word]; omega
  have hpg : fld v 24 22 = guardBits s.g / 2 := by simp only [fld, word]; omega
  have hpn : fld v 21 21 = guardBits s.g % 2 := by simp only [fld, word]; omega
  have hd : fld v 20 13 = s.d.toNat := by simp only [fld, word]; omega
  have hb : fld v 12 5 = s.b.toNat := by simp only [fld, word]; omega
  have hi : fld v 4 0 = s.imm5.toNat := by simp only [fld, word]; omega
  simp only [slotFields, hsop, hpg, hpn, hd, hb, hi, guardOf_guardBits, BitVec.ofNat_toNat, BitVec.setWidth_eq]

theorem slotFields_slotBits (s : Slot) : slotFields (BitVec.ofNat 31 (slotBits s)) = some s :=
  slotFields_of_toNat (by rw [BitVec.toNat_ofNat, Nat.mod_eq_of_lt (slotBits_lt s)])

theorem slotBits_slotFields {v : BitVec 31} {s : Slot} (h : slotFields v = some s) : slotBits s = v.toNat := by
  have := v.isLt
  unfold slotFields at h
  split at h
  next g hg =>
    have bits := guardBits_guardOf (fld_lt v 24 22) (fld_lt v 21 21) hg
    cases h
    simp only [slotBits, bits, BitVec.toNat_ofNat]
    simp only [fld]
    omega
  · cases h

/-- What the paired layout comes to (R73). -/
theorem parse_paired {w : BitVec 64} (top : fld w 63 63 = 1) : parse w = if fld w 62 62 = 1 then none else
    match slotFields (BitVec.ofNat 31 (fld w 61 31)), slotFields (BitVec.ofNat 31 (fld w 30 0)) with
    | some x, some y => some (.pairedWord ⟨x, y⟩)
    | _, _ => none := by
  simp only [parse, top, beq_iff_eq, if_true] <;> rfl

theorem parse_pairWord (f : PForm) : parse (pairWord f) = some (.pairedWord f) := by
  have hx := slotBits_lt f.x
  have hy := slotBits_lt f.y
  have word : (pairWord f).toNat = 2 ^ 63 + slotBits f.x * 2 ^ 31 + slotBits f.y := by
    rw [pairWord, BitVec.toNat_ofNat, Nat.mod_eq_of_lt]
    omega
  have top : fld (pairWord f) 63 63 = 1 := by simp only [fld, word]; omega
  have next : fld (pairWord f) 62 62 = 0 := by simp only [fld, word]; omega
  have slotX : fld (pairWord f) 61 31 = slotBits f.x := by simp only [fld, word]; omega
  have slotY : fld (pairWord f) 30 0 = slotBits f.y := by simp only [fld, word]; omega
  rw [parse_paired top, next, slotX, slotY, slotFields_slotBits, slotFields_slotBits]
  rfl

theorem pairWord_slotFields {w : BitVec 64} {x y : Slot} (top : fld w 63 63 = 1) (next : fld w 62 62 = 0)
    (hx : slotFields (BitVec.ofNat 31 (fld w 61 31)) = some x) (hy : slotFields (BitVec.ofNat 31 (fld w 30 0)) = some y) :
    pairWord ⟨x, y⟩ = w := by
  refine BitVec.eq_of_toNat_eq ?_
  have := w.isLt
  simp only [pairWord, slotBits_slotFields hx, slotBits_slotFields hy, BitVec.toNat_ofNat]
  simp only [fld] at top next ⊢
  omega

/-! ### The rows of the opcode table (R77) -/

/-- The word stands for the instruction: a row of one of the layouts. -/
inductive WordOf (i : Instr) : BitVec 64 → Prop where
  | reg (op : Nat) (f : RForm) (hop : op < 256) (imm : ∀ g, immInstr op g = none) (mem : ∀ g, memInstr op g = none)
      (row : regInstr op f = some i) : WordOf i (regWord op f)
  | imm (op : Nat) (f : IForm) (hop : op < 256) (row : immInstr op f = some i) : WordOf i (immWord op f)
  | mem (op : Nat) (f : MForm) (hop : op < 256) (imm : ∀ g, immInstr op g = none) (row : memInstr op f = some i) : WordOf i (memWord op f)
  | pair (f : PForm) (row : i = .pairedWord f) : WordOf i (pairWord f)

theorem immInstr_none {op : Nat} {f : IForm} (h : immInstr op f = none) (g : IForm) : immInstr op g = none := by
  refine Option.eq_none_iff_forall_ne_some.2 fun i hi => ?_
  unfold immInstr at hi
  split at hi
  case h_8 => cases hi
  all_goals cases h

theorem memInstr_none {op : Nat} {f : MForm} (h : memInstr op f = none) (g : MForm) : memInstr op g = none := by
  refine Option.eq_none_iff_forall_ne_some.2 fun i hi => ?_
  unfold memInstr at hi
  split at hi
  case h_7 => cases hi
  all_goals cases h

/-- The decoder's layouts read the instruction of a word back. -/
theorem WordOf.parse {i : Instr} {w : BitVec 64} (h : WordOf i w) : parse w = some i := by
  cases h with
  | reg op f hop imm mem row => rw [parse_headed (regWord_headed f hop), imm, mem, regFields_regWord f hop, row]
  | imm op f hop row => rw [parse_headed (immWord_headed f hop), immFields_immWord f hop, row]
  | mem op f hop imm row =>
    rw [parse_headed (memWord_headed f hop), imm, memFields_memWord f hop, row, memWord_reserved f hop]
    rfl
  | pair f row => rw [parse_pairWord, row]

/-- A guard that is read from a word stands in it. -/
theorem headed_of_guard {w : BitVec 64} {g : Guard} (top : fld w 63 63 = 0) (hg : guardOf (fld w 54 52) (fld w 51 51) = some g) :
    guardBits g = fld w 54 52 * 2 + fld w 51 51 ∧ Headed w (fld w 62 55) g := by
  have bits := guardBits_guardOf (fld_lt w 54 52) (fld_lt w 51 51) hg
  have := fld_lt w 51 51
  exact ⟨bits, top, rfl, by omega, by omega⟩

/-- Every word that the layouts accept is a row of one of them. -/
theorem wordOf_of_parse {w : BitVec 64} {i : Instr} (h : parse w = some i) : WordOf i w := by
  have hop := fld_lt w 62 55
  by_cases top : fld w 63 63 = 0
  · cases hg : guardOf (fld w 54 52) (fld w 51 51) with
    | none => simp [parse, top, hg] at h
    | some g =>
      obtain ⟨bits, head⟩ := headed_of_guard top hg
      rw [parse_headed head] at h
      split at h
      next row => cases h; exact immWord_immFields top bits ▸ .imm _ _ hop row
      next noImm =>
        split at h
        next row =>
          split at h
          · cases h
          next reserved =>
            cases h
            have := fld_lt w 6 6
            exact memWord_memFields top (by simp at reserved; omega) bits ▸ .mem _ _ hop (immInstr_none noImm) row
        next noMem => exact regWord_regFields top bits ▸ .reg _ _ hop (immInstr_none noImm) (memInstr_none noMem) h
  · have pairs : fld w 63 63 = 1 := by have := fld_lt w 63 63; omega
    rw [parse_paired pairs] at h
    split at h
    · cases h
    next reserved =>
      split at h
      next hx hy =>
        cases h
        have := fld_lt w 62 62
        exact pairWord_slotFields pairs (by omega) hx hy ▸ .pair _ rfl
      · cases h

/-! ### Every encoding is a row (R77) -/

theorem RForm.mb_of_mod {f : RForm} {m : Byte} (h : f.mod = m) (k : Nat) : f.mb k = m.getLsbD k := by rw [RForm.mb, h]

theorem RForm.mf_of_mod {f : RForm} {m : Byte} (h : f.mod = m) (hi lo : Nat) : f.mf hi lo = fld m hi lo := by rw [RForm.mf, h]

/-- A MOD bit outside the mask of a legal word is 0. -/
theorem RForm.mb_of_modIn {f : RForm} {mask : Byte} (h : Machine.modIn f mask = true) {k : Nat} (hk : k < 8) (out : mask.getLsbD k = false) :
    f.mb k = false := by
  have none : f.mod &&& ~~~mask = 0 := by simpa [Machine.modIn] using h
  have bit : (f.mod &&& ~~~mask).getLsbD k = false := by rw [none]; exact BitVec.getLsbD_zero
  simpa only [RForm.mb, BitVec.getLsbD_and, BitVec.getLsbD_not, hk, out, decide_true, Bool.not_false, Bool.and_true] using bit

/-- The last of the checks of a well-formed word, where it fixes MOD. -/
theorem mod_of_checks {p : Bool} {f : RForm} {m : Byte} (h : (p && f.mod == m) = true) : f.mod = m :=
  beq_iff_eq.1 (Bool.and_eq_true_iff.1 h).2

theorem modIn_of_checks {p : Bool} {f : RForm} {mask : Byte} (h : (p && Machine.modIn f mask) = true) : Machine.modIn f mask = true :=
  (Bool.and_eq_true_iff.1 h).2

/-- The word of a well-formed instruction is a row; where an opcode has several forms, the checks of MOD say which (R314 to R316, R361, R400). -/
theorem wordOf_encode {i : Instr} {w : BitVec 64} (wf : wellFormed i = true) (h : encode i = some w) : WordOf i w := by
  cases i with
  | nop f | yield f | exit f | launch f | getsr f | setsr f | trap f | brk f | conto f | contc f | conts f | iadd f | isub f | imul f | imulhi f
  | imad f | imadw f | idiv f | irem f | imin f | imax f | iabs f | ineg f | iadd64 f | isub64 f | imul64 f | and f | or f | xor f | andn f | shl f
  | shr f | sar f | rotl f | popc f | clz f | brev f | bfe f | bfi f | lea f | bsel f | icmp f | sel f | mov f | plop f | pmov f | lxch f | pfold f
  | peer f | lget f | lset f | rtag f | runtag f | rfree f | fadd f | fsub f | fmul f | ffma f | fmin f | fmax f | fdiv f | fsqrt f | fcmp f
  | fclass f | fscale f | hfma2 f | frcpa f | frsqa f | fex2a f | flg2a f | dadd f | dsub f | dmul f | dfma f | dmin f | dmax f | ddiv f | dsqrt f
  | dcmp f | dclass f | dscale f | fsina f | fcosa f | cvt f | qmx f | dqmx f | xacc f | xrnd f | xclr f | lred f | callx f | ret f | rjset f
  | rjoin f | rjdrop f | acq f | rel f | acqr f | fence f | fenceo f | full f | flushh f | hbind f | hprio f | hdrop f | atom f | red f | waita f
  | puts f | barv f | barw f | bars f | bart f | barq f | syncb f | aballoc f | mxi f | mxq f | cpy f | cpy2d f | gath f | scat f | sigi f | siga f
  | sigq f | sigf f | mlook f | mfill f | txsig f | draw f | vout f | ipa f | tex f | tld f | fout f | mlclr f | mlrd f =>
    cases h
    exact .reg _ f (by decide) (fun _ => rfl) (fun _ => rfl) rfl
  | iaddi f | logi f | movi f | movhi f | bra f | brx f | call f =>
    cases h
    exact .imm _ f (by decide) rfl
  | ld f | st f | lds f | sts f | ldc f | pref f =>
    cases h
    exact .mem _ f (by decide) (fun _ => rfl) rfl
  | pairedWord f =>
    cases h
    exact .pair f rfl
  | abfree f | azero f | mlres f =>
    cases h
    exact .reg _ f (by decide) (fun _ => rfl) (fun _ => rfl) (if_neg (by rw [RForm.mb_of_mod (mod_of_checks wf)]; decide))
  | abfreeAll f | azeroAll f | aldSp f | astSp f =>
    cases h
    exact .reg _ f (by decide) (fun _ => rfl) (fun _ => rfl) (if_pos (by rw [RForm.mb_of_mod (mod_of_checks wf)]; decide))
  | ald f | ast f =>
    cases h
    exact .reg _ f (by decide) (fun _ => rfl) (fun _ => rfl)
      (if_neg (by rw [RForm.mb_of_modIn (k := 2) (modIn_of_checks wf) (by decide) (by decide)]; decide))
  | mlresLayer f | minvKey f =>
    cases h
    exact .reg _ f (by decide) (fun _ => rfl) (fun _ => rfl) (if_pos (Bool.and_eq_true_iff.1 wf).2)
  | minvRegion f | minvCtx f =>
    cases h
    exact .reg _ f (by decide) (fun _ => rfl) (fun _ => rfl) (by simp only [regInstr, RForm.mf_of_mod (mod_of_checks wf)]; rfl)
  | _ => cases h

theorem regInstr_encode {op : Nat} {f : RForm} {i : Instr} (h : regInstr op f = some i) : encode i = some (regWord op f) := by
  unfold regInstr at h
  repeat' split at h
  all_goals cases h
  all_goals rfl

theorem immInstr_encode {op : Nat} {f : IForm} {i : Instr} (h : immInstr op f = some i) : encode i = some (immWord op f) := by
  unfold immInstr at h
  split at h
  all_goals cases h
  all_goals rfl

theorem memInstr_encode {op : Nat} {f : MForm} {i : Instr} (h : memInstr op f = some i) : encode i = some (memWord op f) := by
  unfold memInstr at h
  split at h
  all_goals cases h
  all_goals rfl

/-- The instruction of a row has the row's word. -/
theorem WordOf.encode {i : Instr} {w : BitVec 64} (h : WordOf i w) : encode i = some w := by
  cases h with
  | reg op f hop imm mem row => exact regInstr_encode row
  | imm op f hop row => exact immInstr_encode row
  | mem op f hop imm row => exact memInstr_encode row
  | pair f row => rw [row]; rfl

/-! ### The statements -/

/-- A word decodes to the well-formed instruction whose row it is. -/
theorem decode_eq_some_iff {w : BitVec 64} {i : Instr} : decode w = some i ↔ wellFormed i = true ∧ WordOf i w := by
  constructor
  · intro h
    unfold decode at h
    split at h
    next row =>
      split at h
      next wf => cases h; exact ⟨wf, wordOf_of_parse row⟩
      · cases h
    · cases h
  · rintro ⟨wf, row⟩
    simp only [decode, row.parse, wf, if_true]

/-- Settles O1: the word of a well-formed instruction is a row of a layout, which the decoder reads back. -/
theorem decodeOfEncode : Obligations.DecodeOfEncode := by
  unfold Obligations.DecodeOfEncode
  exact fun i w wf h => decode_eq_some_iff.2 ⟨wf, wordOf_encode wf h⟩

/-- Settles O2: what decodes is a row of a layout, and the row's instruction has the row's word. -/
theorem encodeOfDecode : Obligations.EncodeOfDecode := by
  unfold Obligations.EncodeOfDecode
  intro w i h
  obtain ⟨wf, row⟩ := decode_eq_some_iff.1 h
  exact ⟨wf, row.encode⟩

end Sys2Proof
end

section
/-! Proofs about one step of the machine (R79, R121 to R125, log 1): the meaning of every row answers, and what moves next is
an event or a word of a batt that stands at `cur`. -/

namespace Sys2Proof.Machine

/-! ### What the meaning of a row is -/

/-- The meaning of a word is one issue of its batt (R79). -/
theorem exec_word {i : Instr} (h : (encode i).isSome = true) : ∃ body, ∀ s, exec i s = runWord i body s := by
  cases i with
  | nop f | yield f | exit f | launch f | getsr f | setsr f | trap f | brk f | conto f | contc f | conts f | iadd f | iaddi f | isub f | imul f
  | imulhi f | imad f | imadw f | idiv f | irem f | imin f | imax f | iabs f | ineg f | iadd64 f | isub64 f | imul64 f | and f | or f | xor f
  | andn f | logi f | shl f | shr f | sar f | rotl f | popc f | clz f | brev f | bfe f | bfi f | lea f | bsel f | icmp f | sel f | mov f | movi f
  | movhi f | plop f | pmov f | lxch f | pfold f | peer f | lget f | lset f | rtag f | runtag f | rfree f | fadd f | fsub f | fmul f | ffma f
  | fmin f | fmax f | fdiv f | fsqrt f | fcmp f | fclass f | fscale f | hfma2 f | frcpa f | frsqa f | fex2a f | flg2a f | dadd f | dsub f | dmul f
  | dfma f | dmin f | dmax f | ddiv f | dsqrt f | dcmp f | dclass f | dscale f | fsina f | fcosa f | cvt f | qmx f | dqmx f | xacc f | xrnd f
  | xclr f | lred f | bra f | brx f | call f | callx f | ret f | rjset f | rjoin f | rjdrop f | ld f | st f | lds f | sts f | ldc f | pref f | acq f
  | rel f | acqr f | fence f | fenceo f | full f | flushh f | hbind f | hprio f | hdrop f | atom f | red f | waita f | puts f | barv f | barw f
  | bars f | bart f | barq f | syncb f | aballoc f | abfree f | abfreeAll f | ald f | aldSp f | ast f | astSp f | azero f | azeroAll f | mxi f
  | mxq f | cpy f | cpy2d f | gath f | scat f | sigi f | siga f | sigq f | sigf f | mlook f | mfill f | minvKey f | minvRegion f | minvCtx f
  | txsig f | draw f | vout f | ipa f | tex f | tld f | fout f | mlres f | mlresLayer f | mlclr f | mlrd f | pairedWord f =>
    exact ⟨_, fun _ => rfl⟩
  | _ => cases h

/-- A step of the device or of its host answers a next state (R404). -/
theorem exec_event_answers {i : Instr} (h : isEvent i = true) (s : State) : ∃ t, exec i s = .next t := by
  cases i with
  | dependenceResolved _ _ | faultRecordWrite _ | pageWalk _ _ _ | logFullRelease _ _ | logPinnedRelief _ | l1Eviction _ _ | l1PartitionChange _
  | l2Eviction _ _ | putsLanding _ _ _ _ | aballocGrant _ | matrixPass _ _ | peatPartitionChange _ | preemptComplete _ | setroot _ | tlbinv _
  | setsave _ | preempt _ | restore _ | kill _ | peatsize _ | retire _ | engstat _ | ctlload _ | trapRelease _ _ | resumeAtWord _ _
  | resumePastWord _ _ | trapKill _ | twnewClear _ _ | faultRetry _ _ | faultToTrap _ _ | fbnewClear _ _ | stepmaxWrite _ _ | registerWrite _ _ _
  | bar2HostRead _ _ | bar2HostWrite _ _ _ | bar4HostRead _ _ | bar4HostWrite _ _ _ | hostAtomicop _ _ _ _ _ _ | hostRequestError _ | vblankLatch _
  | displayHotplug _ _ _ | governorPeriod _ _ _ | stepTakesEffect _ | droopOnset _ | droopRecovery _ | currentLimit _ | temperatureBandChange _ _
  | railTrim _ | loadWindow _ _ | uncorrectableError _ | trapRecordWrite | unknownOp | lostClear | wdkick | bar0BadAccess | fabricStepEval
  | thermalTrip | watchdogLapse | correctableError | coldReset | smbusPartno | smbusTemperature | smbusBoardPower | smbusStat | smbusUnknownCommand
  | hkcFirmwareUpdate =>
    exact ⟨_, rfl⟩
  | launchEnqueue _ _ | activePositionFill _ _ | launchRetirement _ | loadReturn _ _ _ | promotionRequest _ _ _ | publicationGrant _
  | earlyPublication _ _ | fulling _ | entryApply _ _ | acquireWaitEnd _ _ | superblockCompression _ _ _ | atomicAtHome _ _ _
  | atomicUnitWriteback _ _ | atomReturn _ _ _ | waitMonitorNotice _ _ | waitaTimedRecheck _ _ | putsPayloadRead _ _ _ | redArrival _ _ _
  | tfuFetch _ | mxiCompletion _ | copyCompletion _ | battSave _ _ | drawStart _ | vertexCacheValidate _ | triangleBin _ | tileRender _ _
  | fragmentCommit _ | passRetirement _ | bringUp _ _ _ | minvStoreApply _ | scanoutFrameStart _ | dispatchCycle | commandComplete | warmReset =>
    simp only [exec,
      execLaunchEnqueue, execActivePositionFill, execLaunchRetirement, execLoadReturn, execPromotionRequest, execPublicationGrant,
      execEarlyPublication, execFulling, execEntryApply, execAcquireWaitEnd, execSuperblockCompression, execAtomicAtHome, execAtomicUnitWriteback,
      execAtomReturn, execWaitMonitorNotice, execWaitaTimedRecheck, execPutsPayloadRead, execRedArrival, execTfuFetch, execMxiCompletion,
      execCopyCompletion, execBattSave, execDrawStart, execVertexCacheValidate, execTriangleBin, execTileRender, execFragmentCommit,
      execPassRetirement, execBringUp, execMinvStoreApply, execScanoutFrameStart, execDispatchCycle, execCommandComplete, execWarmReset]
    repeat' split
    all_goals exact ⟨_, rfl⟩
  | _ => cases h

/-! ### What a fetch leaves of the batts (R62, R236) -/

/-- The batts and the place of the issuer are the same in both states. -/
def SameBatts (s t : State) : Prop := t.batts = s.batts ∧ t.cur = s.cur

theorem SameBatts.trans {s t u : State} (h : SameBatts s t) (k : SameBatts t u) : SameBatts s u := ⟨k.1.trans h.1, k.2.trans h.2⟩

theorem CachesOnly.sameBatts {s t : State} (h : CachesOnly s t) : SameBatts s t := by
  obtain ⟨shape, -⟩ := h
  exact ⟨by rw [shape], by rw [shape]⟩

theorem State.l2ReadAll_cachesOnly (s : State) (space va : Nat) (locs : List Loc) : CachesOnly s (s.l2ReadAll space va locs) :=
  CachesOnly.foldl (fun s _ => s.l2Read_cachesOnly _ _ _) _ s

theorem State.fetchRuns_cachesOnly (s : State) (space : Nat) (runs : List (DWord × Nat)) : CachesOnly s (s.fetchRuns space runs) :=
  CachesOnly.foldl (fun s _ => (CachesOnly.foldl (fun s _ => s.walkFills_cachesOnly _ _) _ s).trans (State.l2ReadAll_cachesOnly _ _ _ _)) runs s

theorem State.regionReads_sameBatts (s : State) (core slot : Nat) (i : Instr) (pc : DWord) : SameBatts s (s.regionReads core slot i pc) := by
  unfold State.regionReads
  exact iteInduction (motive := SameBatts s) (fun _ => (s.fetchRuns_cachesOnly _ _).sameBatts) fun _ => ⟨rfl, rfl⟩

theorem State.tlbFill_sameBatts (s : State) (core space : Nat) (va : DWord) : SameBatts s (s.tlbFill core space va) := by
  have walked := (s.walkFills_cachesOnly space va).sameBatts
  unfold State.tlbFill
  dsimp only
  split
  · exact walked
  · exact walked

theorem State.fetchReads_sameBatts (s : State) (core space : Nat) (pc : DWord) : SameBatts s (s.fetchReads core space pc) := by
  have filled : SameBatts s (if fld pc 63 49 != 0 then s else s.tlbFill core space pc) := by
    split
    · exact ⟨rfl, rfl⟩
    · exact s.tlbFill_sameBatts core space pc
  unfold State.fetchReads
  dsimp only
  split
  · split
    · exact filled
    · exact filled.trans (State.l2Read_cachesOnly _ _ _ _).sameBatts
  · exact filled

theorem State.icacheFill_sameBatts (s : State) (core space : Nat) (pc : DWord) (loc : Loc) (w : DWord) :
    SameBatts s (s.icacheFill core space pc loc w) := by
  have read := s.fetchReads_sameBatts core space pc
  unfold State.icacheFill
  extract_lets at' t t'
  have kept : SameBatts s t' := by
    dsimp only [t']
    split
    · exact read
    · exact read
  split
  · exact kept.trans (t'.regionReads_sameBatts _ _ _ _)
  · exact kept

/-! ### The front of the pipeline (R79) -/

@[simp] theorem Batt.takeTurn_core (b : Batt) (low : Nat) : (b.takeTurn low).core = b.core := by unfold Batt.takeTurn; split <;> rfl
@[simp] theorem Batt.takeTurn_slot (b : Batt) (low : Nat) : (b.takeTurn low).slot = b.slot := by unfold Batt.takeTurn; split <;> rfl
@[simp] theorem Batt.takeTurn_space (b : Batt) (low : Nat) : (b.takeTurn low).space = b.space := by unfold Batt.takeTurn; split <;> rfl

/-- A word that is fetched and decodes goes to execution. -/
theorem State.frontEnd_run {s : State} {b : Batt} {low n : Nat} {w : DWord} {loc : Loc} {i : Instr} (turn : s.theTurn = .go b low n)
    (fetched : s.fetch b.core b.space ((b.takeTurn low).lane low).pc = .ok w loc) (decoded : decode w = some i) :
    s.frontEnd = .run i (s.icacheFill b.core b.space ((b.takeTurn low).lane low).pc loc w) := by
  simp only [State.frontEnd, turn, Batt.takeTurn_core, Batt.takeTurn_space, fetched, decoded]

/-- What goes to execution is the word of a batt that stands at `cur`. -/
theorem State.batt_of_frontEnd_run {s t : State} {i : Instr} (h : s.frontEnd = .run i t) : ∃ b, t.batt? t.cur.1 t.cur.2 = some b := by
  unfold State.frontEnd at h
  split at h
  · cases h
  · cases h
  next b0 low _ turn =>
    dsimp only at h
    split at h
    iterate 4 cases h
    split at h
    · cases h
    · cases h
      obtain ⟨batts, cur⟩ := s.icacheFill_sameBatts (b0.takeTurn low).core (b0.takeTurn low).space ((b0.takeTurn low).lane low).pc ‹_› ‹_›
      refine ⟨b0, ?_⟩
      rw [State.batt?, batts, cur]
      exact State.theTurn_go turn

/-! ### What moves next (log 1) -/

/-- The pick can be executed: an event, or a word with a batt at `cur`. -/
def Pick.Runs : Pick → Prop
  | .exec i t => isEvent i = true ∨ ∃ b, t.batt? t.cur.1 t.cur.2 = some b
  | .ended _ => True

theorem State.issueAt_runs (s : State) (core slot : Nat) (ch : Choice) : (s.issueAt core slot ch).Runs := by
  unfold State.issueAt
  split
  · trivial
  next b _ =>
    split
    · trivial
    extract_lets swept placed go
    split
    · trivial
    have runs : go.Runs := by
      dsimp only [go]
      split
      · trivial
      · trivial
      next front => exact .inr (State.batt_of_frontEnd_run front)
    split
    · split
      · trivial
      · trivial
      · exact runs
    · exact runs

/-- Every instruction of the list is a step of the device or of its host. -/
def AllEvents (l : List Instr) : Prop := ∀ i ∈ l, isEvent i = true

theorem AllEvents.nil : AllEvents [] := fun _ h => absurd h List.not_mem_nil

theorem AllEvents.cons {i : Instr} {l : List Instr} (hi : isEvent i = true) (hl : AllEvents l) : AllEvents (i :: l) :=
  List.forall_mem_cons.2 ⟨hi, hl⟩

theorem AllEvents.one {i : Instr} (hi : isEvent i = true) : AllEvents [i] := .cons hi .nil

theorem AllEvents.append {l k : List Instr} (hl : AllEvents l) (hk : AllEvents k) : AllEvents (l ++ k) :=
  List.forall_mem_append.2 ⟨hl, hk⟩

theorem AllEvents.ite {c : Prop} [Decidable c] {l k : List Instr} (hl : AllEvents l) (hk : AllEvents k) : AllEvents (if c then l else k) := by
  split
  · exact hl
  · exact hk

theorem AllEvents.map {α : Type} {l : List α} {f : α → Instr} (h : ∀ x, isEvent (f x) = true) : AllEvents (l.map f) :=
  List.forall_mem_map.2 fun x _ => h x

theorem AllEvents.flatten {l : List (List Instr)} (h : ∀ k ∈ l, AllEvents k) : AllEvents l.flatten := fun i hi => by
  obtain ⟨k, hk, hi⟩ := List.mem_flatten.1 hi
  exact h k hk i hi

theorem AllEvents.flatten_map {α : Type} {l : List α} {f : α → List Instr} (h : ∀ x, AllEvents (f x)) : AllEvents (l.map f).flatten :=
  .flatten (List.forall_mem_map.2 fun x _ => h x)

theorem AllEvents.flatten_mapIdx {α : Type} {l : List α} {f : Nat → α → List Instr} (h : ∀ n x, AllEvents (f n x)) :
    AllEvents (l.mapIdx f).flatten :=
  .flatten fun k hk => by
    obtain ⟨n, hn, rfl⟩ := List.mem_mapIdx.1 hk
    exact h n _

theorem opSteps_allEvents (b : Batt) (o : Op) : AllEvents (opSteps b o) := by
  unfold opSteps
  split
  iterate 7 exact .one rfl
  · exact .cons rfl (.one rfl)
  · exact .cons rfl (.one rfl)
  · exact .one rfl
  · exact .one rfl
  · exact .cons rfl (.map fun _ => rfl)
  · exact .nil

theorem State.battSteps_allEvents (s : State) (b : Batt) : AllEvents (s.battSteps b) := by
  unfold State.battSteps
  refine .append (.append (.append (.append ?_ ?_) ?_) ?_) ?_
  · exact .ite .nil (.one rfl)
  · exact .flatten_map (opSteps_allEvents b)
  · split
    · exact .one rfl
    · exact .nil
  · exact .ite (.one rfl) .nil
  · exact .ite .nil (.append (.ite (.one rfl) .nil) (.one rfl))

theorem coreSteps_allEvents (i : Nat) (c : CoreSt) : AllEvents (coreSteps i c) :=
  .append (.append (.append (.append (.ite .nil (.one rfl)) (.ite .nil (.one rfl)))
    (.ite .nil (.cons rfl (.cons rfl (.one rfl))))) (.ite .nil (.one rfl))) (.flatten_mapIdx fun _ _ => .ite .nil (.one rfl))

theorem clusterSteps_allEvents (i : Nat) (k : Cluster) : AllEvents (clusterSteps i k) :=
  .append (.append (.append (.ite .nil (.one rfl)) (.ite .nil (.one rfl))) (.ite .nil (.one rfl)))
    (.flatten_mapIdx fun _ _ => .ite (.one rfl) .nil)

theorem launchSteps_allEvents (l : Launch) : AllEvents (launchSteps l) := by
  refine .append ?_ (.ite (.one rfl) .nil)
  split
  · exact .nil
  · exact .append (.append (.cons rfl (.cons rfl (.cons rfl (.one rfl)))) (.map fun _ => rfl)) (.one rfl)

theorem State.dueSteps_allEvents (s : State) : AllEvents s.dueSteps := by
  refine .append (.append (.append (.append (.append (.ite (.one rfl) .nil) (.flatten_map s.battSteps_allEvents))
    (.flatten_mapIdx coreSteps_allEvents)) (.flatten_mapIdx clusterSteps_allEvents)) (.flatten_map launchSteps_allEvents)) fun i hi => ?_
  obtain ⟨c, -, due⟩ := List.mem_filterMap.1 hi
  split at due
  · cases due; rfl
  · cases due

theorem State.defaultPick_runs (s : State) : s.defaultPick.Runs := by
  unfold State.defaultPick
  split
  · trivial
  split
  next i found => exact .inl (s.dueSteps_allEvents i (List.mem_of_find?_eq_some found))
  split
  · exact .inl rfl
  split
  · trivial
  split
  · exact s.issueAt_runs _ _ _
  · split <;> trivial

theorem State.pick_runs (s : State) : s.pick.Runs := by
  unfold State.pick
  split
  · exact s.defaultPick_runs
  dsimp only
  split
  · split
    next taken => exact .inl (Bool.and_eq_true_iff.1 taken).1
    · trivial
  · split
    · trivial
    · exact State.issueAt_runs _ _ _ _
  all_goals trivial

/-- What can be executed is answered. -/
theorem exec_answers {i : Instr} {s : State} (h : isEvent i = true ∨ ∃ b, s.batt? s.cur.1 s.cur.2 = some b) : ∃ t, exec i s = .next t := by
  cases event : isEvent i with
  | true => exact exec_event_answers event s
  | false =>
    obtain ⟨b, hb⟩ := h.resolve_left (by simp [event])
    obtain ⟨body, meaning⟩ := exec_word (i := i) (by simpa [isEvent] using event)
    rw [meaning]
    exact runWord_answers hb

/-- Settles O4: what moves next is an event, or a word with a batt at `cur`, and either is answered. -/
theorem stepAnswers : Obligations.StepAnswers := by
  unfold Obligations.StepAnswers
  intro s
  have runs := s.pick_runs
  unfold State.Answers step
  split
  next t _ => exact ⟨t, rfl⟩
  next i t picked =>
    rw [picked] at runs
    obtain ⟨u, done⟩ := exec_answers runs
    rw [done]
    exact ⟨_, rfl⟩

end Sys2Proof.Machine
end

section
/-! Proofs about what a step runs (R79, R121 to R125, R129, R461, log 1): the word that R123 takes, or the event that is next. -/

namespace Sys2Proof.Machine

/-! ### What an issue of the inputs comes to (R121 to R125, R129) -/

theorem State.pick_issue {s : State} {core slot : Nat} {ch : Choice} {rest : List Sched} (h : s.inputs = .issue core slot ch :: rest)
    (running : s.dev.tripped = false) : s.pick = ({ s with inputs := rest } : State).issueAt core slot ch := by
  simp [State.pick, h, running]

section
variable {s : State} {core slot : Nat} {ch : Choice} {b : Batt}

/-- The batts of the issuing quarter that meet a long-latency dependence have left the active set (R121, R122). -/
abbrev State.sweptFor (s : State) (core slot : Nat) : State := s.sweep (s.quarterBatts core (quarterOfSlot slot))

/-- The issue of the quarter begins for the batt that R123 takes. -/
abbrev State.issuing (s : State) (core slot : Nat) (ch : Choice) : State :=
  ({ s.sweptFor core slot with cur := (core, slot), choice := ch } : State).beginIssue core slot

theorem State.issueAt_other (answers : s.answers = true) (stands : (s.batt? core slot).isSome = true)
    (other : (s.sweptFor core slot).nextIssuer core (quarterOfSlot slot) ch.stalled ≠ some slot) :
    s.issueAt core slot ch = .ended (s.sweptFor core slot) := by
  obtain ⟨b, hb⟩ := Option.isSome_iff_exists.1 stands
  simp [State.issueAt, hb, answers, other]

variable (answers : s.answers = true) (stands : s.batt? core slot = some b)
  (taken : (s.sweptFor core slot).nextIssuer core (quarterOfSlot slot) ch.stalled = some slot)
include answers stands taken

theorem State.issueAt_runs_word {i : Instr} {t : State}
    (awake : b.space = 16 ∨ ((s.sweptFor core slot).ctx b.space).ctxst ≠ 1 ∨ (s.sweptFor core slot).atRest b = .ok false)
    (front : (s.issuing core slot ch).frontEnd = .run i t) : s.issueAt core slot ch = .exec i t := by
  simp only [State.issueAt, stands, answers, taken, front]
  obtain control | running | busy := awake
  · simp [control]
  · simp [running]
  · simp [busy]

theorem State.issueAt_rests (space : b.space ≠ 16) (preempting : ((s.sweptFor core slot).ctx b.space).ctxst = 1)
    (rest : (s.sweptFor core slot).atRest b = .ok true) :
    s.issueAt core slot ch = .ended ((s.sweptFor core slot).modBatt core slot fun b => { b with resting := true }) := by
  simp [State.issueAt, stands, answers, taken, space, preempting, rest]

theorem State.issueAt_unreadable {c : Nat} {a : DWord} (space : b.space ≠ 16) (preempting : ((s.sweptFor core slot).ctx b.space).ctxst = 1)
    (bad : (s.sweptFor core slot).atRest b = .bad c a) :
    s.issueAt core slot ch = .ended ((s.sweptFor core slot).killUnreadable b.space c a) := by
  simp [State.issueAt, stands, answers, taken, space, preempting, bad]

end

/-! ### What a step does with what moves next -/

theorem step_exec {s t : State} {i : Instr} (h : s.pick = .exec i t) :
    step s = match exec i t with | .next u => .next (u.afterWord i) | r => r := by
  rw [step, h] <;> rfl

theorem step_ended {s t : State} (h : s.pick = .ended t) : step s = .next t := by rw [step, h]

theorem State.afterWord_event (s : State) {i : Instr} (h : isEvent i = true) : s.afterWord i = s := if_pos h

/-- An event that the device takes is the whole step. -/
theorem step_event {s : State} {i : Instr} {rest : List Sched} (h : s.inputs = .event i :: rest) (event : isEvent i = true)
    (admitted : ({ s with inputs := rest } : State).admits i = true) : step s = exec i { s with inputs := rest } := by
  have picked : s.pick = .exec i { s with inputs := rest } := by simp [State.pick, h, event, admitted]
  obtain ⟨u, done⟩ := exec_event_answers event { s with inputs := rest }
  rw [step_exec picked, done]
  exact congrArg Host.Outcome.next (u.afterWord_event event)

/-- Settles O5: an issue goes on to the word that its front end hands on, to rest or to another batt; an event is the whole step. -/
theorem stepRunsTheDecodedInstruction : Obligations.StepRunsTheDecodedInstruction := by
  unfold Obligations.StepRunsTheDecodedInstruction
  refine ⟨?word, ?other, ?resting, fun s i rest h event admitted => step_event h event admitted⟩
  case word =>
    intro s core slot ch rest b b0 low n w loc i h running s1 q k s2 s3 s4 s5 stands answers taken awake turn fetched decoded
    have front : s5.frontEnd = .run i _ := State.frontEnd_run turn fetched decoded
    refine (step_exec ((State.pick_issue h running).trans (State.issueAt_runs_word answers stands taken awake front))).trans ?_
    rfl
  case other =>
    intro s core slot ch rest h running s1 s2 stands answers other
    exact step_ended ((State.pick_issue h running).trans (State.issueAt_other answers stands other))
  case resting =>
    intro s core slot ch rest b h running s1 s2 stands answers taken space preempting
    exact ⟨fun rests => step_ended ((State.pick_issue h running).trans (State.issueAt_rests answers stands taken space preempting rests)),
      fun c a bad => step_ended ((State.pick_issue h running).trans (State.issueAt_unreadable answers stands taken space preempting bad))⟩

end Sys2Proof.Machine
end

section
/-! Proofs about a word that is guarded off (R65, R125, R154, R215, log 111): what its preparation leaves of the vector registers of its
batt, and that nothing else of it stands. -/

namespace Sys2Proof.Machine

/-! ### Backing a register (R149) -/

/-- The record of a register that takes backing. -/
def Batt.backedRecord (b : Batt) (n : Nat) : VReg :=
  let r := (b.vreg? n).getD { num := n }
  { r with backed := true, fresh := true, lanes := if r.tag.isSome then [] else r.lanes }

/-- The record of a register that is dropped. -/
def VReg.droppedRecord (r : VReg) : VReg := { r with backed := false, fresh := false, lanes := List.replicate 32 0 }

/-- The batt with one record put in place. -/
def Batt.putRecord (b : Batt) (r : VReg) : Batt := { b with vregs := putVReg b.vregs r }

theorem Batt.backedRecord_num (b : Batt) (n : Nat) : (b.backedRecord n).num = n := by
  show ((b.vreg? n).getD { num := n }).num = n
  cases h : b.vreg? n with
  | none => rfl
  | some r => exact Batt.vreg?_num h

/-- A register that can be backed is backed, or takes its backing, and a tagged one may have been dropped for it. -/
theorem Batt.back_cases {b c : Batt} {avoid : List Nat} {n : Nat} (h : b.back avoid n = some c) :
    b.isBacked n = true ∧ c = b ∨ b.isBacked n = false ∧ (c = b.putRecord (b.backedRecord n) ∨
      ∃ r ∈ b.vregs, r.tag.isSome = true ∧ c = (b.putRecord r.droppedRecord).putRecord ((b.putRecord r.droppedRecord).backedRecord n)) := by
  unfold Batt.back at h
  dsimp only at h
  split at h
  next backed => cases h; exact .inl ⟨backed, rfl⟩
  next unbacked =>
    refine .inr ⟨by simpa using unbacked, ?_⟩
    split at h
    · cases h; exact .inl rfl
    · obtain ⟨r, found, rfl⟩ := Option.map_eq_some_iff.1 h
      have candidate := List.find?_some found
      simp only [Bool.and_eq_true] at candidate
      obtain ⟨⟨⟨⟨⟨-, tagged⟩, -⟩, -⟩, -⟩, -⟩ := candidate
      exact .inr ⟨r, List.mem_of_find?_eq_some found, tagged, rfl⟩

/-! ### A record that no step of a preparation changes (R147, R149, R152, R153) -/

/-- The records stand in order, and this one stands under the number. -/
def Batt.Holds (k : Nat) (o : Option VReg) (b : Batt) : Prop := b.Ordered ∧ b.vreg? k = o

/-- A register that is backed by a word and not yet written (R147). -/
def takenBacking (k : Nat) : VReg := { num := k, backed := true, fresh := true }

section
variable {k : Nat} {o : Option VReg}

theorem Batt.Holds.put {b : Batt} (h : b.Holds k o) {r : VReg} (other : r.num ≠ k) :
    (b.putRecord r).Holds k o := by
  obtain ⟨ordered, stands⟩ := h
  exact ⟨putVReg_ordered r ordered, by rw [Batt.putRecord, Batt.vreg?_put, if_neg other.symm, stands]⟩

/-- The number of a tagged record is another one. -/
theorem Batt.Holds.ne_of_tagged (untagged : o.bind (·.tag) = none) {b : Batt} (h : b.Holds k o) {y : Nat} {r : VReg}
    (found : b.vreg? y = some r) (tagged : r.tag.isSome = true) : y ≠ k := by
  rintro rfl
  obtain rfl : o = some r := h.2.symm.trans found
  rw [Option.bind_some] at untagged
  simp [untagged] at tagged

/-- Backing another register changes at most a tagged record and that register's own (R149). -/
theorem Batt.Holds.back (untagged : o.bind (·.tag) = none) {b c : Batt} (h : b.Holds k o) {avoid : List Nat} {n : Nat}
    (other : n ≠ k ∨ b.isBacked n = true) (backs : b.back avoid n = some c) : c.Holds k o := by
  rcases Batt.back_cases backs with ⟨-, rfl⟩ | ⟨unbacked, rest⟩
  · exact h
  · have other : n ≠ k := other.resolve_right (by simp [unbacked])
    rcases rest with rfl | ⟨r, found, tagged, rfl⟩
    · exact h.put (by rwa [Batt.backedRecord_num])
    · have dropped := h.ne_of_tagged untagged (h.1.vreg?_of_mem found) tagged
      exact (h.put (r := r.droppedRecord) dropped).put (by rwa [Batt.backedRecord_num])

theorem Batt.Holds.untag (untagged : o.bind (·.tag) = none) {b : Batt} (h : b.Holds k o) (y : Nat) : (b.untag y).Holds k o := by
  unfold Batt.untag
  split
  next r found =>
    split
    next tagged => exact h.put fun own => h.ne_of_tagged untagged found tagged ((Batt.vreg?_num found).symm.trans own)
    · exact h
  · exact h

/-- A replay changes tagged records alone: its own, those of its sources, and one that it drops (R152). -/
theorem State.replay_holds (untagged : o.bind (·.tag) = none) (s : State) (avoid : List Nat) (fuel y : Nat) (p q : Prep)
    (h : s.replay avoid fuel y p = .ok q) (hp : p.b.Holds k o) : q.b.Holds k o := by
  induction fuel generalizing y p q with
  | zero => cases h; exact hp
  | succ fuel ih =>
    simp only [State.replay] at h
    split at h
    · cases h; exact hp
    · split at h
      next r rn depth found tagged =>
        have tagged : r.tag = some (rn, depth) := by simpa [found] using tagged
        have other : y ≠ k := hp.ne_of_tagged untagged found (by rw [tagged]; rfl)
        split at h
        · cases h; exact hp
        · obtain ⟨backed, prepared, evaluated⟩ := bind_ok h
          obtain ⟨sources, replayed, back⟩ := bind_ok prepared
          have hsources : sources.b.Holds k o := prepEach_preserves _ ih _ (fun a ha => by cases ha; exact hp) replayed
          have hbacked : backed.b.Holds k o := by
            unfold Prep.back at back
            split at back
            next hb => cases back; exact hsources.back untagged (.inl other) hb
            · cases back
          split at evaluated
          · cases evaluated
          · cases evaluated
            exact hbacked.put other
      · cases h; exact hp

theorem State.rematerialise_holds (untagged : o.bind (·.tag) = none) (s : State) (avoid : List Nat) (y : Nat) (p q : Prep)
    (h : s.rematerialise avoid y p = .ok q) (hp : p.b.Holds k o) : q.b.Holds k o := by
  obtain ⟨a, replayed, untags⟩ := bind_ok h
  cases untags
  exact (s.replay_holds untagged avoid 3 y p a replayed hp).untag untagged y

theorem State.handleDeps_holds (untagged : o.bind (·.tag) = none) (s : State) (avoid : List Nat) (x : RegRef) (p q : Prep)
    (h : s.handleDeps avoid x p = .ok q) (hp : p.b.Holds k o) : q.b.Holds k o :=
  prepEach_preserves _ (s.rematerialise_holds untagged avoid) _ (fun a ha => by cases ha; exact hp) h

/-- A destination that is another register, or that is backed, leaves the record as it is (R154). -/
theorem State.backDest_holds (untagged : o.bind (·.tag) = none) {s : State} {avoid whole : List Nat} {x : Nat} {p q : Prep}
    (h : s.backDest avoid whole x p = .ok q) (hp : p.b.Holds k o) (other : x ≠ k ∨ p.b.isBacked x = true) : q.b.Holds k o := by
  unfold State.backDest at h
  split at h
  · exact s.replay_holds untagged avoid 3 x p q h hp
  · unfold Prep.back at h
    split at h
    next hb => cases h; exact hp.back untagged other hb
    · cases h

theorem Batt.Holds.isBacked {b : Batt} {r : VReg} (h : b.Holds k (some r)) : b.isBacked k = r.backed := by
  rw [Batt.isBacked, h.2]

end

/-- A register without a record that takes its backing gets a record without a tag (R149). -/
theorem Batt.Holds.put_own {k : Nat} {b : Batt} (h : b.Holds k none) : (b.putRecord (b.backedRecord k)).Holds k (some (takenBacking k)) := by
  obtain ⟨ordered, absent⟩ := h
  have taken : b.backedRecord k = takenBacking k := by rw [Batt.backedRecord, absent]; rfl
  exact ⟨putVReg_ordered _ ordered, by rw [taken, Batt.putRecord, Batt.vreg?_put]; exact if_pos rfl⟩

theorem Batt.Holds.back_own {k : Nat} {b c : Batt} (h : b.Holds k none) {avoid : List Nat} (backs : b.back avoid k = some c) :
    c.Holds k (some (takenBacking k)) := by
  rcases Batt.back_cases backs with ⟨backed, rfl⟩ | ⟨-, rfl | ⟨r, found, tagged, rfl⟩⟩
  · rw [Batt.isBacked, h.2] at backed; cases backed
  · exact h.put_own
  · have dropped := h.ne_of_tagged rfl (h.1.vreg?_of_mem found) tagged
    exact (h.put (r := r.droppedRecord) dropped).put_own

/-- The record of a register that the batt had none of, after destinations were backed: still none, or that of a destination that took its
backing. -/
def Batt.AbsentOrTaken (W : List Nat) (k : Nat) (b : Batt) : Prop := b.Holds k none ∨ k ∈ W ∧ b.Holds k (some (takenBacking k))

theorem State.backDest_absentOrTaken {W : List Nat} {k : Nat} {s : State} {avoid whole : List Nat} {x : Nat} (mem : x ∈ W) {p q : Prep}
    (h : s.backDest avoid whole x p = .ok q) (hp : p.b.AbsentOrTaken W k) : q.b.AbsentOrTaken W k := by
  rcases hp with absent | ⟨dest, taken⟩
  case inr =>
    refine .inr ⟨dest, State.backDest_holds rfl h taken ?_⟩
    rcases eq_or_ne x k with rfl | other
    · exact .inr taken.isBacked
    · exact .inl other
  case inl =>
    rcases eq_or_ne x k with rfl | other
    · unfold State.backDest at h
      have kept : p.b.dropped x = false := by rw [Batt.dropped, absent.2]
      rw [kept, Bool.false_and, if_neg Bool.false_ne_true, Prep.back] at h
      split at h
      next hb => cases h; exact .inr ⟨mem, absent.back_own hb⟩
      · cases h
    · exact .inl (State.backDest_holds rfl h absent (.inl other))

/-! ### The preparation of a word (R154) -/

/-- What a preparation step keeps for the elements of its list, their sequence keeps. -/
theorem prepEach_preserves_of_mem {α : Type} {P : Batt → Prop} (f : α → Prep → PrepRes) (l : List α)
    (hf : ∀ x ∈ l, ∀ p q, f x p = .ok q → P p.b → P q.b) {r : PrepRes} {c : Prep} (hr : ∀ p, r = .ok p → P p.b)
    (h : prepEach f l r = .ok c) : P c.b := by
  unfold prepEach at h
  induction l generalizing r with
  | nil => exact hr c h
  | cons x t ih =>
    obtain ⟨hx, ht⟩ := List.forall_mem_cons.1 hf
    refine ih ht (r := r.bind (f x)) (fun p hp => ?_) h
    obtain ⟨q, hq, done⟩ := bind_ok hp
    exact hx q p done (hr q hq)

section
variable {s : State} {b : Batt} {reads writes : List RegRef} {backing : Bool} {whole : List Nat} {q : Prep}

/-- A preparation handles the dependents of its destinations and replays its sources, which changes no untagged record, and then backs its
destinations. -/
theorem State.prepare_stages (h : s.prepare b reads writes backing whole = .ok q) : ∃ av p,
    prepEach (s.backDest av whole) (if backing then vNums writes else []) (.ok p) = .ok q ∧
      ∀ k o, o.bind (·.tag) = none → b.Holds k o → p.b.Holds k o := by
  unfold State.prepare at h
  obtain ⟨av, h⟩ := settlePrep_run h
  generalize read : prepEach (s.replay av 3) (vNums reads) (prepEach (s.handleDeps av) (orderRefs writes) (.ok { b := b })) = r at h
  cases r with
  | fault f p =>
    have stays (l : List Nat) : prepEach (s.backDest av whole) l (.fault f p) = .fault f p := by
      induction l with
      | nil => rfl
      | cons x t ih => exact ih
    rw [stays] at h
    cases h
  | ok p =>
    refine ⟨av, p, h, fun k o untagged holds => ?_⟩
    exact prepEach_preserves _ (s.replay_holds untagged av 3) _
      (fun a ha => prepEach_preserves _ (s.handleDeps_holds untagged av) _ (fun a ha => by cases ha; exact holds) ha) read

/-- A preparation leaves an untagged register that is backed as it is. -/
theorem State.prepare_backed {k : Nat} {r : VReg} (h : s.prepare b reads writes backing whole = .ok q) (holds : b.Holds k (some r))
    (untagged : r.tag = none) (backed : r.backed = true) : q.b.Holds k (some r) := by
  obtain ⟨av, p, ends, kept⟩ := State.prepare_stages h
  refine prepEach_preserves (P := Batt.Holds k (some r)) _ (fun x p q hq hp => ?_) _ (fun a ha => ?_) ends
  · refine State.backDest_holds (o := some r) untagged hq hp ?_
    rcases eq_or_ne x k with rfl | other
    · exact .inr (hp.isBacked.trans backed)
    · exact .inl other
  · cases ha; exact kept k _ untagged holds

/-- A preparation gives a register without a record none, unless it is a destination and takes its backing. -/
theorem State.prepare_absent {k : Nat} (h : s.prepare b reads writes backing whole = .ok q) (absent : b.Holds k none) :
    q.b.AbsentOrTaken (vNums writes) k := by
  obtain ⟨av, p, ends, kept⟩ := State.prepare_stages h
  refine prepEach_preserves_of_mem _ _ (fun x hx p q hq hp => ?_) (fun a ha => ?_) ends
  · cases backing with
    | true => exact State.backDest_absentOrTaken hx hq hp
    | false => cases hx
  · cases ha; exact .inl (kept k none rfl absent)

end

/-! ### Backing that nothing is going to write is given up (R147) -/

/-- A record under its number after a change of records that keeps numbers and may take records away. -/
theorem find?_filterMap_num {l : List VReg} {g : VReg → Option VReg} (same : ∀ r r', g r = some r' → r'.num = r.num)
    (ordered : (l.map (·.num)).Pairwise (· < ·)) (k : Nat) :
    (l.filterMap g).find? (fun r => r.num == k) = (l.find? fun r => r.num == k).bind g := by
  rw [List.pairwise_map] at ordered
  induction l with
  | nil => rfl
  | cons y t ih =>
    obtain ⟨above, rest⟩ := List.pairwise_cons.1 ordered
    rcases eq_or_ne y.num k with rfl | other
    · have others : t.find? (fun r => r.num == y.num) = none := List.find?_eq_none.2 fun r hr => by simpa using (above r hr).ne'
      cases hg : g y with
      | none => simp [hg, ih rest, others]
      | some r => simp [hg, same y r hg]
    · cases hg : g y with
      | none => simp [hg, ih rest, other]
      | some r => simp [hg, ih rest, other, same y r hg]

theorem VReg.giveUp_num {r r' : VReg} (h : r.giveUp = some r') : r'.num = r.num := by
  unfold VReg.giveUp at h
  split at h
  · cases h; rfl
  · split at h
    · cases h; rfl
    · cases h

/-- What a preparation leaves of a record where the backing of some registers is given up. -/
theorem PrepRes.without_vreg? {ns : List Nat} {r : PrepRes} {q : Prep} (h : r.without ns = .ok q) :
    ∃ p, r = .ok p ∧ (p.b.Ordered → ∀ k, q.b.vreg? k = (p.b.vreg? k).bind fun r => if k ∈ ns then r.giveUp else some r) := by
  cases r with
  | fault _ _ => cases h
  | ok p =>
    refine ⟨p, rfl, fun ordered k => ?_⟩
    cases h
    split
    next none_off =>
      have none_off : ns = [] := List.isEmpty_iff.1 none_off
      simp [none_off]
    · refine (find?_filterMap_num (fun r r' h => ?_) ordered k).trans ?_
      · split at h
        · exact VReg.giveUp_num h
        · cases h; rfl
      · show (p.b.vreg? k).bind _ = _
        cases found : p.b.vreg? k with
        | none => rfl
        | some r => simp [Batt.vreg?_num found]

/-! ### The preparation of a word that is guarded off -/

theorem vNums_refsOf_wKind (w : Bool) (n : Nat) : vNums (refsOf (underU true (wKind w)) n) = [] := by cases w <;> rfl

/-- Is it a scalar, which a word writes once (R65)? -/
def AluDst.isOnce : AluDst → Bool
  | .s _ => true
  | _ => false

theorem isOnce_dst (f : RForm) (w : Bool) : (f.dst w).isOnce = f.u := by
  unfold RForm.dst
  cases f.u with
  | true => rfl
  | false => cases w <;> rfl

/-- A word that computes lane by lane executes once where its destination is a scalar (R65). -/
theorem scalarForm_of_aluOf {i : Instr} {fn : LaneFn} {d : AluDst} (h : aluOf i = some (fn, d)) : scalarForm i = d.isOnce := by
  have imm (f : IForm) : isSc f.d = f.dst.isOnce := by unfold IForm.dst; cases isSc f.d <;> rfl
  unfold scalarForm
  split
  iterate 4 cases h; exact imm _
  iterate 8 cases h
  · rw [h]
    cases d <;> rfl

/-- A word that executes once writes no vector register (R65, R66). -/
theorem vNums_writes_of_scalarForm {i : Instr} (h : scalarForm i = true) : vNums (regUse i).writes = [] := by
  cases i with
  | iaddi f | logi f | movi f | movhi f =>
    have scalar : isSc f.d = true := h
    simp only [regUse, iUse, cRefs, scalar, if_true]
    rfl
  | ld f | lds f | ldc f =>
    have scalar : isSc f.d = true := h
    simp only [regUse, mUse, cRefs, scalar, if_true]
    rfl
  | icmp f => cases hu : f.u <;> simp only [regUse, rUse, hu] <;> rfl
  | launch f | draw f | waita f => cases hu : f.u <;> simp only [regUse, rUse, hu] <;> rfl
  | rel f =>
    have old : f.mb 2 = true := h
    cases hu : f.u <;> simp only [regUse, rUse, hu, old] <;> rfl
  | sel f =>
    have scalar : f.u = true := h
    simp only [regUse, rUse, scalar, if_true, vNums_refsOf_wKind]
  | iadd f | isub f | imul f | imulhi f | imad f | imadw f | idiv f | irem f | imin f | imax f | iabs f | ineg f | iadd64 f | isub64 f | imul64 f
  | and f | or f | xor f | andn f | shl f | shr f | sar f | rotl f | popc f | clz f | brev f | bfe f | bfi f | lea f | bsel f | mov f
  | fadd f | fsub f | fmul f | ffma f | fmin f | fmax f | fdiv f | fsqrt f | fclass f | fscale f | hfma2 f | frcpa f | frsqa f | fex2a f | flg2a f
  | dadd f | dsub f | dmul f | dfma f | dmin f | dmax f | ddiv f | dsqrt f | dclass f | dscale f | fsina f | fcosa f | cvt f =>
    have scalar : f.u = true := (isOnce_dst f _).symm.trans ((scalarForm_of_aluOf rfl).symm.trans h)
    simp only [regUse, rUse, scalar, if_true, vNums_refsOf_wKind] <;> rfl
  | _ => cases h

theorem State.wordUse_writes (s : State) (b : Batt) {i : Instr} (h : ∀ f, i ≠ .rtag f ∧ i ≠ .rfree f) : s.wordUse b i = regUse i := by
  unfold State.wordUse
  dsimp only
  split
  next f => exact absurd rfl (h f).2
  next f => exact absurd rfl (h f).1
  · rfl

/-- The vector registers that a word that is guarded off names as destinations are those that nothing is going to write. -/
theorem mem_offRegs_of_off {b : Batt} {i : Instr} {split active : Mask} (single : isPaired i = false) (off : active = 0 ∨ scalarForm i = true)
    {k : Nat} (h : k ∈ vNums (regUse i).writes) : k ∈ b.offRegs i split active := by
  rcases off with rfl | once
  · unfold Batt.offRegs
    dsimp only
    split
    · cases single
    · simpa using h
  · rw [vNums_writes_of_scalarForm once] at h
    cases h

/-- What the preparation of a word that is guarded off leaves of a batt: no register gets a record, and one that was Backed keeps its own. -/
def Batt.KeptBy (b c : Batt) : Prop :=
  ∀ k, (b.vreg? k = none → c.vreg? k = none) ∧
    ∀ r, b.vreg? k = some r → r.tag = none → r.backed = true → r.fresh = false → c.vreg? k = some r

theorem Batt.KeptBy.refl (b : Batt) : b.KeptBy b := fun _ => ⟨fun h => h, fun _ h _ _ _ => h⟩

theorem PrepRes.without_keptBy {s : State} {b : Batt} {reads writes : List RegRef} {whole ns : List Nat} {q : Prep} (ordered : b.Ordered)
    (off : ∀ k ∈ vNums writes, k ∈ ns) (h : (s.prepare b reads writes true whole).without ns = .ok q) : b.KeptBy q.b := by
  obtain ⟨p, prepared, left⟩ := PrepRes.without_vreg? h
  refine fun k => ⟨fun absent => ?_, fun r found untagged backed kept => ?_⟩
  · rcases State.prepare_absent prepared ⟨ordered, absent⟩ with ⟨ordered, absent⟩ | ⟨dest, ordered, taken⟩
    · rw [left ordered, absent]; rfl
    · rw [left ordered, taken, Option.bind_some, if_pos (off k dest)]; rfl
  · obtain ⟨ordered, stands⟩ := State.prepare_backed prepared ⟨ordered, found⟩ untagged backed
    have stays : r.giveUp = some r := by simp [VReg.giveUp, kept]
    rw [left ordered, stands, Option.bind_some, stays, ite_self]

theorem State.prepareWord_keptBy {s : State} {b : Batt} {i : Instr} {split active : Mask} {q : Prep} (ordered : b.Ordered)
    (single : isPaired i = false) (off : active = 0 ∨ scalarForm i = true) (h : s.prepareWord b i split active = .ok q) : b.KeptBy q.b := by
  have idle (stands : scalarForm i = false) : active = 0 := off.resolve_right (by simp [stands])
  unfold State.prepareWord at h
  dsimp only at h
  split at h
  · rw [if_pos (idle rfl)] at h
    cases h; exact .refl b
  · rw [if_pos (idle rfl)] at h
    cases h; exact .refl b
  · rw [if_pos (idle rfl)] at h
    cases h; exact .refl b
  next not_rtag _ not_rfree =>
    have use : s.wordUse b i = regUse i := s.wordUse_writes b fun f => ⟨not_rtag f, not_rfree f⟩
    rw [use] at h
    exact PrepRes.without_keptBy ordered (fun k hk => mem_offRegs_of_off single off hk) h

/-! ### The issue of a word that is guarded off -/

theorem Batt.takeTurn_shape (b : Batt) (low : Nat) :
    b.takeTurn low = { b with cursor := low, quant := if b.cursor = low then b.quant else 0 } := by
  unfold Batt.takeTurn
  split
  next own => rw [own, if_pos rfl]
  next new => rw [if_neg (Ne.symm new)]

/-- The turn that a word issues from is that of its lowest lane. -/
theorem issueWord_low {i : Instr} {s t : State} {x : Iss} {n : Nat} (h : issueWord i s = .go x n t) :
    ∃ b p, s.batt? x.core x.slot = some b ∧ s.prepareWord (b.takeTurn x.low) i x.split x.active = .ok p ∧
      (s.modBatt x.core x.slot fun _ => p.b).enterRegion p.b.core p.b.slot x.pc = .ok t := by
  unfold issueWord at h
  split at h
  · cases h
  · cases h
  next b low k turn =>
    dsimp only at h
    split at h
    · cases h
    split at h
    · cases h
    next p prepared =>
      split at h
      · cases h
      split at h
      next entered =>
        cases h
        have found := State.theTurn_go turn
        obtain ⟨core, slot⟩ := State.batt?_place found
        exact ⟨b, p, by rwa [Batt.takeTurn_core, Batt.takeTurn_slot, core, slot], prepared, entered⟩
      · cases h

theorem State.guardedOff_issue {i : Instr} {s t : State} {x : Iss} {n : Nat} (h : s.guardedOff i = some (x, n, t)) :
    issueWord i s = .go x n t ∧ isPaired i = false ∧ (x.active = 0 ∨ scalarForm i = true) := by
  unfold State.guardedOff at h
  split at h
  next issued =>
    split at h
    next off =>
      cases h
      simp only [Bool.and_eq_true, Bool.or_eq_true, decide_eq_true_eq, Bool.not_eq_true'] at off
      obtain ⟨single, idle | ⟨⟨once, -⟩, -⟩⟩ := off
      · exact ⟨issued, single, .inl idle⟩
      · exact ⟨issued, single, .inr once⟩
    · cases h
  · cases h

/-- A word that issues has changed its own batt alone: the turn, the vector registers as its preparation left them, its region's entry. -/
theorem issueWord_prepared {i : Instr} {s t : State} {x : Iss} {n : Nat} (h : issueWord i s = .go x n t) :
    OnlyBatt x.core x.slot s t ∧ ∃ b c p, s.batt? x.core x.slot = some b ∧ t.batt? x.core x.slot = some c ∧
      s.prepareWord (b.takeTurn x.low) i x.split x.active = .ok p ∧ c = { p.b with tag := c.tag, absorbed := c.absorbed } := by
  obtain ⟨b, p, hb, prepared, entered⟩ := issueWord_low h
  obtain ⟨core, slot⟩ := State.batt?_place hb
  have kept := s.prepareWord_keeps _ _ _ _ prepared
  unfold SameButV at kept
  have pcore : p.b.core = x.core := by rw [kept, Batt.takeTurn_core, core]
  have pslot : p.b.slot = x.slot := by rw [kept, Batt.takeTurn_slot, slot]
  have stands : (s.modBatt x.core x.slot fun _ => p.b).batt? x.core x.slot = some p.b := by
    rw [State.batt?_modBatt_const s pcore pslot, hb]; rfl
  have placed : OnlyBatt x.core x.slot s (s.modBatt x.core x.slot fun _ => p.b) :=
    modBatt_onlyBatt s _ _ _ fun y hc hs => ⟨pcore.trans hc.symm, pslot.trans hs.symm⟩
  rw [pcore, pslot] at entered
  rcases State.enterRegion_ok entered with rfl | ⟨r, rfl⟩
  · exact ⟨placed, b, p.b, p, hb, stands, prepared, rfl⟩
  · refine ⟨placed.trans (modBatt_onlyBatt _ _ _ _ fun _ _ _ => ⟨rfl, rfl⟩), b, { p.b with tag := .region r, absorbed := [] }, p, hb, ?_,
      prepared, rfl⟩
    rw [State.batt?_modBatt_same _ _ _ (fun b => { b with tag := .region r, absorbed := [] }) fun _ => ⟨rfl, rfl⟩, stands]
    rfl

/-- Settles O8: a word that is guarded off is done where it issued, and its preparation gives no register a record and takes none away. -/
theorem guardedOffWordAdvances : Obligations.GuardedOffWordAdvances := by
  unfold Obligations.GuardedOffWordAdvances
  intro i s x n t isWord h
  obtain ⟨issued, single, off⟩ := State.guardedOff_issue h
  obtain ⟨body, meaning⟩ := exec_word isWord
  obtain ⟨only, b, c, p, hb, hc, prepared, entered⟩ := issueWord_prepared issued
  have vregs : c.vregs = p.b.vregs := by rw [entered]
  have kept := s.prepareWord_keeps _ _ _ _ prepared
  refine ⟨(meaning s).trans (runWord_guardedOff h), only, b, c, hb, hc, ?shape, fun ordered => ?registers⟩
  case shape =>
    unfold SameButV at kept
    rw [entered, kept, Batt.takeTurn_shape]
  case registers =>
    have keeps := State.prepareWord_keptBy (b := b.takeTurn x.low) (by rwa [Batt.Ordered, Batt.takeTurn_vregs]) single off prepared
    simpa only [Batt.KeptBy, Batt.vreg?, Batt.takeTurn_vregs, vregs] using keeps

end Sys2Proof.Machine
end

section
/-! Proofs about the words that trap before their own effect: at the fetch, at the decoder, at their preparation and at the execution stage
(R60, R62, R79, R149, R329, R350, R367, R417). -/

namespace Sys2Proof.Machine

/-! ### The fetch and the decoder (R60, R62) -/

section
variable {s : State} {b : Batt} {low n : Nat} (turn : s.theTurn = .go b low n)
include turn

theorem State.frontEnd_undecoded {w : DWord} {loc : Loc} (fetched : s.fetch b.core b.space ((b.takeTurn low).lane low).pc = .ok w loc)
    (undecoded : decode w = none) :
    s.frontEnd = .ended (((s.icacheFill b.core b.space ((b.takeTurn low).lane low).pc loc w).modBatt b.core b.slot fun _ => b.takeTurn low).takeTrap
      b.core b.slot w ((b.takeTurn low).lane low).pc ((b.takeTurn low).splitOf low) 0 (causesOf ((b.takeTurn low).splitOf low) cUNDEF 0)) := by
  simp only [State.frontEnd, turn, Batt.takeTurn_core, Batt.takeTurn_slot, Batt.takeTurn_space, fetched, undecoded]

/-- What a word that is not fetched ends in, for each way in which a fetch fails. -/
theorem State.frontEnd_unfetched :
    let pc := ((b.takeTurn low).lane low).pc
    let split := (b.takeTurn low).splitOf low
    let s1 := (s.fetchReads b.core b.space pc).modBatt b.core b.slot fun _ => b.takeTurn low
    (∀ lv, s.fetch b.core b.space pc = .xlat true lv →
      s.frontEnd = .ended (s1.takeFault b.core b.slot 0 pc (causesOf split cXLAT pc) 2 lv false 0)) ∧
    (∀ lv, s.fetch b.core b.space pc = .xlat false lv →
      s.frontEnd = .ended (s1.takeTrap b.core b.slot 0 pc split 0 (causesOf split cXLAT pc))) ∧
    (s.fetch b.core b.space pc = .prot → s.frontEnd = .ended (s1.takeTrap b.core b.slot 0 pc split 0 (causesOf split cPROT pc))) ∧
    (s.fetch b.core b.space pc = .poison → s.frontEnd = .ended (s1.takeTrap b.core b.slot 0 pc split 0 (causesOf split cPOISON pc))) := by
  refine ⟨fun lv failed => ?_, fun lv failed => ?_, fun failed => ?_, fun failed => ?_⟩
  all_goals simp only [State.frontEnd, turn, Batt.takeTurn_core, Batt.takeTurn_slot, Batt.takeTurn_space, failed]

/-- A word whose preparation fails ends in the report of that failure. -/
theorem issueWord_of_prepFault {i : Instr} {f : PrepFault} {p : Prep} (free : s.wordWaits b i low = false)
    (failed : s.prepareWord (b.takeTurn low) i ((b.takeTurn low).splitOf low) ((b.takeTurn low).activeFor i low) = .fault f p) :
    issueWord i s = .idle (prepFault
      { core := b.core, slot := b.slot, instr := i, word := (encode i).getD 0, pc := ((b.takeTurn low).lane low).pc,
        split := (b.takeTurn low).splitOf low, low := low, active := (b.takeTurn low).activeFor i low } n f
      (s.modBatt b.core b.slot fun _ => p.b)) := by
  simp only [issueWord, turn, free, Bool.false_eq_true, if_false, Batt.takeTurn_core, Batt.takeTurn_slot, failed]

end

/-! ### Backing that cannot be taken (R149) -/

/-- A record that may be dropped for another register: backed, tagged, not awaited, not poisoned and not named. -/
def VReg.Candidate (avoid : List Nat) (n : Nat) (r : VReg) : Prop :=
  r.backed = true ∧ r.tag.isSome = true ∧ r.late = false ∧ r.poison = 0 ∧ r.num ≠ n ∧ r.num ∉ avoid

theorem Batt.back_eq_none_iff (b : Batt) (avoid : List Nat) (n : Nat) :
    b.back avoid n = none ↔ b.isBacked n = false ∧ b.regs ≤ b.backedCount ∧ ∀ r ∈ b.vregs, ¬ r.Candidate avoid n := by
  unfold Batt.back
  dsimp only
  cases backed : b.isBacked n with
  | true => simp
  | false =>
    rw [if_neg Bool.false_ne_true]
    by_cases room : b.backedCount < b.regs
    · rw [if_pos room]
      simp [room]
    · rw [if_neg room, Option.map_eq_none_iff, List.find?_eq_none]
      simp only [not_lt.1 room, true_and, VReg.Candidate, Bool.and_eq_true, Bool.not_eq_true', beq_iff_eq, bne_iff_ne, List.contains_eq_mem,
        decide_eq_false_iff_not, and_assoc]

/-! ### The execution stage (R329, R350, R367, R417) -/

theorem lanesOf_ne_nil {m : Mask} (h : m ≠ 0) : lanesOf m ≠ [] := by
  intro empty
  refine h (BitVec.eq_of_getLsbD_eq fun l hl => ?_)
  have clear := List.filter_eq_nil_iff.1 empty l (List.mem_range.2 hl)
  simpa [inMask] using clear

theorem causesOf_ne_nil {m : Mask} (h : m ≠ 0) (cause : Nat) (a : DWord) : causesOf m cause a ≠ [] := by
  simpa [causesOf] using lanesOf_ne_nil h

/-- A word that reads something acts in some lane (R74). -/
theorem actsIn_ne_zero {s : State} {b : Batt} {i : Instr} {active : Mask} (acts : active ≠ 0) {c : Nat} (hc : c ∈ s.readCodes b i active) :
    b.actsIn i active ≠ 0 := by
  unfold Batt.actsIn
  split
  next f =>
    intro idle
    obtain ⟨hx, hy⟩ := BitVec.or_eq_zero_iff.1 idle
    simp [State.readCodes, Batt.readRefs, State.banksRead, hx, hy] at hc
  · exact acts

theorem State.impure_of_found {s : State} {b : Batt} {i : Instr} {pc : DWord} {active : Mask} {set : List Nat} {c : Nat}
    (x : xBit i = false) (pref : isPref i = false) (pure : s.puritySet b pc = some set)
    (found : (s.readCodes b i active).find? (fun k => !set.contains k) = some c) :
    s.impure b i pc active = causesOf (b.actsIn i active) cIMPURE (BitVec.ofNat 64 c) := by
  simp only [State.impure, x, pref, Bool.or_self, Bool.false_eq_true, if_false, pure, found]

section
variable {x : Iss} {t : State} {body : Iss → State → Body} (acts : x.active ≠ 0)
include acts

theorem runBody_report {d : Deferred} (found : (x.at t).deferred.find? (fun d => t.touchesReport (x.at t) x.instr x.active d) = some d) :
    runBody x body t = .trap (causesOf x.active d.cause 0) (x.set t fun b => { b with deferred := b.deferred.erase d }) := by
  have found : (t.battAt x.core x.slot).deferred.find? (fun d => t.touchesReport (t.battAt x.core x.slot) x.instr x.active d) = some d := found
  unfold runBody
  dsimp only
  rw [if_neg acts, found] <;> rfl

variable (quiet : ∀ d ∈ (x.at t).deferred, t.touchesReport (x.at t) x.instr x.active d = false)
  (once : scalarForm x.instr = false ∨ inMask x.active x.low = true)
include quiet once

/-- A word of a nonempty ACTIVE that meets no report goes on to the checks of purity and of poison. -/
theorem runBody_checked : runBody x body t =
    match t.impure (x.at t) x.instr x.pc x.active with
    | c :: cs => .trap (c :: cs) t
    | [] => match operandPoison (x.at t) x.instr x.split x.active with
      | c :: cs => .trap (c :: cs) t
      | [] => body x t := by
  have unreported : (t.battAt x.core x.slot).deferred.find? (fun d => t.touchesReport (t.battAt x.core x.slot) x.instr x.active d) = none :=
    List.find?_eq_none.2 fun d hd => by rw [show t.battAt x.core x.slot = x.at t from rfl, quiet d hd]; exact Bool.false_ne_true
  have runs : ¬ (scalarForm x.instr && !inMask x.active x.low) = true := by rcases once with h | h <;> simp [h]
  have acting : ¬ (decide (x.active = 0) && !isPaired x.instr) = true := by
    rw [decide_eq_false acts, Bool.false_and]; exact Bool.false_ne_true
  unfold runBody execStage
  dsimp only
  rw [if_neg acts, unreported]
  dsimp only
  rw [if_neg acting, if_neg runs] <;> rfl

theorem runBody_impure (impure : t.impure (x.at t) x.instr x.pc x.active ≠ []) :
    runBody x body t = .trap (t.impure (x.at t) x.instr x.pc x.active) t := by
  rw [runBody_checked acts quiet once]
  split
  next found => rw [found]
  next found => exact absurd found impure

theorem runBody_poisoned (pure : t.impure (x.at t) x.instr x.pc x.active = []) (poisoned : operandPoison (x.at t) x.instr x.split x.active ≠ []) :
    runBody x body t = .trap (operandPoison (x.at t) x.instr x.split x.active) t := by
  rw [runBody_checked acts quiet once, pure]
  dsimp only
  split
  next found => rw [found]
  next found => exact absurd found poisoned

end

theorem runWord_go {i : Instr} {s t : State} {x : Iss} {n : Nat} (h : issueWord i s = .go x n t) (body : Iss → State → Body) :
    runWord i body s = .next (finishWord x n (runBody x body t) t) := by
  rw [runWord, h]

theorem State.touchesReport_iff (s : State) (b : Batt) (i : Instr) (active : Mask) (d : Deferred) :
    s.touchesReport b i active d = true ↔ isPref i = false ∧
      ((.s d.token) ∈ (s.wordUse b i).reads ∨ (.s d.token) ∈ (s.wordUse b i).writes ∨
        ∃ k ∈ s.banksTouched b i active, k ∈ d.banks) := by
  simp only [State.touchesReport, Bool.and_eq_true, Bool.not_eq_true', Bool.or_eq_true, List.contains_eq_mem, decide_eq_true_eq, List.mem_append,
    List.any_eq_true, or_assoc]

/-! ### The lanes that a poisoned operand names (R417) -/

/-- A lane's entry in a list of causes that has at most one for each lane. -/
theorem find?_filterMap_lane {cause : Nat → Option LaneCause} (own : ∀ l c, cause l = some c → c.lane = l) (ls : List Nat) (l : Nat) :
    (ls.filterMap cause).find? (fun c => c.lane == l) = if l ∈ ls then cause l else none := by
  induction ls with
  | nil => rfl
  | cons k t ih =>
    rcases eq_or_ne k l with rfl | other
    · cases found : cause k with
      | none => simp [found, ih]
      | some c => simp [found, own k c found]
    · cases found : cause k with
      | none => simp [found, ih, other.symm]
      | some c => simp [found, ih, other, other.symm, own k c found]

theorem mem_lanesOf {m : Mask} {l : Nat} (h : l < 32) : l ∈ lanesOf m ↔ inMask m l = true := by
  simp [lanesOf, laneIds, h]

theorem operandPoison_plain {b : Batt} {i : Instr} {split active : Mask} (pref : isPref i = false) (single : isPaired i = false) :
    operandPoison b i split active = poisonCauses b active (laneReads b i active) := by
  unfold operandPoison
  split
  · cases pref
  · cases single
  · rfl

/-- Settles O6, a stage of the pipeline after the other: the fetch and the decoder, the preparation, and the checks before execution. -/
theorem unusableWordsTrap : Obligations.UnusableWordsTrap := by
  unfold Obligations.UnusableWordsTrap
  refine ⟨fun s b low n w loc turn fetched undecoded => State.frontEnd_undecoded turn fetched undecoded,
    fun s b low n turn => State.frontEnd_unfetched turn, ?quota, ?back, ?checks, fun s b i active d => s.touchesReport_iff b i active d, ?poison⟩
  case quota =>
    intro i s b0 low n p isWord turn free b failed
    obtain ⟨body, meaning⟩ := exec_word isWord
    rw [meaning, runWord, issueWord_of_prepFault turn free failed]
    simp only [b, Batt.takeTurn_core, Batt.takeTurn_slot]
    rfl
  case back =>
    intro b avoid n
    simp only [Batt.back_eq_none_iff, VReg.Candidate, not_and, not_not]
  case checks =>
    intro i s x n t isWord issued acts b report
    obtain rfl := issueWord_instr issued
    obtain ⟨body, meaning⟩ := exec_word isWord
    have done := (meaning s).trans (runWord_go issued body)
    refine ⟨fun d found => ?report, fun quiet once => ⟨fun set c xbit pref pure found => ?impure, fun pure poisoned => ?poisoned⟩⟩
    case report => rw [done, runBody_report acts found] <;> rfl
    case impure =>
      have causes : t.impure (x.at t) x.instr x.pc x.active = _ := State.impure_of_found xbit pref pure found
      have some_lane := causesOf_ne_nil (actsIn_ne_zero acts (List.mem_of_find?_eq_some found)) cIMPURE (BitVec.ofNat 64 c)
      rw [done, runBody_impure acts quiet once (causes ▸ some_lane), causes] <;> rfl
    case poisoned => rw [done, runBody_poisoned acts quiet once pure poisoned] <;> rfl
  case poison =>
    intro b i split active l pref single hl bad
    have own : ∀ k c, (((laneReads b i active k).find? bad).map fun r =>
        ({ lane := k, cause := cPOISON, faddr := BitVec.ofNat 64 (0xFFFF000000000000 + r.1.code) } : LaneCause)) = some c → c.lane = k := by
      intro k c found
      obtain ⟨_, -, rfl⟩ := Option.map_eq_some_iff.1 found
      rfl
    rw [operandPoison_plain pref single]
    exact (find?_filterMap_lane own (lanesOf active) l).trans (if_congr (mem_lanesOf hl) rfl rfl)

end Sys2Proof.Machine
end

section
/-! Proofs about the words that compute lane by lane (R65, R185, R190 to R207): when they complete and when they trap, and what the floating
words put at their destination. -/

namespace Sys2Proof.Machine

/-! ### Every lane word completes or traps (R185, R199) -/

theorem exec_laneWord {i : Instr} {fn : LaneFn} {d : AluDst} (h : laneWord i = some (fn, d)) (s : State) :
    exec i s = runWord i (laneBody fn d) s := by
  cases i with
  | iadd f | isub f | imul f | imulhi f | imad f | imadw f | idiv f | irem f | imin f | imax f | iabs f | ineg f | iadd64 f | isub64 f | imul64 f
  | iaddi f | logi f | movi f | movhi f | and f | or f | xor f | andn f | shl f | shr f | sar f | rotl f | popc f | clz f | brev f | bfe f | bfi f
  | lea f | bsel f | sel f | mov f | fadd f | fsub f | fmul f | ffma f | fmin f | fmax f | fdiv f | fsqrt f | fclass f | fscale f | hfma2 f
  | frcpa f | frsqa f | fex2a f | flg2a f | dadd f | dsub f | dmul f | dfma f | dmin f | dmax f | ddiv f | dsqrt f | dclass f | dscale f | fsina f
  | fcosa f | cvt f | dqmx f =>
    cases h
    rfl
  | _ => cases h

section
variable {fn : LaneFn} {d : AluDst} {x : Iss} {t : State}

theorem laneBody_done (clean : trapLanes (laneList fn (resultLanes d x) (x.at t)) (resultLanes d x) (x.at t).fpcr = 0) :
    laneBody fn d x t = .done (x.set t fun b =>
      { b.put d (resultLanes d x) (fun l => (resAt (laneList fn (resultLanes d x) (x.at t)) l).bits) with
        fpsr := b.fpsr ||| flagsOver (laneList fn (resultLanes d x) (x.at t)) (resultLanes d x) }) :=
  if_neg fun raised => bne_iff_ne.1 raised clean

theorem laneBody_trap (raised : trapLanes (laneList fn (resultLanes d x) (x.at t)) (resultLanes d x) (x.at t).fpcr ≠ 0) :
    laneBody fn d x t = .trap (fpxCauses (laneList fn (resultLanes d x) (x.at t)) (resultLanes d x)
      (trapLanes (laneList fn (resultLanes d x) (x.at t)) (resultLanes d x) (x.at t).fpcr)) t :=
  if_pos (bne_iff_ne.2 raised)

end

/-! ### What a floating word puts at its destination -/

theorem maskOf_eq_zero {p : Nat → Bool} (h : ∀ l, l < 32 → p l = false) : maskOf p = 0 := by
  refine BitVec.eq_of_getLsbD_eq fun l hl => ?_
  rw [show (0 : Mask) = 0#32 from rfl, BitVec.getLsbD_zero]
  exact (inMask_maskOf hl).trans (h l hl)

/-- No lane traps where none of the lanes' results does. -/
theorem trapLanes_eq_zero {fn : LaneFn} {m : Mask} {b : Batt} {fpcr : Word}
    (clean : ∀ l, l < 32 → inMask m l = true → (fn b b.fpcr l).traps fpcr = false) : trapLanes (laneList fn m b) m fpcr = 0 := by
  refine maskOf_eq_zero fun l hl => ?_
  cases hm : inMask m l with
  | false => rfl
  | true => rw [resAt_laneList fn m b hl hm, clean l hl hm]; rfl

/-- The flags of a result list are those of its lanes' results. -/
theorem flagsOver_laneList (fn : LaneFn) (m : Mask) (b : Batt) :
    flagsOver (laneList fn m b) m = BitVec.ofNat 32 ((lanesOf m).foldl (fun acc l => acc ||| (fn b b.fpcr l).flags) 0) := by
  refine congrArg (BitVec.ofNat 32) (List.foldl_ext _ _ _ fun acc l hl => ?_)
  obtain ⟨hl, hm⟩ := List.mem_filter.1 hl
  rw [resAt_laneList fn m b (List.mem_range.1 hl) hm]

/-- A lane word whose lane function is `r` under the batt's own FPCR has the results of `r`. -/
theorem floatResult_of_laneWord {i : Instr} {fn : LaneFn} {d : AluDst} {r : Batt → Nat → FRes} (word : laneWord i = some (fn, d))
    (register : ∀ n, d ≠ .p n) (same : ∀ b l, fn b b.fpcr l = r b l) : FloatResult i d r := by
  intro s x n t clear scalar clean
  simp only [← same] at clean ⊢
  obtain ⟨u, c, ran, stands, -, finished⟩ := laneBody_completes clear (trapLanes_eq_zero clean)
  refine ⟨u, c, (exec_laneWord word s).trans ran, stands, fun l hl hm => ?_, ?_⟩
  · have once : ∀ k, d = .s k → k < (x.at t).scalars.length ∧ ∃ j, resultLanes d x = lane1 j := by
      rintro k rfl
      exact ⟨scalar k rfl, x.low, rfl⟩
    have kept : c.dstAt d l = ((x.at t).put d (resultLanes d x) fun l => (resAt (laneList fn (resultLanes d x) (x.at t)) l).bits).dstAt d l := by
      rw [finished]
      rfl
    rw [kept, Batt.dstAt_put _ _ _ _ hl hm register once, resAt_laneList fn _ _ hl hm]
  · rw [finished, ← flagsOver_laneList]

theorem dst_ne_pred (f : RForm) (w : Bool) (n : Nat) : f.dst w ≠ .p n := by
  unfold RForm.dst
  cases f.u <;> cases w <;> exact nofun

/-! ### The results of single formats -/

/-- Each class of R194 is one bit of ten. -/
theorem fclassify_eq_two_pow (fm : Fmt) (a : Nat) : ∃ k, k < 10 ∧ fclassify fm a = 2 ^ k := by
  unfold fclassify
  cases decodeF fm a with
  | nan s => cases s; exacts [⟨9, by decide, rfl⟩, ⟨8, by decide, rfl⟩]
  | inf s => cases s; exacts [⟨7, by decide, rfl⟩, ⟨0, by decide, rfl⟩]
  | zero s => cases s; exacts [⟨4, by decide, rfl⟩, ⟨3, by decide, rfl⟩]
  | fin n e =>
    dsimp only
    split
    · split; exacts [⟨2, by decide, rfl⟩, ⟨1, by decide, rfl⟩]
    · split; exacts [⟨5, by decide, rfl⟩, ⟨6, by decide, rfl⟩]

/-- The sign modifiers of a half act on its sixteen bits alone. -/
theorem modSign_mod (ab ng : Bool) (y : Nat) : modSign 16 ab ng y % 2 ^ 16 = modSign 16 ab ng (y % 2 ^ 16) := by
  have low : y % 2 ^ 15 % 2 ^ 16 = y % 2 ^ 15 := by omega
  have low' : y % 2 ^ 16 % 2 ^ 15 = y % 2 ^ 15 := by omega
  cases ab <;> cases ng <;> simp only [modSign, Bool.false_eq_true, if_false, if_true, Nat.xor_mod_two_pow, low, low'] <;> rfl

theorem modSign_lt (ab ng : Bool) {y : Nat} (h : y < 2 ^ 16) : modSign 16 ab ng y < 2 ^ 16 := by
  rw [← Nat.mod_eq_of_lt h, ← modSign_mod]
  exact Nat.mod_lt _ (by decide)

/-- A half of a pair of modified halves is the modified half (R195). -/
theorem half_modSign2 (ab ng : Bool) (x : Nat) :
    modSign2 ab ng x / 2 ^ (16 * 0) % 2 ^ 16 = modSign 16 ab ng (x / 2 ^ (16 * 0) % 2 ^ 16) ∧
    modSign2 ab ng x / 2 ^ (16 * 1) % 2 ^ 16 = modSign 16 ab ng (x / 2 ^ (16 * 1) % 2 ^ 16) := by
  have below : modSign 16 ab ng (x % 2 ^ 16) < 2 ^ 16 := modSign_lt ab ng (Nat.mod_lt _ (by decide))
  have upper := modSign_mod ab ng (x / 2 ^ 16)
  unfold modSign2
  simp only [Nat.mul_zero, Nat.pow_zero, Nat.div_one, Nat.mul_one]
  rw [← upper]
  omega

theorem laneHfma2_eq (f : RForm) (b : Batt) (fpcr : Word) (l : Nat) :
    let half (x j : Nat) : Nat := x / 2 ^ (16 * j) % 2 ^ 16
    let one (j : Nat) : FRes := farith .fma (if f.mb 0 then bf16 else h16) (rndMode (f.mf 7 5) fpcr) (ftzOn fpcr)
      (modSign 16 (f.mb 2) (f.mb 4) (half (b.rdA f false l) j))
      (modSign 16 (f.mb 1) false (half (if f.bs then (b.s f.b.toNat).toNat % 2 ^ 32 else b.rdB f false l) j))
      (modSign 16 false (f.mb 3) (half (b.rdC f false l) j))
    laneHfma2 f b fpcr l =
      { bits := (one 1).bits * 2 ^ 16 + (one 0).bits, flags := (one 0).flags ||| (one 1).flags, tiny := (one 0).tiny || (one 1).tiny } := by
  simp only [laneHfma2, hfma2Op, (half_modSign2 _ _ _).1, (half_modSign2 _ _ _).2]

/-- Minimum and maximum, case by case of the NaNs among the operands (R192). -/
theorem fminmax_eq (fm : Fmt) (isMax prop : Bool) (x y : Nat) : fminmax fm isMax prop x y =
    let u := decodeF fm x
    let v := decodeF fm y
    let nv := if u.isSig || v.isSig then NV else 0
    if (u.isNan = true ∧ v.isNan = true) ∨ (prop = true ∧ (u.isNan = true ∨ v.isNan = true)) then { bits := fm.nanCode, flags := nv }
    else if u.isNan = true then { bits := y, flags := nv }
    else if v.isNan = true then { bits := x, flags := nv }
    else { bits := if (if isMax then valLt u v else valLt v u) = true then y else x, flags := nv } := by
  simp only [fminmax, Bool.or_eq_true, Bool.and_eq_true]

theorem laneCvt_eq (f : RForm) {ws wd : Nat} (source : cvtWidth (fld f.b 6 0) = some ws) (dest : cvtWidth (fld f.c 6 0) = some wd)
    (b : Batt) (fpcr : Word) (l : Nat) :
    let r := cvtOp (cvtType (fld f.c 6 0)) (cvtType (fld f.b 6 0)) (rndMode (f.mf 7 5) fpcr) (f.mb 4)
      (b.rdA f (ws == 64) l / 2 ^ (ws * f.mf 3 2) % 2 ^ ws)
    let part : Nat := 2 ^ (wd * f.mf 1 0)
    laneCvt f b fpcr l =
      if wd < 32 then { r with bits := b.rdD f false l - b.rdD f false l / part % 2 ^ wd * part + r.bits * part } else r := by
  simp only [laneCvt, source, dest, Option.getD_some]

theorem fld_lowest_byte {w : Nat} (x : BitVec w) : fld x 7 0 = x.toNat % 256 := by simp [fld]

/-- Settles O11: a lane word is its lane body, which completes or traps, and each floating word has its own lane function. -/
theorem laneWordsCompleteOrTrap : Obligations.LaneWordsCompleteOrTrap := by
  unfold Obligations.LaneWordsCompleteOrTrap
  refine ⟨?completes, ?traps, ?arithmetic, ?fma, ?sqrt, ?scale, ?hfma2, ?minmax, ?classes, fclassify_eq_two_pow, ?approx, ?cvt, ?dqmx⟩
  case completes =>
    intro i fn d word s x n t clear clean
    rw [exec_laneWord word, runWord_done clear (laneBody_done clean)]
  case traps =>
    intro i fn d word s x n t clear raised
    rw [exec_laneWord word, runWord_traps clear (laneBody_trap raised)]
  case arithmetic =>
    intro f i op fm hi
    simp only [List.mem_cons, Prod.mk.injEq, List.not_mem_nil, or_false] at hi
    rcases hi with ⟨rfl, rfl, rfl⟩ | ⟨rfl, rfl, rfl⟩ | ⟨rfl, rfl, rfl⟩ | ⟨rfl, rfl, rfl⟩ | ⟨rfl, rfl, rfl⟩ |
      ⟨rfl, rfl, rfl⟩ | ⟨rfl, rfl, rfl⟩ | ⟨rfl, rfl, rfl⟩
    all_goals exact floatResult_of_laneWord rfl (dst_ne_pred f _) fun _ _ => rfl
  case fma | sqrt | scale | classes =>
    intro f i fm hi
    simp only [List.mem_cons, Prod.mk.injEq, List.not_mem_nil, or_false] at hi
    rcases hi with ⟨rfl, rfl⟩ | ⟨rfl, rfl⟩
    all_goals exact floatResult_of_laneWord rfl (dst_ne_pred f _) fun _ _ => rfl
  case hfma2 =>
    intro f fm half one
    exact floatResult_of_laneWord rfl (dst_ne_pred f _) fun b l => laneHfma2_eq f b b.fpcr l
  case minmax =>
    intro f i fm isMax hi
    simp only [List.mem_cons, Prod.mk.injEq, List.not_mem_nil, or_false] at hi
    rcases hi with ⟨rfl, rfl, rfl⟩ | ⟨rfl, rfl, rfl⟩ | ⟨rfl, rfl, rfl⟩ | ⟨rfl, rfl, rfl⟩
    all_goals exact floatResult_of_laneWord rfl (dst_ne_pred f _) fun b l => fminmax_eq _ _ _ _ _
  case approx =>
    intro f i which hi
    simp only [List.mem_cons, Prod.mk.injEq, List.not_mem_nil, or_false] at hi
    rcases hi with ⟨rfl, rfl⟩ | ⟨rfl, rfl⟩ | ⟨rfl, rfl⟩ | ⟨rfl, rfl⟩ | ⟨rfl, rfl⟩ | ⟨rfl, rfl⟩
    all_goals exact floatResult_of_laneWord rfl (dst_ne_pred f _) fun _ _ => rfl
  case cvt =>
    intro f ws wd source dest r part
    have word : laneWord (.cvt f) = some (laneCvt f, f.dst (wd == 64)) := by
      show some (laneCvt f, f.dst ((cvtWidth (fld f.c 6 0)).getD 32 == 64)) = _
      rw [dest]
      rfl
    exact floatResult_of_laneWord word (dst_ne_pred f _) fun b l => laneCvt_eq f source dest b b.fpcr l
  case dqmx =>
    intro f
    exact floatResult_of_laneWord rfl (fun _ => nofun) fun b l => by rw [laneDqmx, fld_lowest_byte]

end Sys2Proof.Machine
end

section
/-! Proofs about the issue of a word and its completion (R125, R147, R149, R154, R215, R349): both touch the issuing batt alone. -/

namespace Sys2Proof.Machine

/-! ### The issue of a word that is clear -/

/-- A register that a word finds Backed and untagged is, after the word's preparation, as it was. -/
theorem PrepRes.without_backed {s : State} {b : Batt} {reads writes : List RegRef} {whole ns : List Nat} {q : Prep} {k : Nat} {r : VReg}
    (h : (s.prepare b reads writes true whole).without ns = .ok q) (holds : b.Holds k (some r)) (untagged : r.tag = none)
    (backed : r.backed = true) (old : r.fresh = false) : q.b.vreg? k = some r := by
  obtain ⟨p, prepared, left⟩ := PrepRes.without_vreg? h
  obtain ⟨ordered, stands⟩ := State.prepare_backed prepared holds untagged backed
  have stays : r.giveUp = some r := by simp [VReg.giveUp, old]
  rw [left ordered, stands, Option.bind_some, stays, ite_self]

theorem State.prepareWord_backed {s : State} {b : Batt} {i : Instr} {split active : Mask} {q : Prep} {k : Nat} {r : VReg}
    (h : s.prepareWord b i split active = .ok q) (holds : b.Holds k (some r)) (untagged : r.tag = none) (backed : r.backed = true)
    (old : r.fresh = false) : q.b.vreg? k = some r := by
  unfold State.prepareWord at h
  dsimp only at h
  split at h
  · split at h
    · cases h; exact holds.2
    · split at h
      · cases h
      · exact (State.prepare_backed h holds untagged backed).2
  · split at h
    · cases h; exact holds.2
    · obtain ⟨av, h⟩ := settlePrep_run h
      exact (prepEach_preserves (P := Batt.Holds k (some r)) _ (s.rematerialise_holds (o := some r) untagged av) _ (fun p hp => by cases hp; exact holds) h).2
  · split at h
    · cases h; exact holds.2
    · exact (State.prepare_backed h holds untagged backed).2
  · exact PrepRes.without_backed h holds untagged backed old

/-- Settles O7: a word that issues has changed its own batt alone, by its turn, its preparation and its region's entry. -/
theorem issuePreparesItsBattAlone : Obligations.IssuePreparesItsBattAlone := by
  unfold Obligations.IssuePreparesItsBattAlone
  intro i s x n t clear
  obtain ⟨only, b, c, p, hb, hc, prepared, entered⟩ := issueWord_prepared (clear_issue clear)
  refine ⟨clear_instr clear, only, b, c, hb, hc, ?shape, fun ordered k r found untagged backed old => ?registers⟩
  case shape =>
    have kept := s.prepareWord_keeps _ _ _ _ prepared
    unfold SameButV at kept
    rw [entered, kept, Batt.takeTurn_shape]
  case registers =>
    have holds : (b.takeTurn x.low).Holds k (some r) := by
      rw [Batt.Holds, Batt.Ordered, Batt.vreg?, Batt.takeTurn_vregs]
      exact ⟨ordered, found⟩
    rw [entered]
    exact State.prepareWord_backed prepared holds untagged backed old

/-! ### The completion of a word -/

theorem Batt.lane_modLanes (b : Batt) (m : Mask) (f : Lane → Lane) {l : Nat} (h : l < b.lanes.length) :
    (b.modLanes m f).lane l = if inMask m l then f (b.lane l) else b.lane l := by
  simp [Batt.modLanes, Batt.lane, List.getD_eq_getElem?_getD, h]

theorem Batt.lane_advance (b : Batt) (m : Mask) {l : Nat} (h : l < b.lanes.length) :
    (b.advance m).lane l = if inMask m l then { pc := (b.lane l).pc + 8, st := .ready } else b.lane l := b.lane_modLanes m _ h

theorem Batt.inMask_lanesWhere (b : Batt) (p : Lane → Bool) {l : Nat} (h : l < 32) : inMask (b.lanesWhere p) l = p (b.lane l) :=
  inMask_maskOf h

theorem Batt.countTurn_lanes (b : Batt) (low n : Nat) : (b.countTurn low n).lanes = b.lanes := by
  unfold Batt.countTurn
  generalize (if 1 < n then b.quant + 1 else b.quant) = q
  dsimp only
  split <;> rfl

/-- The lanes of a split that stand ready at the word. -/
def Batt.standing (b : Batt) (x : Iss) : Mask := x.split &&& b.lanesWhere fun l => l.st == .ready && l.pc == x.pc

theorem Batt.inMask_standing (b : Batt) (x : Iss) {l : Nat} (h : l < 32) :
    inMask (b.standing x) l = true ↔ inMask x.split l = true ∧ (b.lane l).st = .ready ∧ (b.lane l).pc = x.pc := by
  rw [Batt.standing, inMask_and, Batt.inMask_lanesWhere b _ h]
  simp

/-- A completed word has changed the purity set, then advanced the lanes of its split that stood at it, then counted the turn. -/
theorem wordDone_eq (x : Iss) (n : Nat) (u : State) : ∃ f : Batt → Batt, (∀ b, f b = { b with absorbed := (f b).absorbed }) ∧
    wordDone x n u = u.modBatt x.core x.slot fun b => ((f b).advance (b.standing x)).countTurn x.low n := by
  obtain ⟨f, noted, purity⟩ := noteDefs_shape u x.core x.slot x.instr x.pc x.acted
  have standing (b : Batt) : (f b).standing x = b.standing x := by rw [purity b]; rfl
  refine ⟨f, purity, ?_⟩
  calc wordDone x n u
      = (u.modBatt x.core x.slot f).modBatt x.core x.slot fun b => (b.advance (b.standing x)).countTurn x.low n := by rw [← noted]; rfl
    _ = _ := by
      rw [State.modBatt_then u _ _ f _ fun b => by rw [purity b]; exact ⟨rfl, rfl⟩]
      simp only [standing]

/-- Settles O9: the batt of a completed word, lane by lane. -/
theorem completedWordAdvancesItsLanes : Obligations.CompletedWordAdvancesItsLanes := by
  unfold Obligations.CompletedWordAdvancesItsLanes
  intro x n u b hb
  obtain ⟨f, purity, done⟩ := wordDone_eq x n u
  obtain ⟨c, hc, finished⟩ := wordDone_batt (n := n) hb
  refine ⟨wordDone_onlyBatt x n u, c, hc, finished, fun l hl h32 => ?_⟩
  have changes (b : Batt) : Finished b (((f b).advance (b.standing x)).countTurn x.low n) := by
    have absorbs : Finished b (f b) := by rw [Finished, purity b]
    exact (absorbs.trans (advance_finished _ _)).trans (countTurn_finished _ _ _)
  have own : c = ((f b).advance (b.standing x)).countTurn x.low n := by
    rw [done, State.batt?_modBatt_same _ _ _ _ fun b => (changes b).place, hb] at hc
    exact (Option.some.inj hc).symm
  have lanes : (f b).lanes = b.lanes := by rw [purity b]
  have same (k : Nat) : (f b).lane k = b.lane k := by rw [Batt.lane, lanes]; rfl
  rw [Batt.lane, own, Batt.countTurn_lanes]
  show ((f b).advance (b.standing x)).lane l = _
  rw [Batt.lane_advance _ _ (by rwa [lanes]), same]
  exact if_congr (b.inMask_standing x h32) rfl rfl

end Sys2Proof.Machine
end

section
/-! Proofs about the register words that never trap and the words of reconvergence (R116, R117, R159 to R166, R222 to R230, R308). -/

namespace Sys2Proof.Machine

/-! ### Words that change their own batt alone -/

/-- A change of a batt that leaves it at its place. -/
def InPlace (f : Batt → Batt) : Prop := ∀ b, (f b).core = b.core ∧ (f b).slot = b.slot

theorem InPlace.id : InPlace id := fun _ => ⟨rfl, rfl⟩

theorem InPlace.ite {c : Batt → Prop} [∀ b, Decidable (c b)] {f g : Batt → Batt} (hf : InPlace f) (hg : InPlace g) :
    InPlace fun b => if c b then f b else g b := fun b => by
  dsimp only
  split
  · exact hf b
  · exact hg b

theorem State.modBatt_id (s : State) (core slot : Nat) : s.modBatt core slot id = s := by
  simp [State.modBatt, mapIf]

/-- A word whose meaning is one change of its batt completes, and nothing but its batt has changed since its issue began. -/
theorem runWord_onlyBatt {i : Instr} {s t : State} {x : Iss} {n : Nat} {body : Iss → State → Body} {f : Batt → Batt} (place : InPlace f)
    (clear : s.clear i = some (x, n, t)) (effect : body x t = .done (x.set t f) ∨ body x t = .moved (x.set t f)) :
    ∃ u, runWord i body s = .next u ∧ OnlyBatt x.core x.slot s u := by
  have changed : OnlyBatt x.core x.slot s (x.set t f) := (clear_onlyBatt clear).trans (modBatt_onlyBatt t _ _ f fun b _ _ => place b)
  rcases effect with done | moved
  · exact ⟨_, runWord_done clear done, changed.trans (wordDone_onlyBatt x n _)⟩
  · exact ⟨_, runWord_moved clear moved, changed.trans (wordMoved_onlyBatt x n _)⟩

theorem Batt.settle_place (b : Batt) (n : Nat) : (b.settle n).core = b.core ∧ (b.settle n).slot = b.slot := by
  unfold Batt.settle
  dsimp only
  split <;> exact ⟨rfl, rfl⟩

/-- Settles O23: each of these words is one change of its batt, which stays at its place. -/
theorem registerWordsTouchTheirBattAlone : Obligations.RegisterWordsTouchTheirBattAlone := by
  unfold Obligations.RegisterWordsTouchTheirBattAlone
  intro i word s x n t clear
  have completes {body : Iss → State → Body} {f : Batt → Batt} (done : body x t = .done (x.set t f)) (place : InPlace f) :
      ∃ u, runWord i body s = .next u ∧ OnlyBatt x.core x.slot s u := runWord_onlyBatt place clear (.inl done)
  have moves {body : Iss → State → Body} {f : Batt → Batt} (moved : body x t = .moved (x.set t f)) (place : InPlace f) :
      ∃ u, runWord i body s = .next u ∧ OnlyBatt x.core x.slot s u := runWord_onlyBatt place clear (.inr moved)
  have nothing {body : Iss → State → Body} (done : body x t = .done t) : ∃ u, runWord i body s = .next u ∧ OnlyBatt x.core x.slot s u :=
    completes (done.trans (by rw [Iss.set, State.modBatt_id])) .id
  split at word
  next f => exact completes (body := getsrBody f) rfl (.ite (fun _ => ⟨rfl, rfl⟩) fun _ => ⟨rfl, rfl⟩)
  next f => exact completes (body := setsrBody f) rfl (.ite (fun _ => ⟨rfl, rfl⟩) (.ite (fun _ => ⟨rfl, rfl⟩) fun _ => ⟨rfl, rfl⟩))
  next f => exact completes (body := plopBody f) rfl fun _ => ⟨rfl, rfl⟩
  next f => exact completes (body := pmovBody f) rfl fun _ => by split <;> exact ⟨rfl, rfl⟩
  next f => exact completes (body := pfoldBody f) rfl fun _ => by dsimp only; split <;> exact ⟨rfl, rfl⟩
  next f => exact completes (body := lxchBody f) rfl fun _ => ⟨rfl, rfl⟩
  next f => exact completes (body := peerBody f) rfl fun _ => ⟨rfl, rfl⟩
  next f => exact completes (body := lgetBody f) rfl fun _ => ⟨rfl, rfl⟩
  next f => exact completes (body := lsetBody f) rfl (.ite (fun _ => ⟨rfl, rfl⟩) fun _ => ⟨rfl, rfl⟩)
  next f => exact completes (body := rfreeBody f) rfl fun _ => ⟨rfl, rfl⟩
  next => exact nothing rfl
  next => exact nothing rfl
  next f => exact moves (body := rjsetBody f) rfl fun _ => Batt.settle_place _ _
  next f => exact moves (body := rjoinBody f) rfl fun _ => Batt.settle_place _ _
  next f => exact moves (body := rjdropBody f) rfl fun _ => Batt.settle_place _ _
  next => exact completes rfl fun _ => ⟨rfl, rfl⟩
  next => exact completes rfl fun _ => ⟨rfl, rfl⟩
  next => exact completes rfl fun _ => ⟨rfl, rfl⟩
  next => exact completes rfl fun _ => ⟨rfl, rfl⟩
  next => cases word


/-! ### A change of the batt that issues -/

/-- After the issue of a word, a change of its batt is what it makes of that batt, whatever it would make of others. -/
theorem clear_set_congr {i : Instr} {s t : State} {x : Iss} {n : Nat} {f g : Batt → Batt} (clear : s.clear i = some (x, n, t))
    (same : f (x.at t) = g (x.at t)) : x.set t f = x.set t g := by
  obtain ⟨b, c, -, -, issued, -, core, slot, at_t⟩ := clear_shape clear
  rw [at_t] at same
  rw [issued, Iss.set, Iss.set, State.modBatt_const_then s f core slot, State.modBatt_const_then s g core slot, same]

/-- A word that moves its lanes itself, as one change of its batt. -/
theorem wordMoves_of_set {i : Instr} {body : Iss → State → Body} {c : Iss → State → Prop} {g h : Iss → State → Batt → Batt}
    (runs : ∀ s, exec i s = runWord i body s) (moved : ∀ x t, c x t → body x t = .moved (x.set t (g x t)))
    (same : ∀ x t, c x t → g x t (x.at t) = h x t (x.at t)) : WordMoves i c fun x t => x.set t (h x t) := by
  intro s x n t clear hc
  rw [runs, runWord_moved clear (moved x t hc), clear_set_congr clear (same x t hc)]

/-! ### SYNCB (R308) -/

/-- The lanes that a SYNCB names for their masks: those whose mask is not `m0`, those that `m0` leaves out, and all where others wait with
another mask. -/
def syncBad (b : Batt) (active : Mask) (m : Nat → Mask) (m0 : Mask) : Mask :=
  let own : Mask := (maskOf fun l => inMask active l && m l != m0) ||| (active &&& ~~~m0)
  if b.atSync ≠ 0 ∧ own = 0 ∧ m0 ≠ b.syncm then active else own

/-- Whom a SYNCB with the mask `m0` still waits for. -/
def syncMissing (b : Batt) (split active m0 : Mask) : Mask :=
  m0 &&& ~~~(active ||| (b.advance (split &&& ~~~active)).exited ||| b.atSync)

section
variable (f : RForm) (x : Iss) (t : State)

abbrev syncMask (b : Batt) (l : Nat) : Mask := if f.mb 0 then (b.s f.a.toNat).setWidth 32 else b.v f.a.toNat l

abbrev syncMask0 (b : Batt) : Mask := syncMask f b ((lowLane x.active).getD 0)

theorem syncbBody_eq : syncbBody f x t =
    let b := x.at t
    let m0 := syncMask0 f x b
    if syncBad b x.active (syncMask f b) m0 ≠ 0 then .trap (causesOf (syncBad b x.active (syncMask f b) m0) cMASKMIS 0) t
    else .moved (x.set t fun c =>
      let d := c.advance (x.split &&& ~~~x.active)
      if m0 &&& ~~~(x.active ||| d.exited ||| b.atSync) = 0 then (d.advance (m0 &&& b.atSync)).advance x.active
      else { d.modLanes x.active fun l => { l with st := .syncb } with syncm := m0 }) := by
  simp only [syncbBody, syncBad, bne_iff_ne, Bool.and_eq_true, decide_eq_true_eq, and_assoc]
  rfl

end

theorem syncb_releases (f : RForm) :
    WordMoves (.syncb f)
      (fun x t => syncBad (x.at t) x.active (syncMask f (x.at t)) (syncMask0 f x (x.at t)) = 0 ∧
        syncMissing (x.at t) x.split x.active (syncMask0 f x (x.at t)) = 0)
      fun x t => x.set t fun b => ((b.advance (x.split &&& ~~~x.active)).advance (syncMask0 f x (x.at t) &&& (x.at t).atSync)).advance x.active :=
  wordMoves_of_set (fun _ => rfl) (fun x t hc => (syncbBody_eq f x t).trans (if_neg (not_not.2 hc.1))) fun _ _ hc => if_pos hc.2

theorem syncb_waits (f : RForm) :
    WordMoves (.syncb f)
      (fun x t => syncBad (x.at t) x.active (syncMask f (x.at t)) (syncMask0 f x (x.at t)) = 0 ∧
        syncMissing (x.at t) x.split x.active (syncMask0 f x (x.at t)) ≠ 0)
      fun x t => x.set t fun b =>
        { (b.advance (x.split &&& ~~~x.active)).modLanes x.active (fun l => { l with st := .syncb }) with syncm := syncMask0 f x (x.at t) } :=
  wordMoves_of_set (fun _ => rfl) (fun x t hc => (syncbBody_eq f x t).trans (if_neg (not_not.2 hc.1))) fun _ _ hc => if_neg hc.2

theorem syncb_traps (f : RForm) :
    WordTraps (.syncb f) (fun x t => syncBad (x.at t) x.active (syncMask f (x.at t)) (syncMask0 f x (x.at t)) ≠ 0)
      fun x t => causesOf (syncBad (x.at t) x.active (syncMask f (x.at t)) (syncMask0 f x (x.at t))) cMASKMIS 0 :=
  fun _ x _ t clear bad => runWord_traps clear ((syncbBody_eq f x t).trans (if_pos bad))

/-! ### EXIT (R229, R230) -/

/-- What an exit does to lane `l` of its split. -/
def exitLane (x : Iss) (l : Nat) (y : Lane) : Lane :=
  if inMask x.active l then { y with st := .exited } else if inMask x.split l then { pc := y.pc + 8, st := .ready } else y

/-- The batt with the lanes of an exit ended and the others of its split at the next word. -/
def exitEnded (x : Iss) (b : Batt) : Batt := { b with lanes := b.lanes.mapIdx (exitLane x) }

/-- The batt with every rejoin mask settled. -/
def Batt.settleAll (b : Batt) : Batt := (List.range 8).foldl Batt.settle b

theorem inMask_andNot (m k : Mask) (l : Nat) : inMask (m &&& ~~~k) l = (inMask m l && !inMask k l) := by
  unfold inMask
  rw [BitVec.getLsbD_and, BitVec.getLsbD_not]
  by_cases h : l < 32
  · simp [h]
  · simp [BitVec.getLsbD_of_ge m l (by omega), h]

theorem exitEnded_eq (x : Iss) (b : Batt) :
    (b.advance (x.split &&& ~~~x.active)).modLanes x.active (fun l => { l with st := .exited }) = exitEnded x b := by
  unfold exitEnded Batt.advance Batt.modLanes
  simp only [List.mapIdx_mapIdx]
  congr 1
  refine congrArg (fun g => b.lanes.mapIdx g) ?_
  funext l y
  simp only [Function.comp_def, exitLane, inMask_andNot]
  cases inMask x.active l <;> cases inMask x.split l <;> rfl

theorem State.exitLanes_eq {i : Instr} {s t : State} {x : Iss} {n : Nat} (clear : s.clear i = some (x, n, t)) :
    t.exitLanes x.core x.slot x.split x.active =
      let u := x.set t fun b => (exitEnded x b).settleAll.settleSync
      if ((exitEnded x (x.at t)).settleAll.settleSync).exited ≠ BitVec.allOnes 32 then u else
        let v := (u.completeEngines x.core x.slot).finishReds x.core x.slot
        if (v.batt? x.core x.slot).isSome then v.exitBatt x.core x.slot else v := by
  have after : (x.set t fun _ => (exitEnded x (x.at t)).settleAll.settleSync) = x.set t fun b => (exitEnded x b).settleAll.settleSync :=
    clear_set_congr clear rfl
  rw [← after, ← exitEnded_eq]
  simp only [State.exitLanes, bne_iff_ne]
  rfl

theorem exitBody_moves {x : Iss} {t : State} (emits : (x.at t).emits x.active = []) :
    exitBody x t = .moved (t.exitLanes x.core x.slot x.split x.active) := by
  unfold exitBody
  dsimp only
  rw [show t.battAt x.core x.slot = x.at t from rfl, emits]

theorem exitBody_waits {x : Iss} {t : State} (emits : (x.at t).emits x.active ≠ []) :
    exitBody x t = .wait ((t.emitFrags (x.at t) ((x.at t).emits x.active)).modBatt x.core x.slot fun b => { b with wait := .commit x.instr }) := by
  unfold exitBody
  dsimp only
  rw [show t.battAt x.core x.slot = x.at t from rfl]
  split
  · contradiction
  · rfl

/-! ### Settling the rejoin masks (R222) -/

theorem Batt.settle_eq (b : Batt) (n : Nat) : b.settle n =
    if b.rjA n ≠ 0 ∧ b.rjE n &&& ~~~b.exited &&& ~~~b.rjA n = 0 then { b.advance (b.rjA n) with rejoinA := b.rejoinA.set n 0 } else b := by
  simp only [Batt.settle, Bool.and_eq_true, bne_iff_ne, decide_eq_true_eq]
  rfl

theorem Batt.settleSync_eq (c : Batt) : c.settleSync =
    if c.atSync ≠ 0 ∧ c.syncm &&& ~~~(c.atSync ||| c.exited) = 0 then c.advance (c.atSync &&& c.syncm) else c := by
  simp only [Batt.settleSync, Bool.and_eq_true, bne_iff_ne, decide_eq_true_eq]

/-- Has every lane that a rejoin mask expects arrived or exited? -/
def Batt.full (b : Batt) (n : Nat) : Bool := b.rjE n &&& ~~~b.exited &&& ~~~b.rjA n == 0

theorem maskOf_congr {p q : Nat → Bool} (h : ∀ l, l < 32 → p l = q l) : maskOf p = maskOf q :=
  BitVec.eq_of_getLsbD_eq fun l hl => (inMask_maskOf hl).trans ((h l hl).trans (inMask_maskOf hl).symm)

/-- The arrived masks once those below `k` are settled. -/
def Batt.settledMasks (e : Batt) (k : Nat) : List Mask := e.rejoinA.mapIdx fun n a => if n < k ∧ e.full n = true then 0 else a

theorem Batt.settledMasks_zero (e : Batt) : e.settledMasks 0 = e.rejoinA :=
  List.ext_getElem (by simp [Batt.settledMasks]) (by simp [Batt.settledMasks])

theorem Batt.settledMasks_getD (e : Batt) (k : Nat) : (e.settledMasks k).getD k 0 = e.rjA k := by
  simp [Batt.settledMasks, Batt.rjA, List.getD_eq_getElem?_getD]

theorem Batt.settledMasks_full {e : Batt} {k : Nat} (full : e.full k = true) : (e.settledMasks k).set k 0 = e.settledMasks (k + 1) := by
  refine List.ext_getElem (by simp [Batt.settledMasks]) fun n _ _ => ?_
  rcases lt_trichotomy n k with below | rfl | above
  · simp [Batt.settledMasks, below, below.ne', below.le]
  · simp [Batt.settledMasks, full]
  · simp [Batt.settledMasks, above.ne, not_lt.2 above.le, not_le.2 above]

theorem Batt.settledMasks_open {e : Batt} {k : Nat} (stays : e.full k = true → e.rjA k = 0) : e.settledMasks k = e.settledMasks (k + 1) := by
  refine List.ext_getElem (by simp [Batt.settledMasks]) fun n hn _ => ?_
  rcases lt_trichotomy n k with below | rfl | above
  · simp [Batt.settledMasks, below, below.le]
  · have here : n < e.rejoinA.length := by simpa [Batt.settledMasks] using hn
    simp only [Batt.rjA, List.getD_eq_getElem?_getD, List.getElem?_eq_getElem here, Option.getD_some] at stays
    by_cases full : e.full n = true
    · simp [Batt.settledMasks, stays full]
    · simp [Batt.settledMasks, full]
  · simp [Batt.settledMasks, not_lt.2 above.le, not_le.2 above]

/-- What the settling of the rejoin masks below `k` makes of a batt none of whose arrived lanes has exited: the masks that are full are
empty and their lanes are released. -/
structure Settled (e : Batt) (k : Nat) (c : Batt) : Prop where
  shape : c = { e with lanes := c.lanes, rejoinA := e.settledMasks k }
  length : c.lanes.length = e.lanes.length
  exited : c.exited = e.exited
  released : ∀ l, l < e.lanes.length → (∃ n, n < k ∧ e.full n = true ∧ inMask (e.rjA n) l = true) → (c.lane l).st = .ready
  kept : ∀ l, l < e.lanes.length → (∀ n, n < k → e.full n = true → inMask (e.rjA n) l = false) → c.lane l = e.lane l

theorem Settled.zero (e : Batt) : Settled e 0 e where
  shape := by rw [Batt.settledMasks_zero]
  length := rfl
  exited := rfl
  released := fun _ _ ⟨_, hn, _⟩ => absurd hn (Nat.not_lt_zero _)
  kept := fun _ _ _ => rfl

section
variable {e c : Batt} {k : Nat} (h : Settled e k c)
include h

theorem Settled.rjA : c.rjA k = e.rjA k := by rw [h.shape]; exact e.settledMasks_getD k

theorem Settled.rjE : c.rjE k = e.rjE k := by rw [h.shape]; rfl

/-- A mask that is not full, or empty, changes nothing. -/
theorem Settled.stays (stays : e.full k = true → e.rjA k = 0) : Settled e (k + 1) c where
  shape := by rw [← Batt.settledMasks_open stays]; exact h.shape
  length := h.length
  exited := h.exited
  released := fun l hl ⟨n, hn, full, inA⟩ => by
    rcases Nat.lt_succ_iff_lt_or_eq.1 hn with below | rfl
    · exact h.released l hl ⟨n, below, full, inA⟩
    · rw [stays full] at inA
      exact absurd inA (by simp [inMask])
  kept := fun l hl out => h.kept l hl fun n hn => out n (Nat.lt_succ_of_lt hn)

/-- A full mask is emptied, and its lanes are released. -/
theorem Settled.releases (lanes : e.lanes.length = 32) (full : e.full k = true) (apart : e.exited &&& e.rjA k = 0) :
    Settled e (k + 1) { c.advance (e.rjA k) with rejoinA := c.rejoinA.set k 0 } where
  shape := by
    have masks : c.rejoinA = e.settledMasks k := by rw [h.shape]
    rw [masks, Batt.settledMasks_full full]
    conv_lhs => rw [h.shape]
    rfl
  length := by simpa [Batt.advance, Batt.modLanes] using h.length
  exited := by
    rw [← h.exited] at apart ⊢
    refine maskOf_congr fun l hl => ?_
    show (((c.advance (e.rjA k)).lane l).st == .exited) = ((c.lane l).st == .exited)
    rw [Batt.lane_advance _ _ (by rw [h.length, lanes]; exact hl)]
    split
    next arrived =>
      have clash : inMask (c.exited &&& e.rjA k) l = ((c.lane l).st == .exited) := by
        rw [inMask_and, arrived, Bool.and_true]
        exact inMask_maskOf hl
      rw [← clash, apart]
      simp [inMask]
    · rfl
  released := fun l hl ⟨n, hn, full, inA⟩ => by
    show ((c.advance (e.rjA k)).lane l).st = .ready
    rw [Batt.lane_advance _ _ (h.length ▸ hl)]
    split
    · rfl
    next out =>
      rcases Nat.lt_succ_iff_lt_or_eq.1 hn with below | rfl
      · exact h.released l hl ⟨n, below, full, inA⟩
      · exact absurd inA out
  kept := fun l hl out => by
    show (c.advance (e.rjA k)).lane l = _
    rw [Batt.lane_advance _ _ (h.length ▸ hl), out k (Nat.lt_succ_self k) full]
    exact h.kept l hl fun n hn => out n (Nat.lt_succ_of_lt hn)

theorem Settled.step (lanes : e.lanes.length = 32) (apart : e.exited &&& e.rjA k = 0) : Settled e (k + 1) (c.settle k) := by
  have full : c.rjE k &&& ~~~c.exited &&& ~~~c.rjA k = 0 ↔ e.full k = true := by rw [h.rjE, h.rjA, h.exited, Batt.full, beq_iff_eq]
  rw [Batt.settle_eq]
  split
  next arrived => rw [h.rjA]; exact h.releases lanes (full.1 arrived.2) apart
  next rest => exact h.stays fun isFull => h.rjA.symm.trans (not_not.1 fun arrived => rest ⟨arrived, full.2 isFull⟩)

end

theorem settled_foldl {e : Batt} (lanes : e.lanes.length = 32) {k : Nat} (apart : ∀ n, n < k → e.exited &&& e.rjA n = 0) :
    Settled e k ((List.range k).foldl Batt.settle e) := by
  induction k with
  | zero => exact .zero e
  | succ k ih =>
    rw [List.range_succ, List.foldl_append]
    exact (ih fun n hn => apart n (Nat.lt_succ_of_lt hn)).step lanes (apart k (Nat.lt_succ_self k))

/-! ### The statement -/

theorem yield_exec {f : RForm} {s t : State} {x : Iss} {n : Nat} (clear : s.clear (.yield f) = some (x, n, t)) :
    let u := x.set t fun b => { b.advance x.split with cursor := (x.low + 1) % 32, quant := 0 }
    exec (.yield f) s = .next (if (u.quarter x.core (quarterOfSlot x.slot)).ready.isEmpty then u
      else (u.leaveActive x.core x.slot).joinReady x.core x.slot) := runWord_clear clear

theorem exit_leaves (f : RForm) :
    WordMoves (.exit f) (fun x t => (x.at t).emits x.active = [] ∧ ((exitEnded x (x.at t)).settleAll.settleSync).exited ≠ BitVec.allOnes 32)
      fun x t => x.set t fun b => (exitEnded x b).settleAll.settleSync := by
  intro s x n t clear ⟨emits, rest⟩
  refine runWord_moved clear ((exitBody_moves emits).trans (congrArg Body.moved ?_))
  rw [State.exitLanes_eq clear]
  exact if_pos rest

theorem exit_ends (f : RForm) :
    WordMoves (.exit f) (fun x t => (x.at t).emits x.active = [] ∧ ((exitEnded x (x.at t)).settleAll.settleSync).exited = BitVec.allOnes 32)
      fun x t =>
        let u := ((x.set t fun b => (exitEnded x b).settleAll.settleSync).completeEngines x.core x.slot).finishReds x.core x.slot
        if (u.batt? x.core x.slot).isSome then u.exitBatt x.core x.slot else u := by
  intro s x n t clear ⟨emits, all⟩
  refine runWord_moved clear ((exitBody_moves emits).trans (congrArg Body.moved ?_))
  rw [State.exitLanes_eq clear]
  exact if_neg (not_not.2 all)

/-- Settles O26: each word by its own lemma; of EXIT, what the settling of every rejoin mask makes of the batt. -/
theorem reconvergenceWords : Obligations.ReconvergenceWords := by
  unfold Obligations.ReconvergenceWords
  refine ⟨fun f _ _ _ _ clear _ => runWord_done clear rfl,
    ⟨Batt.settle_eq, fun f _ _ _ _ clear _ => runWord_moved clear rfl, fun f _ _ _ _ clear _ => runWord_moved clear rfl,
      fun f _ _ _ _ clear _ => runWord_moved clear rfl⟩,
    fun f => ⟨syncb_releases f, syncb_waits f, syncb_traps f⟩, fun f _ _ _ _ clear => yield_exec clear,
    fun f => ⟨exit_leaves f, exit_ends f, ?settled, Batt.settleSync_eq, ?waits⟩⟩
  case settled =>
    intro x b lanes masks apart full c
    have ended : (exitEnded x b).lanes.length = 32 := by simpa [exitEnded] using lanes
    have settled : Settled (exitEnded x b) 8 (exitEnded x b).settleAll := settled_foldl ended apart
    refine ⟨settled.shape.trans ?_, fun l hl => ⟨settled.released l (ended ▸ hl), settled.kept l (ended ▸ hl)⟩⟩
    congr 1
    refine List.ext_getElem (by simp [Batt.settledMasks, exitEnded]) fun n hn _ => ?_
    have below : n < 8 := by simpa [Batt.settledMasks, exitEnded, masks] using hn
    simp only [Batt.settledMasks, List.getElem_mapIdx, below, true_and]
    rfl
  case waits => exact fun _ _ _ _ clear emits => runWord_waits clear (exitBody_waits emits)

end Sys2Proof.Machine
end

section
/-! Proofs about LAUNCH and DRAW (R110, R112, R375, R376): the release, the wait on the limit, the record as it reads. -/

namespace Sys2Proof.Machine

section
variable (f : RForm) (draw : Bool) (x : Iss) (t : State)

/-- The release of a LAUNCH or DRAW: the last number it publishes, and the state that it leaves (R112). -/
def launchRelease : Nat × State := (t.hardenOpen x.core x.slot).releaseDevice x.core (x.at t).space 2

/-- The state in which a LAUNCH or DRAW reads its record (R249). -/
def launchReads : State := (launchRelease x t).2.launchView x.core (launchRelease x t).1

/-- What the record of a LAUNCH or DRAW comes to. -/
def launchRecord : RecordRes Launch :=
  (launchReads x t).readRecord (x.at (launchReads x t)) ((x.at (launchReads x t)).s f.a.toNat) (launchRelease x t).1 f.d.toNat draw

theorem launchBody_eq : launchBody f draw x t =
    if (launchRelease x t).2.launches.length < 256 then (launchRelease x t).2.launchRest x f.d.toNat f.a.toNat (launchRelease x t).1 draw
    else .wait ((launchRelease x t).2.modBatt x.core x.slot fun b => { b with wait := .launch (launchRelease x t).1 x.instr }) := by
  unfold launchBody launchRelease Iss.at
  dsimp only

theorem launchBody_full (full : 256 ≤ (launchRelease x t).2.launches.length) : launchBody f draw x t =
    .wait ((launchRelease x t).2.modBatt x.core x.slot fun b => { b with wait := .launch (launchRelease x t).1 x.instr }) :=
  (launchBody_eq f draw x t).trans (if_neg (not_lt.2 full))

/-- Below the limit the record decides. -/
theorem launchBody_room (room : (launchRelease x t).2.launches.length < 256) : launchBody f draw x t =
    match launchRecord f draw x t with
    | .launchx a => .trap (causesOf x.active cLAUNCHX a) (launchReads x t)
    | .poison a => .trap (causesOf x.active cPOISON a) (launchReads x t)
    | .ok l => .done ((((launchReads x t).recordReads (x.at (launchReads x t)) ((x.at (launchReads x t)).s f.a.toNat) l).discardCode
        l.recd.ctx).enqueue x.core x.slot l) := by
  rw [launchBody_eq, if_pos room]
  rfl

end

/-- Settles O42: LAUNCH and DRAW have one body, which waits at the limit and below it goes by what the record comes to. -/
theorem launchWords : Obligations.LaunchWords := by
  unfold Obligations.LaunchWords
  intro f i draw hi
  have meaning (s : State) : exec i s = runWord i (launchBody f draw) s := by
    simp only [List.mem_cons, Prod.mk.injEq, List.not_mem_nil, or_false] at hi
    rcases hi with ⟨rfl, rfl⟩ | ⟨rfl, rfl⟩ <;> rfl
  refine ⟨fun l => ?enqueues, ?waits, ?traps⟩
  case enqueues =>
    intro s x n t clear ⟨room, got⟩
    refine (meaning s).trans (runWord_done clear ((launchBody_room f draw x t room).trans ?_))
    rw [show launchRecord f draw x t = .ok l from got]
    rfl
  case waits =>
    intro s x n t clear full
    exact (meaning s).trans (runWord_waits clear (launchBody_full f draw x t full))
  case traps =>
    intro s x n t a clear room
    refine ⟨fun got => ?_, fun got => ?_⟩
    all_goals
      refine (meaning s).trans (runWord_traps clear ((launchBody_room f draw x t room).trans ?_))
      rw [show launchRecord f draw x t = _ from got]
      rfl

end Sys2Proof.Machine
end
section
/-! The invariant of the keys (R14, R236, R243): each operation of the model keeps it, in the order of the model's files, and so does a step.
The proofs are many and short, and each waits for those that it cites: they are elaborated in their order, so that the threads that wait
do not take the memory. -/

set_option Elab.async false

section
/-! What every step keeps, in two invariants: device memory and the sluice stay canonical, and what the model names things by stays unambiguous
(R14, R236, R243). A state is reached by the operations of the model, each of which keeps both: this part is about the operations that
every other one is made of. -/

namespace Sys2Proof.Machine

/-! ### The relation between a state and those reached from it -/

/-- The positions of a core's log rise, below the next one (R243). -/
def CoreSt.LogOk (c : CoreSt) : Prop := (c.log.map (·.pos)).Pairwise (· < ·) ∧ ∀ e ∈ c.log, e.pos < c.nextPos

/-- Each part of the two invariants that holds of the first state holds of the second. -/
structure Kept (s t : State) : Prop where
  mem : s.mem.wf = true → t.mem.wf = true
  sluice : s.sluice.wf = true → t.sluice.wf = true
  logs : (∀ c ∈ s.cores, c.LogOk) → ∀ c ∈ t.cores, c.LogOk
  sectors : (s.l2.map fun x => (x.slice, x.sector)).Nodup → (t.l2.map fun x => (x.slice, x.sector)).Nodup
  places : (s.batts.map fun b => (b.core, b.slot)).Nodup → (t.batts.map fun b => (b.core, b.slot)).Nodup

theorem Kept.keysOk {s t : State} (h : Kept s t) (ok : s.KeysOk) : t.KeysOk := ⟨h.logs ok.1, h.sectors ok.2.1, h.places ok.2.2⟩

/-- The canonical forms of the memories, of which the other invariant of a step says that they are kept. -/
theorem Kept.memOk {s t : State} (h : Kept s t) (ok : s.MemOk) : t.MemOk := ⟨h.mem ok.1, h.sluice ok.2⟩

theorem Kept.refl (s : State) : Kept s s := ⟨id, id, id, id, id⟩

/-- A choice of what follows, in any type of results: of states, of a word's outcome, and so on. -/
theorem ite_of {α : Sort*} {P : α → Prop} {c : Prop} [Decidable c] {x y : α} (hx : P x) (hy : P y) : P (if c then x else y) := by
  split
  · exact hx
  · exact hy

section
variable {s₀ s t : State}

/-- A change of other parts of the state. -/
theorem Kept.same (h : Kept s₀ s) (mem : t.mem = s.mem := by rfl) (sluice : t.sluice = s.sluice := by rfl)
    (cores : t.cores = s.cores := by rfl) (l2 : t.l2 = s.l2 := by rfl) (batts : t.batts = s.batts := by rfl) : Kept s₀ t where
  mem := by rw [mem]; exact h.mem
  sluice := by rw [sluice]; exact h.sluice
  logs := by rw [cores]; exact h.logs
  sectors := by rw [l2]; exact h.sectors
  places := by rw [batts]; exact h.places

/-- A change of any of the other parts, where the state that it changes is itself the result of an operation. -/
theorem Kept.others (h : Kept s₀ s) {dev ctxs windows l2Clock memPoison sluicePoison controllers clusters launches felts cur choice inputs
    free} : Kept s₀ { s with
      dev := dev, ctxs := ctxs, windows := windows, l2Clock := l2Clock, memPoison := memPoison, sluicePoison := sluicePoison
      controllers := controllers, clusters := clusters, launches := launches, felts := felts, cur := cur, choice := choice
      inputs := inputs, free := free } := h.same

theorem Kept.ite {c : Prop} [Decidable c] {x y : State} (hx : Kept s₀ x) (hy : Kept s₀ y) : Kept s₀ (if c then x else y) := by
  split
  · exact hx
  · exact hy

theorem Kept.foldl {α : Type} {f : State → α → State} {l : List α} (h : Kept s₀ s) (step : ∀ s x, Kept s₀ s → Kept s₀ (f s x)) :
    Kept s₀ (l.foldl f s) := List.foldlRecOn l f h fun s h x _ => step s x h

/-! ### Logs -/

/-- A change of a core that leaves its log and its next position. -/
theorem CoreSt.LogOk.same {c d : CoreSt} (h : c.LogOk) (log : d.log = c.log := by rfl) (next : d.nextPos = c.nextPos := by rfl) :
    d.LogOk := by
  rw [CoreSt.LogOk, log, next]; exact h

/-- Entries leave a log. -/
theorem CoreSt.LogOk.filter {c d : CoreSt} (h : c.LogOk) {p : LogEntry → Bool} (log : d.log = c.log.filter p := by rfl)
    (next : d.nextPos = c.nextPos := by rfl) : d.LogOk := by
  rw [CoreSt.LogOk, log, next]
  exact ⟨h.1.sublist (List.filter_sublist.map _), fun e he => h.2 e (List.mem_of_mem_filter he)⟩

/-- Entries of a log change, but not their positions. -/
theorem CoreSt.LogOk.map {c d : CoreSt} (h : c.LogOk) {f : LogEntry → LogEntry} (log : d.log = c.log.map f)
    (pos : ∀ e, (f e).pos = e.pos) (next : d.nextPos = c.nextPos := by rfl) : d.LogOk := by
  have same : d.log.map (·.pos) = c.log.map (·.pos) := by rw [log, List.map_map]; exact List.map_congr_left fun e _ => pos e
  refine ⟨same ▸ h.1, fun e he => ?_⟩
  rw [log, List.mem_map] at he
  obtain ⟨e', he', rfl⟩ := he
  rw [pos, next]
  exact h.2 e' he'

theorem CoreSt.LogOk.mapIf {c d : CoreSt} (h : c.LogOk) {p : LogEntry → Bool} {f : LogEntry → LogEntry}
    (log : d.log = Machine.mapIf p f c.log) (pos : ∀ e, (f e).pos = e.pos) (next : d.nextPos = c.nextPos := by rfl) : d.LogOk :=
  h.map (f := fun e => if p e then f e else e) log (fun e => by split; exacts [pos e, rfl]) next

/-- An entry is appended at the next position. -/
theorem CoreSt.LogOk.append {c d : CoreSt} (h : c.LogOk) {e : LogEntry} (log : d.log = c.log ++ [e])
    (pos : e.pos = c.nextPos := by rfl) (next : d.nextPos = c.nextPos + 1 := by rfl) : d.LogOk := by
  refine ⟨?_, fun x hx => ?_⟩
  · rw [log, List.map_append, List.pairwise_append]
    refine ⟨h.1, List.pairwise_singleton _ _, fun a ha b hb => ?_⟩
    obtain ⟨x, hx, rfl⟩ := List.mem_map.1 ha
    obtain rfl : b = e.pos := by simpa using hb
    rw [pos]
    exact h.2 x hx
  · rw [next]
    rcases List.mem_append.1 (log ▸ hx) with old | new
    · exact Nat.lt_succ_of_lt (h.2 x old)
    · obtain rfl : x = e := by simpa using new
      exact pos ▸ Nat.lt_succ_self _

theorem mem_modAt {α : Type} {l : List α} {n : Nat} {f : α → α} {y : α} (h : y ∈ modAt l n f) : y ∈ l ∨ ∃ x ∈ l, y = f x := by
  induction l generalizing n with
  | nil => cases h
  | cons x t ih =>
    cases n with
    | zero =>
      rcases List.mem_cons.1 h with rfl | old
      · exact .inr ⟨x, List.mem_cons_self, rfl⟩
      · exact .inl (List.mem_cons_of_mem x old)
    | succ n =>
      rcases List.mem_cons.1 h with rfl | rest
      · exact .inl List.mem_cons_self
      · exact (ih rest).imp (List.mem_cons_of_mem x) fun ⟨z, hz, e⟩ => ⟨z, List.mem_cons_of_mem x hz, e⟩

/-- A change of the cores, of each to one whose log is in order where its own was. -/
theorem Kept.cores {l : List CoreSt} (h : Kept s₀ s) (logs : (∀ c ∈ s.cores, c.LogOk) → ∀ c ∈ l, c.LogOk) :
    Kept s₀ { s with cores := l } :=
  { h with logs := fun ok => logs (h.logs ok) }

theorem Kept.modCore {c : Nat} {f : CoreSt → CoreSt} (h : Kept s₀ s) (log : ∀ c, c.LogOk → (f c).LogOk) : Kept s₀ (s.modCore c f) :=
  h.cores fun ok d hd => by
    rcases mem_modAt hd with old | ⟨x, hx, rfl⟩
    · exact ok d old
    · exact log x (ok x hx)

theorem Kept.mapCores {f : CoreSt → CoreSt} (h : Kept s₀ s) (log : ∀ c, c.LogOk → (f c).LogOk) :
    Kept s₀ { s with cores := s.cores.map f } :=
  h.cores fun ok d hd => by
    obtain ⟨c, hc, rfl⟩ := List.mem_map.1 hd
    exact log c (ok c hc)

theorem Kept.mapIdxCores {f : Nat → CoreSt → CoreSt} (h : Kept s₀ s) (log : ∀ i c, c.LogOk → (f i c).LogOk) :
    Kept s₀ { s with cores := s.cores.mapIdx f } :=
  h.cores fun ok d hd => by
    obtain ⟨i, hi, rfl⟩ := List.mem_mapIdx.1 hd
    exact log i _ (ok _ (List.getElem_mem hi))

/-! ### Sectors of level two -/

/-- Sectors leave level two. -/
theorem Kept.filterL2 {p : L2Sector → Bool} (h : Kept s₀ s) : Kept s₀ { s with l2 := s.l2.filter p } :=
  { h with sectors := fun ok => (h.sectors ok).sublist (List.filter_sublist.map _) }

/-- Sectors of level two change, but not what names them. -/
theorem Kept.mapL2 {f : L2Sector → L2Sector} (h : Kept s₀ s) (key : ∀ x, (f x).slice = x.slice ∧ (f x).sector = x.sector) :
    Kept s₀ { s with l2 := s.l2.map f } := by
  refine { h with sectors := fun ok => ?_ }
  have same : ((s.l2.map f).map fun x => (x.slice, x.sector)) = s.l2.map fun x => (x.slice, x.sector) := by
    rw [List.map_map]
    exact List.map_congr_left fun x _ => Prod.ext (key x).1 (key x).2
  exact same ▸ h.sectors ok

theorem Kept.mapIfL2 {p : L2Sector → Bool} {f : L2Sector → L2Sector} (h : Kept s₀ s)
    (key : ∀ x, (f x).slice = x.slice ∧ (f x).sector = x.sector) : Kept s₀ { s with l2 := mapIf p f s.l2 } :=
  h.mapL2 (f := fun x => if p x then f x else x) fun x => by split; exacts [key x, ⟨rfl, rfl⟩]

/-- A sector is changed or added (R236). -/
theorem Kept.putL2 {x : L2Sector} (h : Kept s₀ s) : Kept s₀ (s.putL2 x) := by
  unfold State.putL2
  split
  · refine { h with sectors := fun ok => ?_ }
    have same : ((mapIf (fun y => y.slice == x.slice && y.sector == x.sector) (fun _ => x) s.l2).map fun y => (y.slice, y.sector)) =
        s.l2.map fun y => (y.slice, y.sector) := by
      rw [mapIf, List.map_map]
      refine List.map_congr_left fun y _ => ?_
      dsimp only [Function.comp_apply]
      split
      next own => simp only [Bool.and_eq_true, beq_iff_eq] at own; rw [own.1, own.2]
      · rfl
    exact same ▸ h.sectors ok
  next absent =>
    refine { h with sectors := fun ok => ?_ }
    rw [List.map_append, List.nodup_append]
    refine ⟨h.sectors ok, List.nodup_singleton _, fun a ha b hb => ?_⟩
    obtain ⟨y, hy, rfl⟩ := List.mem_map.1 ha
    obtain rfl : b = (x.slice, x.sector) := by simpa using hb
    intro same
    obtain ⟨slice, sector⟩ := Prod.ext_iff.1 same
    exact absent (List.any_eq_true.2 ⟨y, hy, by simpa using ⟨slice, sector⟩⟩)

/-! ### Bytes of memory -/

theorem Kept.writeMem {a : Nat} {mask : DWord} {bs : List Byte} (h : Kept s₀ s) : Kept s₀ { s with mem := s.mem.writeMasked a mask bs } :=
  { h with mem := fun ok => Memory.writeMasked_wf _ _ _ _ (h.mem ok) }

theorem Kept.writeSluice {a : Nat} {mask : DWord} {bs : List Byte} (h : Kept s₀ s) :
    Kept s₀ { s with sluice := s.sluice.writeMasked a mask bs } :=
  { h with sluice := fun ok => Memory.writeMasked_wf _ _ _ _ (h.sluice ok) }

/-! ### Places of batts -/

/-- A change of batts that leaves each at its place. -/
theorem Kept.mapIfBatts {p : Batt → Bool} {f : Batt → Batt} (h : Kept s₀ s)
    (place : ∀ b ∈ s.batts, p b = true → (f b).core = b.core ∧ (f b).slot = b.slot) : Kept s₀ { s with batts := mapIf p f s.batts } := by
  refine { h with places := fun ok => ?_ }
  have same : ((mapIf p f s.batts).map fun b => (b.core, b.slot)) = s.batts.map fun b => (b.core, b.slot) := by
    rw [mapIf, List.map_map]
    refine List.map_congr_left fun b mem => ?_
    dsimp only [Function.comp_apply]
    split
    next own => rw [(place b mem own).1, (place b mem own).2]
    · rfl
  exact same ▸ h.places ok

theorem Kept.modBatt {core slot : Nat} {f : Batt → Batt} (h : Kept s₀ s) (place : InPlace f) : Kept s₀ (s.modBatt core slot f) :=
  h.mapIfBatts fun b _ _ => place b

/-- A batt comes where the batt at a place stands; where none does, none changes. -/
theorem Kept.putBattBy {core slot : Nat} {f : Batt → Batt} (h : Kept s₀ s)
    (place : ∀ b, (f b).core = (s.battAt core slot).core ∧ (f b).slot = (s.battAt core slot).slot) : Kept s₀ (s.modBatt core slot f) :=
  h.mapIfBatts fun c mem own => by
    obtain ⟨d, found⟩ : ∃ d, s.batt? core slot = some d := Option.isSome_iff_exists.1 (List.find?_isSome.2 ⟨c, mem, own⟩)
    have there := List.find?_some found
    have here : s.battAt core slot = d := by rw [State.battAt, found, Option.getD_some]
    simp only [Bool.and_eq_true, beq_iff_eq] at own there
    rw [here] at place
    exact ⟨(place c).1.trans (there.1.trans own.1.symm), (place c).2.trans (there.2.trans own.2.symm)⟩

theorem Kept.putBatt {core slot : Nat} {b : Batt} (h : Kept s₀ s)
    (place : b.core = (s.battAt core slot).core ∧ b.slot = (s.battAt core slot).slot) : Kept s₀ (s.modBatt core slot fun _ => b) :=
  h.putBattBy fun _ => place

theorem Kept.modBattOf {id : BattId} {f : Batt → Batt} (h : Kept s₀ s) (place : InPlace f) : Kept s₀ (s.modBattOf id f) :=
  h.mapIfBatts fun b _ _ => place b

/-- Batts leave. -/
theorem Kept.filterBatts {p : Batt → Bool} (h : Kept s₀ s) : Kept s₀ { s with batts := s.batts.filter p } :=
  { h with places := fun ok => (h.places ok).sublist (List.filter_sublist.map _) }

/-! ### Parts of the state of which the invariants say nothing -/

theorem Kept.modCluster {k : Nat} {f : Cluster → Cluster} (h : Kept s₀ s) : Kept s₀ (s.modCluster k f) := h.same
theorem Kept.modCtx {x : Nat} {f : Ctx → Ctx} (h : Kept s₀ s) : Kept s₀ (s.modCtx x f) := h.same
theorem Kept.modWindow {w : Nat} {f : Window → Window} (h : Kept s₀ s) : Kept s₀ (s.modWindow w f) := h.same
theorem Kept.modDev {f : Dev → Dev} (h : Kept s₀ s) : Kept s₀ (s.modDev f) := h.same
theorem Kept.emit {o : Output} (h : Kept s₀ s) : Kept s₀ (s.emit o) := h.modDev
theorem Kept.modLaunch {n : Nat} {f : Launch → Launch} (h : Kept s₀ s) : Kept s₀ (s.modLaunch n f) := h.same
theorem Kept.modFelt {n m : Nat} {f : Felt → Felt} (h : Kept s₀ s) : Kept s₀ (s.modFelt n m f) := h.same
theorem Kept.draw (h : Kept s₀ s) : Kept s₀ s.draw.2 := h.same

end

end Sys2Proof.Machine
end

section
/-! A batt stays at its place (R14): the operations on a batt, its preparation among them. -/

namespace Sys2Proof.Machine

/-- A batt stands where another does. -/
def Batt.AtPlace (b₀ b : Batt) : Prop := b.core = b₀.core ∧ b.slot = b₀.slot

/-- What stands of a preparation, be it whole or not, is at the place of a batt. -/
def PrepRes.AtPlace (b₀ : Batt) : PrepRes → Prop
  | .ok p => b₀.AtPlace p.b
  | .fault _ p => b₀.AtPlace p.b

section
variable {b₀ b : Batt}

theorem Batt.AtPlace.refl (b : Batt) : b.AtPlace b := ⟨rfl, rfl⟩

/-- A change of other parts of the batt. -/
theorem Batt.AtPlace.same {c : Batt} (h : b₀.AtPlace b) (core : c.core = b.core := by rfl) (slot : c.slot = b.slot := by rfl) :
    b₀.AtPlace c := ⟨core.trans h.1, slot.trans h.2⟩

theorem Batt.AtPlace.ite {c : Prop} [Decidable c] {d e : Batt} (hd : b₀.AtPlace d) (he : b₀.AtPlace e) : b₀.AtPlace (if c then d else e) :=
  ite_of hd he

theorem Batt.AtPlace.foldl {α : Type} {f : Batt → α → Batt} {l : List α} (h : b₀.AtPlace b)
    (step : ∀ b x, b₀.AtPlace b → b₀.AtPlace (f b x)) : b₀.AtPlace (l.foldl f b) := List.foldlRecOn l f h fun b h x _ => step b x h

theorem Batt.AtPlace.countTurn {low n : Nat} (h : b₀.AtPlace b) : b₀.AtPlace (b.countTurn low n) := by
  unfold Batt.countTurn
  exact ite_of h.same h.same

theorem Batt.AtPlace.finishTurn (h : b₀.AtPlace b) : b₀.AtPlace b.finishTurn := h.countTurn

theorem Batt.AtPlace.settle {n : Nat} (h : b₀.AtPlace b) : b₀.AtPlace (b.settle n) := h.same (b.settle_place n).1 (b.settle_place n).2

theorem Batt.AtPlace.put {d : AluDst} {m : Mask} {r : Nat → Nat} (h : b₀.AtPlace b) : b₀.AtPlace (b.put d m r) := by
  unfold Batt.put
  split
  all_goals exact h

theorem Batt.AtPlace.poisonV {n : Nat} {m : Mask} (h : b₀.AtPlace b) : b₀.AtPlace (b.poisonV n m) := by
  unfold Batt.poisonV
  split
  · exact h.same
  · exact h

theorem Batt.AtPlace.settleSync (h : b₀.AtPlace b) : b₀.AtPlace b.settleSync := ite_of h.same h

theorem Batt.AtPlace.putLoad {f : MForm} {m : Mask} {bytes : Nat → List Byte} (h : b₀.AtPlace b) : b₀.AtPlace (b.putLoad f m bytes) := by
  unfold Batt.putLoad
  split
  · split
    · exact h.same
    · exact h
  · exact ite_of (.foldl h fun _ _ h => h.same) (ite_of h.same h.same)

theorem Batt.AtPlace.putAtom {f : RForm} {m : Mask} {v : Nat → DWord} (h : b₀.AtPlace b) : b₀.AtPlace (b.putAtom f m v) :=
  ite_of h.same h.same

theorem Batt.AtPlace.resume {r : TrapRecord} {past : Bool} (h : b₀.AtPlace b) : b₀.AtPlace (b.resume r past) := by
  change b₀.AtPlace (r.entries.foldl _ b)
  exact .foldl h fun _ _ h => h.same

theorem Batt.AtPlace.bankWrite {fuel aa : Nat} {bs : List Byte} {bad : Bool} (h : b₀.AtPlace b) :
    b₀.AtPlace (b.bankWrite fuel aa bs bad) := by
  induction fuel generalizing b aa bs with
  | zero => exact h
  | succ fuel ih =>
    cases bs with
    | nil => exact h
    | cons x t =>
      unfold Batt.bankWrite
      exact ih h.same

/-! ### Preparation -/

theorem PrepRes.AtPlace.bind {r : PrepRes} {f : Prep → PrepRes} (h : r.AtPlace b₀) (step : ∀ p, b₀.AtPlace p.b → (f p).AtPlace b₀) :
    (r.bind f).AtPlace b₀ := by
  cases r with
  | ok p => exact step p h
  | fault f p => exact h

theorem PrepRes.AtPlace.each {α : Type} {f : α → Prep → PrepRes} {l : List α} {r : PrepRes} (h : r.AtPlace b₀)
    (step : ∀ x p, b₀.AtPlace p.b → (f x p).AtPlace b₀) : (prepEach f l r).AtPlace b₀ := by
  induction l generalizing r with
  | nil => exact h
  | cons x t ih => exact ih (h.bind (step x))

theorem PrepRes.AtPlace.settlePrep {run : List Nat → PrepRes} {fuel : Nat} {avoid : List Nat} (each : ∀ avoid, (run avoid).AtPlace b₀) :
    (settlePrep run fuel avoid).AtPlace b₀ := by
  induction fuel generalizing avoid with
  | zero => exact each avoid
  | succ fuel ih =>
    unfold Machine.settlePrep
    split
    · exact each avoid
    · exact ih

section
variable {s : State} {avoid whole : List Nat} {p : Prep}

theorem Batt.AtPlace.back {n : Nat} (h : b₀.AtPlace p.b) : (p.back avoid n).AtPlace b₀ := by
  unfold Prep.back
  split
  next c backs =>
    rcases Batt.back_cases backs with ⟨-, rfl⟩ | ⟨-, rfl | ⟨r, -, -, rfl⟩⟩
    · exact h
    · exact h.same
    · exact h.same
  · exact h

theorem Batt.AtPlace.replay {fuel y : Nat} (h : b₀.AtPlace p.b) : (s.replay avoid fuel y p).AtPlace b₀ := by
  induction fuel generalizing y p with
  | zero => exact h
  | succ fuel ih =>
    unfold State.replay
    refine ite_of h ?_
    split
    · split
      · exact h
      · refine PrepRes.AtPlace.bind (.bind (.each h fun _ _ => ih) fun _ => back) fun q hq => ?_
        split
        · exact hq.same
        · exact hq.same
    · exact h

theorem Batt.AtPlace.untag {n : Nat} (h : b₀.AtPlace b) : b₀.AtPlace (b.untag n) := by
  unfold Batt.untag
  split
  · exact ite_of h.same h
  · exact h

theorem Batt.AtPlace.rematerialise {y : Nat} (h : b₀.AtPlace p.b) : (s.rematerialise avoid y p).AtPlace b₀ := h.replay.bind fun _ => untag

theorem Batt.AtPlace.handleDeps {x : RegRef} (h : b₀.AtPlace p.b) : (s.handleDeps avoid x p).AtPlace b₀ :=
  .each h fun _ _ => rematerialise

theorem Batt.AtPlace.backDest {x : Nat} (h : b₀.AtPlace p.b) : (s.backDest avoid whole x p).AtPlace b₀ := ite_of h.replay h.back

theorem Batt.AtPlace.prepare {reads writes : List RegRef} {backing : Bool} (h : b₀.AtPlace b) :
    (s.prepare b reads writes backing whole).AtPlace b₀ :=
  .settlePrep fun _ => .each (.each (.each h fun _ _ => handleDeps) fun _ _ => replay) fun _ _ => backDest

theorem PrepRes.AtPlace.without {ns : List Nat} {r : PrepRes} (h : r.AtPlace b₀) : (r.without ns).AtPlace b₀ := by
  cases r with
  | ok p => exact ite_of (P := fun p : Prep => b₀.AtPlace p.b) h h.same
  | fault f p => exact h

theorem Batt.AtPlace.prepareWord {i : Instr} {split active : Mask} (h : b₀.AtPlace b) : (s.prepareWord b i split active).AtPlace b₀ := by
  unfold State.prepareWord
  split
  · exact ite_of h (ite_of h h.prepare)
  · exact ite_of h (.settlePrep fun _ => .each h fun _ _ => rematerialise)
  · exact ite_of h h.prepare
  · exact .without h.prepare

theorem Batt.AtPlace.detach {y : Nat} (h : b₀.AtPlace b) : b₀.AtPlace (s.detach y b) := by
  have prepared : (Machine.settlePrep (fun avoid => s.rematerialise avoid y { b := b }) (b.vregs.length + 1) []).AtPlace b₀ :=
    .settlePrep fun _ => rematerialise h
  unfold State.detach
  split
  next eq => rw [eq] at prepared; exact prepared
  next eq => rw [eq] at prepared; exact prepared.same

end

end

end Sys2Proof.Machine
end

section
/-! The outcome of a word or an event keeps both invariants: what the cases of a body leave of the state. -/

namespace Sys2Proof.Machine

/-- The state that a word's body leaves is kept; a body that stalls leaves none of its own. -/
inductive Body.Kept (s₀ : State) : Body → Prop
  | done {s : State} (h : Machine.Kept s₀ s) : (Body.done s).Kept s₀
  | moved {s : State} (h : Machine.Kept s₀ s) : (Body.moved s).Kept s₀
  | yielded {s : State} (h : Machine.Kept s₀ s) : (Body.yielded s).Kept s₀
  | trap {cs : List LaneCause} {s : State} (h : Machine.Kept s₀ s) : (Body.trap cs s).Kept s₀
  | fault {cs : List LaneCause} {access level : Nat} {s : State} (h : Machine.Kept s₀ s) : (Body.fault cs access level s).Kept s₀
  | prep {f : PrepFault} {s : State} (h : Machine.Kept s₀ s) : (Body.prep f s).Kept s₀
  | wait {s : State} (h : Machine.Kept s₀ s) : (Body.wait s).Kept s₀
  | stall {long : Bool} : (Body.stall long).Kept s₀

/-- The state after an instruction is kept, where it has one. -/
inductive ExecKept (s₀ : State) : Host.Outcome State Fault Refusal → Prop
  | next {s : State} (h : Kept s₀ s) : ExecKept s₀ (.next s)
  | fault {f : Fault} : ExecKept s₀ (.fault f)
  | refused {r : Refusal} : ExecKept s₀ (.refused r)

section
variable {s₀ s : State}

theorem Body.Kept.ite {c : Prop} [Decidable c] {x y : Body} (hx : x.Kept s₀) (hy : y.Kept s₀) : (if c then x else y).Kept s₀ := ite_of hx hy

theorem ExecKept.ite {c : Prop} [Decidable c] {x y : Host.Outcome State Fault Refusal} (hx : ExecKept s₀ x) (hy : ExecKept s₀ y) :
    ExecKept s₀ (if c then x else y) := ite_of hx hy

end

/-! ### Operations that may come to nothing -/

/-- The state that an operation gives, where it gives one, is kept. -/
def KeptIf (s₀ : State) (o : Option State) : Prop := ∀ t ∈ o, Kept s₀ t

section
variable {s₀ s : State}

theorem KeptIf.none : KeptIf s₀ none := fun _ h => absurd h (Option.not_mem_none _)

theorem KeptIf.some (h : Kept s₀ s) : KeptIf s₀ (some s) := by
  rintro _ ⟨⟩
  exact h

theorem KeptIf.ite {c : Prop} [Decidable c] {x y : Option State} (hx : KeptIf s₀ x) (hy : KeptIf s₀ y) : KeptIf s₀ (if c then x else y) :=
  ite_of hx hy

theorem KeptIf.bind {α : Type} {o : Option α} {f : α → Option State} (each : ∀ a ∈ o, KeptIf s₀ (f a)) : KeptIf s₀ (o.bind f) := by
  intro t ht
  obtain ⟨a, ha, hf⟩ := Option.bind_eq_some_iff.1 ht
  exact each a ha t hf

theorem KeptIf.map {α : Type} {o : Option α} {f : α → State} (each : ∀ a ∈ o, Kept s₀ (f a)) : KeptIf s₀ (o.map f) := by
  intro t ht
  obtain ⟨a, ha, rfl⟩ := Option.map_eq_some_iff.1 ht
  exact each a ha

theorem KeptIf.getD {o : Option State} (ho : KeptIf s₀ o) (h : Kept s₀ s) : Kept s₀ (o.getD s) := by
  cases o with
  | none => exact h
  | some t => exact ho t rfl

theorem KeptIf.orStay {o : Option State} (ho : KeptIf s₀ o) (h : Kept s₀ s) : ExecKept s₀ (orStay s o) := .next (ho.getD h)

end

end Sys2Proof.Machine
end

section
/-! Each operation of the model keeps what names things, in the order of the model's files. -/

namespace Sys2Proof.Machine

section
variable {s₀ s t : State}

/-! ### Level two, device memory, poison records, the sluice window, the host aperture, and translation -/

theorem Kept.hostErrInc (h : Kept s₀ s) : Kept s₀ s.hostErrInc := .modDev h

theorem Kept.announcePoison (h : Kept s₀ s) : Kept s₀ s.announcePoison := .ite (.emit h) h

theorem Kept.recordPoison {pa origin : Nat} {comp : Bool} (h : Kept s₀ s) : Kept s₀ (s.recordPoison pa origin comp) :=
  .ite h (.ite (.announcePoison h.same) (.ite (.announcePoison h.same) h.same))

theorem Kept.poisonSector {pa origin : Nat} {comp : Bool} (h : Kept s₀ s) : Kept s₀ (s.poisonSector pa origin comp) :=
  .recordPoison (.ite h h.same)

theorem Kept.demote {y : Nat × Nat} (h : Kept s₀ s) : Kept s₀ (s.demote y) := .modCtx h

theorem Kept.unmark {space y : Nat} (h : Kept s₀ s) : Kept s₀ (s.unmark space y) := .mapL2 h fun _ => ⟨rfl, rfl⟩

theorem Kept.expand {slice sector : Nat} (h : Kept s₀ s) : Kept s₀ (s.expand slice sector) := .ite (.mapIfL2 h fun _ => ⟨rfl, rfl⟩) h

theorem Kept.forgetL1 {p : Nat → Bool} (h : Kept s₀ s) : Kept s₀ (s.forgetL1 p) := .mapCores h fun _ ok => ite_of ok (ok.same)

theorem Kept.evictLine {slice line : Nat} (h : Kept s₀ s) : Kept s₀ (s.evictLine slice line) := by
  unfold State.evictLine
  exact .forgetL1 (.filterL2 (.foldl (.expand h) fun _ _ h => .writeMem h))

theorem Kept.evictVictim {slice line : Nat} (h : Kept s₀ s) : Kept s₀ (s.evictVictim slice line) := by
  unfold State.evictVictim
  refine .evictLine ?_
  split
  · exact .ite (.demote h) h
  · exact h

theorem Kept.l2FitFrom {slice line fuel : Nat} (h : Kept s₀ s) : Kept s₀ (l2FitFrom slice line fuel s) := by
  induction fuel generalizing s with
  | zero => exact h
  | succ fuel ih =>
    unfold Machine.l2FitFrom
    refine .ite h ?_
    split
    · exact ih h.evictVictim
    · exact .foldl h fun _ _ h => h.evictLine

theorem Kept.l2Fit {slice sector : Nat} (h : Kept s₀ s) : Kept s₀ (s.l2Fit slice sector) := .ite h (.l2FitFrom h)

theorem Kept.l2Hit {x : Loc} {hs : List (Nat × Nat)} (h : Kept s₀ s) : Kept s₀ (s.l2Hit x hs) := by
  unfold State.l2Hit
  split
  · exact .same (.putL2 h)
  · exact h

theorem Kept.l2Read {x : Loc} {need : DWord} {hs : List (Nat × Nat)} (h : Kept s₀ s) : Kept s₀ (s.l2Read x need hs) := by
  unfold State.l2Read
  refine .ite h ?_
  split
  · exact .l2Hit (.ite h (.putL2 h))
  · exact .l2Fit (.l2Hit (.putL2 h))

theorem Kept.l2Fill {x : Loc} {space va : Nat} (h : Kept s₀ s) : Kept s₀ (s.l2Fill x space va) := .l2Read h

theorem Kept.l2ReadAll {space va : Nat} {locs : List Loc} (h : Kept s₀ s) : Kept s₀ (s.l2ReadAll space va locs) :=
  .foldl h fun _ _ h => .l2Read h

theorem Kept.l2HitAll {space va : Nat} {locs : List Loc} (h : Kept s₀ s) : Kept s₀ (s.l2HitAll space va locs) :=
  .foldl h fun _ _ h => .l2Hit h

theorem Kept.notice {t : Target} {sector : Nat} (h : Kept s₀ s) : Kept s₀ (s.notice t sector) := h.same

theorem Kept.l2Apply {x : Loc} {mask : DWord} {bytes : List Byte} {ext : Bool} (h : Kept s₀ s) : Kept s₀ (s.l2Apply x mask bytes ext) :=
  .ite h (.notice (.l2Fit (.same (.putL2 (.expand h)))))

theorem Kept.sluiceApply {pa : Nat} {mask : DWord} {bytes : List Byte} (h : Kept s₀ s) : Kept s₀ (s.sluiceApply pa mask bytes) :=
  .notice (.writeSluice h)

theorem Kept.hostWrite {pa : Nat} {mask : DWord} {bytes : List Byte} {poisoned : Bool} (h : Kept s₀ s) : Kept s₀ (s.hostWrite pa mask bytes
    poisoned) := by
  unfold State.hostWrite
  split
  · exact .emit h
  · exact .hostErrInc h

theorem Kept.applyAt {x : Loc} {mask : DWord} {bytes : List Byte} {pois ext : Bool} (h : Kept s₀ s) : Kept s₀ (s.applyAt x mask bytes pois
    ext) := by
  unfold State.applyAt
  refine .ite h ?_
  split
  · exact .ite (.poisonSector (.l2Apply h)) (.l2Apply h)
  · exact .ite (.same (.sluiceApply h)) (.sluiceApply h)
  · exact .hostWrite h

theorem Kept.walkFills {space : Nat} {va : DWord} (h : Kept s₀ s) : Kept s₀ (s.walkFills space va) := by
  unfold State.walkFills
  refine .ite h (.foldl h fun _ _ h => ?_)
  split
  · exact .l2Read h
  · exact .l2Read h

theorem Kept.fetchRuns {space : Nat} {runs : List (DWord × Nat)} (h : Kept s₀ s) : Kept s₀ (s.fetchRuns space runs) :=
  .foldl h fun _ _ h => .l2ReadAll (.foldl h fun _ _ h => .walkFills h)

theorem Kept.tlbFill {core space : Nat} {va : DWord} (h : Kept s₀ s) : Kept s₀ (s.tlbFill core space va) := by
  unfold State.tlbFill
  dsimp only
  split
  · exact .modCluster (.modCore (.walkFills h) fun _ ok => ok.same)
  · exact .walkFills h

/-! ### The store log, publication, acquires, fulling and the first-level cache -/

theorem Kept.writeBackLocs {space : Nat} {l : List AtomLoc} (h : Kept s₀ s) : Kept s₀ (s.writeBackLocs space l) :=
  .foldl h fun _ _ h => .applyAt h

theorem Kept.unitsYield {core : Nat} {e : LogEntry} (h : Kept s₀ s) : Kept s₀ (s.unitsYield core e) :=
  .ite h (.modCluster (.modCore (.foldl h fun _ _ h => .writeBackLocs h) fun _ ok => ok.same))

theorem Kept.applyEntry {core : Nat} {e : LogEntry} (h : Kept s₀ s) : Kept s₀ (s.applyEntry core e) :=
  .mapIdxCores (.modCore (.applyAt (.modCore (.unitsYield h) fun _ ok => ok.same)) fun _ ok => ok.filter) fun _ _ ok => ite_of ok (ok.same)

theorem Kept.drainWhere {p : Nat → LogEntry → Bool} (h : Kept s₀ s) : Kept s₀ (s.drainWhere p) := .foldl h fun _ _ h => .applyEntry h

theorem Kept.drainUpTo {q : Nat} (h : Kept s₀ s) : Kept s₀ (s.drainUpTo q) := .drainWhere h

theorem Kept.publish {core upto scope : Nat} (h : Kept s₀ s) : Kept s₀ (s.publish core upto scope).2 :=
  .modCore (.modDev (.drainUpTo h)) fun _ ok => ok.mapIf rfl fun _ => rfl

theorem Kept.publishEarly {core : Nat} {p : LogEntry → Bool} (h : Kept s₀ s) : Kept s₀ (s.publishEarly core p) := by
  unfold State.publishEarly
  split
  · exact .publish h
  · exact h

theorem Kept.fullEntries {core : Nat} {p : LogEntry → Bool} (h : Kept s₀ s) : Kept s₀ (s.fullEntries core p) := by
  unfold State.fullEntries
  dsimp only
  split
  · exact .drainUpTo (.publishEarly h)
  · exact .publishEarly h

theorem Kept.writeBackL1Unit {core space : Nat} (h : Kept s₀ s) : Kept s₀ (s.writeBackL1Unit core space) :=
  .modCore (.writeBackLocs h) fun _ ok => ok.same

theorem Kept.writeBackStore {k space : Nat} (h : Kept s₀ s) : Kept s₀ (s.writeBackStore k space) := .modCluster (.writeBackLocs h)

theorem Kept.writeBackAll {space : Nat} (h : Kept s₀ s) : Kept s₀ (s.writeBackAll space) :=
  .foldl (.foldl h fun _ _ h => .ite h (.writeBackL1Unit h)) fun _ _ h => .ite h (.writeBackStore h)

theorem Kept.harden {core slot : Nat} (h : Kept s₀ s) : Kept s₀ (s.harden core slot) :=
  .modCluster (.modCore (.modBatt h fun _ => ⟨rfl, rfl⟩) fun _ ok => ok.mapIf rfl fun _ => rfl)

theorem Kept.hardenOpen {core slot : Nat} (h : Kept s₀ s) : Kept s₀ (s.hardenOpen core slot) := .ite h (.harden h)

theorem Kept.releaseCore {core space : Nat} (h : Kept s₀ s) : Kept s₀ (s.releaseCore core space) :=
  .modCore h fun _ ok => ok.map rfl fun e => by split <;> rfl

theorem Kept.releaseDevice {core space scope : Nat} (h : Kept s₀ s) : Kept s₀ (s.releaseDevice core space scope).2 :=
  .publish (.writeBackStore (.writeBackL1Unit h))

theorem Kept.releaseSystem {core space : Nat} (h : Kept s₀ s) : Kept s₀ (s.releaseSystem core space).2 := by
  unfold State.releaseSystem
  dsimp only
  exact .drainUpTo (.modCore (.modDev (.drainUpTo (.writeBackStore (.writeBackL1Unit h)))) fun _ ok => ok.mapIf rfl fun _ => rfl)

theorem Kept.releaseAt {core space sc : Nat} (h : Kept s₀ s) : Kept s₀ (s.releaseAt core space sc).2 := by
  unfold State.releaseAt
  split
  · exact .releaseCore h
  · split
    · exact .releaseSystem h
    · exact .releaseDevice h

theorem Kept.ownFirst {c sector q : Nat} (h : Kept s₀ s) : Kept s₀ (s.ownFirst c sector q) := by
  unfold State.ownFirst
  split
  · exact .drainUpTo h
  · exact h

theorem Kept.viewEntry {c : Nat} {x : Nat × LogEntry} (h : Kept s₀ s) : Kept s₀ (s.viewEntry c x) :=
  .ite (.ite (.modCore (.ownFirst h) fun _ ok => ok.same) (.drainWhere h)) h

theorem Kept.acquireDevice {c p : Nat} (h : Kept s₀ s) : Kept s₀ (s.acquireDevice c p) :=
  .modCore (.foldl (.modCore h fun _ ok => ok.same) fun _ _ h => .viewEntry h) fun _ ok => ok.same

theorem Kept.acquireSystem {c p : Nat} (h : Kept s₀ s) : Kept s₀ (s.acquireSystem c p) := .modCore (.acquireDevice h) fun _ ok => ok.same

theorem Kept.acquireTo {core sc p : Nat} (h : Kept s₀ s) : Kept s₀ (s.acquireTo core sc p) :=
  .ite h (.ite (.acquireSystem h) (.acquireDevice h))

theorem Kept.acquireAt {core sc : Nat} (h : Kept s₀ s) : Kept s₀ (s.acquireAt core sc) := .acquireTo h

theorem Kept.promote {core space : Nat} (h : Kept s₀ s) : Kept s₀ (s.promote core space) := by
  unfold State.promote
  split
  · exact .publish h
  · exact h

theorem Kept.dropMarks {space : Nat} (h : Kept s₀ s) : Kept s₀ (s.dropMarks space) := .mapCores h fun _ ok => ite_of ok (ok.same)

theorem CoreSt.LogOk.appendOne {owner space depth : Nat} {pois decline : Bool} {c : CoreSt} {w : SectorWrite} (ok : c.LogOk) :
    (appendOne owner space depth pois decline c w).LogOk := by
  unfold Machine.appendOne
  split
  · exact ok.mapIf rfl fun _ => rfl
  · exact ok.append rfl

theorem Kept.append {core owner space depth : Nat} {pois : Bool} {ws : List SectorWrite} (h : Kept s₀ s) :
    Kept s₀ (s.append core owner space depth pois ws) :=
  .modCore h fun _ ok => List.foldlRecOn ws _ ok fun _ ok _ _ => ok.appendOne

theorem Kept.settleGone {core sector : Nat} (h : Kept s₀ s) : Kept s₀ (s.settleGone core sector) := by
  unfold State.settleGone
  split
  · refine .foldl h fun _ _ h => ?_
    split
    · exact .drainUpTo h
    · exact h
  · exact h

theorem Kept.l1Fill {core : Nat} {x : Loc} (h : Kept s₀ s) : Kept s₀ (s.l1Fill core x) := by
  unfold State.l1Fill
  refine .ite h (.ite h ?_)
  split
  · exact h
  · exact .modCore h fun _ ok => ite_of ok (ok.same)

theorem Kept.relievePinned {core : Nat} (h : Kept s₀ s) : Kept s₀ (s.relievePinned core) := by
  unfold State.relievePinned
  refine .ite ?_ h
  split
  · exact .harden h
  · exact h

theorem Kept.fullLog {core : Nat} (h : Kept s₀ s) : Kept s₀ (s.fullLog core) := .fullEntries (.relievePinned h)

theorem Kept.discardLog {core slot d : Nat} (h : Kept s₀ s) : Kept s₀ (s.discardLog core slot d) := .modCore h fun _ ok => ok.filter

theorem Kept.killLogs {space : Nat} (h : Kept s₀ s) : Kept s₀ (s.killLogs space) := by
  unfold State.killLogs
  dsimp only
  split
  · exact .drainWhere (.mapCores h fun _ ok => ite_of ok ok.filter)
  · exact .mapCores h fun _ ok => ite_of ok ok.filter

/-! ### The issue queues of a quarter and the barrier units -/

theorem Kept.modQuarter {core q : Nat} {f : Quarter → Quarter} (h : Kept s₀ s) : Kept s₀ (s.modQuarter core q f) :=
  .modCore h fun _ ok => ok.same

theorem Kept.leaveActive {core slot : Nat} (h : Kept s₀ s) : Kept s₀ (s.leaveActive core slot) := .modQuarter h

theorem Kept.joinReady {core slot : Nat} (h : Kept s₀ s) : Kept s₀ (s.joinReady core slot) := .modQuarter h

theorem Kept.leaveQueues {core slot : Nat} (h : Kept s₀ s) : Kept s₀ (s.leaveQueues core slot) := .modQuarter h

theorem Kept.modBar {r : BarRef} {f : Barrier → Barrier} (h : Kept s₀ s) : Kept s₀ (s.modBar r f) := .ite (.modFelt h) (.modLaunch h)

theorem Kept.wakeBar {r : BarRef} {g0 : Nat} (h : Kept s₀ s) : Kept s₀ (s.wakeBar r g0) :=
  .foldl h fun _ _ h => .modBatt (.acquireAt h) fun _ => ⟨rfl, rfl⟩

theorem Kept.tellBar {r : BarRef} {g0 : Nat} {n : BarNews} (h : Kept s₀ s) : Kept s₀ (s.tellBar r g0 n) := by
  unfold State.tellBar
  refine .wakeBar (.foldl h fun _ _ h => ?_)
  split
  · exact h
  · split
    · split
      · exact h.modBattOf fun b => (Batt.AtPlace.refl b).finishTurn
      next f _ => exact h.modBattOf fun b => show b.AtPlace (Batt.finishTurn (if f.mb 0 then b.setS f.d.toNat _ else b)) from
          .finishTurn (ite_of ⟨rfl, rfl⟩ (.refl b))
      · exact h.modBattOf fun b => (Batt.AtPlace.refl b).finishTurn
    · exact h

theorem Kept.putBar {r : BarRef} {x : Barrier} {n : BarNews} (h : Kept s₀ s) : Kept s₀ (s.putBar r x n) := .tellBar (.modBar h)

theorem Kept.barArrive {r : BarRef} {who : Held} {bytes : Int} (h : Kept s₀ s) : Kept s₀ (s.barArrive r who bytes).2 := .putBar h

theorem Kept.barBytes {r : BarRef} {v : Int} {n : BarNews} (h : Kept s₀ s) (e : s.barBytes r v = some (n, t)) : Kept s₀ t := by
  unfold State.barBytes at e
  dsimp only at e
  split at e
  · cases e; exact h.putBar
  · cases e

theorem Kept.foldlPair {α β : Type} {f : β × State → α → β × State} {l : List α} {p : β × State} (h : Kept s₀ p.2)
    (step : ∀ p x, Kept s₀ p.2 → Kept s₀ (f p x).2) : Kept s₀ (l.foldl f p).2 :=
  List.foldlRecOn (motive := fun p => Kept s₀ p.2) l f h fun p h x _ => step p x h

theorem Kept.barExit {b : Batt} (h : Kept s₀ s) : Kept s₀ (s.barExit b).2 := by
  unfold State.barExit
  refine .foldlPair h fun p kind h => ?_
  split
  · exact .foldlPair h fun p num h => h.putBar
  · exact h

/-! ### Recipes and the preparation of a word -/

theorem Kept.takeDests {core slot : Nat} {ns : List Nat} (h : Kept s₀ s) : Kept s₀ (s.takeDests core slot ns) := by
  unfold State.takeDests
  refine .ite h (.others ?_)
  exact h.modBatt fun _ => ⟨rfl, rfl⟩

theorem Kept.writeS63 {core slot : Nat} {v : DWord} (h : Kept s₀ s) : Kept s₀ (s.writeS63 core slot v) :=
  h.modBatt fun b => (Batt.AtPlace.foldl (f := fun b y => s.detach y b) (.refl b) fun _ _ h => h.detach).same

/-! ### Accumulator banks and the scratchpad of a felt as byte spaces with one poison bit per 32-bit word -/

theorem Kept.scratchWrite {lnum felt a : Nat} {bs : List Byte} {bad : Bool} (h : Kept s₀ s) : Kept s₀ (s.scratchWrite lnum felt a bs bad) :=
  .modFelt h

theorem Kept.scratchWhole {lnum felt : Nat} {ranges : List (Nat × Nat)} (h : Kept s₀ s) : Kept s₀ (s.scratchWhole lnum felt ranges) := .modFelt h

theorem Kept.scratchClean {lnum felt : Nat} {ws : List (Nat × List (Byte × Bool))} (h : Kept s₀ s) : Kept s₀ (s.scratchClean lnum felt ws) :=
  .modFelt h

theorem Kept.scratchPut {lnum felt a : Nat} {bs : List (Byte × Bool)} (h : Kept s₀ s) : Kept s₀ (s.scratchPut lnum felt a bs) := .modFelt h

/-! ### Causes, their classes, and the halt of a batt at a trapping word -/

theorem Kept.noteTrap {core slot : Nat} {word pc : DWord} {mask : Mask} {recipe : Nat} {lanes : List LaneCause} {order : Nat} (h : Kept s₀ s) :
    Kept s₀ (s.noteTrap core slot word pc mask recipe lanes order) :=
  .modBatt h fun _ => ⟨rfl, rfl⟩

theorem Kept.noteRefusals {ns : List BarNews} (h : Kept s₀ s) : Kept s₀ (s.noteRefusals ns) := by
  unfold State.noteRefusals
  refine .foldl h fun _ _ h => ?_
  split
  · exact h
  · exact .noteTrap (.modBattOf h fun b => (Batt.AtPlace.refl b).countTurn)

/-! ### The queues of the matrix array and of the copy engine -/

theorem Kept.putMxi {core : Nat} {o : EngineOp} (h : Kept s₀ s) : Kept s₀ (s.putMxi core o) := .modCore h fun _ ok => ok.same

theorem Kept.readSector {o : EngineOp} {va : Nat} (h : Kept s₀ s) : Kept s₀ (s.readSector o va).2 := .l2Fill h

theorem Kept.fetchChunk {o : EngineOp} (h : Kept s₀ s) : Kept s₀ (s.fetchChunk o).2 := by
  unfold State.fetchChunk
  exact .foldlPair h fun _ _ h => h.readSector

theorem Kept.lookOp {core : Nat} {o : EngineOp} (h : Kept s₀ s) : Kept s₀ (s.lookOp core o).2 := by
  unfold State.lookOp
  dsimp only
  split
  · exact h
  · split
    · exact .modCluster h
    · exact .modCluster h
    · exact .modCluster (.modCluster h)

theorem Kept.arrayPass {core : Nat} {badCol : Option Nat} (h : Kept s₀ s) : Kept s₀ (s.arrayPass core badCol) := by
  unfold State.arrayPass
  split
  · exact h
  next o _ _ =>
    have looked : Kept s₀ (s.lookOp core o).2 := h.lookOp
    generalize s.lookOp core o = r at looked ⊢
    obtain ⟨o, u⟩ := r
    refine .ite h (.ite looked.putMxi ?_)
    extract_lets begun no run u'
    have passed : Kept s₀ u' := looked.modCore fun _ ok => ok.same
    split
    · exact .ite (.putMxi (passed.modCore fun _ ok => ok.same)) passed.putMxi
    · exact passed.putMxi

theorem Kept.popOp {core id : Nat} (h : Kept s₀ s) : Kept s₀ (s.popOp core id) := .modCore h fun _ ok => ok.same

theorem Kept.writeToken {core slot token : Nat} {v : DWord} (h : Kept s₀ s) : Kept s₀ (s.writeToken core slot token v) :=
  .modBatt h fun _ => ⟨rfl, rfl⟩

theorem Kept.memoTile {core : Nat} {o : EngineOp} (h : Kept s₀ s) : Kept s₀ (s.memoTile core o) := by
  unfold State.memoTile
  refine .ite h ?_
  split
  · exact .modCluster h
  · exact .ite h (.modBatt (.modCluster h) fun _ => ⟨rfl, rfl⟩)

theorem Kept.finishMxi {core : Nat} {o : EngineOp} (h : Kept s₀ s) : Kept s₀ (s.finishMxi core o) := by
  have stored (b : Batt) : b.AtPlace (o.cells.foldl (fun (acc : Batt × Nat) c =>
      (acc.1.bankStore acc.2 (bytesOf o.fmtOf.accSize c.1) c.2, acc.2 + o.fmtOf.accSize)) (b, o.prm.acc)).1 :=
    List.foldlRecOn (motive := fun acc : Batt × Nat => b.AtPlace acc.1) _ _ (.refl b) fun _ h _ _ => h.bankWrite
  exact .writeToken (.popOp (.ite (.modBatt (.memoTile (h.modBatt stored)) fun _ => ⟨rfl, rfl⟩) (.memoTile (h.modBatt stored))))

theorem Kept.makeRoom {core slot space : Nat} {op : Option Nat} {ws : List SectorWrite} {pois : Bool} {fuel : Nat} (h : Kept s₀ s) :
    Kept s₀ (State.makeRoom core slot space op ws pois fuel s) := by
  induction fuel generalizing s with
  | zero => exact h
  | succ fuel ih => exact .ite h (ih h.fullLog)

theorem Kept.appendParts {core slot space : Nat} {op : Option Nat} {ws : List SectorWrite} {pois : Bool} (h : Kept s₀ s) : Kept s₀
    (s.appendParts core slot space op ws pois) :=
  .append (.makeRoom h)

theorem Kept.appendBytes {core slot space : Nat} {op : Option Nat} {bytes : List (Loc × Byte × Bool)} (h : Kept s₀ s) : Kept s₀ (s.appendBytes
    core slot space op bytes) := by
  unfold State.appendBytes
  split
  · exact .appendParts h
  · exact .foldl h fun _ _ h => .appendParts h

theorem Kept.settleFor {core : Nat} {o : EngineOp} (h : Kept s₀ s) : Kept s₀ (s.settleFor core o) :=
  .ite h (.foldl h fun _ _ h => .settleGone h)

theorem Kept.copyFetch {o : EngineOp} (h : Kept s₀ s) : Kept s₀ (s.copyFetch o) := .foldl h fun _ _ h => .l2ReadAll h

theorem Kept.copyOut {core : Nat} {o : EngineOp} {ws : List (Int × List (Byte × Bool))} (h : Kept s₀ s) : Kept s₀ (s.copyOut core o ws) :=
  .ite (.scratchClean (.foldl h fun _ _ h => .scratchPut h)) (.foldl (.appendBytes h) fun _ _ h => .l2HitAll h)

theorem Kept.finishCopy {core : Nat} {o : EngineOp} (h : Kept s₀ s) : Kept s₀ (s.finishCopy core o) := by
  unfold State.finishCopy
  have drawn : Kept s₀ ((s.settleFor core o).copyFetch o).draw.2 := h.settleFor.copyFetch.draw
  generalize ((s.settleFor core o).copyFetch o).draw = r at drawn ⊢
  obtain ⟨k, u⟩ := r
  dsimp -zeta only
  extract_lets g sc outs scOut u₁ u₂ flags bad total c kind u₃ v
  have h₂ : Kept s₀ u₂ := by
    dsimp only [u₂]
    split
    · exact drawn.copyOut.copyOut
    · exact drawn.copyOut
  have h₃ : Kept s₀ u₃ := .ite h₂ h₂.publish
  refine .writeToken (.popOp (ite_of (P := fun p : Bool × State => Kept s₀ p.2) ?_ h₂))
  split
  next e => exact .noteRefusals (h₃.barBytes e)
  · exact h₃

theorem Kept.fetchAll {o : EngineOp} (h : Kept s₀ s) : Kept s₀ (s.fetchAll o).2 := by
  unfold State.fetchAll
  exact .foldlPair h fun _ _ h => h.fetchChunk

theorem Kept.finishOp {core : Nat} {o : EngineOp} (h : Kept s₀ s) : Kept s₀ (s.finishOp core o) := by
  unfold State.finishOp
  refine .ite (.finishMxi (.modCore ?_ fun _ ok => ok.same)) h.finishCopy
  refine .foldlPair (.lookOp ?_) fun p _ h => .putMxi ?_
  · exact ite_of (P := fun p : EngineOp × State => Kept s₀ p.2) h.fetchAll h
  · exact ite_of (P := fun p : EngineOp × State => Kept s₀ p.2) h h.fetchChunk

theorem Kept.completeFrom {core slot fuel : Nat} (h : Kept s₀ s) : Kept s₀ (completeFrom core slot fuel s) := by
  induction fuel generalizing s with
  | zero => exact h
  | succ fuel ih =>
    unfold Machine.completeFrom
    refine .ite h ?_
    split
    · exact ih h.finishOp
    · exact h

theorem Kept.completeEngines {core slot : Nat} (h : Kept s₀ s) : Kept s₀ (s.completeEngines core slot) := .completeFrom h

/-! ### The shared operations of exceptions -/

theorem Kept.flushFrom {w fuel : Nat} (h : Kept s₀ s) : Kept s₀ (flushFrom w fuel s) := by
  induction fuel generalizing s with
  | zero => exact h
  | succ fuel ih =>
    unfold Machine.flushFrom
    dsimp only
    split
    · exact ih (.ite (.emit h.modWindow) h.modWindow)
    · exact h

theorem Kept.flushWindow {w : Nat} (h : Kept s₀ s) : Kept s₀ (s.flushWindow w) := .flushFrom h

theorem Kept.addRecord {w : Nat} {r : TrapRecord} (h : Kept s₀ s) : Kept s₀ (s.addRecord w r) := .flushWindow (.modWindow h)

theorem Kept.setPartition {core : Nat} (h : Kept s₀ s) : Kept s₀ (s.setPartition core) := .ite h (.modCore h fun _ ok => ok.same)

theorem Kept.dropFelt {lnum felt core : Nat} (h : Kept s₀ s) : Kept s₀ (s.dropFelt lnum felt core) :=
  .setPartition (.ite h.same (.modCore h.same fun _ ok => ok.same))

theorem Kept.retireFelt {lnum felt core : Nat} (h : Kept s₀ s) : Kept s₀ (s.retireFelt lnum felt core) :=
  .ite (.dropFelt h) (.modLaunch (.dropFelt h))

theorem Kept.settlePeat {k : Nat} (h : Kept s₀ s) : Kept s₀ (s.settlePeat k) := by
  unfold State.settlePeat
  split
  · exact h
  · exact .ite h (.modCluster h)

theorem Kept.shelve {ctx : Nat} (h : Kept s₀ s) : Kept s₀ (s.shelve ctx) := .ite h h.same

theorem Kept.dropBatt {b : Batt} (h : Kept s₀ s) : Kept s₀ (s.dropBatt b) :=
  .shelve (.settlePeat (.filterBatts (.modCluster (.modCore (.leaveQueues h) fun _ ok => ok.same))))

theorem Kept.closeRegion {core slot : Nat} (h : Kept s₀ s) : Kept s₀ (s.closeRegion core slot) :=
  .modBatt (.modCluster (.modCore h fun _ ok => ok.mapIf rfl fun _ => rfl)) fun _ => ⟨rfl, rfl⟩

theorem Kept.closeAll {core slot : Nat} (h : Kept s₀ s) : Kept s₀ (s.closeAll core slot) := .foldl h fun _ _ h => .closeRegion h

theorem Kept.killContext {space status cause : Nat} (h : Kept s₀ s) : Kept s₀ (s.killContext space status cause) := by
  unfold State.killContext
  extract_lets mine dropped gone retired dead killed logs quit clear quiet marks ctx unheld
  have dropped : Kept s₀ dropped := .foldl h fun _ _ h => h.dropBatt
  have retired : Kept s₀ retired := .foldl dropped fun _ _ h => h.retireFelt
  have logs : Kept s₀ logs := .killLogs (retired.same (t := killed))
  have quiet : Kept s₀ quiet := .others (.mapCores logs fun _ ok => ite_of ok ok.same)
  have unheld : Kept s₀ unheld := .mapL2 (.modCtx (.dropMarks quiet.writeBackAll)) fun _ => ⟨rfl, rfl⟩
  exact unheld.modWindow.flushWindow

theorem Kept.withdraw {b : Batt} (h : Kept s₀ s) : Kept s₀ (s.withdraw b) := by
  unfold State.withdraw
  refine .modCluster (.modCore ?_ fun _ ok => ok.same)
  split
  · exact .modBar h
  · exact h

theorem Kept.unwind {core slot cause : Nat} {pc : DWord} (h : Kept s₀ s) : Kept s₀ (s.unwind core slot cause pc) :=
  .modWindow (.writeS63 (.modBatt (.modCluster (.discardLog (.withdraw (.completeEngines h)))) fun _ => ⟨rfl, rfl⟩))

theorem Kept.settleTrapIf {final : Bool} {core slot : Nat} (h : Kept s₀ s) : Kept s₀ (s.settleTrapIf final core slot) := by
  unfold State.settleTrapIf
  refine .ite h ?_
  split
  · exact .ite (.unwind h) h
  · refine .ite h ?_
    split
    · exact .killContext (.addRecord h)
    · exact .modBatt (.addRecord h) fun _ => ⟨rfl, rfl⟩

theorem Kept.settleTrap {core slot : Nat} (h : Kept s₀ s) : Kept s₀ (s.settleTrap core slot) := .settleTrapIf h

theorem Kept.takeTrap {core slot : Nat} {word pc : DWord} {mask : Mask} {recipe : Nat} {lanes : List LaneCause} (h : Kept s₀ s) : Kept s₀
    (s.takeTrap core slot word pc mask recipe lanes) :=
  .settleTrap (.noteTrap h)

theorem Kept.flushFaultsFrom {k fuel : Nat} (h : Kept s₀ s) : Kept s₀ (flushFaultsFrom k fuel s) := by
  induction fuel generalizing s with
  | zero => exact h
  | succ fuel ih =>
    unfold Machine.flushFaultsFrom
    dsimp only
    split
    · exact ih (.ite (.emit h.modCluster) h.modCluster)
    · exact h

theorem Kept.flushFaults {k : Nat} (h : Kept s₀ s) : Kept s₀ (s.flushFaults k) := .flushFaultsFrom h

theorem Kept.takeFault {core slot : Nat} {word pc : DWord} {lanes : List LaneCause} {access level : Nat} {replay : Bool} {recipe : Nat} {va :
    optParam (Option DWord) none} (h : Kept s₀ s) : Kept s₀ (s.takeFault core slot word pc lanes access level replay recipe va) :=
  .flushFaults (.modCluster (.modBatt h fun _ => ⟨rfl, rfl⟩))

theorem Kept.freeSlot {w i : Nat} (h : Kept s₀ s) : Kept s₀ (s.freeSlot w i) := .flushWindow (.modWindow h)

theorem Kept.resumeTrap {w i : Nat} {past : Bool} (h : Kept s₀ s) : Kept s₀ (s.resumeTrap w i past) := by
  unfold State.resumeTrap
  split
  · refine .ite ?_ h
    split
    · exact .freeSlot (.modBattOf h fun b => (Batt.AtPlace.refl b).resume)
    · exact .modCtx h
  · exact h

theorem Kept.settleHalted (h : Kept s₀ s) : Kept s₀ s.settleHalted := .foldl h fun _ _ h => .settleTrap h

theorem Kept.exitBatt {core slot : Nat} (h : Kept s₀ s) : Kept s₀ (s.exitBatt core slot) := by
  unfold State.exitBatt
  extract_lets closed b gone
  have dropped : Kept s₀ gone := h.completeEngines.closeAll.dropBatt
  split
  · exact dropped
  · have told : Kept s₀ (gone.barExit b).2 := dropped.barExit
    generalize gone.barExit b = r at told ⊢
    obtain ⟨news, u⟩ := r
    have left (n f) (g : Launch → Launch) (k : Felt → Felt) :
        Kept s₀ (((u.noteRefusals news).settleHalted.modLaunch n g).modFelt n f k) :=
      told.noteRefusals.settleHalted.modLaunch.modFelt
    dsimp only
    split
    · exact .ite (left _ _ _ _).retireFelt (left _ _ _ _)
    · exact left _ _ _ _

/-! ### Pure regions and the purity checks of PURECHECK, and the kill that an unreadable side table brings -/

theorem Kept.killUnreadable {space cause : Nat} {addr : DWord} (h : Kept s₀ s) : Kept s₀ (s.killUnreadable space cause addr) :=
  .killContext (.addRecord h)

theorem Kept.regionReads {core slot : Nat} {i : Instr} {pc : DWord} (h : Kept s₀ s) : Kept s₀ (s.regionReads core slot i pc) :=
  .ite (.fetchRuns h) h

theorem Kept.noteDefs {core slot : Nat} {i : Instr} {pc : DWord} {active : Mask} (h : Kept s₀ s) : Kept s₀ (s.noteDefs core slot i pc active)
    := by
  unfold State.noteDefs
  refine .ite h ?_
  split
  · exact .ite (.modBatt h fun _ => ⟨rfl, rfl⟩) h
  · exact h

/-! ### Issuing a word -/

theorem Kept.execStage {x : Iss} {body : Iss → State → Body} (h : Kept s₀ s) (does : ∀ x s, Kept s₀ s → (body x s).Kept s₀) :
    (execStage x body s).Kept s₀ := by
  unfold Machine.execStage
  refine .ite (.done h) (.ite (.done h) ?_)
  split
  · exact .trap h
  · split
    · exact .trap h
    · exact does _ _ h

theorem Kept.counted {x : Iss} {n : Nat} (h : Kept s₀ s) : Kept s₀ (Iss.counted x n s) := .modBatt h fun b => (Batt.AtPlace.refl b).countTurn

theorem Kept.prepFault {x : Iss} {n : Nat} {f : PrepFault} (h : Kept s₀ s) : Kept s₀ (prepFault x n f s) := by
  unfold Machine.prepFault
  split
  · exact .takeTrap (.counted h)
  · exact .takeTrap (.counted h)
  · exact .ite (.takeFault h) (.takeTrap (.counted h))
  · exact .ite (.takeFault h) (.takeTrap (.counted h))

theorem Kept.finishWord {x : Iss} {n : Nat} {r : Body} (h : Kept s₀ s) (body : r.Kept s₀) : Kept s₀ (finishWord x n r s) := by
  cases body with
  | done h => exact .modBatt h.noteDefs fun b => Batt.AtPlace.countTurn ⟨rfl, rfl⟩
  | moved h => exact h.noteDefs.counted
  | yielded h => exact h
  | trap h => exact h.counted.takeTrap
  | fault h => exact h.takeFault
  | prep h => exact h.prepFault
  | wait h => exact .modBatt h.noteDefs.leaveActive fun b => ite_of (P := b.AtPlace) (Batt.AtPlace.countTurn ⟨rfl, rfl⟩) ⟨rfl, rfl⟩
  | stall => exact .ite h.leaveActive h

theorem Kept.stallAt {b : Batt} {i : Instr} (h : Kept s₀ s) : Kept s₀ (s.stallAt b i) := .ite (.leaveActive h) h

theorem Kept.runBody {x : Iss} {body : Iss → State → Body} (h : Kept s₀ s) (does : ∀ x s, Kept s₀ s → (body x s).Kept s₀) :
    (runBody x body s).Kept s₀ := by
  unfold Machine.runBody
  extract_lets b
  generalize (if x.active = 0 then none else b.deferred.find? fun d => s.touchesReport b x.instr x.active d) = report
  cases report with
  | some d => exact .trap (h.modBatt fun _ => ⟨rfl, rfl⟩)
  | none => exact h.execStage does

theorem Kept.laneBody {fn : LaneFn} {d : AluDst} {x : Iss} (h : Kept s₀ s) : (laneBody fn d x s).Kept s₀ :=
  .ite (.trap h) (.done (h.modBatt fun b => (Batt.AtPlace.put (.refl b) : b.AtPlace (b.put _ _ _))))

/-! ### Lane checks of memory accesses, their report, and the operations at atomic homes -/

theorem Kept.reportOr {rs : List LaneRes} {access : Nat} {k : List LaneAcc → Body} (h : Kept s₀ s)
    (rest : ∀ accs, (k accs).Kept s₀) : (reportOr rs access s k).Kept s₀ := by
  unfold Machine.reportOr
  dsimp only
  split
  · exact rest _
  · exact .ite (.fault h) (.trap h)

theorem Kept.tlbFillAll {core space : Nat} {vas : List DWord} (h : Kept s₀ s) : Kept s₀ (s.tlbFillAll core space vas) :=
  .foldl h fun _ _ h => .tlbFill h

theorem Kept.loadFills {core space cp : Nat} {accs : List LaneAcc} (h : Kept s₀ s) : Kept s₀ (s.loadFills core space cp accs) :=
  .tlbFillAll (.foldl h fun _ _ h => .ite (.ite (.l2Fill h) (.l1Fill (.l2Fill h))) h)

theorem Kept.loadSettle {core : Nat} {accs : List LaneAcc} (h : Kept s₀ s) : Kept s₀ (s.loadSettle core accs) := by
  unfold State.loadSettle
  refine .ite (.foldl h fun _ _ h => ?_) h
  split
  · exact .settleGone h
  · exact h

theorem Kept.drewHost {accs : List LaneAcc} (h : Kept s₀ s) : Kept s₀ (s.drewHost accs) := .ite h.same h

theorem Kept.modUnit {core scope : Nat} {f : List AtomLoc → List AtomLoc} (h : Kept s₀ s) : Kept s₀ (s.modUnit core scope f) :=
  .ite (.modCore h fun _ ok => ok.same) (.modCluster h)

theorem Kept.unitRoom {core scope : Nat} (h : Kept s₀ s) : Kept s₀ (s.unitRoom core scope) := by
  unfold State.unitRoom
  refine .ite h (.ite h ?_)
  split
  · exact .modUnit (.writeBackLocs h)
  · exact h

theorem Kept.unitFetch {core scope space : Nat} {a : LaneAcc} (h : Kept s₀ s) : Kept s₀ (s.unitFetch core scope space a) :=
  .foldl (.ite (.l2ReadAll h) h) fun _ _ h => .ite h (.modUnit (.unitRoom h))

theorem Kept.dropL1 {core sector : Nat} (h : Kept s₀ s) : Kept s₀ (s.dropL1 core sector) := .modCore h fun _ ok => ite_of ok (ok.same)

theorem Kept.noticeStore {k sector : Nat} (h : Kept s₀ s) : Kept s₀ (s.noticeStore k sector) := .modCluster h

theorem Kept.atomWrite {b : Batt} {scope : Nat} {a : LaneAcc} {bytes : List Byte} (h : Kept s₀ s) : Kept s₀ (s.atomWrite b scope a bytes) :=
  .ite (.scratchWrite h) (.ite (.ite (.foldl (.modUnit h) fun _ _ h => .noticeStore h) (.modUnit h)) (.foldl h fun _ _ h => .dropL1
      (.applyAt h)))

theorem Kept.atomLane {b : Batt} {scope op : Nat} {wide : Bool} {size : Nat} {a : LaneAcc} {bv dv : DWord} (h : Kept s₀ s) : Kept s₀ (s.atomLane
    b scope op wide size a bv dv).2 := by
  unfold State.atomLane
  dsimp only
  split
  · split
    · split
      · exact h
      · split
        · exact .hostErrInc h
        · exact .emit h.same
    · split
      · split
        · exact .unitFetch h
        · exact .atomWrite (.unitFetch h)
      · split
        · exact .l2ReadAll h
        · exact .atomWrite (.l2ReadAll h)
  · split
    · exact h
    · exact .atomWrite h

theorem Kept.atomAll {b : Batt} {scope op : Nat} {wide : Bool} {size : Nat} {accs : List LaneAcc} {bvals dvals : List DWord}
    (h : Kept s₀ s) : Kept s₀ (s.atomAll b scope op wide size accs bvals dvals).2 := by
  unfold State.atomAll
  exact .foldlPair h fun _ _ h => h.atomLane

/-! ### Loads, stores, prefetch, ordering, draining and residency instructions -/

theorem Kept.addOp {core slot : Nat} {mk : Nat → Op} (h : Kept s₀ s) : Kept s₀ (s.addOp core slot mk) :=
  .modBatt (.takeDests h) fun _ => ⟨rfl, rfl⟩

theorem Kept.endOp {core slot id : Nat} (h : Kept s₀ s) : Kept s₀ (s.endOp core slot id) := .settleTrap (.modBatt h fun _ => ⟨rfl, rfl⟩)

theorem Kept.modOp {core slot id : Nat} {f : Op → Op} (h : Kept s₀ s) : Kept s₀ (s.modOp core slot id f) := .modBatt h fun _ => ⟨rfl, rfl⟩

theorem Kept.loadResult {x : Iss} {f : MForm} {accs : List LaneAcc} {rd : LaneAcc → List (Byte × Bool)} {fin : State → State}
    (h : Kept s₀ s) (ends : ∀ s, Kept s₀ s → Kept s₀ (fin s)) : (loadResult x f accs rd s fin).Kept s₀ := by
  unfold Machine.loadResult
  refine .ite (.done (ends _ h.addOp)) ?_
  split
  · exact .trap (ends _ h)
  · exact .done (ends _ (h.modBatt fun b => (Batt.AtPlace.refl b).putLoad))

theorem Kept.ldBody {f : MForm} {x : Iss} (h : Kept s₀ s) : (ldBody f x s).Kept s₀ :=
  Kept.reportOr h fun _ => Kept.loadResult (.loadSettle h) fun _ h => .drewHost (.loadFills h)

theorem Kept.ldsBody {f : MForm} {x : Iss} (h : Kept s₀ s) : (ldsBody f x s).Kept s₀ := by
  unfold Machine.ldsBody
  dsimp only
  refine Kept.reportOr h fun _ => .ite .stall ?_
  split
  · exact .trap h
  · exact .done (.modBatt h fun b => (Batt.AtPlace.refl b).putLoad)

theorem Kept.constKeep {core space va : Nat} {x : Loc} (h : Kept s₀ s) : Kept s₀ (s.constKeep core space va x) :=
  .ite h (.ite (.l2Fill h) (.modCore (.l2Fill h) fun _ ok => ok.same))

theorem Kept.constFill {core space : Nat} {accs : List LaneAcc} (h : Kept s₀ s) : Kept s₀ (s.constFill core space accs) :=
  .foldl h fun _ _ h => .foldl h fun _ _ h => .constKeep h

theorem Kept.ldcBody {f : MForm} {x : Iss} (h : Kept s₀ s) : (ldcBody f x s).Kept s₀ :=
  Kept.reportOr h fun _ => Kept.loadResult h fun _ h => .constFill h

theorem Kept.giveBack {core slot : Nat} {o : Op} (h : Kept s₀ s) : Kept s₀ (s.giveBack core slot o) := .modBatt h fun _ => ⟨rfl, rfl⟩

theorem Kept.loadReturnOf {core slot : Nat} {f : MForm} {o : Op} (h : Kept s₀ s) : Kept s₀ (s.loadReturnOf core slot f o) :=
  .endOp (.ite (.noteTrap (.giveBack h)) (.modBatt h fun b => (Batt.AtPlace.refl b).putLoad))

theorem Kept.storeHits {space : Nat} {accs : List LaneAcc} (h : Kept s₀ s) : Kept s₀ (s.storeHits space accs) :=
  .ite h (.foldl h fun _ _ h => .l2HitAll h)

theorem Kept.storeDone {x : Iss} {accs : List LaneAcc} {bytes : List (Loc × Byte × Bool)} (h : Kept s₀ s) : Kept s₀ (s.storeDone x accs
    bytes) :=
  .tlbFillAll (.storeHits (.appendBytes h))

theorem Kept.stBody {f : MForm} {x : Iss} (h : Kept s₀ s) : (stBody f x s).Kept s₀ :=
  Kept.reportOr h fun _ => .ite .stall (.done (.storeDone h))

theorem Kept.stsBody {f : MForm} {x : Iss} (h : Kept s₀ s) : (stsBody f x s).Kept s₀ := by
  unfold Machine.stsBody
  exact Kept.reportOr h fun _ => .ite .stall (.done (.scratchWhole (.foldl h fun _ _ h => .scratchWrite h)))

theorem Kept.prefBody {f : MForm} {x : Iss} (h : Kept s₀ s) : (prefBody f x s).Kept s₀ := by
  unfold Machine.prefBody
  dsimp only
  refine .done (.foldl h fun _ _ h => ?_)
  split
  · exact .ite (.tlbFill (.ite (.l2Fill h) (.l1Fill (.l2Fill h)))) h
  · exact h

theorem Kept.acqBody {f : RForm} {x : Iss} (h : Kept s₀ s) : (acqBody f x s).Kept s₀ := .ite (.done (.addOp h)) (.done (.acquireAt h))

theorem Kept.relAt {core slot space sc : Nat} (h : Kept s₀ s) : Kept s₀ (s.relAt core slot space sc).2 := .releaseAt (.ite h h.hardenOpen)

theorem Kept.relBody {f : RForm} {x : Iss} (h : Kept s₀ s) : (relBody f x s).Kept s₀ := by
  unfold Machine.relBody
  extract_lets b id
  refine .ite (.done (.modCore h.hardenOpen.addOp fun _ ok => ok.same)) ?_
  have released : Kept s₀ (s.relAt x.core x.slot b.space (f.mf 1 0)).2 := h.relAt
  generalize s.relAt x.core x.slot b.space (f.mf 1 0) = r at released ⊢
  exact .done (released.modBatt fun b => ite_of (P := b.AtPlace) ⟨rfl, rfl⟩ ⟨rfl, rfl⟩)

theorem Kept.acqrBody {f : RForm} {x : Iss} (h : Kept s₀ s) : (acqrBody f x s).Kept s₀ :=
  .ite (.done (.addOp h)) (.done (.acquireAt (.foldl h fun _ _ h => .ite (.promote h) h)))

theorem Kept.hbindBody {f : RForm} {x : Iss} (h : Kept s₀ s) : (hbindBody f x s).Kept s₀ :=
  .ite (.done h) (.ite (.trap h) (.done (.modCtx (.unmark h))))

theorem Kept.hdropBody {f : RForm} {x : Iss} (h : Kept s₀ s) : (hdropBody f x s).Kept s₀ := .done (.unmark (.modCtx h))

/-! ### ATOM, RED, WAITA and PUTS, and the completion of those that the device finishes later -/

theorem Kept.objectReads {core space : Nat} {va : DWord} {n : Nat} (h : Kept s₀ s) : Kept s₀ (s.objectReads core space va n) := by
  unfold State.objectReads
  split
  · exact .l2ReadAll (.foldl h fun _ _ h => .settleGone h)
  · exact h

theorem Kept.viewDrain {core : Nat} {sectors : List Nat} (h : Kept s₀ s) : Kept s₀ (s.viewDrain core sectors) := by
  unfold State.viewDrain
  split
  · exact .drainUpTo h
  · exact h

theorem Kept.atomDrain {core space scope : Nat} {accs : List LaneAcc} (h : Kept s₀ s) : Kept s₀ (s.atomDrain core space scope accs) :=
  .ite h (.fullEntries (.viewDrain h))

theorem Kept.atomBefore {x : Iss} {f : RForm} {accs : List LaneAcc} (h : Kept s₀ s) : Kept s₀ (s.atomBefore x f accs) := by
  unfold State.atomBefore
  refine .atomDrain (.ite (.relAt (.ite (.hardenOpen ?_) ?_)) (.ite (.hardenOpen ?_) ?_))
  · split
    · exact .takeDests h
    · exact h
  · split
    · exact .takeDests h
    · exact h
  · split
    · exact .takeDests h
    · exact h
  · split
    · exact .takeDests h
    · exact h

theorem Kept.atomReturned {core slot : Nat} {f : RForm} {active bad : Mask} {v : Nat → DWord} (h : Kept s₀ s) : Kept s₀ (s.atomReturned core
    slot f active bad v) :=
  .ite (.acquireAt (.modBatt h fun b => ite_of (P := b.AtPlace) ⟨rfl, rfl⟩ (Batt.AtPlace.refl b).putAtom)) (.modBatt h fun b => ite_of (P :=
      b.AtPlace) ⟨rfl, rfl⟩ (Batt.AtPlace.refl b).putAtom)

theorem Kept.atomBody {f : RForm} {x : Iss} (h : Kept s₀ s) : (atomBody f x s).Kept s₀ := by
  unfold Machine.atomBody
  refine .ite (.trap h) (h.reportOr fun accs => .ite .stall ?_)
  extract_lets u b bv dv
  have before : Kept s₀ u := h.atomBefore
  refine .ite (.done before.addOp) ?_
  have done : Kept s₀ (u.atomAll b (atomScope f) (atomOp f) (f.mb 0) (atomSize f) accs bv dv).2 := before.atomAll
  generalize u.atomAll b (atomScope f) (atomOp f) (f.mb 0) (atomSize f) accs bv dv = r at done ⊢
  exact .ite (.trap done.atomReturned) (.done done.atomReturned)

theorem Kept.performOp {core slot : Nat} {f : RForm} {o : Op} (h : Kept s₀ s) : Kept s₀ (s.performOp core slot f o).2 := h.atomAll

theorem Kept.redArrive {core slot : Nat} {f : RForm} (h : Kept s₀ s) : Kept s₀ (s.redArrive core slot f) :=
  .settleHalted (.noteRefusals (.putBar h))

theorem Kept.finishReds {core slot : Nat} (h : Kept s₀ s) : Kept s₀ (s.finishReds core slot) := by
  unfold State.finishReds
  refine .foldl h fun _ _ h => ?_
  split
  · exact .ite (.redArrive (.modBatt (.ite (.performOp h) h) fun _ => ⟨rfl, rfl⟩)) (.modBatt (.ite (.performOp h) h) fun _ => ⟨rfl, rfl⟩)
  · exact h

theorem Kept.redBody {f : RForm} {x : Iss} (h : Kept s₀ s) : (redBody f x s).Kept s₀ := by
  unfold Machine.redBody
  refine .ite (.trap h) (h.reportOr fun accs => ?_)
  extract_lets b u bv
  have before : Kept s₀ u := h.atomBefore
  refine .ite (.trap h) (.ite .stall (.ite (.done before.addOp) ?_))
  have done : Kept s₀ (u.atomAll b (atomScope f) (atomOp f) (f.mb 0) (atomSize f) accs bv []).2 := before.atomAll
  generalize u.atomAll b (atomScope f) (atomOp f) (f.mb 0) (atomSize f) accs bv [] = r at done ⊢
  exact .done (.ite done.redArrive done)

theorem Kept.waitaFills {core space : Nat} {f : RForm} {a : LaneAcc} (h : Kept s₀ s) : Kept s₀ (s.waitaFills core space f a) :=
  .drewHost (.ite h (.l2ReadAll h))

theorem Kept.freeMonitor {core slot : Nat} (h : Kept s₀ s) : Kept s₀ (s.freeMonitor core slot) := .modCluster h

theorem Kept.takeMonitor {core slot : Nat} {i : Instr} {a : LaneAcc} (h : Kept s₀ s) : Kept s₀ (s.takeMonitor core slot i a) :=
  .ite (.modBatt (.modCluster h) fun _ => ⟨rfl, rfl⟩) (.modBatt h fun _ => ⟨rfl, rfl⟩)

theorem Kept.waitaBody {f : RForm} {x : Iss} (h : Kept s₀ s) : (waitaBody f x s).Kept s₀ := by
  unfold Machine.waitaBody
  dsimp only
  split
  · exact .fault h
  · exact .trap h
  · split
    · exact .trap (.waitaFills h)
    · exact .done (.modBatt (.waitaFills h) fun _ => ⟨rfl, rfl⟩)
    · exact .wait (.takeMonitor (.waitaFills h))

theorem Kept.waitaAgain {core slot : Nat} {i : Instr} (h : Kept s₀ s) : Kept s₀ (s.waitaAgain core slot i) := by
  unfold State.waitaAgain
  dsimp only
  split
  · split
    · exact .takeFault (.modBatt (.freeMonitor h) fun _ => ⟨rfl, rfl⟩)
    · exact .takeTrap (.modBatt (.modBatt (.freeMonitor h) fun _ => ⟨rfl, rfl⟩) fun b => (Batt.AtPlace.refl b).countTurn)
    · split
      · exact .takeTrap (.modBatt (.modBatt (.freeMonitor (.waitaFills h)) fun _ => ⟨rfl, rfl⟩) fun b => (Batt.AtPlace.refl b).countTurn)
      · exact .modBatt (.modBatt (.freeMonitor (.waitaFills h)) fun _ => ⟨rfl, rfl⟩) fun b => (show b.AtPlace (b.setS _ _) from ⟨rfl,
          rfl⟩).finishTurn
      · split
        · exact .takeMonitor (.waitaFills h)
        · exact .waitaFills h
  · exact h

theorem Kept.putsSend {locs : List Loc} {bytes : List Byte} (h : Kept s₀ s) : Kept s₀ (s.putsSend locs bytes) :=
  .foldl h fun _ _ h => .hostWrite h

theorem Kept.putsDeliver {len : Nat} {dst : List Loc} {payload : List Byte} {flag : DWord} (h : Kept s₀ s) : Kept s₀ (s.putsDeliver len dst
    payload flag) :=
  .putsSend (.putsSend h)

theorem Kept.putsFail {x : Iss} {c : LaneCause} {rep : Bool} {access level : Nat} (h : Kept s₀ s) : (putsFail x s c rep access level).Kept s₀
    :=
  .ite (.fault h) (.trap h)

theorem Kept.putsBody {f : RForm} {x : Iss} (h : Kept s₀ s) : (putsBody f x s).Kept s₀ := by
  unfold Machine.putsBody
  dsimp only
  refine .ite (.trap h) (.ite (.trap h) ?_)
  split
  · exact Kept.putsFail h
  · exact Kept.putsFail h
  · exact Kept.putsFail h
  · split
    · exact .trap h
    · exact .trap h
    · refine .ite (.done (.addOp (.drewHost (.l2ReadAll (.foldl (.hardenOpen h) fun _ _ h => .settleGone h))))) ?_
      split
      · exact .trap (.drewHost (.l2ReadAll (.foldl (.hardenOpen h) fun _ _ h => .settleGone h)))
      · exact .done (.putsDeliver (.drewHost (.l2ReadAll (.foldl (.hardenOpen h) fun _ _ h => .settleGone h))))

/-! ### BARV, BARW, BARS, BART and BARQ -/

theorem Kept.waitAtBar {x : Iss} {w : Waiting} (h : Kept s₀ s) : (s.waitAtBar x w).Kept s₀ := .wait (.modBatt h fun _ => ⟨rfl, rfl⟩)

theorem Kept.barRelease {x : Iss} {kind : Nat} (h : Kept s₀ s) : Kept s₀ (s.barRelease x kind) := .releaseAt (.ite h (.hardenOpen h))

theorem Kept.arriveAt {x : Iss} {v : BitVec 10} {bytes : Int} (h : Kept s₀ s) : Kept s₀ (s.arriveAt x v bytes).2 := by
  unfold State.arriveAt
  extract_lets u b
  have arrived : Kept s₀ (u.barArrive (b.namedBar v) (.batt b.id bytes) bytes).2 := h.barRelease.barArrive
  generalize u.barArrive (b.namedBar v) (.batt b.id bytes) bytes = r at arrived ⊢
  obtain ⟨n, u'⟩ := r
  dsimp only
  split
  · exact arrived.noteRefusals.settleHalted
  · exact ite_of (P := fun p : ArriveRes × State => Kept s₀ p.2) arrived.noteRefusals.settleHalted arrived.noteRefusals.settleHalted

theorem Kept.barmemTrap {x : Iss} (h : Kept s₀ s) : (barmemTrap x s).Kept s₀ := .trap h

theorem Kept.barvBody {f : RForm} {x : Iss} (h : Kept s₀ s) : (barvBody f x s).Kept s₀ := by
  unfold Machine.barvBody
  refine .ite h.barmemTrap ?_
  have arrived : Kept s₀ (s.arriveAt x f.a 0).2 := h.arriveAt
  generalize s.arriveAt x f.a 0 = r at arrived ⊢
  split
  · exact .done (.ite (arrived.modBatt fun _ => ⟨rfl, rfl⟩) arrived)
  · exact .trap arrived
  · exact arrived.waitAtBar

theorem Kept.barsBody {f : RForm} {x : Iss} (h : Kept s₀ s) : (barsBody f x s).Kept s₀ := by
  unfold Machine.barsBody
  refine .ite h.barmemTrap ?_
  have arrived : Kept s₀ (s.arriveAt x f.a 0).2 := h.arriveAt
  generalize s.arriveAt x f.a 0 = r at arrived ⊢
  split
  · exact .ite (.done arrived.acquireAt) arrived.waitAtBar
  · exact .trap arrived
  · exact arrived.waitAtBar

theorem Kept.bartBody {f : RForm} {x : Iss} (h : Kept s₀ s) : (bartBody f x s).Kept s₀ := by
  unfold Machine.bartBody
  extract_lets b v
  refine .ite h.barmemTrap (.ite ?_ ?_)
  · have arrived : Kept s₀ (s.arriveAt x f.a v).2 := h.arriveAt
    generalize s.arriveAt x f.a v = r at arrived ⊢
    split
    · exact .done arrived
    · exact .trap arrived
    · exact arrived.waitAtBar
  · split
    next e => exact .done (h.barBytes e).noteRefusals.settleHalted
    · exact .trap h

theorem Kept.barwBody {f : RForm} {x : Iss} (h : Kept s₀ s) : (barwBody f x s).Kept s₀ :=
  .ite (Kept.barmemTrap h) (.ite (.done (.acquireAt h)) (Kept.waitAtBar h))

theorem Kept.barqBody {f : RForm} {x : Iss} (h : Kept s₀ s) : (barqBody f x s).Kept s₀ :=
  .ite (Kept.barmemTrap h) (.done (.modBatt h fun _ => ⟨rfl, rfl⟩))

/-! ### Accumulator banks -/

theorem Kept.aballocBody {f : RForm} {x : Iss} (h : Kept s₀ s) : (aballocBody f x s).Kept s₀ :=
  .ite (.trap h) (.ite (.done (.modBatt h fun _ => ⟨rfl, rfl⟩)) (.wait (.modBatt (.modCore h fun _ ok => ok.same) fun _ => ⟨rfl, rfl⟩)))

theorem Kept.grantBanks {core : Nat} (h : Kept s₀ s) : Kept s₀ (s.grantBanks core) := by
  unfold State.grantBanks
  split
  · exact h
  · refine .ite (.ite (.modBatt (.modCore h fun _ ok => ok.same) fun _ => ⟨rfl, rfl⟩) h) ?_
    split
    · exact .ite (.modBatt (.modCore h fun _ ok => ok.same) fun b => (Batt.AtPlace.refl b).countTurn) h
    · exact .modCore h fun _ ok => ok.same

theorem Kept.aldBody {f : RForm} {x : Iss} (h : Kept s₀ s) : (aldBody f x s).Kept s₀ := by
  unfold Machine.aldBody
  dsimp only
  split
  · exact .trap h
  · split
    · exact .trap h
    · exact .done (h.modBatt fun b => ite_of (P := b.AtPlace) ⟨rfl, rfl⟩ ⟨rfl, rfl⟩)

theorem Kept.astBody {f : RForm} {x : Iss} (h : Kept s₀ s) : (astBody f x s).Kept s₀ := by
  unfold Machine.astBody
  dsimp only
  split
  · exact .trap h
  · exact .done (h.modBatt fun b => List.foldlRecOn (motive := b.AtPlace) _ _ (.refl b) fun _ h _ _ => h.bankWrite)

theorem Kept.aldSpBody {f : RForm} {x : Iss} (h : Kept s₀ s) : (aldSpBody f x s).Kept s₀ := by
  unfold Machine.aldSpBody
  dsimp only
  split
  · exact .trap h
  · exact .ite .stall (.done (.scratchPut h))

theorem Kept.astSpBody {f : RForm} {x : Iss} (h : Kept s₀ s) : (astSpBody f x s).Kept s₀ := by
  unfold Machine.astSpBody
  dsimp only
  split
  · exact .trap h
  · exact .ite .stall (.done (h.modBatt fun b =>
      List.foldlRecOn (motive := fun acc : Batt × Nat => b.AtPlace acc.1) _ _ (.refl b) fun _ h _ _ => h.bankWrite))

theorem Kept.azeroBody {f : RForm} {x : Iss} (h : Kept s₀ s) : (azeroBody f x s).Kept s₀ := by
  unfold Machine.azeroBody
  dsimp only
  split
  · exact .trap h
  · exact .done (h.modBatt fun b => (Batt.AtPlace.refl b).bankWrite)

/-! ### Control flow, rejoin masks, SYNCB, EXIT, NOP, YIELD -/

theorem Kept.yieldBody {x : Iss} (h : Kept s₀ s) : (yieldBody x s).Kept s₀ :=
  .yielded (.ite (.modBatt h fun _ => ⟨rfl, rfl⟩) (.joinReady (.leaveActive (.modBatt h fun _ => ⟨rfl, rfl⟩))))

theorem Kept.transfer {x : Iss} {target : Nat → DWord} {extra : DWord → Nat} {link : Batt → Batt} (h : Kept s₀ s) (place : InPlace link) :
    (transfer x s target extra link).Kept s₀ := by
  unfold Machine.transfer
  dsimp only
  split
  · exact .trap h
  · exact .moved (h.modBatt fun b => place b)

theorem Kept.callxBody {f : RForm} {x : Iss} (h : Kept s₀ s) : (callxBody f x s).Kept s₀ := by
  unfold Machine.callxBody
  dsimp only
  split
  · exact .yielded (.killUnreadable h)
  · exact Kept.transfer (.fetchRuns h) fun _ => ⟨rfl, rfl⟩

theorem Kept.rjsetBody {f : RForm} {x : Iss} (h : Kept s₀ s) : (rjsetBody f x s).Kept s₀ :=
  .moved (h.modBatt fun _ => Batt.settle_place _ _)

theorem Kept.rjoinBody {f : RForm} {x : Iss} (h : Kept s₀ s) : (rjoinBody f x s).Kept s₀ :=
  .moved (h.modBatt fun _ => Batt.settle_place _ _)

theorem Kept.rjdropBody {f : RForm} {x : Iss} (h : Kept s₀ s) : (rjdropBody f x s).Kept s₀ :=
  .moved (h.modBatt fun _ => Batt.settle_place _ _)

theorem Kept.syncbBody {f : RForm} {x : Iss} (h : Kept s₀ s) : (syncbBody f x s).Kept s₀ :=
  .ite (.trap h) (.moved (h.modBatt fun b => ite_of (P := b.AtPlace) ⟨rfl, rfl⟩ ⟨rfl, rfl⟩))

theorem Kept.emitFrags {b : Batt} {fs : List Fragment} (h : Kept s₀ s) : Kept s₀ (s.emitFrags b fs) := .modLaunch h

theorem Kept.exitLanes {core slot : Nat} {split m : Mask} (h : Kept s₀ s) : Kept s₀ (s.exitLanes core slot split m) := by
  unfold State.exitLanes
  extract_lets b b1 b2 u u'
  have settled : b.AtPlace b2 := .settleSync (.foldl (.refl b) fun _ _ h => h.settle)
  have put : Kept s₀ u := h.putBatt settled
  have ended : Kept s₀ u' := put.completeEngines.finishReds
  exact .ite put (.ite ended.exitBatt ended)

theorem Kept.exitBody {x : Iss} (h : Kept s₀ s) : (exitBody x s).Kept s₀ := by
  unfold Machine.exitBody
  dsimp only
  split
  · exact .moved (.exitLanes h)
  · exact .wait (.modBatt (.emitFrags h) fun _ => ⟨rfl, rfl⟩)

/-! ### MXI, MXQ and the copy instructions -/

theorem Kept.pageReport {x : Iss} {fails : List PageFail} {k : Body} (h : Kept s₀ s) (rest : k.Kept s₀) :
    (pageReport x fails s k).Kept s₀ := by
  unfold Machine.pageReport
  refine .ite rest (.ite ?_ ?_)
  · split
    · exact .fault h
    · exact rest
  · split
    · exact .trap h
    · exact .trap h
    · exact .trap h
    · exact rest

theorem Kept.pendToken {core slot token : Nat} (h : Kept s₀ s) : Kept s₀ (s.pendToken core slot token) := .modBatt h fun _ => ⟨rfl, rfl⟩

theorem Kept.enqueueMxi {x : Iss} {token w : Nat} {d : List DWord} {pages : List (Nat × Loc)} (h : Kept s₀ s) : Kept s₀ (s.enqueueMxi x token w
    d pages) :=
  .pendToken (.modCore h fun _ ok => ok.same)

theorem Kept.mxiBody {f : RForm} {x : Iss} (h : Kept s₀ s) : (mxiBody f x s).Kept s₀ := by
  unfold Machine.mxiBody
  split
  · exact .trap h
  · exact Kept.pageReport h (.done (.enqueueMxi h))

theorem Kept.enqueueCopy {x : Iss} {bar : BitVec 10} {o : EngineOp} (h : Kept s₀ s) : Kept s₀ (s.enqueueCopy x bar o) :=
  .pendToken (.modCore (.ite (.hardenOpen h) h) fun _ ok => ok.same)

theorem Kept.copyBody {kind : Nat} {f : RForm} {x : Iss} (h : Kept s₀ s) : (copyBody kind f x s).Kept s₀ := by
  unfold Machine.copyBody
  dsimp only
  refine .ite (.trap h) (.ite (.trap h) ?_)
  split
  · exact .trap h
  · split
    · exact .trap h
    · exact Kept.pageReport h (.done (.enqueueCopy h))

theorem Kept.textureAt {x : Iss} {a : DWord} {r : Body} (h : Kept s₀ s) (e : s.textureAt x a = .inl r) : r.Kept s₀ := by
  unfold State.textureAt at e
  dsimp only at e
  split at e
  · cases e; exact .trap h
  · split at e
    · cases e; exact .fault h
    · cases e; exact .trap h
    · split at e
      · cases e; exact .trap h
      · split at e
        · cases e; exact .trap h
        · cases e

theorem Kept.txsigBody {f : RForm} {x : Iss} (h : Kept s₀ s) : (txsigBody f x s).Kept s₀ := by
  unfold Machine.txsigBody
  dsimp only
  split
  next e => exact h.textureAt e
  · exact .ite (.trap h) (.ite (.trap h) (h.pageReport (h.pageReport (.done (.enqueueCopy h.objectReads)))))

/-! ### The integer, logic, shift, bit-field, address and move instructions -/

theorem Kept.cmpBody {fn : LaneFn} {u : Bool} {d : Nat} {x : Iss} (h : Kept s₀ s) : (cmpBody fn u d x s).Kept s₀ :=
  .ite (.trap h) (.done (.modBatt h fun _ => ⟨rfl, rfl⟩))

/-! ### The floating-point instructions -/

theorem Kept.flagBody {x : Iss} {once : Bool} {r : Nat → FRes} {f : Batt → Batt} (h : Kept s₀ s) (place : InPlace f) :
    (flagBody x s once r f).Kept s₀ := .ite (.trap h) (.done (h.modBatt fun b => place b))

theorem Kept.qmxBody {f : RForm} {x : Iss} (h : Kept s₀ s) : (qmxBody f x s).Kept s₀ := Kept.flagBody h fun _ => ⟨rfl, rfl⟩

theorem Kept.xaccBody {f : RForm} {x : Iss} (h : Kept s₀ s) : (xaccBody f x s).Kept s₀ := by
  unfold Machine.xaccBody
  dsimp only
  split
  · exact .trap h
  · exact h.flagBody fun b => List.foldlRecOn (motive := b.AtPlace) _ _ (.refl b) fun _ h _ _ => h.bankWrite

theorem Kept.xrndBody {f : RForm} {x : Iss} (h : Kept s₀ s) : (xrndBody f x s).Kept s₀ := by
  unfold Machine.xrndBody
  dsimp only
  split
  · exact .trap h
  · exact Kept.flagBody h fun _ => ⟨rfl, rfl⟩

theorem Kept.xclrBody {f : RForm} {x : Iss} (h : Kept s₀ s) : (xclrBody f x s).Kept s₀ := by
  unfold Machine.xclrBody
  split
  · exact .trap h
  · exact .done (h.modBatt fun b => List.foldlRecOn (motive := b.AtPlace) _ _ (.refl b) fun _ h _ _ => h.bankWrite)

theorem Kept.lredBody {f : RForm} {x : Iss} (h : Kept s₀ s) : (lredBody f x s).Kept s₀ :=
  h.flagBody fun b => ite_of (P := b.AtPlace) ⟨rfl, rfl⟩ (ite_of ⟨rfl, rfl⟩ ⟨rfl, rfl⟩)

/-! ### Fetching and decoding the next word of a batt, and placing a word where the next fetch reads it -/

theorem Kept.fetchReads {core space : Nat} {pc : DWord} (h : Kept s₀ s) : Kept s₀ (s.fetchReads core space pc) := by
  unfold State.fetchReads
  dsimp only
  split
  · exact .ite (.ite h (.tlbFill h)) (.l2Read (.ite h (.tlbFill h)))
  · exact .ite h (.tlbFill h)

theorem Kept.icacheFill {core space : Nat} {pc : DWord} {loc : Loc} {w : DWord} (h : Kept s₀ s) : Kept s₀ (s.icacheFill core space pc loc w)
    := by
  unfold State.icacheFill
  dsimp only
  split
  · exact .regionReads (.ite (.fetchReads h) (.modCore (.fetchReads h) fun _ ok => ok.same))
  · exact .ite (.fetchReads h) (.modCore (.fetchReads h) fun _ ok => ok.same)

/-! ### Signature and peat-store words -/

theorem Batt.AtPlace.setV {b₀ b : Batt} {n : Nat} {m : Mask} {v : Nat → Word} (h : b₀.AtPlace b) : b₀.AtPlace (b.setV n m v) := h.same

theorem Batt.AtPlace.setQuad {b₀ b : Batt} {n : Nat} {m : Mask} {v : Nat → DWord × DWord} (h : b₀.AtPlace b) :
    b₀.AtPlace (b.setQuad n m v) :=
  h.same

theorem Kept.sigiBody {f : RForm} {x : Iss} (h : Kept s₀ s) : (sigiBody f x s).Kept s₀ := by
  unfold Machine.sigiBody
  exact .done (h.modBatt fun b => Batt.AtPlace.setV (.setQuad (.refl b)))

theorem Kept.sigaBody {f : RForm} {x : Iss} (h : Kept s₀ s) : (sigaBody f x s).Kept s₀ := by
  unfold Machine.sigaBody
  exact .done (h.putBatt (Batt.AtPlace.setV (.setQuad (.refl _))))

theorem Kept.sigfBody {f : RForm} {x : Iss} (h : Kept s₀ s) : (sigfBody f x s).Kept s₀ := by
  unfold Machine.sigfBody
  exact .done (h.putBatt (Batt.AtPlace.setQuad (.refl _)))

theorem Kept.sigqBody {f : RForm} {x : Iss} (h : Kept s₀ s) : (sigqBody f x s).Kept s₀ := by
  unfold Machine.sigqBody
  exact .done (h.putBatt (Batt.AtPlace.setQuad (.refl _)))

theorem Batt.AtPlace.putHits {b₀ b : Batt} {f : RForm} {m : Mask} {hits : List (MemoUnit × List Byte)} (h : b₀.AtPlace b) :
    b₀.AtPlace (b.putHits f m hits) := ite_of h.same (.foldl h.same fun _ _ h => h.same)

theorem Batt.AtPlace.memoAdd {b₀ b : Batt} {hits misses fills fails : Nat} (h : b₀.AtPlace b) :
    b₀.AtPlace (b.memoAdd hits misses fills fails) := by
  cases b
  exact ⟨h.1, h.2⟩

theorem InPlace.memoAdd {g : Batt → Batt} {hits misses fills fails : Nat} (place : InPlace g) :
    InPlace fun b => (g b).memoAdd hits misses fills fails := fun b =>
  Batt.AtPlace.memoAdd (place b)

theorem Kept.mlookBody {f : RForm} {x : Iss} (h : Kept s₀ s) : (mlookBody f x s).Kept s₀ := by
  unfold Machine.mlookBody
  dsimp only
  split
  · exact .yielded h.killUnreadable
  · exact .done (h.modBatt fun b => Batt.AtPlace.putHits ⟨rfl, rfl⟩)
  · exact .done (h.modCluster.modBatt (.memoAdd fun b => Batt.AtPlace.putHits ⟨rfl, rfl⟩))

theorem Kept.mfillBody {f : RForm} {x : Iss} (h : Kept s₀ s) : (mfillBody f x s).Kept s₀ := by
  unfold Machine.mfillBody
  extract_lets b k
  split
  · exact .yielded h.killUnreadable
  · extract_lets acc u m
    have filled : Kept s₀ u := h.modCluster.modBatt (.memoAdd fun _ => ⟨rfl, rfl⟩)
    exact .ite (.trap (filled.modBatt fun _ => ⟨rfl, rfl⟩)) (.done filled)

theorem Kept.sendMinv {x : Iss} {kind : MinvKind} (h : Kept s₀ s) : Kept s₀ (s.sendMinv x kind) := h.same

theorem Kept.execMinvStoreApply {cluster : Nat} (h : Kept s₀ s) : ExecKept s₀ (execMinvStoreApply cluster s) := by
  unfold Machine.execMinvStoreApply
  split
  · exact .next (.modCluster h)
  · exact .next h

/-! ### TRAP, BRK and the containment words CONTO, CONTC, CONTS -/

theorem Kept.contoBody {f : RForm} {x : Iss} (h : Kept s₀ s) : (contoBody f x s).Kept s₀ :=
  .ite (.trap h) (.ite (.trap h) (.ite (.trap h) (.done (.modBatt h fun _ => ⟨rfl, rfl⟩))))

theorem Kept.contcBody {x : Iss} (h : Kept s₀ s) : (contcBody x s).Kept s₀ := .ite (.trap h) (.done (.closeRegion h))

theorem Kept.contsBody {f : RForm} {x : Iss} (h : Kept s₀ s) : (contsBody f x s).Kept s₀ :=
  .done (.modBatt (.ite (.harden h) h) fun _ => ⟨rfl, rfl⟩)

/-! ### LAUNCH and DRAW -/

theorem Kept.discardCode {space : Nat} (h : Kept s₀ s) : Kept s₀ (s.discardCode space) := .mapCores h fun _ ok => ite_of ok (ok.same)

theorem Kept.enqueue {core slot : Nat} {l : Launch} (h : Kept s₀ s) : Kept s₀ (s.enqueue core slot l) := .pendToken (.modDev h.same)

theorem Kept.launchView {core point : Nat} (h : Kept s₀ s) : Kept s₀ (s.launchView core point) :=
  .ite (.acquireDevice h) (.drainUpTo (.acquireDevice h))

theorem Kept.recordReads {b : Batt} {addr : DWord} {l : Launch} (h : Kept s₀ s) : Kept s₀ (s.recordReads b addr l) := by
  unfold State.recordReads
  refine .foldl ?_ fun _ _ h => .objectReads h
  split
  · exact .objectReads (.objectReads h)
  · exact .objectReads h

theorem Kept.launchRest {x : Iss} {token addrReg point : Nat} {draw : Bool} (h : Kept s₀ s) : (s.launchRest x token addrReg point draw).Kept
    s₀ := by
  unfold State.launchRest
  dsimp only
  split
  · exact .trap (.launchView h)
  · exact .trap (.launchView h)
  · exact .done (.enqueue (.discardCode (.recordReads (.launchView h))))

theorem Kept.launchBody {f : RForm} {draw : Bool} {x : Iss} (h : Kept s₀ s) : (launchBody f draw x s).Kept s₀ := by
  unfold Machine.launchBody
  extract_lets space
  have released : Kept s₀ ((s.hardenOpen x.core x.slot).releaseDevice x.core space 2).2 := h.hardenOpen.releaseDevice
  generalize (s.hardenOpen x.core x.slot).releaseDevice x.core space 2 = r at released ⊢
  exact .ite released.launchRest (.wait (released.modBatt fun _ => ⟨rfl, rfl⟩))

theorem Kept.endWaiting {x : Iss} {r : Body} (h : Kept s₀ s) (body : r.Kept s₀) : Kept s₀ (endWaiting x r s) := by
  cases body with
  | done h => exact h.modBatt fun b => (Batt.AtPlace.refl b).finishTurn
  | trap h => exact .takeTrap (h.modBatt fun b => (Batt.AtPlace.refl b).finishTurn)
  | _ => exact h

theorem Kept.execLaunchEnqueue {core slot : Nat} (h : Kept s₀ s) : ExecKept s₀ (execLaunchEnqueue core slot s) := by
  unfold Machine.execLaunchEnqueue
  split
  · exact .next h
  · split
    · refine .ite (.next h) ?_
      split
      · exact .next (.endWaiting h (Kept.launchRest h))
      · exact .next (.endWaiting h (Kept.launchRest h))
      · exact .next h
    · exact .next h

theorem Kept.sideWrite {space : Nat} {va : DWord} {bs : List Byte} (h : Kept s₀ s) (e : s.sideWrite space va bs = .inr t) : Kept s₀ t := by
  unfold State.sideWrite at e
  split at e
  · cases e
  · cases e
    exact .l2HitAll (.foldl h fun _ _ h => h.applyAt)

theorem Kept.sideStore {space : Nat} {va : DWord} {bs : List Byte} (h : Kept s₀ s) : Kept s₀ (s.sideStore space va bs) := by
  unfold State.sideStore
  split
  · exact h
  next e => exact h.sideWrite e

theorem Kept.giveToken {owner : BattId} {token : Nat} {v : DWord} (h : Kept s₀ s) : Kept s₀ (s.giveToken owner token v) := by
  unfold State.giveToken
  split
  · exact .writeToken h
  · exact .foldl h.same fun _ _ h => .sideStore (.sideStore h)

theorem Kept.settleContext {space : Nat} (h : Kept s₀ s) : Kept s₀ (s.settleContext space) :=
  .foldl (.writeBackAll h) fun _ _ h => .ite h (.fullEntries h)

theorem Kept.execLaunchRetirement {lnum : Nat} (h : Kept s₀ s) : ExecKept s₀ (execLaunchRetirement lnum s) := by
  unfold Machine.execLaunchRetirement
  split
  · exact .next h
  · exact .ite (.next h) (.next (.giveToken (.same (.dropMarks (.ite h (.settleContext h))))))

/-! ### Pre-emption -/

theorem Kept.battSettle {core slot : Nat} (h : Kept s₀ s) : Kept s₀ (s.battSettle core slot) := by
  unfold State.battSettle
  extract_lets u b v w y
  have withdrawn : Kept s₀ v := h.completeEngines.settleHalted.withdraw
  have ready : Kept s₀ w := withdrawn.modBatt fun b => by split <;> exact ⟨rfl, rfl⟩
  exact ready.settleTrapIf.writeBackL1Unit.fullEntries

theorem Kept.saveBatt {core slot : Nat} {set : List Nat} (h : Kept s₀ s) : Kept s₀ (s.saveBatt core slot set) :=
  .dropBatt (.modFelt (.modLaunch (.modCtx (.modCore h.same fun _ ok => ok.filter))))

theorem Kept.execBattSave {core slot : Nat} (h : Kept s₀ s) : ExecKept s₀ (execBattSave core slot s) := by
  unfold Machine.execBattSave
  split
  · exact .next h
  · refine .ite (.next h) ?_
    split
    · exact .next h.killUnreadable
    · exact .next h
    · extract_lets u b
      have settled : Kept s₀ u := h.battSettle
      clear_value u
      refine .ite (.next settled) ?_
      split
      · exact .next settled.killUnreadable
      · exact .next settled.saveBatt.fetchRuns

theorem Kept.restoreFails {space cause : Nat} {addr : DWord} (h : Kept s₀ s) : Kept s₀ (s.restoreFails space cause addr) := .killUnreadable h

theorem Kept.writeParts {space base : Nat} {parts : List (Nat × List Byte)} (h : Kept s₀ s) (e : s.writeParts space base parts = .inr t) :
    Kept s₀ t := by
  induction parts generalizing s with
  | nil => cases e; exact h
  | cons p rest ih =>
    unfold State.writeParts at e
    split at e
    · cases e
    next written => exact ih (h.sideWrite written) e

theorem Kept.saveFails {space cause : Nat} {addr : DWord} {who : Option BattImage} (h : Kept s₀ s) : Kept s₀ (s.saveFails space cause addr
    who) :=
  .killContext (.addRecord h)

theorem Kept.cmdMessage (h : Kept s₀ s) : Kept s₀ s.cmdMessage := .ite (.emit h) h

theorem Kept.markSaved {space base : Nat} {p : SavePlan} (h : Kept s₀ s) : Kept s₀ (s.markSaved space base p) :=
  .cmdMessage (.modCtx (.same (.same (.foldl h fun _ _ h => .dropFelt h))))

theorem Kept.completePreempt {ctx : Nat} (h : Kept s₀ s) : Kept s₀ (s.completePreempt ctx) := by
  unfold State.completePreempt
  refine .ite h ?_
  dsimp only
  split
  · exact h.saveFails
  · split
    · exact .ite h.markSaved h.saveFails
    · split
      · exact h.restoreFails
      · split
        · exact h.saveFails
        next e => exact (h.writeParts e).markSaved.fetchRuns

theorem Kept.execPreemptComplete {ctx : Nat} (h : Kept s₀ s) : ExecKept s₀ (execPreemptComplete ctx s) := .next (.completePreempt h)

theorem Kept.restNow {b : Batt} (h : Kept s₀ s) : Kept s₀ (s.restNow b) := by
  unfold State.restNow
  split
  · exact .modBatt h fun _ => ⟨rfl, rfl⟩
  · exact h

theorem Kept.startPreempt {ctx : Nat} (h : Kept s₀ s) : Kept s₀ (s.startPreempt ctx) :=
  .completePreempt (.shelve (.foldl (.modCtx h) fun _ _ h => .restNow h))

theorem Kept.startRestore {ctx : Nat} (h : Kept s₀ s) : Kept s₀ (s.startRestore ctx) := .others (.modCtx h)

/-! ### The dispatcher and the issue queues -/

theorem Kept.startLaunches (h : Kept s₀ s) : Kept s₀ s.startLaunches := .foldl h fun _ _ h => .ite (.modLaunch h) h

theorem Kept.claimLaunch {l : Launch} (h : Kept s₀ s) : Kept s₀ (s.claimLaunch l) := .modLaunch h

theorem Kept.claimCbars {l : Launch} {c n : Nat} (h : Kept s₀ s) : Kept s₀ (s.claimCbars l c n) := .modLaunch h

/-- A batt joins the others at a place where none stands. -/
theorem Kept.addBatt {b : Batt} (h : Kept s₀ s) (empty : s.batt? b.core b.slot = none) : Kept s₀ { s with batts := s.batts ++ [b] } := by
  refine { h with places := fun ok => ?_ }
  rw [List.map_append, List.nodup_append]
  refine ⟨h.places ok, List.nodup_singleton _, fun a ha c hc => ?_⟩
  obtain ⟨d, mem, rfl⟩ := List.mem_map.1 ha
  obtain rfl : c = (b.core, b.slot) := by simpa using hc
  intro same
  obtain ⟨core, slot⟩ := Prod.ext_iff.1 same
  exact List.find?_eq_none.1 empty d mem (by simpa using ⟨core, slot⟩)

theorem Kept.seat {b : Batt} (h : Kept s₀ s) : Kept s₀ (s.seat b) := by
  unfold State.seat
  split
  · exact h
  next empty =>
    have joined := h.addBatt (b := b) (by simpa using empty)
    exact .ite joined.joinReady joined

theorem Kept.seatFelt {l : Launch} {f : Felt} {recipes : List RecipeSlot} {members : Nat} (h : Kept s₀ s) : Kept s₀ (s.seatFelt l f recipes
    members) :=
  .acquireDevice (.setPartition (.others (.modCore (.claimCbars (.fetchRuns h)) fun _ ok => ok.same)))

theorem Kept.placeFelt {l : Launch} {c : Nat} (h : Kept s₀ s) : Kept s₀ (s.placeFelt l c) := by
  unfold State.placeFelt
  split
  · exact .killUnreadable h
  · exact .modDev (.modLaunch (.foldl (.seatFelt h) fun _ _ h => .seat h))

theorem Kept.placeVertex {l : Launch} {p : Pass} {d : DrawInfo} {c : Nat} (h : Kept s₀ s) : Kept s₀ (s.placeVertex l p d c) := by
  unfold State.placeVertex
  split
  · exact .killUnreadable h
  · exact .modDev (.modLaunch (.seat (.seatFelt h)))

theorem Kept.placePixel {l : Launch} {p : Pass} {info : PixelInfo} {regs : List VReg} {c : Nat} (h : Kept s₀ s) : Kept s₀ (s.placePixel l p
    info regs c) := by
  unfold State.placePixel
  split
  · exact .killUnreadable h
  · exact .modDev (.modLaunch (.seat (.seatFelt h)))

theorem Kept.restoreEntry {c : Nat} {e : LogEntry} (h : Kept s₀ s) : Kept s₀ (s.restoreEntry c e) :=
  .modCore (.ite h h.fullLog) fun _ ok => ok.append rfl

theorem Kept.seatRestored {l : Launch} {m : BattImage} {bs : List Byte} {c q : Nat} (h : Kept s₀ s) : Kept s₀ (s.seatRestored l m bs c q) :=
    by
  unfold State.seatRestored
  dsimp only
  split
  · exact .resumeTrap (.foldl (.ite (.modCore (.modCluster (.seat h)) fun _ ok => ok.same) (.modCluster (.seat h))) fun _ _ h =>
      .restoreEntry h)
  · exact .foldl (.ite (.modCore (.modCluster (.seat h)) fun _ ok => ok.same) (.modCluster (.seat h))) fun _ _ h => .restoreEntry h

theorem Kept.claimSaved {l : Launch} {block : DWord} (h : Kept s₀ s) (e : s.claimSaved l block = .ok t) : Kept s₀ t := by
  unfold State.claimSaved at e
  split at e
  · cases e
  · cases e
    exact h.fetchRuns.modLaunch

theorem Kept.thaw {lnum : Nat} (h : Kept s₀ s) : Kept s₀ (s.thaw lnum) := by
  unfold State.thaw
  split
  · exact h
  · exact .ite h (.foldl (.modLaunch h) fun _ _ h => .noteRefusals (.putBar h))

theorem Kept.placeSaved {l : Launch} {sf : SavedFelt} {c : Nat} (h : Kept s₀ s) : Kept s₀ (s.placeSaved l sf c) := by
  unfold State.placeSaved
  split
  · exact .killUnreadable h
  · exact .restoreFails h
  · refine .thaw (.modDev (.modLaunch (.modCtx (.foldl (.acquireSystem (.drainUpTo (.seatFelt (.fetchRuns h)))) fun _ _ h => ?_))))
    split
    · exact .seatRestored h
    · exact h

theorem Kept.claimFirst {l : Launch} (h : Kept s₀ s) (e : s.claimFirst l = .ok t) : Kept s₀ t := by
  unfold State.claimFirst at e
  split at e
  · cases e; exact h
  · dsimp only at e
    split at e
    · exact h.discardCode.claimSaved e
    · cases e; exact h.discardCode.claimLaunch

/-! ### VOUT, IPA, TEX, TLD, FOUT, MLRES, MLRD and MLCLR -/

theorem Kept.undefTrap {x : Iss} (h : Kept s₀ s) : (undefTrap x s).Kept s₀ := .trap h

theorem Kept.voutBody {f : RForm} {x : Iss} (h : Kept s₀ s) : (voutBody f x s).Kept s₀ := by
  unfold Machine.voutBody
  dsimp only
  split
  · exact Kept.undefTrap h
  · exact Kept.reportOr h fun _ => .ite .stall (.done (.storeDone h))

theorem Kept.ipaBody {f : RForm} {x : Iss} (h : Kept s₀ s) : (ipaBody f x s).Kept s₀ := by
  unfold Machine.ipaBody
  dsimp only
  split
  · split
    · exact .done (.modBatt (.fetchRuns h) fun _ => ⟨rfl, rfl⟩)
    · exact .stall
  · exact Kept.undefTrap h

theorem Kept.foutBody {f : RForm} {x : Iss} (h : Kept s₀ s) : (foutBody f x s).Kept s₀ := by
  unfold Machine.foutBody
  dsimp only
  split
  · exact Kept.undefTrap h
  · exact .done (.modBatt h fun _ => ⟨rfl, rfl⟩)

theorem Kept.fourResult {x : Iss} {d : Nat} {bad : List LaneCause} {v : Nat → List Word} (h : Kept s₀ s) : (fourResult x d bad v s).Kept s₀ :=
    by
  unfold Machine.fourResult
  refine .ite (.done (.addOp h)) ?_
  split
  · exact .trap h
  · exact .done (.modBatt h fun _ => ⟨rfl, rfl⟩)

theorem Kept.fourReturn {core slot d : Nat} {o : Op} (h : Kept s₀ s) : Kept s₀ (s.fourReturn core slot d o) :=
  .endOp (.ite (.noteTrap (.giveBack h)) (.modBatt h fun _ => ⟨rfl, rfl⟩))

theorem Kept.textureOf {x : Iss} {f : RForm} {r : Body} (h : Kept s₀ s) (e : s.textureOf x f = .inl r) : r.Kept s₀ := by
  unfold State.textureOf at e
  split at e
  · cases e; exact h.undefTrap
  · split at e
    · cases e; exact .trap h
    · cases e

theorem Kept.texFills {x : Iss} {accs : List LaneAcc} (h : Kept s₀ s) : Kept s₀ (s.texFills x accs) := .drewHost (.loadFills h)

theorem Kept.texRead {x : Iss} {f : RForm} {t : TexDesc} {lanes : List LaneTexels} (h : Kept s₀ s) : (s.texRead x f t lanes).Kept s₀ :=
  Kept.reportOr h fun _ => Kept.fourResult (.texFills (.loadSettle h))

theorem Kept.texBody {f : RForm} {x : Iss} (h : Kept s₀ s) : (texBody f x s).Kept s₀ := by
  unfold Machine.texBody
  split
  next e => exact h.textureOf e
  · exact h.texRead

theorem Kept.tldBody {f : RForm} {x : Iss} (h : Kept s₀ s) : (tldBody f x s).Kept s₀ := by
  unfold Machine.tldBody
  split
  next e => exact h.textureOf e
  · exact h.texRead

theorem Kept.targetAt {x : Iss} {a : DWord} {access : Nat} {r : Body} (h : Kept s₀ s) (e : s.targetAt x a access = .inl r) : r.Kept s₀ := by
  unfold State.targetAt at e
  dsimp only at e
  split at e
  · cases e; exact .trap h
  · split at e
    · cases e; exact .fault h
    · cases e; exact .trap h
    · split at e
      · cases e; exact .trap h
      · split at e
        · split at e
          · cases e
          · cases e; exact .trap h
        · cases e; exact .trap h

theorem Kept.withTarget {x : Iss} {a : DWord} {access : Nat} {k : TargetDesc → Body} (h : Kept s₀ s) (rest : ∀ t, (k t).Kept s₀) :
    (s.withTarget x a access k).Kept s₀ := by
  unfold State.withTarget
  split
  next e => exact h.targetAt e
  · exact rest _

theorem Kept.listFills {x : Iss} {accs : List LaneAcc} (h : Kept s₀ s) : Kept s₀ (s.listFills x accs) :=
  .drewHost (.loadFills (.loadSettle h))

theorem Kept.listResult {x : Iss} {f : RForm} {t : TargetDesc} {value : Nat → List Node → List Word} (h : Kept s₀ s) : (s.listResult x f t
    value).Kept s₀ :=
  Kept.reportOr (.listFills (.objectReads h)) fun _ => Kept.fourResult (.listFills (.objectReads h))

theorem Kept.mlresBody {f : RForm} {x : Iss} (h : Kept s₀ s) : (mlresBody f x s).Kept s₀ := Kept.withTarget h fun _ => Kept.listResult h

theorem Kept.mlresLayerBody {f : RForm} {x : Iss} (h : Kept s₀ s) : (mlresLayerBody f x s).Kept s₀ :=
  Kept.withTarget h fun _ => Kept.listResult h

theorem Kept.mlrdBody {f : RForm} {x : Iss} (h : Kept s₀ s) : (mlrdBody f x s).Kept s₀ := Kept.withTarget h fun _ => Kept.listResult h

theorem Kept.mlclrBody {f : RForm} {x : Iss} (h : Kept s₀ s) : (mlclrBody f x s).Kept s₀ :=
  Kept.withTarget h fun _ => Kept.pageReport h (.done (.enqueueCopy (.objectReads h)))

/-! ### The steps of a render pass -/

theorem Kept.pipeWrite {space : Nat} {va : DWord} {bs : List Byte} (h : Kept s₀ s) : KeptIf s₀ (s.pipeWrite space va bs) := by
  unfold State.pipeWrite
  split
  · exact .none
  next e => exact .some (h.sideWrite e)

theorem Kept.pipeWrites {space : Nat} {ws : List (DWord × List Byte)} (h : Kept s₀ s) : KeptIf s₀ (s.pipeWrites space ws) := by
  induction ws generalizing s with
  | nil => exact .some h
  | cons w rest ih => exact .bind fun u hu => ih (h.pipeWrite u hu)

theorem Kept.putPass {lnum : Nat} {p : Pass} (h : Kept s₀ s) : Kept s₀ (s.putPass lnum p) := .modLaunch h

theorem Kept.drawFails {space : Nat} {a : DWord} (h : Kept s₀ s) : Kept s₀ (s.drawFails space a) := .killContext (.addRecord h)

theorem Kept.runDraw {l : Launch} {p : Pass} {d : DrawInfo} (h : Kept s₀ s) : KeptIf s₀ (State.beginDraw.run l p d s) :=
  .map fun u hu => (h.pipeWrite u hu).modLaunch

theorem Kept.beginDraw {l : Launch} {p : Pass} {d : DrawInfo} (h : Kept s₀ s) : KeptIf s₀ (s.beginDraw l p d) := by
  unfold State.beginDraw
  dsimp only
  split
  · exact .none
  · split
    · exact .ite (.some h.putPass.modCluster) h.runDraw
    · exact h.runDraw

theorem Kept.execDrawStart {lnum : Nat} (h : Kept s₀ s) : ExecKept s₀ (execDrawStart lnum s) := by
  unfold Machine.execDrawStart
  split
  · exact .next h
  · refine .ite (.next h) ?_
    dsimp only
    split
    · exact .next h.drawFails
    · refine .ite (.next h.drawFails) ?_
      split
      · exact .next h.drawFails
      · split
        · exact .next h.killUnreadable
        · exact .next h.killUnreadable
        · exact KeptIf.orStay (.bind fun _ _ => .map fun u hu => (h.beginDraw u hu).fetchRuns) h

theorem Kept.execVertexCacheValidate {lnum : Nat} (h : Kept s₀ s) : ExecKept s₀ (execVertexCacheValidate lnum s) := by
  unfold Machine.execVertexCacheValidate
  split
  · exact .next h
  · split
    · exact .next h
    · refine .ite (.next h) ?_
      extract_lets u
      have drained : Kept s₀ u := .foldl h fun _ _ h => .ite h h.fullEntries
      exact KeptIf.orStay (.map fun v hv => (KeptIf.ite drained.pipeWrite (.some drained) v hv).putPass) h

theorem Kept.savePass {l : Launch} {p : Pass} (h : Kept s₀ s) : KeptIf s₀ (s.savePass l p) := .map fun u hu => (h.pipeWrite u hu).putPass

theorem Kept.saveTile {l : Launch} {p : Pass} {tile : Nat} {t : Tile} (h : Kept s₀ s) {u : State × Pass} (hu : u ∈ s.saveTile l p tile t) :
    Kept s₀ u.1 := by
  obtain ⟨v, hv, rfl⟩ := Option.map_eq_some_iff.1 hu
  exact h.pipeWrite v hv

theorem Kept.beginBinning {l : Launch} {p : Pass} (h : Kept s₀ s) {u : State × Pass} (hu : u ∈ s.beginBinning l p) : Kept s₀ u.1 := by
  unfold State.beginBinning at hu
  split at hu
  · cases hu; exact h
  · dsimp only at hu
    split at hu
    · cases hu
    · obtain ⟨st, -, hu⟩ := Option.bind_eq_some_iff.1 hu
      obtain ⟨v, hv, rfl⟩ := Option.map_eq_some_iff.1 hu
      exact (h.pipeWrite v hv).fetchRuns

theorem Kept.binTri {l : Launch} {p : Pass} {d : DrawInfo} (h : Kept s₀ s) : KeptIf s₀ (s.binTri l p d) := by
  refine .bind fun vs _ => ?_
  split
  · exact h.savePass
  · exact .ite h.savePass (.ite (.some h.putPass) (.bind fun u hu => (h.pipeWrites u hu).savePass))

theorem Kept.execTriangleBin {lnum : Nat} (h : Kept s₀ s) : ExecKept s₀ (execTriangleBin lnum s) := by
  unfold Machine.execTriangleBin
  split
  · exact .next h
  · refine .ite (.next h) (KeptIf.orStay (.bind fun ⟨u, q⟩ hu => ?_) h)
    have begun : Kept s₀ u := h.beginBinning hu
    dsimp only
    split
    · exact .none
    · exact .map fun v hv => (begun.binTri v hv).fetchRuns

theorem Kept.startTile {l : Launch} {p : Pass} {tile : Nat} (h : Kept s₀ s) : KeptIf s₀ (s.startTile l p tile) :=
  .map fun _ _ => h.putPass.fetchRuns

theorem Kept.formEntry {l : Launch} {p : Pass} {w : TileWork} (h : Kept s₀ s) : KeptIf s₀ (s.formEntry l p w) := by
  unfold State.formEntry
  split
  · exact .none
  · split
    · exact .none
    · exact .map fun _ _ => h.putPass.fetchRuns

theorem Kept.endTile {l : Launch} {p : Pass} {w : TileWork} (h : Kept s₀ s) : KeptIf s₀ (s.endTile l p w) :=
  .ite (.bind fun u hu => .bind fun _ hv => ((h.pipeWrites u hu).saveTile hv).savePass) (.map fun u hu => (h.pipeWrites u hu).putPass)

theorem Kept.restTile {l : Launch} {p : Pass} {w : TileWork} (h : Kept s₀ s) : KeptIf s₀ (s.restTile l p w) :=
  .bind fun u hu => .map fun _ hv => ((h.pipeWrites u hu).saveTile hv).putPass

theorem Kept.restPass {lnum : Nat} (h : Kept s₀ s) : Kept s₀ (s.restPass lnum) := by
  unfold State.restPass
  refine .foldl h fun _ _ h => ?_
  split
  · split
    · exact h.restTile.getD h
    · exact h
  · exact h

theorem Kept.preempt {ctx : Nat} (h : Kept s₀ s) : Kept s₀ (s.preempt ctx) := .startPreempt (.ite h (.foldl h fun _ _ h => .restPass h))

theorem Kept.openTile {l : Launch} {p : Pass} {tile : Nat} (h : Kept s₀ s) : KeptIf s₀ (s.openTile l p tile) :=
  .ite .none (.ite (.ite .none h.startTile) (.ite
    (.bind fun _ _ => .map fun u hu => (KeptIf.ite (.some h.putPass.modCluster) h.startTile u hu).fetchRuns) .none))

theorem Kept.execTileRender {lnum tile : Nat} (h : Kept s₀ s) : ExecKept s₀ (execTileRender lnum tile s) := by
  unfold Machine.execTileRender
  split
  · exact .next h
  · dsimp only
    split
    · exact .ite (.next h) (h.openTile.orStay h)
    · exact .ite (.ite (.next h) (h.restTile.orStay h))
        (.ite (.next h) (.ite (h.formEntry.orStay h) (.ite (.next h) (h.endTile.orStay h))))

theorem Kept.endExit {owner : BattId} (h : Kept s₀ s) : Kept s₀ (s.endExit owner) := by
  unfold State.endExit
  split
  · exact h
  · split
    · exact .ite h (.exitLanes (.modBatt h fun b => (Batt.AtPlace.refl b).countTurn))
    · exact h

theorem Kept.poolExhausted {space : Nat} {p : Pass} {g : Fragment} (h : Kept s₀ s) : Kept s₀ (s.poolExhausted space p g) := by
  unfold State.poolExhausted
  dsimp only
  split
  · exact .modCtx h
  · split
    · exact .takeTrap (.modBatt (.modCtx h) fun b => (Batt.AtPlace.refl b).countTurn)
    · exact .modCtx h

theorem Kept.commitFragment {l : Launch} {p : Pass} {g : Fragment} (h : Kept s₀ s) : KeptIf s₀ (s.commitFragment l p g) := by
  refine .ite (.bind fun _ _ => .bind fun _ _ => .map fun u hu => .fetchRuns ?_) (.some h.putPass.endExit)
  dsimp only at hu
  split at hu
  · cases hu; exact h.poolExhausted
  · exact KeptIf.map (fun v hv => (h.pipeWrites v hv).putPass.endExit) u hu
  · exact KeptIf.map (fun v hv => (h.pipeWrites v hv).putPass.endExit) u hu

theorem Kept.execFragmentCommit {lnum : Nat} (h : Kept s₀ s) : ExecKept s₀ (execFragmentCommit lnum s) := by
  unfold Machine.execFragmentCommit
  split
  · exact .next h
  · split
    · exact .next h
    · exact h.commitFragment.orStay h

theorem Kept.execPassRetirement {lnum : Nat} (h : Kept s₀ s) : ExecKept s₀ (execPassRetirement lnum s) := by
  unfold Machine.execPassRetirement
  split
  · exact .next h
  · exact .ite (.next h) (KeptIf.orStay (.bind fun u hu => (h.pipeWrites u hu).savePass) h)

theorem Kept.place {l : Launch} {n : NextFelt} {c : Nat} (h : Kept s₀ s) : Kept s₀ (s.place l n c) := by
  unfold State.place
  split
  · exact .placeSaved h
  · exact .placeFelt h
  · exact .placeVertex h
  · exact .placePixel h

theorem Kept.execDispatchCycle (h : Kept s₀ s) : ExecKept s₀ (execDispatchCycle s) := by
  unfold Machine.execDispatchCycle
  dsimp only
  split
  · exact .next h.startLaunches
  · split
    · exact .next h.startLaunches.restoreFails
    next e =>
      have claimed := h.startLaunches.claimFirst e
      split
      · exact .next claimed.place
      · exact .next claimed

/-! ### The steps of the memory system, the engines and the issue queues -/

theorem Kept.resolve {core slot : Nat} (h : Kept s₀ s) : Kept s₀ (s.resolve core slot) := by
  unfold State.resolve
  split
  · exact h
  · exact .ite (.joinReady h) h

theorem Kept.execDependenceResolved {core slot : Nat} (h : Kept s₀ s) : ExecKept s₀ (execDependenceResolved core slot s) := .next (.resolve h)

theorem Kept.execActivePositionFill {core quarter : Nat} (h : Kept s₀ s) : ExecKept s₀ (execActivePositionFill core quarter s) := by
  unfold Machine.execActivePositionFill
  dsimp only
  split
  · exact .next (.modQuarter h)
  · exact .next h

theorem Kept.execLoadReturn {core slot op : Nat} (h : Kept s₀ s) : ExecKept s₀ (execLoadReturn core slot op s) := by
  unfold Machine.execLoadReturn
  split
  · exact .next h
  · split
    · exact .next (.loadReturnOf h)
    · exact .next (.loadReturnOf h)
    · exact .next (.fourReturn h)
    · exact .next (.fourReturn h)
    · exact .next (.fourReturn h)
    · exact .next (.fourReturn h)
    · exact .next (.fourReturn h)
    · exact .next h

theorem Kept.execAtomicAtHome {core slot op : Nat} (h : Kept s₀ s) : ExecKept s₀ (execAtomicAtHome core slot op s) := by
  unfold Machine.execAtomicAtHome
  split
  · exact .next h
  next o _ =>
    refine .ite (.next h) ?_
    have performed (f) : Kept s₀ (s.performOp core slot f o).2 := h.performOp
    split
    next f _ =>
      have done := performed f
      generalize s.performOp core slot f o = r at done ⊢
      obtain ⟨rs, u⟩ := r
      exact .next done.modOp
    next f _ =>
      have done := performed f
      generalize s.performOp core slot f o = r at done ⊢
      obtain ⟨rs, u⟩ := r
      exact .ite (.next done.modOp) (.next done.endOp)
    · exact .next h

theorem Kept.execAtomReturn {core slot op : Nat} (h : Kept s₀ s) : ExecKept s₀ (execAtomReturn core slot op s) := by
  unfold Machine.execAtomReturn
  split
  · exact .next h
  · split
    · exact .next (.endOp (.ite (.atomReturned h) (.noteTrap (.atomReturned h))))
    · exact .next h

theorem Kept.execRedArrival {core slot op : Nat} (h : Kept s₀ s) : ExecKept s₀ (execRedArrival core slot op s) := by
  unfold Machine.execRedArrival
  split
  · exact .next h
  · split
    · exact .next (.endOp (.redArrive h))
    · exact .next h

theorem Kept.execPutsPayloadRead {core slot op : Nat} (h : Kept s₀ s) : ExecKept s₀ (execPutsPayloadRead core slot op s) := by
  unfold Machine.execPutsPayloadRead
  split
  · exact .next h
  · split
    · refine .ite (.next h) ?_
      split
      · exact .next (.endOp (.noteTrap h))
      · exact .next (.endOp (.putsDeliver h))
    · exact .next h

theorem Kept.execTrapRecordWrite (h : Kept s₀ s) : ExecKept s₀ (execTrapRecordWrite s) :=
  .next (.foldl (.settleHalted h) fun _ _ h => .flushWindow h)

theorem Kept.execFaultRecordWrite {cluster : Nat} (h : Kept s₀ s) : ExecKept s₀ (execFaultRecordWrite cluster s) := .next (.flushFaults h)

theorem Kept.execPageWalk {core space : Nat} {va : DWord} (h : Kept s₀ s) : ExecKept s₀ (execPageWalk core space va s) :=
  .next (.ite (.tlbFill h) h)

theorem Kept.execLogFullRelease {core slot : Nat} (h : Kept s₀ s) : ExecKept s₀ (execLogFullRelease core slot s) :=
  .next (.resolve (.ite (.fullLog h) (.fullEntries h)))

theorem Kept.execLogPinnedRelief {core : Nat} (h : Kept s₀ s) : ExecKept s₀ (execLogPinnedRelief core s) := .next (.ite (.relievePinned h) h)

theorem Kept.execPromotionRequest {core slot target : Nat} (h : Kept s₀ s) : ExecKept s₀ (execPromotionRequest core slot target s) := by
  unfold Machine.execPromotionRequest
  split
  · exact .next h
  · split
    · exact .next h
    · exact .next (.modOp (.promote h))

theorem Kept.execPublicationGrant {core : Nat} (h : Kept s₀ s) : ExecKept s₀ (execPublicationGrant core s) := by
  unfold Machine.execPublicationGrant
  split
  · exact .next h
  · extract_lets u
    have taken : Kept s₀ u := h.modCore fun _ ok => ok.same
    clear_value u
    split
    · exact .next taken
    next slot id _ =>
      split
      · exact .next taken
      · split
        next f _ =>
          have released : Kept s₀ (u.releaseAt core (u.battAt core slot).space (f.mf 1 0)).2 := taken.releaseAt
          generalize u.releaseAt core (u.battAt core slot).space (f.mf 1 0) = r at released ⊢
          obtain ⟨q, v⟩ := r
          have put : Kept s₀ (v.modBatt core slot fun b => b.putRel f q) :=
            released.modBatt fun b => ite_of (P := b.AtPlace) ⟨rfl, rfl⟩ ⟨rfl, rfl⟩
          exact .next put.endOp
        · exact .next taken

theorem Kept.execEarlyPublication {core entry : Nat} (h : Kept s₀ s) : ExecKept s₀ (execEarlyPublication core entry s) :=
  .ite (.next (.publish h)) (.next h)

theorem Kept.execFulling {core : Nat} (h : Kept s₀ s) : ExecKept s₀ (execFulling core s) := by
  unfold Machine.execFulling
  split
  · exact .next h
  · exact .next (.modCore h fun _ ok => ok.mapIf rfl fun _ => rfl)

theorem Kept.execEntryApply {core entry : Nat} (h : Kept s₀ s) : ExecKept s₀ (execEntryApply core entry s) := by
  unfold Machine.execEntryApply
  split
  · exact .next h
  · split
    · exact .ite (.next (.applyEntry h)) (.next h)
    · exact .next h

theorem Kept.execAcquireWaitEnd {core slot : Nat} (h : Kept s₀ s) : ExecKept s₀ (execAcquireWaitEnd core slot s) := by
  unfold Machine.execAcquireWaitEnd
  split
  · exact .next h
  · split
    · exact .next h
    · split
      · exact .next (.endOp (.acquireTo h))
      · exact .next (.endOp (.acquireAt h))

theorem Kept.execL1Eviction {core sector : Nat} (h : Kept s₀ s) : ExecKept s₀ (execL1Eviction core sector s) :=
  .next (.modCore h fun _ ok => ok.same)

theorem Kept.execL1PartitionChange {core : Nat} (h : Kept s₀ s) : ExecKept s₀ (execL1PartitionChange core s) := .next (.setPartition h)

theorem Kept.execL2Eviction {slice line : Nat} (h : Kept s₀ s) : ExecKept s₀ (execL2Eviction slice line s) :=
  .next (.ite (.l2Fit (.evictVictim h)) h)

theorem Kept.execSuperblockCompression {slice block frames : Nat} (h : Kept s₀ s) : ExecKept s₀ (execSuperblockCompression slice block frames
    s) :=
  .ite (.next (.mapIfL2 h fun _ => ⟨rfl, rfl⟩)) (.next h)

theorem Kept.execAtomicUnitWriteback {unit : AtomUnitId} {space : Nat} (h : Kept s₀ s) : ExecKept s₀ (execAtomicUnitWriteback unit space s) :=
    by
  unfold Machine.execAtomicUnitWriteback
  split
  · exact .next (.writeBackL1Unit h)
  · exact .next (.writeBackStore h)

theorem Kept.execWaitMonitorNotice {cluster entry : Nat} (h : Kept s₀ s) : ExecKept s₀ (execWaitMonitorNotice cluster entry s) := by
  unfold Machine.execWaitMonitorNotice
  dsimp only
  split
  · exact .next h
  · refine .ite (.next h) ?_
    split
    · exact .next (.waitaAgain (.modCluster h))
    · exact .next (.modCluster h)

theorem Kept.execWaitaTimedRecheck {core slot : Nat} (h : Kept s₀ s) : ExecKept s₀ (execWaitaTimedRecheck core slot s) := by
  unfold Machine.execWaitaTimedRecheck
  split
  · exact .next h
  · split
    · exact .next (.waitaAgain (.modBatt h fun _ => ⟨rfl, rfl⟩))
    · exact .next h

theorem Kept.execAballocGrant {core : Nat} (h : Kept s₀ s) : ExecKept s₀ (execAballocGrant core s) := .next (.grantBanks h)

theorem Kept.execMatrixPass {core : Nat} {badCol : Option Nat} (h : Kept s₀ s) : ExecKept s₀ (execMatrixPass core badCol s) :=
  .next (.arrayPass h)

theorem Kept.execTfuFetch {core : Nat} (h : Kept s₀ s) : ExecKept s₀ (execTfuFetch core s) := by
  unfold Machine.execTfuFetch
  split
  next o _ =>
    have fetched : Kept s₀ (s.fetchChunk o).2 := h.fetchChunk
    generalize s.fetchChunk o = r at fetched ⊢
    exact .next fetched.putMxi
  · exact .next h

theorem Kept.execMxiCompletion {core : Nat} (h : Kept s₀ s) : ExecKept s₀ (execMxiCompletion core s) := by
  unfold Machine.execMxiCompletion
  split
  · exact .next h
  · exact .ite (.next (.settleHalted (.finishMxi h))) (.next h)

theorem Kept.execCopyCompletion {core : Nat} (h : Kept s₀ s) : ExecKept s₀ (execCopyCompletion core s) := by
  unfold Machine.execCopyCompletion
  split
  · exact .next h
  · exact .ite (.next h) (.next (.settleHalted (.finishCopy h)))

theorem Kept.execPeatPartitionChange {cluster : Nat} (h : Kept s₀ s) : ExecKept s₀ (execPeatPartitionChange cluster s) :=
  .next (.settlePeat h)

/-! ### The host's commands, trap windows and fault windows -/

theorem Kept.endCmd {result : Nat} {cres : DWord} (h : Kept s₀ s) : Kept s₀ (s.endCmd result cres) := .modDev h

theorem Kept.endPlain {result : Nat} (h : Kept s₀ s) : Kept s₀ (s.endPlain result) := .ite (.endCmd h) (.endCmd h.same)

theorem Kept.startCmd {op tgt : Nat} {run : State → State} (h : Kept s₀ s) (runs : ∀ s, Kept s₀ s → Kept s₀ (run s)) :
    Kept s₀ (s.startCmd op tgt run) := .ite h (.ite h.modDev (runs _ h.modDev))

theorem Kept.cmdOn {n tgt : Nat} {run : State → Nat × State} (h : Kept s₀ s) (runs : ∀ s, Kept s₀ s → Kept s₀ (run s).2) :
    Kept s₀ (s.cmdOn n tgt run) := .ite h.endPlain (Kept.endPlain (runs s h))

theorem Kept.cmdSetroot {tgt : Nat} (h : Kept s₀ s) : Kept s₀ (s.cmdSetroot tgt) := by
  unfold State.cmdSetroot
  dsimp only
  refine .cmdOn h fun _ h => ?_
  split
  · exact h
  · exact .modCtx h

theorem Kept.execSetroot {tgt : Nat} (h : Kept s₀ s) : ExecKept s₀ (execSetroot tgt s) := .next (.startCmd h fun _ h => .cmdSetroot h)

theorem Kept.dropTlbs {space : Nat} {r : Nat × Nat} (h : Kept s₀ s) : Kept s₀ (s.dropTlbs space r) :=
  .others (.mapCores h fun _ ok => ite_of ok ok.same)

theorem Kept.tryTlbinv {tgt va len : Nat} (h : Kept s₀ s) : Kept s₀ (s.tryTlbinv tgt va len) := .ite (.dropTlbs h) (.endPlain (.dropTlbs h))

theorem Kept.cmdTlbinv {tgt : Nat} (h : Kept s₀ s) : Kept s₀ (s.cmdTlbinv tgt) := .ite (.endPlain h) (.tryTlbinv h)

theorem Kept.execTlbinv {tgt : Nat} (h : Kept s₀ s) : ExecKept s₀ (execTlbinv tgt s) := .next (.startCmd h fun _ h => .cmdTlbinv h)

theorem Kept.cmdSetsave {tgt : Nat} (h : Kept s₀ s) : Kept s₀ (s.cmdSetsave tgt) := by
  unfold State.cmdSetsave
  dsimp only
  refine .cmdOn h fun _ h => ?_
  split
  · exact h
  · split
    · exact h
    · exact .modCtx h

theorem Kept.execSetsave {tgt : Nat} (h : Kept s₀ s) : ExecKept s₀ (execSetsave tgt s) := .next (.startCmd h fun _ h => .cmdSetsave h)

theorem Kept.cmdPreempt {tgt : Nat} (h : Kept s₀ s) : Kept s₀ (s.cmdPreempt tgt) := by
  unfold State.cmdPreempt
  refine .cmdOn h fun _ h => ?_
  split
  · exact h
  · exact .preempt h

theorem Kept.execPreempt {tgt : Nat} (h : Kept s₀ s) : ExecKept s₀ (execPreempt tgt s) := .next (.startCmd h fun _ h => .cmdPreempt h)

theorem Kept.cmdRestore {tgt : Nat} (h : Kept s₀ s) : Kept s₀ (s.cmdRestore tgt) := by
  unfold State.cmdRestore
  refine .cmdOn h fun _ h => ?_
  split
  · exact h
  · exact .startRestore h

theorem Kept.execRestore {tgt : Nat} (h : Kept s₀ s) : ExecKept s₀ (execRestore tgt s) := .next (.startCmd h fun _ h => .cmdRestore h)

theorem Kept.cmdKill {tgt : Nat} (h : Kept s₀ s) : Kept s₀ (s.cmdKill tgt) := by
  apply Kept.cmdOn h
  intro u hu
  have killed : Kept s₀ (u.killContext tgt 2 0) := hu.killContext
  with_reducible exact killed

theorem Kept.execKill {tgt : Nat} (h : Kept s₀ s) : ExecKept s₀ (execKill tgt s) := .next (.startCmd h fun _ h => .cmdKill h)

theorem Kept.cmdPeatsize {tgt : Nat} (h : Kept s₀ s) : Kept s₀ (s.cmdPeatsize tgt) := by
  unfold State.cmdPeatsize
  dsimp only
  refine .cmdOn h fun _ h => ?_
  split
  · exact h
  · exact .settlePeat (.modCluster h)

theorem Kept.execPeatsize {tgt : Nat} (h : Kept s₀ s) : ExecKept s₀ (execPeatsize tgt s) := .next (.startCmd h fun _ h => .cmdPeatsize h)

theorem Kept.cmdRetire {tgt : Nat} (h : Kept s₀ s) : Kept s₀ (s.cmdRetire tgt) := by
  unfold State.cmdRetire
  dsimp only
  refine .cmdOn h fun _ h => ?_
  split
  · exact h
  · split
    · exact h
    · exact .modCore h fun _ ok => ok.same

theorem Kept.execRetire {tgt : Nat} (h : Kept s₀ s) : ExecKept s₀ (execRetire tgt s) := .next (.startCmd h fun _ h => .cmdRetire h)

theorem Kept.cmdEngstat {tgt : Nat} (h : Kept s₀ s) : Kept s₀ (s.cmdEngstat tgt) := .ite (.endPlain h) (.endCmd h)

theorem Kept.execEngstat {tgt : Nat} (h : Kept s₀ s) : ExecKept s₀ (execEngstat tgt s) := .next (.startCmd h fun _ h => .cmdEngstat h)

theorem Kept.endControl (h : Kept s₀ s) : Kept s₀ s.endControl := by
  unfold State.endControl
  extract_lets u v
  have ended : Kept s₀ u := by
    dsimp only [u]
    split
    · exact h.completeEngines.closeAll.dropBatt
    · exact h
  have disowned : Kept s₀ v := ended.same
  exact disowned.modWindow.flushWindow

theorem Kept.startControl {image : CtlImage} {regs : Nat} (h : Kept s₀ s) : Kept s₀ (s.startControl image regs) :=
  .seat (.modDev (.dropTlbs (.discardCode (.foldl h fun _ _ h => .applyAt h))))

theorem Kept.cmdCtlload {image : CtlImage} (h : Kept s₀ s) : Kept s₀ (s.cmdCtlload image) := by
  unfold State.cmdCtlload
  dsimp only
  refine .ite (.endPlain h) ?_
  split
  · exact .endPlain h
  · exact .endPlain (.startControl (.endControl h))

theorem Kept.execCtlload {image : CtlImage} (h : Kept s₀ s) : ExecKept s₀ (execCtlload image s) :=
  .next (.ite (.cmdCtlload h) (.startCmd h fun _ h => .cmdCtlload h))

theorem Kept.execUnknownOp (h : Kept s₀ s) : ExecKept s₀ (execUnknownOp s) := .next (.startCmd h fun _ h => .endPlain h)

theorem Kept.execCommandComplete (h : Kept s₀ s) : ExecKept s₀ (execCommandComplete s) :=
  .ite (.next h) (.ite (.next (.ite (.tryTlbinv h) h)) (.next (.cmdMessage (.modDev (.ite (.tryTlbinv h) h)))))

theorem Kept.clearLost (h : Kept s₀ s) : Kept s₀ s.clearLost := .ite (.modDev h) h

theorem Kept.execLostClear (h : Kept s₀ s) : ExecKept s₀ (execLostClear s) := .next (.clearLost h)

theorem Kept.writeCmd {op tgt : Nat} (h : Kept s₀ s) : Kept s₀ (s.writeCmd op tgt) := by
  unfold State.writeCmd
  refine .startCmd h fun _ h => ?_
  split
  · exact .cmdSetroot h
  · exact .cmdTlbinv h
  · exact .cmdSetsave h
  · exact .cmdPreempt h
  · exact .cmdRestore h
  · exact .cmdKill h
  · exact .cmdPeatsize h
  · exact .cmdRetire h
  · exact .cmdEngstat h
  · exact h
  · exact .endPlain h

theorem Kept.releaseSlot {w i : Nat} (h : Kept s₀ s) : Kept s₀ (s.releaseSlot w i) := by
  unfold State.releaseSlot
  split
  · exact .ite h (.freeSlot h)
  · exact h

theorem Kept.ifAnswers {t : State} (h : Kept s₀ s) (then_ : Kept s₀ t) : Kept s₀ (s.ifAnswers t) := .ite then_ h

theorem Kept.execTrapRelease {window slot : Nat} (h : Kept s₀ s) : ExecKept s₀ (execTrapRelease window slot s) :=
  .next (.ifAnswers h (.releaseSlot h))

theorem Kept.execResumeAtWord {window slot : Nat} (h : Kept s₀ s) : ExecKept s₀ (execResumeAtWord window slot s) :=
  .next (.ifAnswers h (.resumeTrap h))

theorem Kept.execResumePastWord {window slot : Nat} (h : Kept s₀ s) : ExecKept s₀ (execResumePastWord window slot s) :=
  .next (.ifAnswers h (.resumeTrap h))

theorem Kept.killWindow {w : Nat} (h : Kept s₀ s) : Kept s₀ (s.killWindow w) := .ite (.killContext h) h

theorem Kept.execTrapKill {window : Nat} (h : Kept s₀ s) : ExecKept s₀ (execTrapKill window s) := .next (.ifAnswers h (.killWindow h))

theorem Kept.clearNew {w : Nat} {bits : DWord} (h : Kept s₀ s) : Kept s₀ (s.clearNew w bits) := .modWindow h

theorem Kept.execTwnewClear {window : Nat} {bits : DWord} (h : Kept s₀ s) : ExecKept s₀ (execTwnewClear window bits s) :=
  .next (.ifAnswers h (.clearNew h))

theorem Kept.freeFault {k i : Nat} (h : Kept s₀ s) : Kept s₀ (s.freeFault k i) := .flushFaults (.modCluster h)

theorem Kept.retryFault {k i : Nat} (h : Kept s₀ s) : Kept s₀ (s.retryFault k i) := by
  unfold State.retryFault
  split
  · exact h
  · refine .freeFault ?_
    split
    · exact .modBatt h fun _ => ⟨rfl, rfl⟩
    · exact h

theorem Kept.trapFault {k i : Nat} (h : Kept s₀ s) : Kept s₀ (s.trapFault k i) := by
  unfold State.trapFault
  split
  · exact h
  · refine .freeFault ?_
    split
    · exact .takeTrap (h.modBatt fun b => ite_of (P := b.AtPlace) ⟨rfl, rfl⟩ (Batt.AtPlace.refl b).countTurn)
    · exact h

theorem Kept.execFaultRetry {cluster slot : Nat} (h : Kept s₀ s) : ExecKept s₀ (execFaultRetry cluster slot s) :=
  .next (.ifAnswers h (.retryFault h))

theorem Kept.execFaultToTrap {cluster slot : Nat} (h : Kept s₀ s) : ExecKept s₀ (execFaultToTrap cluster slot s) :=
  .next (.ifAnswers h (.trapFault h))

theorem Kept.clearFbnew {k : Nat} {bits : DWord} (h : Kept s₀ s) : Kept s₀ (s.clearFbnew k bits) := .modCluster h

theorem Kept.execFbnewClear {cluster : Nat} {bits : DWord} (h : Kept s₀ s) : ExecKept s₀ (execFbnewClear cluster bits s) :=
  .next (.ifAnswers h (.clearFbnew h))

theorem Kept.writeStepmax {k v : Nat} (h : Kept s₀ s) : Kept s₀ (s.writeStepmax k v) := .ite (.modCluster h) h

theorem Kept.execStepmaxWrite {cluster value : Nat} (h : Kept s₀ s) : ExecKept s₀ (execStepmaxWrite cluster value s) :=
  .next (.ifAnswers h (.writeStepmax h))

/-! ### The register map of BAR 0 as the host reads it, and the rules of the display heads that a register write needs -/

theorem Kept.writeHead {i : Nat} {f : Head → Head} (h : Kept s₀ s) : Kept s₀ (s.writeHead i f) := .modDev h

/-! ### Accesses of the host -/

theorem Kept.writeWindow {w o : Nat} {low : Bool} {w8 : DWord} (h : Kept s₀ s) : Kept s₀ (s.writeWindow w o low w8) := by
  unfold State.writeWindow
  split
  · exact .clearNew h
  · refine .ite h ?_
    split
    · exact .releaseSlot h
    · exact .resumeTrap h
    · exact .resumeTrap h
    · exact .killWindow h
  · exact .ite (.modWindow h) h
  · exact h

theorem Kept.writeFaults {k o : Nat} {low : Bool} {w8 : DWord} (h : Kept s₀ s) : Kept s₀ (s.writeFaults k o low w8) := by
  unfold State.writeFaults
  split
  · exact .clearFbnew h
  · refine .ite h ?_
    split
    · exact .retryFault h
    · exact .trapFault h
    · exact h
  · exact .ite (.modCluster h) h
  · exact h

theorem Kept.writeCommandBlock {o : Nat} {low : Bool} {w8 neu : DWord} (h : Kept s₀ s) : Kept s₀ (s.writeCommandBlock o low w8 neu) := by
  unfold State.writeCommandBlock
  split
  · exact .ite (.writeCmd h) h
  · exact .modDev h
  · exact .modDev h
  · exact .ite (.clearLost h) h
  · exact .ite (.modDev h) h
  · exact h

theorem Kept.writeReg {off size : Nat} {v : DWord} (h : Kept s₀ s) : Kept s₀ (s.writeReg off size v) :=
  .ite (.modDev h) (.ite (.ite (.modDev h) h) (.ite (.writeCommandBlock h) (.ite (.writeWindow h) (.ite (.writeFaults h) (.ite (.ite
      (.writeStepmax h) h) (.ite (.writeHead h) (.ite (.modDev h) (.ite (.modDev h) h))))))))

theorem Kept.badAccess (h : Kept s₀ s) : Kept s₀ s.badAccess := .ite h (.emit h)

theorem Kept.execRegisterWrite {off size : Nat} {value : DWord} (h : Kept s₀ s) : ExecKept s₀ (execRegisterWrite off size value s) :=
  .next (.ite (.badAccess h) (.ifAnswers h (.writeReg h)))

theorem Kept.execBar0BadAccess (h : Kept s₀ s) : ExecKept s₀ (execBar0BadAccess s) := .next (.badAccess h)

theorem Kept.hostRead {bar off len : Nat} (h : Kept s₀ s) : Kept s₀ (s.hostRead bar off len) :=
  .ite h (.ite (.emit h) (.emit (.foldl h fun _ _ h => .ite (.l2Fill h) h)))

theorem Kept.hostWriteAt {bar off : Nat} {bytes : List Byte} {ep : Bool} (h : Kept s₀ s) : Kept s₀ (s.hostWriteAt bar off bytes ep) := by
  unfold State.hostWriteAt
  refine .ite h (.foldl h fun _ _ h => .ite (.applyAt h) ?_)
  split
  · exact .poisonSector (.applyAt h)
  · exact .ite (.applyAt h) (.same (.applyAt h))

theorem Kept.execBar2HostRead {off len : Nat} (h : Kept s₀ s) : ExecKept s₀ (execBar2HostRead off len s) := .next (.hostRead h)

theorem Kept.execBar2HostWrite {off : Nat} {bytes : List Byte} {ep : Bool} (h : Kept s₀ s) : ExecKept s₀ (execBar2HostWrite off bytes ep s) :=
  .next (.hostWriteAt h)

theorem Kept.execBar4HostRead {off len : Nat} (h : Kept s₀ s) : ExecKept s₀ (execBar4HostRead off len s) := .next (.hostRead h)

theorem Kept.execBar4HostWrite {off : Nat} {bytes : List Byte} {ep : Bool} (h : Kept s₀ s) : ExecKept s₀ (execBar4HostWrite off bytes ep s) :=
  .next (.hostWriteAt h)

theorem Kept.hostAtomAt {bar off : Nat} {op : HostAtom} {wide : Bool} {value compare : DWord} (h : Kept s₀ s) : Kept s₀ (s.hostAtomAt bar off
    op wide value compare) := by
  unfold State.hostAtomAt
  refine .ite h (.ite (.emit h) (.ite (.emit h) ?_))
  split
  · exact .emit h
  · exact .ite (.emit (.l2ReadAll h)) (.emit (.foldl (.l2ReadAll h) fun _ _ h => .applyAt h))

theorem Kept.execHostAtomicop {bar off : Nat} {op : HostAtom} {wide : Bool} {value compare : DWord} (h : Kept s₀ s) : ExecKept s₀
    (execHostAtomicop bar off op wide value compare s) :=
  .next (.hostAtomAt h)

theorem Kept.execPutsLanding {bar off : Nat} {payload : List Byte} {flag : DWord} (h : Kept s₀ s) : ExecKept s₀ (execPutsLanding bar off
    payload flag s) :=
  .next (.hostWriteAt (.hostWriteAt h))

theorem Kept.waitaFailed {core slot : Nat} {f : RForm} (h : Kept s₀ s) : Kept s₀ (s.waitaFailed core slot f) := by
  unfold State.waitaFailed
  dsimp only
  split
  · exact .ite (.takeTrap (.modBatt (.freeMonitor h) fun b => (Batt.AtPlace.refl b).countTurn)) h
  · exact h

theorem Kept.readFailed {core slot op lane : Nat} (h : Kept s₀ s) : Kept s₀ (s.readFailed core slot op lane) := by
  unfold State.readFailed
  dsimp only
  split
  · split
    · split
      · exact .waitaFailed h
      · exact h
    · exact h
  · split
    · exact .ite (.modOp h) h
    · exact .ite (.modOp h) h
    · exact .ite (.modOp h) h
    · exact .ite (.modOp h) h
    · exact .ite (.modOp h) h
    · exact .ite (.modOp h) h
    · exact .ite (.endOp (.noteTrap h)) h
    · exact h

theorem Kept.atomLaneFailed {core slot op lane : Nat} (h : Kept s₀ s) : Kept s₀ (s.atomLaneFailed core slot op lane) := by
  unfold State.atomLaneFailed
  split
  · exact h
  · split
    · exact .ite (.hostErrInc (.modOp h)) h
    · exact h

theorem Kept.execHostRequestError {req : HostRequest} (h : Kept s₀ s) : ExecKept s₀ (execHostRequestError req s) := by
  unfold Machine.execHostRequestError
  refine .next ?_
  split
  · exact .hostErrInc h
  · exact .readFailed h
  · exact .atomLaneFailed h

theorem Kept.execVblankLatch {head : Nat} (h : Kept s₀ s) : ExecKept s₀ (execVblankLatch head s) := .next (.modDev h)

theorem Kept.execDisplayHotplug {head vec linkRate : Nat} (h : Kept s₀ s) : ExecKept s₀ (execDisplayHotplug head vec linkRate s) :=
  .next (.ite h (.emit (.modDev h)))

theorem Kept.scanReads {y : Head} (h : Kept s₀ s) : Kept s₀ (s.scanReads y) :=
  .ite h (.foldl h fun _ _ h => .foldl h fun _ _ h => .l2ReadAll h)

theorem Kept.execScanoutFrameStart {head : Nat} (h : Kept s₀ s) : ExecKept s₀ (execScanoutFrameStart head s) := by
  unfold Machine.execScanoutFrameStart
  split
  · exact .next h
  · exact .ite (.next h) (.next (.emit (.modDev (.scanReads h))))

/-! ### The paired word -/

theorem Kept.pairBody {f : PForm} {x : Iss} (h : Kept s₀ s) : (pairBody f x s).Kept s₀ := by
  unfold Machine.pairBody
  refine .ite (.trap h) (.done (h.modBatt fun b => ?_))
  extract_lets
  exact Batt.AtPlace.ite (Batt.AtPlace.ite (.refl b) (.put (.refl b))) (Batt.AtPlace.put (.ite (.refl b) (.put (.refl b))))

/-! ### Clocks, the governor, voltage, ballast and the HKC's firmware limits -/

theorem Kept.modPower {k : Nat} {f : Power → Power} (h : Kept s₀ s) : Kept s₀ (s.modPower k f) := .modCluster h

theorem Kept.execGovernorPeriod {cluster used slackUp : Nat} (h : Kept s₀ s) : ExecKept s₀ (execGovernorPeriod cluster used slackUp s) :=
  .next (.modPower h)

theorem Kept.execStepTakesEffect {cluster : Nat} (h : Kept s₀ s) : ExecKept s₀ (execStepTakesEffect cluster s) := .next (.ite (.modPower h) h)

theorem Kept.execFabricStepEval (h : Kept s₀ s) : ExecKept s₀ (execFabricStepEval s) := .next (.ite (.modDev h) h)

theorem Kept.execDroopOnset {cluster : Nat} (h : Kept s₀ s) : ExecKept s₀ (execDroopOnset cluster s) := .next (.modPower h)

theorem Kept.execDroopRecovery {cluster : Nat} (h : Kept s₀ s) : ExecKept s₀ (execDroopRecovery cluster s) := .next (.modPower h)

theorem Kept.execCurrentLimit {cluster : Nat} (h : Kept s₀ s) : ExecKept s₀ (execCurrentLimit cluster s) := .next (.modPower h)

theorem Kept.trip (h : Kept s₀ s) : Kept s₀ s.trip := .ite h (.emit (.modDev h))

theorem Kept.execTemperatureBandChange {cluster temp : Nat} (h : Kept s₀ s) : ExecKept s₀ (execTemperatureBandChange cluster temp s) :=
  .next (.ite (.trip (.modPower h)) (.modPower h))

theorem Kept.execThermalTrip (h : Kept s₀ s) : ExecKept s₀ (execThermalTrip s) := .next (.trip h)

theorem Kept.trimRail {slacks : List Nat} (h : Kept s₀ s) : Kept s₀ (s.trimRail slacks) := by
  unfold State.trimRail
  exact .modDev h.same.same

theorem Kept.execRailTrim {slacks : List Nat} (h : Kept s₀ s) : ExecKept s₀ (execRailTrim slacks s) := .next (.ite (.trimRail h) h)

theorem Kept.execLoadWindow {cluster real : Nat} (h : Kept s₀ s) : ExecKept s₀ (execLoadWindow cluster real s) := .next (.modPower h)

theorem Kept.holdBoost (h : Kept s₀ s) : Kept s₀ s.holdBoost := .ite h.same h

theorem Kept.lapse (h : Kept s₀ s) : Kept s₀ s.lapse := .ite (.holdBoost (.modDev h)) h

theorem Kept.execWatchdogLapse (h : Kept s₀ s) : ExecKept s₀ (execWatchdogLapse s) := .next (.lapse h)

theorem Kept.execWdkick (h : Kept s₀ s) : ExecKept s₀ (execWdkick s) := .next (.modDev (.holdBoost h))

theorem Kept.execHkcFirmwareUpdate (h : Kept s₀ s) : ExecKept s₀ (execHkcFirmwareUpdate s) := .next (.holdBoost (.modDev (.holdBoost h)))

theorem Kept.hkcWrite {cluster off : Nat} {w : DWord} (h : Kept s₀ s) : Kept s₀ (s.hkcWrite cluster off w) := .ite h (.modPower h)

theorem Kept.settle (h : Kept s₀ s) : Kept s₀ s.settle := .others (.lapse (.ite (.trimRail h.same) h.same))

theorem Kept.pulseOn (h : Kept s₀ s) : Kept s₀ s.pulseOn := by
  unfold State.pulseOn
  exact .modDev h.same

theorem Kept.onePulse (h : Kept s₀ s) : Kept s₀ s.onePulse := .pulseOn (.ite (.settle h) h)

theorem Kept.pulses {n : Nat} (h : Kept s₀ s) : Kept s₀ (s.pulses n) := by
  induction n generalizing s with
  | zero => exact h
  | succ n ih => exact ih h.onePulse

theorem Kept.untilCycle {k fuel : Nat} (h : Kept s₀ s) : Kept s₀ (State.untilCycle k fuel s) := by
  induction fuel generalizing s with
  | zero => exact h
  | succ fuel ih => exact .ite (ih h.onePulse) h.onePulse

/-! ### Special registers, predicate logic, lane exchange and register tags -/

theorem Kept.doneBatt {x : Iss} {f : Batt → Batt} (h : Kept s₀ s) (place : InPlace f) : (doneBatt x s f).Kept s₀ := .done (h.modBatt place)

theorem Kept.getsrBody {f : RForm} {x : Iss} (h : Kept s₀ s) : (getsrBody f x s).Kept s₀ :=
  h.doneBatt (.ite (fun _ => ⟨rfl, rfl⟩) fun _ => ⟨rfl, rfl⟩)

theorem Kept.setsrBody {f : RForm} {x : Iss} (h : Kept s₀ s) : (setsrBody f x s).Kept s₀ :=
  h.doneBatt (.ite (fun _ => ⟨rfl, rfl⟩) (.ite (fun _ => ⟨rfl, rfl⟩) fun _ => ⟨rfl, rfl⟩))

theorem Kept.plopBody {f : RForm} {x : Iss} (h : Kept s₀ s) : (plopBody f x s).Kept s₀ := Kept.doneBatt h fun _ => ⟨rfl, rfl⟩

theorem Kept.pmovBody {f : RForm} {x : Iss} (h : Kept s₀ s) : (pmovBody f x s).Kept s₀ := h.doneBatt fun _ => by split <;> exact ⟨rfl, rfl⟩

theorem Kept.pfoldBody {f : RForm} {x : Iss} (h : Kept s₀ s) : (pfoldBody f x s).Kept s₀ :=
  h.doneBatt fun _ => by dsimp only; split <;> exact ⟨rfl, rfl⟩

theorem Kept.lxchBody {f : RForm} {x : Iss} (h : Kept s₀ s) : (lxchBody f x s).Kept s₀ := Kept.doneBatt h fun _ => ⟨rfl, rfl⟩

theorem Kept.peerBody {f : RForm} {x : Iss} (h : Kept s₀ s) : (peerBody f x s).Kept s₀ := Kept.doneBatt h fun _ => ⟨rfl, rfl⟩

theorem Kept.lgetBody {f : RForm} {x : Iss} (h : Kept s₀ s) : (lgetBody f x s).Kept s₀ := Kept.doneBatt h fun _ => ⟨rfl, rfl⟩

theorem Kept.lsetBody {f : RForm} {x : Iss} (h : Kept s₀ s) : (lsetBody f x s).Kept s₀ :=
  h.doneBatt (.ite (fun _ => ⟨rfl, rfl⟩) fun _ => ⟨rfl, rfl⟩)

theorem Kept.keepDests {x : Iss} {t : AluDst} (h : Kept s₀ s) : Kept s₀ (s.keepDests x t) := .modBatt h fun _ => ⟨rfl, rfl⟩

theorem Batt.AtPlace.evalLoad {b₀ b c : Batt} {f : MForm} {fl tr : List Nat} (h : b₀.AtPlace b) (e : s.evalLoad b f = .ok c fl tr) :
    b₀.AtPlace c := by
  unfold State.evalLoad at e
  dsimp only at e
  split at e
  · cases e
  · split at e
    · cases e
    · cases e
      exact ite_of h.same h.same

theorem Batt.AtPlace.evalWord {b₀ b c : Batt} {i : Instr} {fl tr : List Nat} (h : b₀.AtPlace b) (e : s.evalWord b i = .ok c fl tr) :
    b₀.AtPlace c := by
  unfold State.evalWord at e
  dsimp only at e
  split at e
  · cases e
  · split at e
    · exact h.evalLoad e
    · split at e
      · cases e; exact h.put
      · cases e; exact h

theorem Batt.AtPlace.evalWords {b₀ b c : Batt} {l : List Instr} {fl tr fl' tr' : List Nat} (h : b₀.AtPlace b)
    (e : s.evalWords b l fl tr = .ok c fl' tr') : b₀.AtPlace c := by
  induction l generalizing b fl tr with
  | nil => cases e; exact h
  | cons i l ih =>
    unfold State.evalWords at e
    split at e
    next word => exact ih (h.evalWord word) e
    next no => exact absurd e (no _ _ _)

theorem Kept.rtagBody {f : RForm} {x : Iss} (h : Kept s₀ s) : (rtagBody f x s).Kept s₀ := by
  unfold Machine.rtagBody
  dsimp only
  split
  · exact .prep h
  · split
    · exact .prep h.keepDests
    next ran =>
      refine .ite (.trap h.keepDests) (.done (h.putBattBy fun c => ?_))
      refine Batt.AtPlace.foldl (Batt.AtPlace.evalWords (.refl _) ran) fun _ _ h => ?_
      split
      · exact h.same
      · exact h

theorem Kept.runtagBody {f : RForm} {x : Iss} (h : Kept s₀ s) : (runtagBody f x s).Kept s₀ :=
  h.doneBatt fun b => Batt.AtPlace.foldl (.refl b) fun _ _ h => h.untag

theorem Kept.rfreeBody {f : RForm} {x : Iss} (h : Kept s₀ s) : (rfreeBody f x s).Kept s₀ := Kept.doneBatt h fun _ => ⟨rfl, rfl⟩

/-! ### Errors of the SRAMs and of memory, the resets, bring-up and SMBus -/

theorem Kept.l2Error {slice sector : Nat} (h : Kept s₀ s) : Kept s₀ (s.l2Error slice sector) := by
  unfold State.l2Error
  split
  · exact h
  · exact .ite (.forgetL1 (.filterL2 h)) (.poisonSector h)

theorem Kept.frameError {slice block held : Nat} (h : Kept s₀ s) : Kept s₀ (s.frameError slice block held) :=
  .foldl h fun _ _ h => .poisonSector h

theorem Kept.killControl {on : Nat → Bool} (h : Kept s₀ s) : Kept s₀ (s.killControl on) := .foldl h fun _ _ h => .killContext (.addRecord h)

theorem Kept.uncorrectable {e : ErrSite} (h : Kept s₀ s) : Kept s₀ (s.uncorrectable e) := by
  unfold State.uncorrectable
  split
  · exact h.l2Error
  · exact h.frameError
  · exact h.modCore fun _ ok => ok.same
  · exact h.modCore fun _ ok => ok.same
  · exact h.modCore fun _ ok => ok.same
  · exact h.modCore fun _ ok => ok.same
  · exact h.modCluster
  · exact h.modCore fun _ ok => ok.mapIf rfl fun _ => rfl
  · exact .ite h.modFelt h
  · exact h.modBatt fun _ => ⟨rfl, rfl⟩
  · exact h.modCore fun _ ok => ok.same
  · exact h.modCluster
  · exact h.modBatt fun b => Batt.AtPlace.ite (.poisonV (.refl b)) (.refl b)
  · exact h.modBatt fun _ => ⟨rfl, rfl⟩
  · exact .ite h.same h
  · exact h.modCluster
  · exact h.killControl
  · exact h.killControl
  · exact h.killControl
  · exact .ite h.poisonSector h

theorem Kept.execUncorrectableError {site : ErrSite} (h : Kept s₀ s) : ExecKept s₀ (execUncorrectableError site s) :=
  .next (.uncorrectable h)

theorem Kept.execCorrectableError (h : Kept s₀ s) : ExecKept s₀ (execCorrectableError s) := .next (.modDev h)

theorem Kept.maybe {f : State → State} (h : Kept s₀ s) (change : ∀ s, Kept s₀ s → Kept s₀ (f s)) : Kept s₀ (s.maybe f) :=
  .ite (change _ h.draw) h.draw

theorem Kept.flushAtReset (h : Kept s₀ s) : Kept s₀ s.flushAtReset :=
  .foldl (.foldl h fun _ _ h => h.maybe fun _ h => .ite h h.applyAt) fun _ _ h => h.maybe fun _ h => h.writeMem

/-- The state after power-on is in order, whatever state came before it. -/
theorem Kept.reset : Kept s₀ State.reset where
  mem _ := rfl
  sluice _ := rfl
  logs _ c hc := by
    obtain rfl := List.eq_of_mem_replicate hc
    exact ⟨.nil, nofun⟩
  sectors _ := .nil
  places _ := .nil

theorem CoreSt.warm_logOk (c : CoreSt) : c.warm.LogOk := ⟨.nil, nofun⟩

theorem Kept.execWarmReset (h : Kept s₀ s) : ExecKept s₀ (execWarmReset s) := by
  have flushed := h.flushAtReset
  refine .ite (.next h) (.next ⟨flushed.mem, flushed.sluice, fun _ c hc => ?_, fun _ => .nil, fun _ => .nil⟩)
  obtain ⟨d, -, rfl⟩ := List.mem_map.1 hc
  exact d.warm_logOk

theorem Kept.execColdReset : ExecKept s₀ (execColdReset s) := .next (Kept.reset.same)

/-- Device memory and the sluice lose what they held. -/
theorem Kept.forgetMemory {poison sluicePoison : List Nat} {controllers : List Controller} (h : Kept s₀ s) :
    Kept s₀ { s with mem := [], memPoison := poison, sluice := [], sluicePoison := sluicePoison, controllers := controllers } :=
  { h with mem := fun _ => rfl, sluice := fun _ => rfl }

theorem Kept.execBringUp {imageOk : Bool} {failed : Word} {image : CtlImage} (h : Kept s₀ s) :
    ExecKept s₀ (execBringUp imageOk failed image s) := by
  unfold Machine.execBringUp
  extract_lets u v w
  have awake : Kept s₀ u := h.modDev
  have kept : Kept s₀ v := .ite awake awake.forgetMemory
  have timed : Kept s₀ w := kept.same
  exact .ite (.next h) (.ite (.next h.modDev) (.ite (.next awake.modDev) (.next timed.startControl.modDev)))

theorem Kept.smbusAnswer {w : Nat} (h : Kept s₀ s) : Kept s₀ (s.smbusAnswer w) := .ite h (.emit h)

theorem Kept.execSmbusPartno (h : Kept s₀ s) : ExecKept s₀ (execSmbusPartno s) := .next (.smbusAnswer h)

theorem Kept.execSmbusTemperature (h : Kept s₀ s) : ExecKept s₀ (execSmbusTemperature s) := .next (.smbusAnswer h)

theorem Kept.execSmbusBoardPower (h : Kept s₀ s) : ExecKept s₀ (execSmbusBoardPower s) := .next (.smbusAnswer h.same)

theorem Kept.execSmbusStat (h : Kept s₀ s) : ExecKept s₀ (execSmbusStat s) := .next (.smbusAnswer h)

theorem Kept.execSmbusUnknownCommand (h : Kept s₀ s) : ExecKept s₀ (execSmbusUnknownCommand s) := .next (.ite h (.emit h))

end

end Sys2Proof.Machine
end

section
/-! The issue of a word, the events that a step may take, and the step (R79, R123 to R125). -/

namespace Sys2Proof.Machine

section
variable {s₀ s t : State}

/-! ### The issue of a word (R123 to R125) -/

/-- What a region's entry leaves is kept. -/
inductive RegionRes.Kept (s₀ : State) : RegionRes → Prop
  | ok {s : State} (h : Machine.Kept s₀ s) : (RegionRes.ok s).Kept s₀
  | killed {s : State} (h : Machine.Kept s₀ s) : (RegionRes.killed s).Kept s₀

/-- What the issue of a word leaves is kept. -/
inductive Ready.Kept (s₀ : State) : Ready → Prop
  | none : Ready.none.Kept s₀
  | idle {s : State} (h : Machine.Kept s₀ s) : (Ready.idle s).Kept s₀
  | go {x : Iss} {n : Nat} {s : State} (h : Machine.Kept s₀ s) : (Ready.go x n s).Kept s₀

theorem State.battAt_of_batt? {core slot : Nat} {b : Batt} (found : s.batt? core slot = some b) : s.battAt b.core b.slot = b := by
  have place := List.find?_some found
  simp only [Bool.and_eq_true, beq_iff_eq] at place
  rw [place.1, place.2, State.battAt, found, Option.getD_some]

/-- The batt whose turn it is has taken its turn at its place. -/
theorem State.theTurn_place {b : Batt} {low n : Nat} (turn : s.theTurn = .go b low n) :
    (s.battAt (b.takeTurn low).core (b.takeTurn low).slot).AtPlace (b.takeTurn low) := by
  rw [Batt.takeTurn_core, Batt.takeTurn_slot, State.battAt_of_batt? (State.theTurn_go turn)]
  exact ⟨Batt.takeTurn_core .., Batt.takeTurn_slot ..⟩

theorem Kept.enterRegion {core slot : Nat} {pc : DWord} (h : Kept s₀ s) : (s.enterRegion core slot pc).Kept s₀ := by
  unfold State.enterRegion
  refine ite_of (.ok h) ?_
  split
  · exact .killed h.killUnreadable
  · exact ite_of (.ok (h.modBatt fun _ => ⟨rfl, rfl⟩)) (.ok h)
  · exact .ok h

theorem Kept.issueWord {i : Instr} (h : Kept s₀ s) : (issueWord i s).Kept s₀ := by
  unfold Machine.issueWord
  split
  · exact .none
  · exact .idle h
  next turn =>
    refine ite_of (.idle h.stallAt) ?_
    extract_lets b split pc active x
    have prepared : (s.prepareWord b i split active).AtPlace (s.battAt b.core b.slot) := (State.theTurn_place turn).prepareWord
    clear_value b split pc active x
    generalize s.prepareWord b i split active = r at prepared ⊢
    cases r with
    | fault f p => exact .idle (Kept.prepFault (h.putBatt prepared))
    | ok p =>
      refine ite_of (.idle (.leaveActive (h.putBatt prepared))) ?_
      have put : Kept s₀ (s.modBatt b.core b.slot fun _ => p.b) := h.putBatt prepared
      have entered : ((s.modBatt b.core b.slot fun _ => p.b).enterRegion p.b.core p.b.slot pc).Kept s₀ := put.enterRegion
      generalize (s.modBatt b.core b.slot fun _ => p.b).enterRegion p.b.core p.b.slot pc = r at entered ⊢
      cases entered with
      | ok h => exact .go h
      | killed h => exact .idle h

theorem Kept.runWord {i : Instr} {body : Iss → State → Body} (h : Kept s₀ s) (does : ∀ x s, Kept s₀ s → (body x s).Kept s₀) :
    ExecKept s₀ (runWord i body s) := by
  have issued := h.issueWord (i := i)
  unfold Machine.runWord
  generalize Machine.issueWord i s = r at issued ⊢
  cases issued with
  | none => exact .fault
  | idle h => exact .next h
  | go h => exact .next (.finishWord h (h.runBody does))

theorem Kept.word {i : Instr} {body : Iss → State → Body} (h : Kept s₀ s) (runs : Machine.exec i s = Machine.runWord i body s)
    (does : ∀ x s, Kept s₀ s → (body x s).Kept s₀) : ExecKept s₀ (Machine.exec i s) := by
  rw [runs]
  exact h.runWord does

theorem Kept.laneWord {i : Instr} {fn : LaneFn} {d : AluDst} (h : Kept s₀ s) (lane : Machine.laneWord i = some (fn, d)) :
    ExecKept s₀ (Machine.exec i s) := h.word (exec_laneWord lane s) fun _ _ h => h.laneBody

/-! ### Every instruction -/

theorem Kept.exec {i : Instr} (h : Kept s₀ s) : ExecKept s₀ (Machine.exec i s) := by
  cases i with
  | iadd f | iaddi f | isub f | imul f | imulhi f | imad f | imadw f | idiv f | irem f | imin f | imax f | iabs f | ineg f | iadd64 f
  | isub64 f | imul64 f | and f | or f | xor f | andn f | logi f | shl f | shr f | sar f | rotl f | popc f | clz f | brev f | bfe f
  | bfi f | lea f | bsel f | sel f | mov f | movi f | movhi f | fadd f | fsub f | fmul f | ffma f | fmin f | fmax f | fdiv f | fsqrt f
  | fclass f | fscale f | hfma2 f | frcpa f | frsqa f | fex2a f | flg2a f | dadd f | dsub f | dmul f | dfma f | dmin f | dmax f | ddiv f
  | dsqrt f | dclass f | dscale f | fsina f | fcosa f | cvt f | dqmx f => exact h.laneWord rfl
  | nop _ | fence _ => exact h.word rfl fun _ _ h => .done h
  | yield _ => exact h.word rfl fun _ _ h => h.yieldBody
  | exit _ => exact h.word rfl fun _ _ h => h.exitBody
  | launch _ | draw _ => exact h.word rfl fun _ _ h => h.launchBody
  | getsr _ => exact h.word rfl fun _ _ h => h.getsrBody
  | setsr _ => exact h.word rfl fun _ _ h => h.setsrBody
  | trap _ | brk _ => exact h.word rfl fun _ _ h => .trap h
  | conto _ => exact h.word rfl fun _ _ h => h.contoBody
  | contc _ => exact h.word rfl fun _ _ h => h.contcBody
  | conts _ => exact h.word rfl fun _ _ h => h.contsBody
  | icmp _ | fcmp _ | dcmp _ => exact h.word rfl fun _ _ h => h.cmpBody
  | plop _ => exact h.word rfl fun _ _ h => h.plopBody
  | pmov _ => exact h.word rfl fun _ _ h => h.pmovBody
  | lxch _ => exact h.word rfl fun _ _ h => h.lxchBody
  | pfold _ => exact h.word rfl fun _ _ h => h.pfoldBody
  | peer _ => exact h.word rfl fun _ _ h => h.peerBody
  | lget _ => exact h.word rfl fun _ _ h => h.lgetBody
  | lset _ => exact h.word rfl fun _ _ h => h.lsetBody
  | rtag _ => exact h.word rfl fun _ _ h => h.rtagBody
  | runtag _ => exact h.word rfl fun _ _ h => h.runtagBody
  | rfree _ => exact h.word rfl fun _ _ h => h.rfreeBody
  | qmx _ => exact h.word rfl fun _ _ h => h.qmxBody
  | xacc _ => exact h.word rfl fun _ _ h => h.xaccBody
  | xrnd _ => exact h.word rfl fun _ _ h => h.xrndBody
  | xclr _ => exact h.word rfl fun _ _ h => h.xclrBody
  | lred _ => exact h.word rfl fun _ _ h => h.lredBody
  | bra _ | brx _ | ret _ => exact h.word rfl fun _ _ h => h.transfer .id
  | call _ => exact h.word rfl fun _ _ h => h.transfer fun _ => ⟨rfl, rfl⟩
  | callx _ => exact h.word rfl fun _ _ h => h.callxBody
  | rjset _ => exact h.word rfl fun _ _ h => h.rjsetBody
  | rjoin _ => exact h.word rfl fun _ _ h => h.rjoinBody
  | rjdrop _ => exact h.word rfl fun _ _ h => h.rjdropBody
  | ld _ => exact h.word rfl fun _ _ h => h.ldBody
  | st _ => exact h.word rfl fun _ _ h => h.stBody
  | lds _ => exact h.word rfl fun _ _ h => h.ldsBody
  | sts _ => exact h.word rfl fun _ _ h => h.stsBody
  | ldc _ => exact h.word rfl fun _ _ h => h.ldcBody
  | pref _ => exact h.word rfl fun _ _ h => h.prefBody
  | acq _ => exact h.word rfl fun _ _ h => h.acqBody
  | rel _ => exact h.word rfl fun _ _ h => h.relBody
  | acqr _ => exact h.word rfl fun _ _ h => h.acqrBody
  | fenceo _ => exact h.word rfl fun _ _ h => .done h.drainUpTo.fullEntries
  | full _ => exact h.word rfl fun _ _ h => .done h.fullEntries
  | flushh _ => exact h.word rfl fun _ _ h => .done h.relAt
  | hbind _ => exact h.word rfl fun _ _ h => h.hbindBody
  | hprio _ => exact h.word rfl fun _ _ h => .done h.modCtx
  | hdrop _ => exact h.word rfl fun _ _ h => h.hdropBody
  | atom _ => exact h.word rfl fun _ _ h => h.atomBody
  | red _ => exact h.word rfl fun _ _ h => h.redBody
  | waita _ => exact h.word rfl fun _ _ h => h.waitaBody
  | puts _ => exact h.word rfl fun _ _ h => h.putsBody
  | barv _ => exact h.word rfl fun _ _ h => h.barvBody
  | barw _ => exact h.word rfl fun _ _ h => h.barwBody
  | bars _ => exact h.word rfl fun _ _ h => h.barsBody
  | bart _ => exact h.word rfl fun _ _ h => h.bartBody
  | barq _ => exact h.word rfl fun _ _ h => h.barqBody
  | syncb _ => exact h.word rfl fun _ _ h => h.syncbBody
  | aballoc _ => exact h.word rfl fun _ _ h => h.aballocBody
  | abfree _ | abfreeAll _ | azeroAll _ | mxq _ => exact h.word rfl fun _ _ h => .done (h.modBatt fun _ => ⟨rfl, rfl⟩)
  | ald _ => exact h.word rfl fun _ _ h => h.aldBody
  | aldSp _ => exact h.word rfl fun _ _ h => h.aldSpBody
  | ast _ => exact h.word rfl fun _ _ h => h.astBody
  | astSp _ => exact h.word rfl fun _ _ h => h.astSpBody
  | azero _ => exact h.word rfl fun _ _ h => h.azeroBody
  | mxi _ => exact h.word rfl fun _ _ h => h.mxiBody
  | cpy _ | cpy2d _ | gath _ | scat _ => exact h.word rfl fun _ _ h => h.copyBody
  | sigi _ => exact h.word rfl fun _ _ h => h.sigiBody
  | siga _ => exact h.word rfl fun _ _ h => h.sigaBody
  | sigq _ => exact h.word rfl fun _ _ h => h.sigqBody
  | sigf _ => exact h.word rfl fun _ _ h => h.sigfBody
  | mlook _ => exact h.word rfl fun _ _ h => h.mlookBody
  | mfill _ => exact h.word rfl fun _ _ h => h.mfillBody
  | minvKey _ | minvRegion _ | minvCtx _ => exact h.word rfl fun _ _ h => .done h.sendMinv
  | txsig _ => exact h.word rfl fun _ _ h => h.txsigBody
  | vout _ => exact h.word rfl fun _ _ h => h.voutBody
  | ipa _ => exact h.word rfl fun _ _ h => h.ipaBody
  | tex _ => exact h.word rfl fun _ _ h => h.texBody
  | tld _ => exact h.word rfl fun _ _ h => h.tldBody
  | fout _ => exact h.word rfl fun _ _ h => h.foutBody
  | mlres _ => exact h.word rfl fun _ _ h => h.mlresBody
  | mlresLayer _ => exact h.word rfl fun _ _ h => h.mlresLayerBody
  | mlclr _ => exact h.word rfl fun _ _ h => h.mlclrBody
  | mlrd _ => exact h.word rfl fun _ _ h => h.mlrdBody
  | pairedWord _ => exact h.word rfl fun _ _ h => h.pairBody
  | launchEnqueue _ _ => exact h.execLaunchEnqueue
  | activePositionFill _ _ => exact h.execActivePositionFill
  | dependenceResolved _ _ => exact h.execDependenceResolved
  | launchRetirement _ => exact h.execLaunchRetirement
  | loadReturn _ _ _ => exact h.execLoadReturn
  | faultRecordWrite _ => exact h.execFaultRecordWrite
  | pageWalk _ _ _ => exact h.execPageWalk
  | logFullRelease _ _ => exact h.execLogFullRelease
  | logPinnedRelief _ => exact h.execLogPinnedRelief
  | promotionRequest _ _ _ => exact h.execPromotionRequest
  | publicationGrant _ => exact h.execPublicationGrant
  | earlyPublication _ _ => exact h.execEarlyPublication
  | fulling _ => exact h.execFulling
  | entryApply _ _ => exact h.execEntryApply
  | acquireWaitEnd _ _ => exact h.execAcquireWaitEnd
  | l1Eviction _ _ => exact h.execL1Eviction
  | l1PartitionChange _ => exact h.execL1PartitionChange
  | l2Eviction _ _ => exact h.execL2Eviction
  | superblockCompression _ _ _ => exact h.execSuperblockCompression
  | atomicAtHome _ _ _ => exact h.execAtomicAtHome
  | atomicUnitWriteback _ _ => exact h.execAtomicUnitWriteback
  | atomReturn _ _ _ => exact h.execAtomReturn
  | waitMonitorNotice _ _ => exact h.execWaitMonitorNotice
  | waitaTimedRecheck _ _ => exact h.execWaitaTimedRecheck
  | putsPayloadRead _ _ _ => exact h.execPutsPayloadRead
  | putsLanding _ _ _ _ => exact h.execPutsLanding
  | redArrival _ _ _ => exact h.execRedArrival
  | aballocGrant _ => exact h.execAballocGrant
  | matrixPass _ _ => exact h.execMatrixPass
  | tfuFetch _ => exact h.execTfuFetch
  | mxiCompletion _ => exact h.execMxiCompletion
  | copyCompletion _ => exact h.execCopyCompletion
  | peatPartitionChange _ => exact h.execPeatPartitionChange
  | battSave _ _ => exact h.execBattSave
  | preemptComplete _ => exact h.execPreemptComplete
  | drawStart _ => exact h.execDrawStart
  | vertexCacheValidate _ => exact h.execVertexCacheValidate
  | triangleBin _ => exact h.execTriangleBin
  | tileRender _ _ => exact h.execTileRender
  | fragmentCommit _ => exact h.execFragmentCommit
  | passRetirement _ => exact h.execPassRetirement
  | setroot _ => exact h.execSetroot
  | tlbinv _ => exact h.execTlbinv
  | setsave _ => exact h.execSetsave
  | preempt _ => exact h.execPreempt
  | restore _ => exact h.execRestore
  | kill _ => exact h.execKill
  | peatsize _ => exact h.execPeatsize
  | retire _ => exact h.execRetire
  | engstat _ => exact h.execEngstat
  | ctlload _ => exact h.execCtlload
  | trapRelease _ _ => exact h.execTrapRelease
  | resumeAtWord _ _ => exact h.execResumeAtWord
  | resumePastWord _ _ => exact h.execResumePastWord
  | trapKill _ => exact h.execTrapKill
  | twnewClear _ _ => exact h.execTwnewClear
  | faultRetry _ _ => exact h.execFaultRetry
  | faultToTrap _ _ => exact h.execFaultToTrap
  | fbnewClear _ _ => exact h.execFbnewClear
  | stepmaxWrite _ _ => exact h.execStepmaxWrite
  | registerWrite _ _ _ => exact h.execRegisterWrite
  | bar2HostRead _ _ => exact h.execBar2HostRead
  | bar2HostWrite _ _ _ => exact h.execBar2HostWrite
  | bar4HostRead _ _ => exact h.execBar4HostRead
  | bar4HostWrite _ _ _ => exact h.execBar4HostWrite
  | hostAtomicop _ _ _ _ _ _ => exact h.execHostAtomicop
  | hostRequestError _ => exact h.execHostRequestError
  | vblankLatch _ => exact h.execVblankLatch
  | displayHotplug _ _ _ => exact h.execDisplayHotplug
  | governorPeriod _ _ _ => exact h.execGovernorPeriod
  | stepTakesEffect _ => exact h.execStepTakesEffect
  | droopOnset _ => exact h.execDroopOnset
  | droopRecovery _ => exact h.execDroopRecovery
  | currentLimit _ => exact h.execCurrentLimit
  | temperatureBandChange _ _ => exact h.execTemperatureBandChange
  | railTrim _ => exact h.execRailTrim
  | loadWindow _ _ => exact h.execLoadWindow
  | uncorrectableError _ => exact h.execUncorrectableError
  | bringUp _ _ _ => exact h.execBringUp
  | minvStoreApply _ => exact h.execMinvStoreApply
  | scanoutFrameStart _ => exact h.execScanoutFrameStart
  | dispatchCycle => exact h.execDispatchCycle
  | trapRecordWrite => exact h.execTrapRecordWrite
  | unknownOp => exact h.execUnknownOp
  | commandComplete => exact h.execCommandComplete
  | lostClear => exact h.execLostClear
  | wdkick => exact h.execWdkick
  | bar0BadAccess => exact h.execBar0BadAccess
  | fabricStepEval => exact h.execFabricStepEval
  | thermalTrip => exact h.execThermalTrip
  | watchdogLapse => exact h.execWatchdogLapse
  | correctableError => exact h.execCorrectableError
  | warmReset => exact h.execWarmReset
  | coldReset => exact Kept.execColdReset
  | smbusPartno => exact h.execSmbusPartno
  | smbusTemperature => exact h.execSmbusTemperature
  | smbusBoardPower => exact h.execSmbusBoardPower
  | smbusStat => exact h.execSmbusStat
  | smbusUnknownCommand => exact h.execSmbusUnknownCommand
  | hkcFirmwareUpdate => exact h.execHkcFirmwareUpdate

/-! ### What moves next (log 1) -/

/-- The state on which what moves next is executed is kept. -/
inductive Pick.Kept (s₀ : State) : Pick → Prop
  | exec {i : Instr} {s : State} (h : Machine.Kept s₀ s) : (Pick.exec i s).Kept s₀
  | ended {s : State} (h : Machine.Kept s₀ s) : (Pick.ended s).Kept s₀

/-- What the front of the pipeline leaves is kept. -/
inductive Front.Kept (s₀ : State) : Front → Prop
  | noIssuer : Front.noIssuer.Kept s₀
  | ended {s : State} (h : Machine.Kept s₀ s) : (Front.ended s).Kept s₀
  | run {i : Instr} {s : State} (h : Machine.Kept s₀ s) : (Front.run i s).Kept s₀

/-- A batt is put back at its own place. -/
theorem Kept.putBack {b : Batt} (h : Kept s₀ s) : Kept s₀ (s.modBatt b.core b.slot fun _ => b) :=
  h.mapIfBatts fun c _ own => by
    simp only [Bool.and_eq_true, beq_iff_eq] at own
    exact ⟨own.1.symm, own.2.symm⟩

theorem Kept.frontEnd (h : Kept s₀ s) : s.frontEnd.Kept s₀ := by
  unfold State.frontEnd
  split
  · exact .noIssuer
  · exact .ended h
  · extract_lets b split pc u
    have read : Kept s₀ u := h.fetchReads.putBack
    split
    · exact .ended read.takeFault
    · exact .ended read.takeTrap
    · exact .ended read.takeTrap
    · exact .ended read.takeTrap
    · split
      · exact .ended h.icacheFill.putBack.takeTrap
      · exact .run h.icacheFill

theorem Kept.beginIssue {core slot : Nat} (h : Kept s₀ s) : Kept s₀ (s.beginIssue core slot) := .modQuarter (.ite h.untilCycle h)

theorem Kept.sweep {bs : List Batt} (h : Kept s₀ s) : Kept s₀ (s.sweep bs) :=
  .foldl h fun _ _ h => .ite (.ite h.leaveActive.restNow h.leaveActive) h

theorem Kept.issueAt {core slot : Nat} {ch : Choice} (h : Kept s₀ s) : (s.issueAt core slot ch).Kept s₀ := by
  unfold State.issueAt
  split
  · exact .ended h
  · refine ite_of (.ended h) ?_
    extract_lets u v go
    have swept : Kept s₀ u := h.sweep
    have placed : Kept s₀ v := swept.same
    have fetched : (v.beginIssue core slot).frontEnd.Kept s₀ := placed.beginIssue.frontEnd
    have issued : go.Kept s₀ := by
      dsimp only [go]
      generalize (v.beginIssue core slot).frontEnd = r at fetched ⊢
      cases fetched with
      | noIssuer => exact .ended placed
      | ended h => exact .ended h
      | run h => exact .exec h
    refine ite_of (.ended swept) (ite_of ?_ issued)
    split
    · exact .ended swept.killUnreadable
    · exact .ended (swept.modBatt fun _ => ⟨rfl, rfl⟩)
    · exact issued

theorem Kept.elapse {n : Nat} (h : Kept s₀ s) : Kept s₀ (s.elapse n) := .ite h.pulses h

theorem Kept.resizeBar {bits : Nat} (h : Kept s₀ s) : Kept s₀ (s.resizeBar bits) := .ite h h.modDev

theorem Kept.peatRead {cluster entry : Nat} (h : Kept s₀ s) : Kept s₀ (s.peatRead cluster entry) := by
  unfold State.peatRead
  refine .ite h ?_
  split
  · exact h.emit
  · exact h

theorem Kept.defaultPick (h : Kept s₀ s) : s.defaultPick.Kept s₀ := by
  unfold State.defaultPick
  refine ite_of (.ended h) ?_
  split
  · exact .exec h
  · refine ite_of (.exec h) (ite_of (.ended h.sweep) ?_)
    split
    · exact h.issueAt
    · exact ite_of (.ended h.onePulse) (.ended h)

theorem Kept.pick (h : Kept s₀ s) : s.pick.Kept s₀ := by
  unfold State.pick
  split
  · exact h.defaultPick
  next rest _ =>
    have moved : Kept s₀ { s with inputs := rest } := h.same
    dsimp only
    split
    · exact ite_of (.exec moved) (.ended moved)
    · exact ite_of (.ended moved) moved.issueAt
    · exact .ended moved.elapse
    · exact .ended moved.hkcWrite
    · exact .ended moved.resizeBar
    · exact .ended moved.peatRead

theorem Kept.afterWord {i : Instr} (h : Kept s₀ s) : Kept s₀ (s.afterWord i) := by
  unfold State.afterWord
  refine .ite h ?_
  split
  · exact .ite h.restNow h
  · exact h

/-- A step keeps both invariants. -/
theorem Kept.step (h : Kept s₀ s) : ExecKept s₀ (step s) := by
  have picked := h.pick
  unfold Machine.step
  generalize s.pick = p at picked ⊢
  cases picked with
  | ended h => exact .next h
  | @exec i u h =>
    have executed := h.exec (i := i)
    dsimp only
    generalize Machine.exec i u = r at executed ⊢
    cases executed with
    | next h => exact .next h.afterWord
    | fault => exact .fault
    | refused => exact .refused

end

/-- Settles O46: every operation that a step is made of keeps what the model names things by, so that a step does. -/
theorem stepKeepsKeys : Obligations.StepKeepsKeys := by
  unfold Obligations.StepKeepsKeys
  intro s t ok next
  have kept := (Kept.refl s).step
  rw [next] at kept
  cases kept with
  | next h => exact h.keysOk ok

end Sys2Proof.Machine
end

end

section
/-! The commands of the windows and the kill of a context (R408 to R410, R414, R415, R423). As above, proofs are elaborated in their order, so
that the threads that wait do not take the memory. -/

set_option Elab.async false

section
/-! The kill of a context (R423): what its steps leave of cores, clusters, contexts and windows, and what the publications that it fulls
take from the logs. -/

namespace Sys2Proof.Machine

/-! ### Entries of changed lists -/

section
variable {α : Type} {R : α → α → Prop} {f : α → α} {d : α}

theorem getD_modAt_of (refl : ∀ x, R x x) (each : ∀ x, R x (f x)) (l : List α) (n k : Nat) : R (l.getD k d) ((modAt l n f).getD k d) := by
  rw [List.getD_eq_getElem?_getD, List.getD_eq_getElem?_getD, getElem_modAt]
  split
  · cases l[k]? with
    | none => exact refl d
    | some x => exact each x
  · exact refl _

theorem getD_mapIdx_of {g : Nat → α → α} (refl : R d d) (each : ∀ i x, R x (g i x)) (l : List α) (k : Nat) :
    R (l.getD k d) ((l.mapIdx g).getD k d) := by
  rw [List.getD_eq_getElem?_getD, List.getD_eq_getElem?_getD, List.getElem?_mapIdx]
  cases l[k]? with
  | none => exact refl
  | some x => exact each k x

theorem getD_map_of (refl : R d d) (each : ∀ x, R x (f x)) (l : List α) (k : Nat) : R (l.getD k d) ((l.map f).getD k d) := by
  rw [List.getD_eq_getElem?_getD, List.getD_eq_getElem?_getD, List.getElem?_map]
  cases l[k]? with
  | none => exact refl
  | some x => exact each x

theorem length_modAt (l : List α) (n : Nat) : (modAt l n f).length = l.length := by
  induction l generalizing n with
  | nil => rfl
  | cons x t ih =>
    cases n with
    | zero => rfl
    | succ n => exact congrArg (· + 1) (ih n)

theorem getD_modAt_self (l : List α) (n : Nat) (fixed : n < l.length) : (modAt l n f).getD n d = f (l.getD n d) := by
  simp [List.getD_eq_getElem?_getD, getElem_modAt, fixed]

theorem getD_modAt_ne (l : List α) {n k : Nat} (other : k ≠ n) : (modAt l n f).getD k d = l.getD k d := by
  rw [List.getD_eq_getElem?_getD, List.getD_eq_getElem?_getD, getElem_modAt, if_neg other]

end

/-! ### What the steps of a kill leave -/

/-- Of a core a step of a kill leaves all but its caches, its queues and locations of its atomic unit, which go; the log is told apart. -/
structure CoreSt.Wanes (c d : CoreSt) : Prop where
  mxiq : d.mxiq = c.mxiq
  copyq : d.copyq = c.copyq
  marks : d.marks = c.marks
  atomUnit : d.atomUnit ⊆ c.atomUnit

/-- Of a cluster entries, locations and monitors may go, and no monitor comes. -/
structure Cluster.Wanes (c d : Cluster) : Prop where
  faults : d.faults = c.faults
  faultWaiting : d.faultWaiting = c.faultWaiting
  peat : d.peat ⊆ c.peat
  atomStore : d.atomStore ⊆ c.atomStore
  monitors : ∀ m ∈ d.monitors, ∃ n ∈ c.monitors, m.core = n.core ∧ m.slot = n.slot

/-- Of a context only handles change: they are demoted (R240). -/
def Ctx.Wanes (c d : Ctx) : Prop := d = { c with handles := d.handles }

/-- What steps of a kill leave of the state's parts, where they have taken some entries, by core and position, from the logs. -/
structure State.Wanes (taken : List (Nat × LogEntry)) (s t : State) : Prop where
  coreCount : t.cores.length = s.cores.length
  cores : ∀ c, (s.core c).Wanes (t.core c)
  logs : ∀ c, (t.core c).log = (s.core c).log.filter fun e => !taken.any fun x => x.1 == c && x.2.pos == e.pos
  clusterCount : t.clusters.length = s.clusters.length
  clusters : ∀ k, (s.cluster k).Wanes (t.cluster k)
  ctxCount : t.ctxs.length = s.ctxs.length
  ctxs : ∀ x, (s.ctx x).Wanes (t.ctx x)
  windows : t.windows = s.windows

theorem CoreSt.Wanes.refl (c : CoreSt) : c.Wanes c := ⟨rfl, rfl, rfl, List.Subset.refl _⟩

theorem CoreSt.Wanes.trans {c d e : CoreSt} (h : c.Wanes d) (g : d.Wanes e) : c.Wanes e :=
  ⟨g.mxiq.trans h.mxiq, g.copyq.trans h.copyq, g.marks.trans h.marks, List.Subset.trans g.atomUnit h.atomUnit⟩

/-- A change of other parts of a core. -/
theorem CoreSt.Wanes.same {c d : CoreSt} (mxiq : d.mxiq = c.mxiq := by rfl) (copyq : d.copyq = c.copyq := by rfl)
    (marks : d.marks = c.marks := by rfl) (atomUnit : d.atomUnit = c.atomUnit := by rfl) : c.Wanes d :=
  ⟨mxiq, copyq, marks, atomUnit ▸ List.Subset.refl _⟩

theorem Cluster.Wanes.refl (c : Cluster) : c.Wanes c := ⟨rfl, rfl, List.Subset.refl _, List.Subset.refl _, fun m h => ⟨m, h, rfl, rfl⟩⟩

theorem Cluster.Wanes.trans {c d e : Cluster} (h : c.Wanes d) (g : d.Wanes e) : c.Wanes e where
  faults := g.faults.trans h.faults
  faultWaiting := g.faultWaiting.trans h.faultWaiting
  peat := List.Subset.trans g.peat h.peat
  atomStore := List.Subset.trans g.atomStore h.atomStore
  monitors m hm := by
    obtain ⟨n, hn, core, slot⟩ := g.monitors m hm
    obtain ⟨o, ho, core', slot'⟩ := h.monitors n hn
    exact ⟨o, ho, core.trans core', slot.trans slot'⟩

theorem Ctx.Wanes.refl (c : Ctx) : c.Wanes c := Eq.refl c

theorem Ctx.Wanes.trans {c d e : Ctx} (h : c.Wanes d) (g : d.Wanes e) : c.Wanes e := by
  rw [Ctx.Wanes] at h g ⊢
  rw [g, h]

theorem State.Wanes.refl (s : State) : Wanes [] s s where
  coreCount := rfl
  cores _ := .refl _
  logs _ := (List.filter_true _).symm
  clusterCount := rfl
  clusters _ := .refl _
  ctxCount := rfl
  ctxs _ := .refl _
  windows := rfl

section
variable {taken : List (Nat × LogEntry)} {s₀ s t : State}

/-- A step that leaves the logs as they are. -/
theorem State.Wanes.step (h : Wanes taken s₀ s) (g : Wanes [] s t) : Wanes taken s₀ t where
  coreCount := g.coreCount.trans h.coreCount
  cores c := (h.cores c).trans (g.cores c)
  logs c := by rw [g.logs c, h.logs c]; exact List.filter_true _
  clusterCount := g.clusterCount.trans h.clusterCount
  clusters k := (h.clusters k).trans (g.clusters k)
  ctxCount := g.ctxCount.trans h.ctxCount
  ctxs x := (h.ctxs x).trans (g.ctxs x)
  windows := g.windows.trans h.windows

/-- A change of other parts of the state. -/
theorem State.Wanes.same (h : Wanes taken s₀ s) (cores : t.cores = s.cores := by rfl) (clusters : t.clusters = s.clusters := by rfl)
    (ctxs : t.ctxs = s.ctxs := by rfl) (windows : t.windows = s.windows := by rfl) : Wanes taken s₀ t where
  coreCount := cores ▸ h.coreCount
  cores := by simpa only [State.core, cores] using h.cores
  logs := by simpa only [State.core, cores] using h.logs
  clusterCount := clusters ▸ h.clusterCount
  clusters := by simpa only [State.cluster, clusters] using h.clusters
  ctxCount := ctxs ▸ h.ctxCount
  ctxs := by simpa only [State.ctx, ctxs] using h.ctxs
  windows := windows ▸ h.windows

theorem State.Wanes.mapIdxCores {f : Nat → CoreSt → CoreSt} (h : Wanes taken s₀ s)
    (each : ∀ (i : Nat) (c : CoreSt), c.Wanes (f i c) ∧ (f i c).log = c.log) :
    Wanes taken s₀ { s with cores := s.cores.mapIdx f } :=
  h.step { State.Wanes.refl s with
    coreCount := List.length_mapIdx
    cores := getD_mapIdx_of (.refl _) (fun i c => (each i c).1) _
    logs := fun c => (getD_mapIdx_of (R := fun c d => d.log = c.log) rfl (fun i c => (each i c).2) s.cores c).trans (List.filter_true _).symm }

theorem State.Wanes.mapCores {f : CoreSt → CoreSt} (h : Wanes taken s₀ s) (each : ∀ c : CoreSt, c.Wanes (f c) ∧ (f c).log = c.log) :
    Wanes taken s₀ { s with cores := s.cores.map f } :=
  h.step { State.Wanes.refl s with
    coreCount := List.length_map _
    cores := getD_map_of (.refl _) (fun c => (each c).1) _
    logs := fun c => (getD_map_of (R := fun c d => d.log = c.log) rfl (fun c => (each c).2) s.cores c).trans (List.filter_true _).symm }

theorem State.Wanes.modCore {n : Nat} {f : CoreSt → CoreSt} (h : Wanes taken s₀ s) (each : ∀ c : CoreSt, c.Wanes (f c) ∧ (f c).log = c.log) :
    Wanes taken s₀ (s.modCore n f) :=
  h.step { State.Wanes.refl s with
    coreCount := length_modAt _ _
    cores := getD_modAt_of CoreSt.Wanes.refl (fun c => (each c).1) _ _
    logs := fun c => (getD_modAt_of (R := fun c d => d.log = c.log) (fun _ => rfl) (fun c => (each c).2) s.cores n c).trans
      (List.filter_true _).symm }

theorem State.Wanes.mapClusters {f : Cluster → Cluster} (h : Wanes taken s₀ s) (each : ∀ c : Cluster, c.Wanes (f c)) :
    Wanes taken s₀ { s with clusters := s.clusters.map f } :=
  h.step { State.Wanes.refl s with clusterCount := List.length_map _, clusters := getD_map_of (.refl _) each _ }

theorem State.Wanes.modCluster {k : Nat} {f : Cluster → Cluster} (h : Wanes taken s₀ s) (each : ∀ c : Cluster, c.Wanes (f c)) :
    Wanes taken s₀ (s.modCluster k f) :=
  h.step { State.Wanes.refl s with clusterCount := length_modAt _ _, clusters := getD_modAt_of Cluster.Wanes.refl each _ _ }

theorem State.Wanes.modCtx {x : Nat} {f : Ctx → Ctx} (h : Wanes taken s₀ s) (each : ∀ c : Ctx, c.Wanes (f c)) :
    Wanes taken s₀ (s.modCtx x f) :=
  h.step { State.Wanes.refl s with ctxCount := length_modAt _ _, ctxs := getD_modAt_of Ctx.Wanes.refl each _ _ }

end

/-! ### Bytes that reach their homes -/

/-- Bytes reach their homes: batts, felts and launches are as before too. -/
structure State.Applied (taken : List (Nat × LogEntry)) (s t : State) : Prop extends State.Wanes taken s t where
  batts : t.batts = s.batts
  felts : t.felts = s.felts
  launches : t.launches = s.launches

theorem State.Applied.refl (s : State) : Applied [] s s := { State.Wanes.refl s with batts := rfl, felts := rfl, launches := rfl }

section
variable {taken : List (Nat × LogEntry)} {s₀ s t : State}

/-- A step that leaves batts, felts and launches as they are. -/
theorem State.Applied.step (h : Applied taken s₀ s) (parts : Wanes [] s t) (batts : t.batts = s.batts := by rfl)
    (felts : t.felts = s.felts := by rfl) (launches : t.launches = s.launches := by rfl) : Applied taken s₀ t :=
  { h.toWanes.step parts with batts := batts.trans h.batts, felts := felts.trans h.felts, launches := launches.trans h.launches }

theorem State.Applied.same (h : Applied taken s₀ s) (cores : t.cores = s.cores := by rfl) (clusters : t.clusters = s.clusters := by rfl)
    (ctxs : t.ctxs = s.ctxs := by rfl) (windows : t.windows = s.windows := by rfl) (batts : t.batts = s.batts := by rfl)
    (felts : t.felts = s.felts := by rfl) (launches : t.launches = s.launches := by rfl) : Applied taken s₀ t :=
  h.step (State.Wanes.same (.refl s) cores clusters ctxs windows) batts felts launches

theorem State.Applied.ite {c : Prop} [Decidable c] {x y : State} (hx : Applied taken s₀ x) (hy : Applied taken s₀ y) :
    Applied taken s₀ (if c then x else y) := by
  split
  · exact hx
  · exact hy

theorem State.Applied.foldl {α : Type} {f : State → α → State} {l : List α} (h : Applied taken s₀ s)
    (step : ∀ s x, Applied taken s₀ s → Applied taken s₀ (f s x)) : Applied taken s₀ (l.foldl f s) :=
  List.foldlRecOn l f h fun s h x _ => step s x h

theorem State.Applied.modCore {n : Nat} {f : CoreSt → CoreSt} (h : Applied taken s₀ s)
    (each : ∀ c : CoreSt, c.Wanes (f c) ∧ (f c).log = c.log) :
    Applied taken s₀ (s.modCore n f) := h.step (.modCore (.refl s) each)

theorem State.Applied.announcePoison (h : Applied taken s₀ s) : Applied taken s₀ s.announcePoison := .ite h.same h

theorem State.Applied.recordPoison {pa origin : Nat} {comp : Bool} (h : Applied taken s₀ s) : Applied taken s₀ (s.recordPoison pa origin comp) :=
  .ite h (.ite (.announcePoison h.same) (.ite (.announcePoison h.same) h.same))

theorem State.Applied.poisonSector {pa origin : Nat} {comp : Bool} (h : Applied taken s₀ s) : Applied taken s₀ (s.poisonSector pa origin comp) :=
  .recordPoison (.ite h h.same)

theorem State.Applied.demote {y : Nat × Nat} (h : Applied taken s₀ s) : Applied taken s₀ (s.demote y) := h.step (.modCtx (.refl s) fun _ => rfl)

theorem State.Applied.putL2 {x : L2Sector} (h : Applied taken s₀ s) : Applied taken s₀ (s.putL2 x) := .ite h.same h.same

theorem State.Applied.expand {slice sector : Nat} (h : Applied taken s₀ s) : Applied taken s₀ (s.expand slice sector) := .ite h.same h

theorem State.Applied.forgetL1 {p : Nat → Bool} (h : Applied taken s₀ s) : Applied taken s₀ (s.forgetL1 p) :=
  h.step (.mapCores (.refl s) fun c => by split <;> exact ⟨.same, rfl⟩)

theorem State.Applied.setL2 {l : List L2Sector} (h : Applied taken s₀ s) : Applied taken s₀ { s with l2 := l } := h.same

theorem State.Applied.evictLine {slice line : Nat} (h : Applied taken s₀ s) : Applied taken s₀ (s.evictLine slice line) := by
  unfold State.evictLine
  exact .forgetL1 (.setL2 (.foldl (.expand h) fun _ _ h => h.same))

theorem State.Applied.evictVictim {slice line : Nat} (h : Applied taken s₀ s) : Applied taken s₀ (s.evictVictim slice line) := by
  unfold State.evictVictim
  refine .evictLine ?_
  split
  · exact .ite (.demote h) h
  · exact h

theorem State.Applied.l2FitFrom {slice line fuel : Nat} (h : Applied taken s₀ s) : Applied taken s₀ (l2FitFrom slice line fuel s) := by
  induction fuel generalizing s with
  | zero => exact h
  | succ fuel ih =>
    unfold Machine.l2FitFrom
    refine .ite h ?_
    split
    · exact ih h.evictVictim
    · exact .foldl h fun _ _ h => h.evictLine

theorem State.Applied.l2Fit {slice sector : Nat} (h : Applied taken s₀ s) : Applied taken s₀ (s.l2Fit slice sector) := .ite h (.l2FitFrom h)

theorem State.Applied.notice {t : Target} {sector : Nat} (h : Applied taken s₀ s) : Applied taken s₀ (s.notice t sector) :=
  h.step <| .mapClusters (.refl s) fun k => by
    split
    · refine { Cluster.Wanes.refl k with monitors := fun m hm => ?_ }
      obtain ⟨n, hn, rfl⟩ := List.mem_map.1 hm
      refine ⟨n, hn, ?_⟩
      split <;> exact ⟨rfl, rfl⟩
    · exact .refl k

theorem State.Applied.l2Apply {x : Loc} {mask : DWord} {bytes : List Byte} {ext : Bool} (h : Applied taken s₀ s) :
    Applied taken s₀ (s.l2Apply x mask bytes ext) := .ite h (.notice (.l2Fit (.same (.putL2 (.expand h)))))

theorem State.Applied.hostWrite {pa : Nat} {mask : DWord} {bytes : List Byte} {poisoned : Bool} (h : Applied taken s₀ s) :
    Applied taken s₀ (s.hostWrite pa mask bytes poisoned) := by
  unfold State.hostWrite
  split
  · exact h.same
  · exact h.same

theorem State.Applied.applyAt {x : Loc} {mask : DWord} {bytes : List Byte} {pois ext : Bool} (h : Applied taken s₀ s) :
    Applied taken s₀ (s.applyAt x mask bytes pois ext) := by
  unfold State.applyAt
  refine .ite h ?_
  split
  · exact .ite (.poisonSector (.l2Apply h)) (.l2Apply h)
  · exact .ite (.same (.notice h.same)) (.notice h.same)
  · exact .hostWrite h

/-! ### Atomic units -/

theorem State.Applied.writeBackLocs {space : Nat} {l : List AtomLoc} (h : Applied taken s₀ s) : Applied taken s₀ (s.writeBackLocs space l) :=
  .foldl h fun _ _ h => .applyAt h

theorem State.Applied.filterUnit {n : Nat} {p : AtomLoc → Bool} (h : Applied taken s₀ s) :
    Applied taken s₀ (s.modCore n fun c => { c with atomUnit := c.atomUnit.filter p }) :=
  h.modCore fun c => ⟨{ CoreSt.Wanes.refl c with atomUnit := List.filter_sublist.subset }, rfl⟩

theorem State.Applied.filterStore {k : Nat} {p : AtomLoc → Bool} (h : Applied taken s₀ s) :
    Applied taken s₀ (s.modCluster k fun c => { c with atomStore := c.atomStore.filter p }) :=
  h.step (.modCluster (.refl s) fun c => { Cluster.Wanes.refl c with atomStore := List.filter_sublist.subset })

theorem State.Applied.unitsYield {core : Nat} {e : LogEntry} (h : Applied taken s₀ s) : Applied taken s₀ (s.unitsYield core e) :=
  .ite h (.filterStore (.filterUnit (.foldl h fun _ _ h => .writeBackLocs h)))

theorem State.Applied.writeBackL1Unit {core space : Nat} (h : Applied taken s₀ s) : Applied taken s₀ (s.writeBackL1Unit core space) :=
  .filterUnit (.writeBackLocs h)

theorem State.Applied.writeBackStore {k space : Nat} (h : Applied taken s₀ s) : Applied taken s₀ (s.writeBackStore k space) :=
  .filterStore (.writeBackLocs h)

end

end Sys2Proof.Machine
end
section
/-! The logs at the kill of a context (R260): what is published of its entries is applied, the rest is discarded, and what others have not
published or have pinned stays. -/

namespace Sys2Proof.Machine

/-! ### The order of application -/

section
variable {α : Type} {lt : α → α → Bool}

theorem mem_insertBy {l : List α} {x y : α} : y ∈ insertBy lt l x ↔ y = x ∨ y ∈ l := by
  induction l with
  | nil => simp [insertBy]
  | cons z t ih =>
    unfold insertBy
    split
    · exact List.mem_cons
    · rw [List.mem_cons, ih, List.mem_cons, or_left_comm]

/-- In a sorted list nothing comes before what stands ahead of it. -/
theorem pairwise_insertBy (asymm : ∀ a b, lt a b = true → lt b a = false) (trans : ∀ a b c, lt a b = true → lt b c = true → lt a c = true)
    {l : List α} {x : α} (h : l.Pairwise fun a b => lt b a = false) : (insertBy lt l x).Pairwise fun a b => lt b a = false := by
  induction l with
  | nil => exact List.pairwise_singleton _ _
  | cons y t ih =>
    obtain ⟨head, tail⟩ := List.pairwise_cons.1 h
    unfold insertBy
    split
    next before =>
      refine List.pairwise_cons.2 ⟨fun z hz => ?_, h⟩
      rcases List.mem_cons.1 hz with rfl | later
      · exact asymm _ _ before
      · refine Bool.eq_false_iff.2 fun less => ?_
        exact absurd (trans z x y less before) (Bool.eq_false_iff.1 (head z later))
    next after =>
      refine List.pairwise_cons.2 ⟨fun z hz => ?_, ih tail⟩
      rcases mem_insertBy.1 hz with rfl | later
      · exact Bool.eq_false_iff.2 after
      · exact head z later

theorem mem_foldl_insertBy {l acc : List α} {y : α} : y ∈ l.foldl (insertBy lt) acc ↔ y ∈ acc ∨ y ∈ l := by
  induction l generalizing acc with
  | nil => simp
  | cons x t ih => rw [List.foldl_cons, ih, mem_insertBy, List.mem_cons, or_assoc, or_left_comm]

theorem mem_sortBy {l : List α} {y : α} : y ∈ sortBy lt l ↔ y ∈ l := mem_foldl_insertBy.trans (by simp)

theorem pairwise_sortBy (asymm : ∀ a b, lt a b = true → lt b a = false) (trans : ∀ a b c, lt a b = true → lt b c = true → lt a c = true)
    (l : List α) : (sortBy lt l).Pairwise fun a b => lt b a = false :=
  List.foldlRecOn l (insertBy lt) List.Pairwise.nil fun _ h _ _ => pairwise_insertBy asymm trans h

end

theorem LogEntry.before_iff {granted : Nat} {a b : LogEntry} : a.before granted b = true ↔ numberAge granted b.num < numberAge granted a.num ∨
    numberAge granted a.num = numberAge granted b.num ∧ a.pos < b.pos := by
  simp [LogEntry.before]

/-- Entries stand in the order of their numbers, the oldest first. -/
theorem State.publishedOrder_sorted (s : State) :
    s.publishedOrder.Pairwise fun x y => numberAge s.dev.granted y.2.num ≤ numberAge s.dev.granted x.2.num := by
  refine (pairwise_sortBy (fun a b less => ?_) (fun a b c ab bc => ?_) _).imp fun {x y} later => ?_
  · rw [LogEntry.before_iff] at less
    rw [Bool.eq_false_iff, ne_eq, LogEntry.before_iff]
    omega
  · rw [LogEntry.before_iff] at ab bc ⊢
    omega
  · rw [Bool.eq_false_iff, ne_eq, LogEntry.before_iff] at later
    omega

theorem State.mem_publishedOrder {s : State} {c : Nat} {e : LogEntry} :
    (c, e) ∈ s.publishedOrder ↔ e ∈ (s.core c).log ∧ e.published = true ∧ e.depth = 0 := by
  simp only [State.publishedOrder, mem_sortBy, List.mem_flatten, List.mem_mapIdx, State.core, List.getD_eq_getElem?_getD]
  constructor
  · rintro ⟨_, ⟨i, hi, rfl⟩, mem⟩
    simp only [List.mem_map, List.mem_filter, Prod.mk.injEq, Bool.and_eq_true, beq_iff_eq] at mem
    obtain ⟨e, ⟨logged, published, depth⟩, rfl, rfl⟩ := mem
    rw [List.getElem?_eq_getElem hi]
    exact ⟨logged, published, depth⟩
  · rintro ⟨logged, published, depth⟩
    by_cases hc : c < s.cores.length
    · rw [List.getElem?_eq_getElem hc] at logged
      exact ⟨_, ⟨c, hc, rfl⟩, List.mem_map.2 ⟨e, List.mem_filter.2 ⟨logged, by simp [published, depth]⟩, rfl⟩⟩
    · rw [List.getElem?_eq_none (Nat.le_of_not_lt hc)] at logged
      exact absurd logged (List.not_mem_nil)

/-! ### Applied entries leave the logs -/

section
variable {taken : List (Nat × LogEntry)} {s₀ s : State}

/-- An entry leaves its log. -/
theorem State.Applied.takeEntry {core : Nat} {e : LogEntry} (h : Applied taken s₀ s) :
    Applied (taken ++ [(core, e)]) s₀ (s.modCore core fun c => { c with log := c.log.filter fun x => x.pos != e.pos }) where
  coreCount := (length_modAt _ _).trans h.coreCount
  cores c := (h.cores c).trans (getD_modAt_of CoreSt.Wanes.refl (fun _ => .same) _ _ _)
  logs c := by
    have left : ((s.modCore core fun c => { c with log := c.log.filter fun x => x.pos != e.pos }).core c).log =
        (s.core c).log.filter fun x => !(core == c && e.pos == x.pos) := by
      by_cases own : c = core
      · subst own
        by_cases fixed : c < s.cores.length
        · refine (congrArg CoreSt.log (getD_modAt_self _ _ fixed)).trans (List.filter_congr fun x _ => ?_)
          simp [bne, Bool.beq_comm]
        · have absent : (s.core c).log = [] := by
            rw [State.core, List.getD_eq_default _ _ (Nat.le_of_not_lt fixed)]
          rw [absent, State.core, List.getD_eq_default _ _ (by exact (length_modAt s.cores c).trans_le (Nat.le_of_not_lt fixed))]
          rfl
      · refine (congrArg CoreSt.log (getD_modAt_ne _ own)).trans (List.filter_eq_self.2 fun x _ => ?_).symm
        simp [Ne.symm own]
    rw [left, h.logs c, List.filter_filter]
    exact List.filter_congr fun x _ => by simp [Bool.and_comm]
  clusterCount := h.clusterCount
  clusters := h.clusters
  ctxCount := h.ctxCount
  ctxs := h.ctxs
  windows := h.windows
  batts := h.batts
  felts := h.felts
  launches := h.launches

theorem State.Applied.applyEntry {core : Nat} {e : LogEntry} (h : Applied taken s₀ s) :
    Applied (taken ++ [(core, e)]) s₀ (s.applyEntry core e) := by
  have yielded : Applied taken s₀ ((s.unitsYield core e).modCore core fun c =>
    { c with l1 := mapIf (fun x => x.sector == e.sector && !x.gone) (fun x => x.own e) c.l1 }) := .modCore (.unitsYield h) fun _ => ⟨.same, rfl⟩
  have gone := (yielded.applyAt (x := locOf (e.sector * 64) e.comp) (mask := e.mask) (bytes := e.data) (pois := e.pois) (ext := false)).takeEntry
    (core := core) (e := e)
  exact gone.step (.mapIdxCores (.refl _) fun i c => by split <;> exact ⟨.same, rfl⟩)

theorem State.Applied.applyEntries {l : List (Nat × LogEntry)} (h : Applied taken s₀ s) :
    Applied (taken ++ l) s₀ (l.foldl (fun s x => s.applyEntry x.1 x.2) s) := by
  induction l generalizing taken s with
  | nil => rw [List.append_nil]; exact h
  | cons x t ih =>
    have rest := ih h.applyEntry (s := s.applyEntry x.1 x.2)
    rwa [List.append_assoc] at rest

end

/-! ### Kills -/

/-- The logs without what a kill discards of them. -/
def State.cutLogs (s : State) (space : Nat) : State :=
  { s with cores := s.cores.map fun c =>
      if c.log.isEmpty then c else { c with log := c.log.filter fun e => e.space != space || (e.published && e.depth == 0) } }

theorem State.mem_cutLogs {s : State} {space c : Nat} {e : LogEntry} :
    e ∈ ((s.cutLogs space).core c).log ↔ e ∈ (s.core c).log ∧ (e.space ≠ space ∨ e.published = true ∧ e.depth = 0) := by
  refine getD_map_of (R := fun c d : CoreSt => e ∈ d.log ↔ e ∈ c.log ∧ (e.space ≠ space ∨ e.published = true ∧ e.depth = 0))
    (by simp) (fun c => ?_) s.cores c
  split
  next empty => simp [List.isEmpty_iff.1 empty]
  · simp [List.mem_filter]

/-- A kill applies published entries, each of its context among them. -/
theorem State.killLogs_applied (s : State) (space : Nat) : ∃ taken, Applied taken (s.cutLogs space) (s.killLogs space) ∧
    (∀ x ∈ taken, x ∈ (s.cutLogs space).publishedOrder) ∧ ∀ x ∈ (s.cutLogs space).publishedOrder, x.2.space = space → x ∈ taken := by
  have unfolded : s.killLogs space = match ((s.cutLogs space).publishedOrder.filter fun x => x.2.space == space).getLast? with
      | some x => (s.cutLogs space).drainWhere fun _ e =>
          numberAge (s.cutLogs space).dev.granted x.2.num ≤ numberAge (s.cutLogs space).dev.granted e.num
      | none => s.cutLogs space := rfl
  rw [unfolded]
  generalize s.cutLogs space = s
  cases last : (s.publishedOrder.filter fun x => x.2.space == space).getLast? with
  | none =>
    refine ⟨[], .refl _, fun _ h => absurd h List.not_mem_nil, fun x hx own => ?_⟩
    exact absurd own (by simpa using List.filter_eq_nil_iff.1 (List.getLast?_eq_none_iff.1 last) x hx)
  | some x =>
    refine ⟨_, (State.Applied.refl s).applyEntries, fun y hy => List.mem_of_mem_filter hy, fun y hy own => ?_⟩
    refine List.mem_filter.2 ⟨hy, decide_eq_true ?_⟩
    obtain ⟨front, split⟩ := List.getLast?_eq_some_iff.1 last
    have sorted := s.publishedOrder_sorted.filter fun x => x.2.space == space
    have here : y ∈ s.publishedOrder.filter fun x => x.2.space == space := List.mem_filter.2 ⟨hy, by simpa using own⟩
    rw [split] at sorted here
    rcases List.mem_append.1 here with earlier | same
    · exact (List.pairwise_append.1 sorted).2.2 y earlier x List.mem_cons_self
    · rw [List.mem_singleton.1 same]

end Sys2Proof.Machine
end
section
/-! The batts, felts and launches of a context at its kill (R423), and the atomic units, which give up its locations (R285). -/

namespace Sys2Proof.Machine

/-- What each step of a fold establishes for its entry, and every step keeps, holds of all entries in the end. -/
theorem foldl_establishes {σ α : Type} {f : σ → α → σ} {P : α → σ → Prop} (keeps : ∀ s a x, P x s → P x (f s a))
    (makes : ∀ s a, P a (f s a)) {l : List α} {s : σ} {x : α} (h : x ∈ l) : P x (l.foldl f s) := by
  induction l generalizing s with
  | nil => cases h
  | cons y t ih =>
    rcases List.mem_cons.1 h with rfl | rest
    · exact List.foldlRecOn t f (makes s x) fun s h a _ => keeps s a x h
    · exact ih rest

/-- What a change establishes of an entry, and a default has, holds where it was made. -/
theorem getD_modAt_here {α : Type} {Q : α → Prop} {f : α → α} {d : α} (default : Q d) (each : ∀ x, Q (f x)) (l : List α) (n : Nat) :
    Q ((modAt l n f).getD n d) := by
  rw [List.getD_eq_getElem?_getD, getElem_modAt, if_pos rfl]
  cases l[n]? with
  | none => exact default
  | some x => exact each x

/-! ### Atomic units -/

section
variable {taken : List (Nat × LogEntry)} {s₀ s : State} {space : Nat}

/-- The atomic unit of a core keeps no location of the space. -/
def State.UnitFree (space c : Nat) (s : State) : Prop := ∀ x ∈ (s.core c).atomUnit, space ∉ x.spaces

/-- The atomic store of a cluster keeps no location of the space. -/
def State.StoreFree (space k : Nat) (s : State) : Prop := ∀ x ∈ (s.cluster k).atomStore, space ∉ x.spaces

theorem State.Wanes.unitFree {c : Nat} (h : Wanes taken s₀ s) (free : s₀.UnitFree space c) : s.UnitFree space c :=
  fun x hx => free x ((h.cores c).atomUnit hx)

theorem State.Wanes.storeFree {k : Nat} (h : Wanes taken s₀ s) (free : s₀.StoreFree space k) : s.StoreFree space k :=
  fun x hx => free x ((h.clusters k).atomStore hx)

theorem State.Applied.unitStep {n : Nat} (h : Applied taken s₀ s) :
    Applied taken s₀ (if (s.core n).atomUnit.isEmpty then s else s.writeBackL1Unit n space) := .ite h h.writeBackL1Unit

theorem State.Applied.storeStep {n : Nat} (h : Applied taken s₀ s) :
    Applied taken s₀ (if (s.cluster n).atomStore.isEmpty then s else s.writeBackStore n space) := .ite h h.writeBackStore

theorem State.Applied.writeBackAll (h : Applied taken s₀ s) : Applied taken s₀ (s.writeBackAll space) :=
  .foldl (.foldl h fun _ _ h => h.unitStep) fun _ _ h => h.storeStep

theorem State.writeBackL1Unit_unitFree (s : State) (c space : Nat) : (s.writeBackL1Unit c space).UnitFree space c :=
  getD_modAt_here (Q := fun c : CoreSt => ∀ x ∈ c.atomUnit, space ∉ x.spaces) (fun _ hx => absurd hx List.not_mem_nil)
    (fun c x hx => by simpa using (List.mem_filter.1 hx).2) _ c

theorem State.writeBackStore_storeFree (s : State) (k space : Nat) : (s.writeBackStore k space).StoreFree space k :=
  getD_modAt_here (Q := fun k : Cluster => ∀ x ∈ k.atomStore, space ∉ x.spaces) (fun _ hx => absurd hx List.not_mem_nil)
    (fun c x hx => by simpa using (List.mem_filter.1 hx).2) _ k

theorem State.writeBackAll_unitFree (s : State) (space c : Nat) : (s.writeBackAll space).UnitFree space c := by
  suffices units : ((List.range s.cores.length).foldl
      (fun s c => if (s.core c).atomUnit.isEmpty then s else s.writeBackL1Unit c space) s).UnitFree space c from
    State.Wanes.unitFree (State.Applied.toWanes (.foldl (.refl _) fun _ _ h => h.storeStep)) units
  by_cases fixed : c < s.cores.length
  · refine foldl_establishes (P := fun c s => s.UnitFree space c)
      (fun s n c free => State.Wanes.unitFree (State.Applied.toWanes (.unitStep (.refl s))) free) (fun s c => ?_) (List.mem_range.2 fixed)
    split
    next empty => exact fun x hx => absurd hx (List.isEmpty_iff.1 empty ▸ List.not_mem_nil)
    · exact s.writeBackL1Unit_unitFree c space
  · refine State.Wanes.unitFree (State.Applied.toWanes (.foldl (.refl s) fun _ _ h => h.unitStep)) fun x hx => ?_
    rw [State.core, List.getD_eq_default _ _ (Nat.le_of_not_lt fixed)] at hx
    exact absurd hx List.not_mem_nil

theorem State.writeBackAll_storeFree (s : State) (space k : Nat) : (s.writeBackAll space).StoreFree space k := by
  unfold State.writeBackAll
  dsimp only
  generalize (List.range s.cores.length).foldl (fun s c => if (s.core c).atomUnit.isEmpty then s else s.writeBackL1Unit c space) s = s
  by_cases fixed : k < s.clusters.length
  · refine foldl_establishes (P := fun k s => s.StoreFree space k)
      (fun s n k free => State.Wanes.storeFree (State.Applied.toWanes (.storeStep (.refl s))) free) (fun s k => ?_) (List.mem_range.2 fixed)
    split
    next empty => exact fun x hx => absurd hx (List.isEmpty_iff.1 empty ▸ List.not_mem_nil)
    · exact s.writeBackStore_storeFree k space
  · refine State.Wanes.storeFree (State.Applied.toWanes (.foldl (.refl s) fun _ _ h => h.storeStep)) fun x hx => ?_
    rw [State.cluster, List.getD_eq_default _ _ (Nat.le_of_not_lt fixed)] at hx
    exact absurd hx List.not_mem_nil

end

/-! ### Batts and felts end -/

/-- Of a launch of the context only its start and cluster barriers go as its batts and felts end; another is as before. -/
def Launch.Wanes (space : Nat) (l m : Launch) : Prop :=
  (l.recd.ctx ≠ space → m = l) ∧ (l.recd.ctx = space → m = { l with started := m.started, cbars := m.cbars })

/-- Batts and felts of a context end. -/
structure State.Ended (space : Nat) (s t : State) : Prop extends State.Wanes [] s t where
  launches : ∃ f : Launch → Launch, t.launches = s.launches.map f ∧ ∀ l ∈ s.launches, l.Wanes space (f l)

theorem Launch.Wanes.refl {space : Nat} (l : Launch) : l.Wanes space l := ⟨fun _ => rfl, fun _ => rfl⟩

section
variable {space : Nat} {l m : Launch}

theorem Launch.Wanes.ctx (h : l.Wanes space m) : m.recd.ctx = l.recd.ctx := by
  by_cases own : l.recd.ctx = space
  · rw [h.2 own]
  · rw [h.1 own]

theorem Launch.Wanes.lnum (h : l.Wanes space m) : m.lnum = l.lnum := by
  by_cases own : l.recd.ctx = space
  · rw [h.2 own]
  · rw [h.1 own]

theorem Launch.Wanes.trans {n : Launch} (h : l.Wanes space m) (g : m.Wanes space n) : l.Wanes space n := by
  refine ⟨fun other => (g.1 (h.ctx.trans_ne other)).trans (h.1 other), fun own => ?_⟩
  rw [g.2 (h.ctx.trans own), h.2 own]

end

/-- Launches found by their number are of the contexts that they were of. -/
theorem Launch.Wanes.find {space n : Nat} {f : Launch → Launch} {l : List Launch} (each : ∀ x ∈ l, x.Wanes space (f x)) :
    ((l.map f).find? fun x => x.lnum == n).map (·.recd.ctx) = (l.find? fun x => x.lnum == n).map (·.recd.ctx) := by
  induction l with
  | nil => rfl
  | cons x rest ih =>
    have here := each x List.mem_cons_self
    rw [List.map_cons, List.find?_cons, List.find?_cons, here.lnum]
    split
    · exact congrArg some here.ctx
    · exact ih fun m hm => each m (List.mem_cons_of_mem x hm)

section
variable {space : Nat} {s₀ s t : State}

theorem State.Ended.refl (s : State) : Ended space s s :=
  { State.Wanes.refl s with launches := ⟨id, (List.map_id _).symm, fun l _ => .refl l⟩ }

theorem State.Ended.trans (h : Ended space s₀ s) (g : Ended space s t) : Ended space s₀ t := by
  obtain ⟨f, hf, each⟩ := h.launches
  obtain ⟨f', hf', each'⟩ := g.launches
  refine { h.toWanes.step g.toWanes with launches := ⟨f' ∘ f, ?_, fun l hl => ?_⟩ }
  · rw [hf', hf, List.map_map]
  · exact (each l hl).trans (each' (f l) (hf ▸ List.mem_map_of_mem hl))

theorem State.Ended.step (h : Ended space s₀ s) (g : Wanes [] s t) (launches : t.launches = s.launches := by rfl) : Ended space s₀ t :=
  h.trans { g with launches := ⟨id, launches.trans (List.map_id _).symm, fun l _ => .refl l⟩ }

theorem State.Ended.applied (h : Ended space s₀ s) (g : Applied [] s t) : Ended space s₀ t := h.step g.toWanes g.launches

/-- Launches of the context change. -/
theorem State.Ended.mapIfLaunches {p : Launch → Bool} {f : Launch → Launch} (h : Ended space s₀ s)
    (own : ∀ l ∈ s.launches, p l = true → l.recd.ctx = space) (each : ∀ l, f l = { l with started := (f l).started, cbars := (f l).cbars }) :
    Ended space s₀ { s with launches := mapIf p f s.launches } :=
  h.trans { State.Wanes.refl s with launches := ⟨fun l => if p l then f l else l, rfl, fun l hl => by
    dsimp only
    split
    next holds => exact ⟨fun other => absurd (own l hl holds) other, fun _ => each l⟩
    · exact .refl l⟩ }

/-- Every launch of a number is of the context. -/
def State.Owns (s : State) (space n : Nat) : Prop := ∀ l ∈ s.launches, l.lnum = n → l.recd.ctx = space

theorem State.Ended.owns {n : Nat} (h : Ended space s t) (own : s.Owns space n) : t.Owns space n := by
  obtain ⟨f, hf, each⟩ := h.launches
  intro m hm number
  obtain ⟨l, hl, rfl⟩ := List.mem_map.1 (hf ▸ hm)
  exact (each l hl).ctx.trans (own l hl ((each l hl).lnum.symm.trans number))

/-- The context of a launch number is as before. -/
theorem State.Ended.ctxOf (h : Ended space s t) (n : Nat) : (t.launch? n).map (·.recd.ctx) = (s.launch? n).map (·.recd.ctx) := by
  obtain ⟨f, hf, each⟩ := h.launches
  rw [State.launch?, State.launch?, hf, Launch.Wanes.find each]

/-! ### Batts -/

theorem State.settlePeat_applied (s : State) (k : Nat) : Applied [] s (s.settlePeat k) := by
  unfold State.settlePeat
  split
  · exact .refl s
  · exact .ite (.refl s) ((State.Applied.refl s).step
      (.modCluster (.refl s) fun c => { Cluster.Wanes.refl c with peat := List.nil_subset _ }))

theorem State.shelve_batts (s : State) (x : Nat) : (s.shelve x).batts = s.batts ∧ (s.shelve x).felts = s.felts := by
  unfold State.shelve
  split
  · exact ⟨rfl, rfl⟩
  · exact ⟨rfl, rfl⟩

theorem State.Ended.shelve (h : Ended space s₀ s) : Ended space s₀ (s.shelve space) := by
  unfold State.shelve
  split
  · exact h
  · exact h.mapIfLaunches (fun l _ out => by simp only [Bool.and_eq_true, beq_iff_eq] at out; exact out.1.1.2) fun _ => rfl

/-- The state as a batt has left it, but for what follows. -/
def State.leave (s : State) (b : Batt) : State :=
  ((s.leaveQueues b.core b.slot).modCore b.core fun c => { c with bankQueue := c.bankQueue.filter (· != b.slot) }).modCluster
    (clusterOf b.core) fun k => { k with monitors := k.monitors.filter fun m => !(m.core == b.core && m.slot == b.slot) }

theorem State.leaveQueues_applied (s : State) (core slot : Nat) : Applied [] s (s.leaveQueues core slot) :=
  .modCore (.refl s) fun _ => ⟨.same, rfl⟩

theorem State.leave_applied (s : State) (b : Batt) : Applied [] s (s.leave b) := by
  have quit : Applied [] s ((s.leaveQueues b.core b.slot).modCore b.core fun c =>
    { c with bankQueue := c.bankQueue.filter (· != b.slot) }) := .modCore (s.leaveQueues_applied b.core b.slot) fun _ => ⟨.same, rfl⟩
  exact quit.step <| .modCluster (.refl _) fun k => { Cluster.Wanes.refl k with monitors := fun m hm => ⟨m, List.mem_of_mem_filter hm, rfl, rfl⟩ }

theorem State.dropBatt_eq (s : State) (b : Batt) : s.dropBatt b =
    (({ s.leave b with batts := (s.leave b).batts.filter fun x => !(x.core == b.core && x.slot == b.slot) } : State).settlePeat
      (clusterOf b.core)).shelve b.space := rfl

theorem State.dropBatt_batts (s : State) (b : Batt) :
    (s.dropBatt b).batts = s.batts.filter (fun x => !(x.core == b.core && x.slot == b.slot)) ∧ (s.dropBatt b).felts = s.felts := by
  rw [State.dropBatt_eq, (State.shelve_batts _ _).1, (State.shelve_batts _ _).2, (State.settlePeat_applied _ _).batts,
    (State.settlePeat_applied _ _).felts]
  exact ⟨by rw [(s.leave_applied b).batts], (s.leave_applied b).felts⟩

theorem State.Ended.dropBatt {b : Batt} (h : Ended space s₀ s) (own : b.space = space) : Ended space s₀ (s.dropBatt b) := by
  rw [State.dropBatt_eq, own]
  exact .shelve (.applied (.step (.applied h (s.leave_applied b)) (.same (.refl _))) (State.settlePeat_applied _ _))

/-- A monitor of the batt goes with it. -/
theorem State.dropBatt_monitors (s : State) (b : Batt) :
    ∀ m ∈ ((s.dropBatt b).cluster (clusterOf b.core)).monitors, ¬(m.core = b.core ∧ m.slot = b.slot) := by
  have left : ∀ m ∈ ((s.leave b).cluster (clusterOf b.core)).monitors, ¬(m.core = b.core ∧ m.slot = b.slot) := by
    refine getD_modAt_here (Q := fun k : Cluster => ∀ m ∈ k.monitors, ¬(m.core = b.core ∧ m.slot = b.slot))
      (fun _ hm => absurd hm List.not_mem_nil) (fun k m hm => ?_) _ _
    rw [not_and_or]
    simpa using (List.mem_filter.1 hm).2
  have later : Ended b.space (s.leave b) (s.dropBatt b) := by
    rw [State.dropBatt_eq]
    exact .shelve (.applied (.step (.refl _) (.same (.refl _))) (State.settlePeat_applied _ _))
  intro m hm
  obtain ⟨n, hn, core, slot⟩ := (later.clusters _).monitors m hm
  rw [core, slot]
  exact left n hn

theorem State.Ended.dropBatts {l : List Batt} (h : Ended space s₀ s) (own : ∀ b ∈ l, b.space = space) :
    Ended space s₀ (l.foldl (fun s b => s.dropBatt b) s) :=
  List.foldlRecOn l _ h fun _ h b hb => h.dropBatt (own b hb)

theorem State.dropBatts_batts (s : State) (l : List Batt) : (l.foldl (fun s b => s.dropBatt b) s).batts =
    s.batts.filter (fun x => !l.any fun b => x.core == b.core && x.slot == b.slot) ∧ (l.foldl (fun s b => s.dropBatt b) s).felts = s.felts := by
  induction l generalizing s with
  | nil => exact ⟨(List.filter_true _).symm, rfl⟩
  | cons b rest ih =>
    obtain ⟨batts, felts⟩ := s.dropBatt_batts b
    rw [List.foldl_cons, (ih _).1, (ih _).2, batts, felts, List.filter_filter]
    exact ⟨List.filter_congr fun x _ => by simp [Bool.and_comm], rfl⟩

/-! ### Felts -/

theorem State.setPartition_applied (s : State) (core : Nat) : Applied [] s (s.setPartition core) :=
  .ite (.refl s) (.modCore (.refl s) fun _ => ⟨.same, rfl⟩)

/-- A felt leaves its core, but for the partition. -/
def State.leaveFelt (s : State) (lnum felt core : Nat) : State :=
  let s := { s with felts := s.felts.filter fun f => !(f.lnum == lnum && f.felt == felt) }
  if s.felts.any (fun f => f.lnum == lnum && f.core == core) then s
  else s.modCore core fun c => { c with recipes := c.recipes.filter fun r => r.lnum != lnum }

theorem State.leaveFelt_applied (s : State) (n felt core : Nat) :
    Applied [] { s with felts := s.felts.filter fun f => !(f.lnum == n && f.felt == felt) } (s.leaveFelt n felt core) :=
  .ite (.refl _) (.modCore (.refl _) fun _ => ⟨.same, rfl⟩)

theorem State.dropFelt_eq (s : State) (n felt core : Nat) : s.dropFelt n felt core = (s.leaveFelt n felt core).setPartition core := rfl

theorem State.Ended.dropFelt {n felt core : Nat} (h : Ended space s₀ s) : Ended space s₀ (s.dropFelt n felt core) := by
  rw [State.dropFelt_eq]
  exact .applied (.applied (h.step (.same (.refl s))) (s.leaveFelt_applied n felt core)) (State.setPartition_applied _ _)

theorem State.dropFelt_felts (s : State) (n felt core : Nat) :
    (s.dropFelt n felt core).felts = s.felts.filter (fun f => !(f.lnum == n && f.felt == felt)) ∧ (s.dropFelt n felt core).batts = s.batts := by
  rw [State.dropFelt_eq, (State.setPartition_applied _ _).felts, (State.setPartition_applied _ _).batts]
  exact ⟨(s.leaveFelt_applied n felt core).felts, (s.leaveFelt_applied n felt core).batts⟩

theorem State.Ended.retireFelt {n felt core : Nat} (h : Ended space s₀ s) (own : s.Owns space n) :
    Ended space s₀ (s.retireFelt n felt core) := by
  have dropped : Ended space s (s.dropFelt n felt core) := .dropFelt (.refl s)
  unfold State.retireFelt
  dsimp only
  split
  · exact h.trans dropped
  · exact (h.trans dropped).mapIfLaunches (fun l hl number => dropped.owns own l hl (beq_iff_eq.1 number)) fun _ => rfl

theorem State.retireFelt_felts (s : State) (n felt core : Nat) :
    (s.retireFelt n felt core).felts = s.felts.filter (fun f => !(f.lnum == n && f.felt == felt)) ∧
      (s.retireFelt n felt core).batts = s.batts := by
  unfold State.retireFelt
  dsimp only
  split
  · exact s.dropFelt_felts n felt core
  · exact s.dropFelt_felts n felt core

theorem State.Ended.retireFelts {l : List Felt} (h : Ended space s₀ s) (own : ∀ f ∈ l, s₀.Owns space f.lnum) :
    Ended space s₀ (l.foldl (fun s f => s.retireFelt f.lnum f.felt f.core) s) :=
  List.foldlRecOn l _ h fun _ h f hf => h.retireFelt (h.owns (own f hf))

theorem State.retireFelts_felts (s : State) (l : List Felt) : (l.foldl (fun s f => s.retireFelt f.lnum f.felt f.core) s).felts =
    s.felts.filter (fun x => !l.any fun f => x.lnum == f.lnum && x.felt == f.felt) ∧
      (l.foldl (fun s f => s.retireFelt f.lnum f.felt f.core) s).batts = s.batts := by
  induction l generalizing s with
  | nil => exact ⟨(List.filter_true _).symm, rfl⟩
  | cons f rest ih =>
    obtain ⟨felts, batts⟩ := s.retireFelt_felts f.lnum f.felt f.core
    rw [List.foldl_cons, (ih _).1, (ih _).2, felts, batts, List.filter_filter]
    exact ⟨List.filter_congr fun x _ => by simp [Bool.and_comm], rfl⟩

end

end Sys2Proof.Machine
end
section
/-! The kill of a context (R423), in its parts, and what it leaves. -/

namespace Sys2Proof.Machine

/-! ### Records that enter a window (R409) -/

/-- Waiting records have entered free slots of a window. -/
structure Window.Flushed (v w : Window) : Prop where
  rest : w = { v with slots := w.slots, new := w.new, waiting := w.waiting, seq := w.seq }
  kept : ∀ (i : Nat) (r : TrapRecord), v.slots[i]? = some (some r) → w.slots[i]? = some (some r)
  came : ∀ r, some r ∈ w.slots → some r ∈ v.slots ∨ ∃ x ∈ v.waiting, r.kind = x.kind
  waits : w.waiting ⊆ v.waiting

theorem Window.Flushed.refl (w : Window) : w.Flushed w := ⟨rfl, fun _ _ h => h, fun _ h => .inl h, List.Subset.refl _⟩

theorem Window.Flushed.trans {u v w : Window} (h : u.Flushed v) (g : v.Flushed w) : u.Flushed w where
  rest := by
    have first := h.rest
    have second := g.rest
    generalize w.slots = slots, w.new = new, w.waiting = waiting, w.seq = seq at second ⊢
    rw [second, first]
  kept i r hr := g.kept i r (h.kept i r hr)
  came r hr := by
    rcases g.came r hr with old | ⟨x, hx, kind⟩
    · exact h.came r old
    · exact .inr ⟨x, h.waits hx, kind⟩
  waits := List.Subset.trans g.waits h.waits

theorem getElem_of_findIdx {α : Type} {p : α → Bool} {l : List α} {n i : Nat} (h : findIdx p l n = some i) :
    ∃ j x, i = n + j ∧ l[j]? = some x ∧ p x = true := by
  induction l generalizing n with
  | nil => cases h
  | cons x t ih =>
    unfold findIdx at h
    split at h
    next here => exact ⟨0, x, (Option.some.inj h).symm, rfl, here⟩
    · obtain ⟨j, y, rfl, at', holds⟩ := ih h
      exact ⟨j + 1, y, by omega, at', holds⟩

/-- A waiting record enters the first free slot. -/
theorem Window.Flushed.enter {v : Window} {x r : TrapRecord} {rest : List TrapRecord} {i : Nat} {new seq : DWord} (waits : v.waiting = x :: rest)
    (free : findIdx Option.isNone v.slots 0 = some i) (kind : r.kind = x.kind) :
    v.Flushed { v with slots := setAt v.slots i (some r), new := new, waiting := rest, seq := seq } where
  rest := rfl
  kept k r hr := by
    obtain ⟨j, y, rfl, there, empty⟩ := getElem_of_findIdx free
    have other : 0 + j ≠ k := by
      rintro rfl
      rw [Nat.zero_add] at hr
      rw [hr] at there
      rw [← Option.some.inj there] at empty
      cases empty
    exact (List.getElem?_set_ne other).trans hr
  came y hy := by
    rcases List.mem_or_eq_of_mem_set hy with old | same
    · exact .inl old
    · exact .inr ⟨x, waits ▸ List.mem_cons_self, (Option.some.inj same) ▸ kind⟩
  waits := fun y hy => waits ▸ List.mem_cons_of_mem x hy

/-- Windows and outputs alone change where records enter a window. -/
theorem flushFrom_frame (w fuel : Nat) (s : State) : ∃ windows dev, flushFrom w fuel s = { s with windows := windows, dev := dev } := by
  induction fuel generalizing s with
  | zero => exact ⟨_, _, rfl⟩
  | succ fuel ih =>
    unfold flushFrom
    dsimp only
    split
    · split
      · obtain ⟨windows, dev, eq⟩ := ih (State.emit _ _)
        exact ⟨windows, dev, eq⟩
      · obtain ⟨windows, dev, eq⟩ := ih (State.modWindow _ _ _)
        exact ⟨windows, dev, eq⟩
    · exact ⟨_, _, rfl⟩

theorem State.window_modWindow {s : State} {w : Nat} {f : Window → Window} (fixed : w < s.windows.length) :
    (s.modWindow w f).window w = f (s.window w) := getD_modAt_self _ _ fixed

theorem flushFrom_window {w : Nat} (fuel : Nat) {s : State} (fixed : w < s.windows.length) :
    (s.window w).Flushed ((flushFrom w fuel s).window w) := by
  induction fuel generalizing s with
  | zero => exact .refl _
  | succ fuel ih =>
    unfold flushFrom
    dsimp only
    split
    next x rest i waits free =>
      refine Window.Flushed.trans ?_ (ih ?_)
      · have entered := Window.Flushed.enter (r := { x with seq := (s.window w).seq + 1, ticks := (s.cluster (clusterOf x.core)).tim })
          (new := (s.window w).new ||| BitVec.ofNat 64 (2 ^ i)) (seq := (s.window w).seq + 1) waits free rfl
        split
        · exact (congrArg (Window.Flushed _) (State.window_modWindow fixed)).mpr entered
        · exact (congrArg (Window.Flushed _) (State.window_modWindow fixed)).mpr entered
      · split
        · exact fixed.trans_eq (length_modAt _ _).symm
        · exact fixed.trans_eq (length_modAt _ _).symm
    · exact .refl _

theorem State.flushWindow_frame (s : State) (w : Nat) : ∃ windows dev, s.flushWindow w = { s with windows := windows, dev := dev } :=
  flushFrom_frame w 64 s

/-- A kill leaves no record of KIND 0 in a window, of which every other slot keeps its record (R423). -/
theorem Window.killRecords_flushed {v w : Window} (h : v.killRecords.Flushed w) :
    w = { v with slots := w.slots, new := w.new, waiting := w.waiting, seq := w.seq } ∧
      (∀ (i : Nat) (r : TrapRecord), v.slots[i]? = some (some r) →
        w.slots[i]? = some (some (if r.kind = 0 then { r with kind := 1 } else r))) ∧
      (∀ r, some r ∈ w.slots → r.kind ≠ 0) ∧ ∀ r ∈ w.waiting, r.kind ≠ 0 := by
  have killed (r : TrapRecord) : (if r.kind == 0 then { r with kind := 1 } else r).kind ≠ 0 := by
    split
    · exact Nat.one_ne_zero
    next other => simpa using other
  have waiting : ∀ r ∈ v.killRecords.waiting, r.kind ≠ 0 := by
    intro r hr
    obtain ⟨x, -, rfl⟩ := List.mem_map.1 hr
    exact killed x
  refine ⟨h.rest, fun i r hr => ?_, fun r hr => ?_, fun r hr => waiting r (h.waits hr)⟩
  · refine h.kept i _ ?_
    rw [show v.killRecords.slots = v.slots.map (·.map fun r => if r.kind == 0 then { r with kind := 1 } else r) from rfl, List.getElem?_map, hr]
    simp
  · rcases h.came r hr with old | ⟨x, hx, kind⟩
    · obtain ⟨o, -, eq⟩ := List.mem_map.1 old
      obtain ⟨x, -, rfl⟩ := Option.map_eq_some_iff.1 eq
      exact killed x
    · exact kind ▸ waiting x hx

/-! ### The parts of a kill -/

/-- The batts of a context end. -/
def State.endBatts (s : State) (space : Nat) : State :=
  (s.batts.filter fun b => b.space == space && b.id != .ctl).foldl (fun s b => s.dropBatt b) s

/-- A felt is of a launch of the context. -/
def State.feltOf (s : State) (space : Nat) (f : Felt) : Bool := (s.launch? f.lnum).any fun l => l.recd.ctx == space

/-- The felts of a context end. -/
def State.endFelts (s : State) (space : Nat) : State :=
  (s.felts.filter (s.feltOf space)).foldl (fun s f => s.retireFelt f.lnum f.felt f.core) s

/-- A launch is killed. -/
def Launch.kill (status cause : Nat) (l : Launch) : Launch :=
  { l with killed := true, status := status, cause := cause, left := 0, saved := [], cbars := [], lbars := [], frozen := false }

/-- The launches of a context are killed. -/
def State.endLaunches (s : State) (space status cause : Nat) : State :=
  { s with launches := mapIf (fun l => l.recd.ctx == space && !l.killed) (Launch.kill status cause) s.launches }

/-- The engines of a core drop the operations of a space (R333). -/
def CoreSt.quit (space : Nat) (c : CoreSt) : CoreSt :=
  if c.mxiq.isEmpty && c.copyq.isEmpty then c else
  { c with mxiq := c.mxiq.filter fun o => o.space != space, copyq := c.copyq.filter fun o => o.space != space }

/-- A cluster drops the peat-store entries and the fault records of a space. -/
def Cluster.quit (space : Nat) (k : Cluster) : Cluster :=
  { k with peat := k.peat.filter fun e => e.key.space != space
           faults := k.faults.map fun o => match o with | some r => if r.space == space then none else some r | none => none
           faultWaiting := k.faultWaiting.filter fun r => r.space != space }

/-- Engines and clusters drop what is of a space. -/
def State.quitSpace (s : State) (space : Nat) : State :=
  { s with cores := s.cores.map (CoreSt.quit space), clusters := s.clusters.map (Cluster.quit space) }

/-- A core without the marks of a space (R247). -/
def CoreSt.unmark (space : Nat) (c : CoreSt) : CoreSt :=
  if c.marks.isEmpty then c else
  { c with marks := (c.marks.map fun m => { m with spaces := m.spaces.filter (· != space) }).filter fun m => !m.spaces.isEmpty }

/-- What is left of logs, engines, atomic units and marks of a space goes. -/
def State.purge (s : State) (space : Nat) : State := (((s.killLogs space).quitSpace space).writeBackAll space).dropMarks space

/-- Everything of a context ends but its handles and its records. -/
def State.endSpace (s : State) (space status cause : Nat) : State :=
  (((s.endBatts space).endFelts space).endLaunches space status cause).purge space

/-- A context loses its handles and what a pre-emption had for it. -/
def Ctx.quit (c : Ctx) : Ctx := { c with handles := [], ctxst := 0, battImages := [], poolStop := false }

/-- The handles of a context end. -/
def State.endHandles (s : State) (space : Nat) : State :=
  let s := s.modCtx space Ctx.quit
  { s with l2 := s.l2.map fun x : L2Sector => { x with handles := x.handles.filter fun h => h.1 != space } }

theorem State.killContext_eq (s : State) (space status cause : Nat) : s.killContext space status cause =
    (((s.endSpace space status cause).endHandles space).modWindow space Window.killRecords).flushWindow space := by
  unfold State.killContext
  extract_lets mine batts gone felts dead launches logs quit clear quits units contexts handles
  have ofBatts : batts = s.endBatts space := rfl
  have ofGone : gone = batts.felts.filter (batts.feltOf space) := by
    refine List.filter_congr fun f _ => ?_
    rw [State.feltOf]
    cases batts.launch? f.lnum <;> rfl
  have ofFelts : felts = batts.endFelts space := by rw [State.endFelts, ← ofGone]
  have ofLaunches : launches = felts.endLaunches space status cause := rfl
  have ofQuits : quits = logs.quitSpace space := rfl
  have ofHandles : handles = units.endHandles space := rfl
  rw [ofHandles, State.endSpace, State.purge, ← ofBatts, ← ofFelts, ← ofLaunches, ← ofQuits]
  rfl

end Sys2Proof.Machine
end
section
/-! What a kill of a context leaves (R423): batts, felts, launches, logs, engines, clusters, the context and its window. -/

namespace Sys2Proof.Machine

/-! ### Batts, felts and launches -/

section
variable {s : State} {space : Nat}

theorem State.endBatts_ended (s : State) (space : Nat) : Ended space s (s.endBatts space) :=
  .dropBatts (.refl s) fun b hb => by
    have mine := (List.mem_filter.1 hb).2
    simp only [Bool.and_eq_true, beq_iff_eq] at mine
    exact mine.1

theorem State.endBatts_batts (keys : s.KeysOk) : (s.endBatts space).batts = s.batts.filter fun b => b.space != space || b.id == .ctl := by
  rw [State.endBatts, (State.dropBatts_batts _ _).1]
  refine List.filter_congr fun x hx => ?_
  obtain ⟨-, -, places⟩ := keys
  have removed : (s.batts.filter fun b => b.space == space && b.id != .ctl).any (fun b => x.core == b.core && x.slot == b.slot) =
      (x.space == space && x.id != .ctl) := by
    rw [Bool.eq_iff_iff, List.any_eq_true]
    constructor
    · rintro ⟨b, hb, same⟩
      obtain ⟨hb, mine⟩ := List.mem_filter.1 hb
      simp only [Bool.and_eq_true, beq_iff_eq] at same
      exact List.inj_on_of_nodup_map places hx hb (Prod.ext same.1 same.2) ▸ mine
    · exact fun mine => ⟨x, List.mem_filter.2 ⟨hx, mine⟩, by simp⟩
  rw [removed, Bool.not_and]
  simp [bne]

/-- No monitor of an ended batt is left in its cluster. -/
theorem State.endBatts_monitors {b : Batt} (hb : b ∈ s.batts) (own : b.space = space) (other : b.id ≠ .ctl) :
    ∀ m ∈ ((s.endBatts space).cluster (clusterOf b.core)).monitors, ¬(m.core = b.core ∧ m.slot = b.slot) := by
  refine foldl_establishes
    (P := fun (b : Batt) (s : State) => ∀ m ∈ (s.cluster (clusterOf b.core)).monitors, ¬(m.core = b.core ∧ m.slot = b.slot))
    (fun s a b gone m hm => ?_) State.dropBatt_monitors (List.mem_filter.2 ⟨hb, by simp [own, other]⟩)
  obtain ⟨n, hn, core, slot⟩ := (((State.Ended.refl s).dropBatt (b := a) rfl).clusters _).monitors m hm
  rw [core, slot]
  exact gone n hn

theorem State.Ended.lnums {t : State} (h : Ended space s t) : t.launches.map (·.lnum) = s.launches.map (·.lnum) := by
  obtain ⟨f, hf, each⟩ := h.launches
  rw [hf, List.map_map]
  exact List.map_congr_left fun l hl => (each l hl).lnum

theorem State.Ended.feltOf {t : State} (h : Ended space s t) (n : Nat) (f : Felt) : t.feltOf n f = s.feltOf n f := by
  have same := congrArg (fun o : Option Nat => o.any (· == n)) (h.ctxOf f.lnum)
  simpa only [Option.any_map, State.feltOf, Function.comp_def] using same

theorem State.owns_of_feltOf {f : Felt} (lnums : (s.launches.map (·.lnum)).Nodup) (h : s.feltOf space f = true) : s.Owns space f.lnum := by
  obtain ⟨l, found, own⟩ := (Option.any_eq_true _ _).1 h
  have number : l.lnum = f.lnum := by simpa using List.find?_some found
  intro m hm same
  rw [List.inj_on_of_nodup_map lnums hm (List.mem_of_find?_eq_some found) (same.trans number.symm)]
  exact beq_iff_eq.1 own

theorem State.endFelts_ended (lnums : (s.launches.map (·.lnum)).Nodup) : Ended space s (s.endFelts space) :=
  .retireFelts (.refl s) fun _ hf => State.owns_of_feltOf lnums (List.mem_filter.1 hf).2

theorem State.endFelts_felts (s : State) (space : Nat) :
    (s.endFelts space).felts = s.felts.filter (fun f => !s.feltOf space f) ∧ (s.endFelts space).batts = s.batts := by
  rw [State.endFelts, (State.retireFelts_felts _ _).1, (State.retireFelts_felts _ _).2]
  refine ⟨List.filter_congr fun x hx => congrArg not (Bool.eq_iff_iff.2 ?_), rfl⟩
  rw [List.any_eq_true]
  constructor
  · rintro ⟨f, hf, same⟩
    simp only [Bool.and_eq_true, beq_iff_eq] at same
    rw [State.feltOf, same.1]
    exact (List.mem_filter.1 hf).2
  · exact fun own => ⟨x, List.mem_filter.2 ⟨hx, own⟩, by simp⟩

/-- The batts and the felts of a context end. -/
theorem State.batts_felts_ended (lnums : (s.launches.map (·.lnum)).Nodup) : Ended space s ((s.endBatts space).endFelts space) :=
  (s.endBatts_ended space).trans (State.endFelts_ended (by rwa [(s.endBatts_ended space).lnums]))

end

/-! ### Logs, engines, units and marks -/

theorem CoreSt.quit_queues (space : Nat) (c : CoreSt) : (c.quit space).mxiq = c.mxiq.filter (fun o => o.space != space) ∧
    (c.quit space).copyq = c.copyq.filter (fun o => o.space != space) := by
  unfold CoreSt.quit
  split
  next empty =>
    simp only [Bool.and_eq_true, List.isEmpty_iff] at empty
    simp [empty]
  · exact ⟨rfl, rfl⟩

theorem CoreSt.quit_rest (space : Nat) (c : CoreSt) :
    (c.quit space).log = c.log ∧ (c.quit space).marks = c.marks ∧ (c.quit space).atomUnit = c.atomUnit := by
  unfold CoreSt.quit
  split
  · exact ⟨rfl, rfl, rfl⟩
  · exact ⟨rfl, rfl, rfl⟩

theorem CoreSt.unmark_rest (space : Nat) (c : CoreSt) : (c.unmark space).log = c.log ∧ (c.unmark space).mxiq = c.mxiq ∧
    (c.unmark space).copyq = c.copyq ∧ (c.unmark space).atomUnit = c.atomUnit := by
  unfold CoreSt.unmark
  split
  · exact ⟨rfl, rfl, rfl, rfl⟩
  · exact ⟨rfl, rfl, rfl, rfl⟩

theorem CoreSt.unmark_marks (space : Nat) (c : CoreSt) : ∀ m ∈ (c.unmark space).marks, space ∉ m.spaces := by
  unfold CoreSt.unmark
  split
  next empty => exact fun m hm => absurd hm (List.isEmpty_iff.1 empty ▸ List.not_mem_nil)
  · intro m hm
    obtain ⟨k, -, rfl⟩ := List.mem_map.1 (List.mem_of_mem_filter hm)
    simp

/-- A cluster has nothing of a space in its peat store and its fault buffer. -/
structure Cluster.FreeOf (space : Nat) (k : Cluster) : Prop where
  peat : ∀ e ∈ k.peat, e.key.space ≠ space
  faultWaiting : ∀ r ∈ k.faultWaiting, r.space ≠ space
  faults : ∀ o ∈ k.faults, ∀ r, o = some r → r.space ≠ space

theorem Cluster.FreeOf.wanes {space : Nat} {k m : Cluster} (h : k.FreeOf space) (g : k.Wanes m) : m.FreeOf space where
  peat e he := h.peat e (g.peat he)
  faultWaiting := g.faultWaiting ▸ h.faultWaiting
  faults := g.faults ▸ h.faults

theorem Cluster.quit_freeOf (space : Nat) (k : Cluster) : (k.quit space).FreeOf space where
  peat e he := by simpa using (List.mem_filter.1 he).2
  faultWaiting r hr := by simpa using (List.mem_filter.1 hr).2
  faults := by
    rintro _ ho r rfl
    obtain ⟨o, -, eq⟩ := List.mem_map.1 ho
    cases o with
    | none => cases eq
    | some x =>
      dsimp only at eq
      split at eq
      · cases eq
      next other => exact Option.some.inj eq ▸ fun same => other (beq_iff_eq.2 same)

theorem Cluster.freeOf_default (space : Nat) : ({} : Cluster).FreeOf space where
  peat _ h := absurd h List.not_mem_nil
  faultWaiting _ h := absurd h List.not_mem_nil
  faults o ho r eq := by
    rw [(List.mem_replicate.1 ho).2] at eq
    cases eq

section
variable {s : State} {space : Nat}

theorem State.cutLogs_core (s : State) (space c : Nat) : (s.core c).Wanes ((s.cutLogs space).core c) :=
  getD_map_of (.refl _) (fun c => by split <;> exact .same) _ _

theorem State.quitSpace_core (s : State) (space c : Nat) : (s.quitSpace space).core c = (s.core c).quit space := State.core_of_map rfl rfl c

theorem State.dropMarks_core (s : State) (space c : Nat) : (s.dropMarks space).core c = (s.core c).unmark space := State.core_of_map rfl rfl c

theorem State.quitSpace_cluster (s : State) (space k : Nat) : ((s.quitSpace space).cluster k).FreeOf space ∧
    ((s.quitSpace space).cluster k).monitors = (s.cluster k).monitors :=
  getD_map_of (R := fun k m : Cluster => m.FreeOf space ∧ m.monitors = k.monitors) ⟨Cluster.freeOf_default space, rfl⟩
    (fun k => ⟨k.quit_freeOf space, rfl⟩) _ _

theorem State.writeBackAll_applied (s : State) (space : Nat) : Applied [] s (s.writeBackAll space) := .writeBackAll (.refl s)

/-- The stages: entries are applied and discarded, then units are written back. -/
theorem State.purge_stages (s : State) (space : Nat) : ∃ taken l w, Applied taken (s.cutLogs space) l ∧ Applied [] (l.quitSpace space) w ∧
    (∀ c, w.UnitFree space c) ∧ (∀ k, w.StoreFree space k) ∧ s.purge space = w.dropMarks space := by
  obtain ⟨taken, applied, -, -⟩ := s.killLogs_applied space
  exact ⟨taken, _, _, applied, State.writeBackAll_applied _ space, State.writeBackAll_unitFree _ space, State.writeBackAll_storeFree _ space, rfl⟩

theorem State.purge_parts (s : State) (space : Nat) :
    (s.purge space).batts = s.batts ∧ (s.purge space).felts = s.felts ∧ (s.purge space).launches = s.launches := by
  obtain ⟨taken, l, w, applied, back, -, -, eq⟩ := s.purge_stages space
  rw [eq]
  exact ⟨back.batts.trans applied.batts, back.felts.trans applied.felts, back.launches.trans applied.launches⟩

theorem State.purge_ctxs (s : State) (space : Nat) : (s.purge space).ctxs.length = s.ctxs.length ∧
    (∀ x, (s.ctx x).Wanes ((s.purge space).ctx x)) ∧ (s.purge space).windows = s.windows := by
  obtain ⟨taken, l, w, applied, back, -, -, eq⟩ := s.purge_stages space
  rw [eq]
  exact ⟨back.ctxCount.trans applied.ctxCount, fun x => (applied.ctxs x).trans (back.ctxs x), back.windows.trans applied.windows⟩

theorem State.purge_core (s : State) (space c : Nat) :
    ((s.purge space).core c).mxiq = (s.core c).mxiq.filter (fun o => o.space != space) ∧
      ((s.purge space).core c).copyq = (s.core c).copyq.filter (fun o => o.space != space) ∧
      (∀ x ∈ ((s.purge space).core c).atomUnit, space ∉ x.spaces) ∧ ∀ m ∈ ((s.purge space).core c).marks, space ∉ m.spaces := by
  obtain ⟨taken, l, w, applied, back, free, -, eq⟩ := s.purge_stages space
  have left := (s.cutLogs_core space c).trans (applied.cores c)
  have after := back.cores c
  rw [State.quitSpace_core] at after
  obtain ⟨mxiq, copyq⟩ := (l.core c).quit_queues space
  obtain ⟨-, mxiq', copyq', units⟩ := (w.core c).unmark_rest space
  rw [eq, State.dropMarks_core, mxiq', copyq', units, after.mxiq, after.copyq, mxiq, copyq, left.mxiq, left.copyq]
  exact ⟨rfl, rfl, free c, CoreSt.unmark_marks space _⟩

theorem State.purge_cluster (s : State) (space k : Nat) : ((s.purge space).cluster k).FreeOf space ∧ (s.purge space).StoreFree space k ∧
    ∀ m ∈ ((s.purge space).cluster k).monitors, ∃ n ∈ (s.cluster k).monitors, m.core = n.core ∧ m.slot = n.slot := by
  obtain ⟨taken, l, w, applied, back, -, stores, eq⟩ := s.purge_stages space
  obtain ⟨free, monitors⟩ := l.quitSpace_cluster space k
  rw [eq]
  refine ⟨free.wanes (back.clusters k), stores k, fun m hm => ?_⟩
  obtain ⟨n, hn, core, slot⟩ := (back.clusters k).monitors m hm
  obtain ⟨o, ho, core', slot'⟩ := (applied.clusters k).monitors n (monitors ▸ hn)
  exact ⟨o, ho, core.trans core', slot.trans slot'⟩

theorem State.purge_log (s : State) (space c : Nat) : ((s.purge space).core c).log = ((s.killLogs space).core c).log := by
  unfold State.purge
  rw [State.dropMarks_core, (CoreSt.unmark_rest _ _).1, (State.writeBackAll_applied _ space).logs, State.quitSpace_core,
    (CoreSt.quit_rest _ _).1]
  exact List.filter_true _

/-- The log keeps none of the space's entries, and of the others those that are not published or are pinned (R260). -/
theorem State.killLogs_log {c : Nat} (rises : ((s.core c).log.map (·.pos)).Nodup) :
    (∀ e ∈ ((s.killLogs space).core c).log, e ∈ (s.core c).log ∧ e.space ≠ space) ∧
      ∀ e ∈ (s.core c).log, e.space ≠ space → e.published = false ∨ e.depth ≠ 0 → e ∈ ((s.killLogs space).core c).log := by
  obtain ⟨taken, applied, ofOrder, ofSpace⟩ := s.killLogs_applied space
  rw [applied.logs c]
  constructor
  · intro e he
    obtain ⟨cut, untaken⟩ := List.mem_filter.1 he
    obtain ⟨here, stays⟩ := State.mem_cutLogs.1 cut
    refine ⟨here, stays.elim id fun ⟨published, depth⟩ own => ?_⟩
    have listed := ofSpace (c, e) (State.mem_publishedOrder.2 ⟨cut, published, depth⟩) own
    rw [Bool.not_eq_true', List.any_eq_false] at untaken
    exact untaken (c, e) listed (by simp)
  · intro e he other unpublished
    refine List.mem_filter.2 ⟨State.mem_cutLogs.2 ⟨he, .inl other⟩, ?_⟩
    rw [Bool.not_eq_true', List.any_eq_false]
    rintro ⟨d, x⟩ listed same
    simp only [Bool.and_eq_true, beq_iff_eq] at same
    obtain ⟨rfl, pos⟩ := same
    obtain ⟨logged, published, depth⟩ := State.mem_publishedOrder.1 (ofOrder _ listed)
    obtain rfl := List.inj_on_of_nodup_map rises (State.mem_cutLogs.1 logged).1 he pos
    rcases unpublished with not | pinned
    · exact absurd published (Bool.eq_false_iff.1 not)
    · exact pinned depth

end

end Sys2Proof.Machine
end
section
/-! Trap and fault windows (R408 to R410, R414, R415), and the kill of a context (R423). -/

namespace Sys2Proof.Machine

/-! ### What a kill leaves -/

section
variable {s : State} {space status cause : Nat}

theorem State.endHandles_ctx {x : State} (fixed : space < x.ctxs.length) : (x.endHandles space).ctx space = (x.ctx space).quit :=
  getD_modAt_self _ _ fixed

/-- A kill ends everything of the context, then its handles; windows and outputs alone change after that. -/
theorem State.killContext_frame (s : State) (space status cause : Nat) : ∃ windows dev, s.killContext space status cause =
    { (s.endSpace space status cause).endHandles space with windows := windows, dev := dev } := by
  rw [State.killContext_eq]
  generalize s.endSpace space status cause = x
  obtain ⟨windows, dev, eq⟩ := ((x.endHandles space).modWindow space Window.killRecords).flushWindow_frame space
  exact ⟨windows, dev, eq⟩

theorem State.killContext_parts (s : State) (space status cause : Nat) :
    let x := s.endSpace space status cause
    let t := s.killContext space status cause
    t.batts = x.batts ∧ t.felts = x.felts ∧ t.launches = x.launches ∧ t.cores = x.cores ∧ t.clusters = x.clusters ∧
      t.ctxs = (x.endHandles space).ctxs ∧ t.l2 = (x.endHandles space).l2 := by
  obtain ⟨windows, dev, frame⟩ := s.killContext_frame space status cause
  dsimp only
  rw [frame]
  generalize s.endSpace space status cause = x
  exact ⟨rfl, rfl, rfl, rfl, rfl, rfl, rfl⟩

theorem State.endSpace_batts (keys : s.KeysOk) :
    (s.endSpace space status cause).batts = s.batts.filter fun b => b.space != space || b.id == .ctl := by
  rw [State.endSpace, (State.purge_parts _ _).1, ← State.endBatts_batts keys]
  exact (State.endFelts_felts _ _).2

theorem State.endSpace_felts : (s.endSpace space status cause).felts = s.felts.filter fun f => !s.feltOf space f := by
  rw [State.endSpace, (State.purge_parts _ _).2.1]
  refine (State.endFelts_felts (s.endBatts space) space).1.trans ?_
  rw [State.endBatts, (State.dropBatts_batts _ _).2]
  exact List.filter_congr fun f _ => congrArg not ((s.endBatts_ended space).feltOf space f)

theorem State.endSpace_launches (lnums : (s.launches.map (·.lnum)).Nodup) : ∃ f : Launch → Launch,
    (s.endSpace space status cause).launches = s.launches.map (fun l => if (f l).recd.ctx == space && !(f l).killed
      then (f l).kill status cause else f l) ∧ ∀ l ∈ s.launches, l.Wanes space (f l) := by
  obtain ⟨f, eq, each⟩ := (State.batts_felts_ended (space := space) lnums).launches
  refine ⟨f, ?_, each⟩
  rw [State.endSpace, (State.purge_parts _ _).2.2, State.endLaunches, eq, mapIf, List.map_map]
  rfl

/-- A launch of the context is killed, another is as before. -/
theorem Launch.Wanes.killed {l m : Launch} (h : l.Wanes space m) :
    let n := if m.recd.ctx == space && !m.killed then m.kill status cause else m
    (l.recd.ctx ≠ space → n = l) ∧ (l.recd.ctx = space → l.killed = false → n = { l with
      killed := true, status := status, cause := cause, left := 0, saved := [], cbars := [], lbars := [], frozen := false,
      started := n.started }) := by
  constructor
  · intro other
    rw [h.1 other, if_neg (by simp [other])]
  · intro own alive
    have changed := h.2 own
    generalize m.started = started, m.cbars = cbars at changed
    subst changed
    rw [if_pos (by simp [own, alive])]
    rfl

theorem State.killContext_launches (lnums : (s.launches.map (·.lnum)).Nodup) :
    let t := s.killContext space status cause
    t.launches.length = s.launches.length ∧
    ∀ (i : Nat) (l : Launch), s.launches[i]? = some l → ∃ m, t.launches[i]? = some m ∧ (l.recd.ctx ≠ space → m = l) ∧
      (l.recd.ctx = space → l.killed = false → m = { l with
        killed := true, status := status, cause := cause, left := 0, saved := [], cbars := [], lbars := [],
        frozen := false, started := m.started }) := by
  obtain ⟨f, eq, each⟩ := State.endSpace_launches (space := space) (status := status) (cause := cause) lnums
  obtain ⟨-, -, launches, -⟩ := s.killContext_parts space status cause
  dsimp only
  rw [launches, eq]
  refine ⟨List.length_map _, fun i l hl => ⟨_, ?_, (each l (List.mem_of_getElem? hl)).killed⟩⟩
  rw [List.getElem?_map, hl]
  rfl

theorem State.KeysOk.nodup_log (keys : s.KeysOk) (c : Nat) : ((s.core c).log.map (·.pos)).Nodup := by
  rw [State.core, List.getD_eq_getElem?_getD]
  cases here : s.cores[c]? with
  | none => exact List.nodup_nil
  | some d => exact (keys.1 d (List.mem_of_getElem? here)).1.imp fun less => Nat.ne_of_lt less

/-- The logs, the engine queues, the atomic units and the marks of a core after a kill. -/
theorem State.killContext_core (keys : s.KeysOk) (lnums : (s.launches.map (·.lnum)).Nodup) (c : Nat) :
    let t := s.killContext space status cause
    (∀ e ∈ (t.core c).log, e ∈ (s.core c).log ∧ e.space ≠ space) ∧
      (∀ e ∈ (s.core c).log, e.space ≠ space → e.published = false ∨ e.depth ≠ 0 → e ∈ (t.core c).log) ∧
      (t.core c).mxiq = (s.core c).mxiq.filter (fun o => o.space != space) ∧
      (t.core c).copyq = (s.core c).copyq.filter (fun o => o.space != space) ∧
      (∀ x ∈ (t.core c).atomUnit, space ∉ x.spaces) ∧ ∀ m ∈ (t.core c).marks, space ∉ m.spaces := by
  obtain ⟨-, -, -, cores, -⟩ := s.killContext_parts space status cause
  have core : (s.killContext space status cause).core c = (s.endSpace space status cause).core c := congrArg (·.getD c {}) cores
  have ended := State.batts_felts_ended (space := space) lnums
  dsimp only
  rw [core, State.endSpace]
  generalize (s.endBatts space).endFelts space = x at ended
  have before : ((x.endLaunches space status cause).core c) = x.core c := rfl
  have log : (x.core c).log = (s.core c).log := (ended.logs c).trans (List.filter_true _)
  obtain ⟨mxiq, copyq, units, marks⟩ := (x.endLaunches space status cause).purge_core space c
  obtain ⟨removed, stays⟩ := State.killLogs_log (s := x.endLaunches space status cause) (space := space) (c := c)
    (by rw [before, log]; exact keys.nodup_log c)
  rw [before, log] at removed stays
  rw [State.purge_log, mxiq, copyq, before, (ended.cores c).mxiq, (ended.cores c).copyq]
  exact ⟨removed, stays, rfl, rfl, units, marks⟩

/-- The peat store, the fault buffer, the atomic store and the monitors of a cluster after a kill. -/
theorem State.killContext_cluster (lnums : (s.launches.map (·.lnum)).Nodup) (k : Nat) :
    let t := s.killContext space status cause
    (∀ e ∈ (t.cluster k).peat, e.key.space ≠ space) ∧ (∀ r ∈ (t.cluster k).faultWaiting, r.space ≠ space) ∧
      (∀ o ∈ (t.cluster k).faults, ∀ r, o = some r → r.space ≠ space) ∧ (∀ x ∈ (t.cluster k).atomStore, space ∉ x.spaces) ∧
      ∀ m ∈ (t.cluster k).monitors, ∀ b ∈ s.batts, b.space = space → b.id ≠ .ctl → b.core / 8 = k →
        ¬(m.core = b.core ∧ m.slot = b.slot) := by
  obtain ⟨-, -, -, -, clusters, -⟩ := s.killContext_parts space status cause
  have cluster : (s.killContext space status cause).cluster k = (s.endSpace space status cause).cluster k := congrArg (·.getD k {}) clusters
  have felts : Ended space (s.endBatts space) ((s.endBatts space).endFelts space) :=
    State.endFelts_ended (by rwa [(s.endBatts_ended space).lnums])
  dsimp only
  rw [cluster, State.endSpace]
  generalize (s.endBatts space).endFelts space = x at felts
  obtain ⟨free, stores, monitors⟩ := (x.endLaunches space status cause).purge_cluster space k
  refine ⟨free.peat, free.faultWaiting, free.faults, stores, fun m hm b hb own other there => ?_⟩
  obtain ⟨n, hn, core, slot⟩ := monitors m hm
  obtain ⟨o, ho, core', slot'⟩ := (felts.clusters k).monitors n hn
  subst there
  rw [core, core', slot, slot']
  exact State.endBatts_monitors hb own other o ho

theorem State.endSpace_ctxs (lnums : (s.launches.map (·.lnum)).Nodup) : (s.endSpace space status cause).ctxs.length = s.ctxs.length ∧
    (s.ctx space).Wanes ((s.endSpace space status cause).ctx space) ∧ (s.endSpace space status cause).windows = s.windows := by
  have ended := State.batts_felts_ended (space := space) lnums
  rw [State.endSpace]
  generalize (s.endBatts space).endFelts space = x at ended
  obtain ⟨count, ctxs, windows⟩ := (x.endLaunches space status cause).purge_ctxs space
  exact ⟨count.trans ended.ctxCount, (ended.ctxs space).trans (ctxs space), windows.trans ended.windows⟩

theorem Ctx.Wanes.quit {c d : Ctx} (h : c.Wanes d) : d.quit = c.quit := by
  rw [Ctx.Wanes] at h
  rw [h]
  rfl

theorem State.killContext_ctx (lnums : (s.launches.map (·.lnum)).Nodup) (fixed : space < s.ctxs.length) :
    (s.killContext space status cause).ctx space = (s.ctx space).quit := by
  obtain ⟨-, -, -, -, -, ctxs, -⟩ := s.killContext_parts space status cause
  obtain ⟨count, same, -⟩ := State.endSpace_ctxs (space := space) (status := status) (cause := cause) lnums
  have ctx : (s.killContext space status cause).ctx space = ((s.endSpace space status cause).endHandles space).ctx space :=
    congrArg (·.getD space {}) ctxs
  rw [ctx, State.endHandles_ctx (fixed.trans_eq count.symm)]
  exact same.quit

theorem State.killContext_handles : ∀ x ∈ (s.killContext space status cause).l2, ∀ h ∈ x.handles, h.1 ≠ space := by
  obtain ⟨-, -, -, -, -, -, l2⟩ := s.killContext_parts space status cause
  rw [l2]
  generalize s.endSpace space status cause = x
  intro x hx h hh
  obtain ⟨y, -, rfl⟩ := List.mem_map.1 hx
  simpa using (List.mem_filter.1 hh).2

theorem State.killContext_window (lnums : (s.launches.map (·.lnum)).Nodup) (fixed : space < s.windows.length) :
    (s.window space).killRecords.Flushed ((s.killContext space status cause).window space) := by
  obtain ⟨-, -, windows⟩ := State.endSpace_ctxs (space := space) (status := status) (cause := cause) lnums
  rw [State.killContext_eq]
  generalize s.endSpace space status cause = x at windows
  have here : space < (x.endHandles space).windows.length := by rw [show (x.endHandles space).windows = s.windows from windows]; exact fixed
  have flushed := flushFrom_window 64 (s := (x.endHandles space).modWindow space Window.killRecords) (w := space)
    (here.trans_eq (length_modAt _ _).symm)
  rw [State.window_modWindow here] at flushed
  rwa [State.window, State.window, show (x.endHandles space).windows = s.windows from windows] at flushed

end

/-! ### The host's commands -/

section
variable {s : State}

theorem State.ifAnswers_of {t : State} (h : s.answers = true) : s.ifAnswers t = t := if_pos h

/-- RESUME_AT_WORD and RESUME_PAST_WORD on a slot with a record that may be resumed, whose batt stands. -/
theorem State.resumeTrap_resumable {w i : Nat} {r : TrapRecord} {b : Batt} (past : Bool) (held : (s.window w).slots.getD i none = some r)
    (may : r.resumable w = true) (stands : s.battOf? r.owner = some b) :
    s.resumeTrap w i past = (s.modBattOf r.owner fun b => b.resume r past).freeSlot w i := by
  rw [State.resumeTrap, held]
  dsimp only
  rw [if_pos may, stands]

theorem State.resumeTrap_other {w i : Nat} {r : TrapRecord} (past : Bool) (held : (s.window w).slots.getD i none = some r)
    (not : r.resumable w = false) : s.resumeTrap w i past = s := by
  rw [State.resumeTrap, held]
  exact if_neg (Bool.eq_false_iff.1 not)

theorem State.releaseSlot_held {w i : Nat} {r : TrapRecord} (held : (s.window w).slots.getD i none = some r) :
    s.releaseSlot w i = if r.kind = 0 then s else s.freeSlot w i := by
  rw [State.releaseSlot, held]

/-- The batt that a fault record holds halted stands at the record's place. -/
theorem State.faultedBatt_of {r : FaultRecord} {b : Batt} (stands : s.batt? r.core r.slot = some b) (owner : b.id = r.owner)
    (faulted : b.faulted = true) : s.faultedBatt r = some b ∧ b.core = r.core ∧ b.slot = r.slot := by
  have place := List.find?_some stands
  simp only [Bool.and_eq_true, beq_iff_eq] at place
  refine ⟨?_, place⟩
  rw [State.faultedBatt, stands, Option.bind_some, if_pos (by simp [owner, faulted])]

theorem State.retryFault_held {k i : Nat} {r : FaultRecord} {b : Batt} (held : (s.cluster k).faults.getD i none = some r)
    (stands : s.batt? r.core r.slot = some b) (owner : b.id = r.owner) (faulted : b.faulted = true) :
    s.retryFault k i = (s.modBatt r.core r.slot fun b => { b with faulted := false }).freeFault k i := by
  obtain ⟨found, core, slot⟩ := State.faultedBatt_of stands owner faulted
  rw [State.retryFault, held]
  dsimp only
  rw [found]
  dsimp only
  rw [core, slot]

theorem State.trapFault_held {k i : Nat} {r : FaultRecord} {b : Batt} (held : (s.cluster k).faults.getD i none = some r)
    (stands : s.batt? r.core r.slot = some b) (owner : b.id = r.owner) (faulted : b.faulted = true) :
    s.trapFault k i = ((s.modBatt r.core r.slot fun b =>
      { (if (r.access = 2 && !r.replay : Bool) then b else b.countTurn b.cursor b.eligibleLows.length) with faulted := false }).takeTrap
        r.core r.slot r.word r.pc (b.splitOf ((r.lanes.head?.map LaneCause.lane).getD 0)) r.recipe r.lanes).freeFault k i := by
  obtain ⟨found, core, slot⟩ := State.faultedBatt_of stands owner faulted
  rw [State.trapFault, held]
  dsimp only
  rw [found]
  dsimp only
  rw [core, slot]

/-- A fault command on a record whose batt no longer stands halted frees the slot (log 32). -/
theorem State.fault_commands_gone {k i : Nat} (gone : ∀ r, (s.cluster k).faults.getD i none = some r → s.faultedBatt r = none) :
    let free := if (s.cluster k).faults.getD i none = none then s else s.freeFault k i
    s.retryFault k i = free ∧ s.trapFault k i = free := by
  dsimp only
  rw [State.retryFault, State.trapFault]
  cases held : (s.cluster k).faults.getD i none with
  | none => exact ⟨rfl, rfl⟩
  | some r =>
    dsimp only
    rw [gone r held, if_neg (Option.some_ne_none r)]
    exact ⟨rfl, rfl⟩

end

/-- Settles O54: each command by the equation of its case, and a kill by what it leaves of each part of the state. -/
theorem windowSteps : Obligations.WindowSteps := by
  unfold Obligations.WindowSteps
  refine ⟨fun s w i r answers held => ?_, fun s space status cause ctxs windows keys lnums => ?_, fun s w answers => ?_,
    fun s w bits answers => ?_, fun s k bits answers => ?_, fun s k i r b answers held stands owner faulted => ?_,
    fun s k i answers gone => ?_, fun s k v answers => ?_, fun s => rfl, fun s k => rfl⟩
  case refine_1 =>
    refine ⟨fun other => ?_, fun waits => ?_, fun may b stands => ⟨?_, ?_⟩, fun not => ⟨?_, ?_⟩⟩
    · exact congrArg _ ((State.ifAnswers_of answers).trans ((State.releaseSlot_held held).trans (if_neg other)))
    · exact congrArg _ ((State.ifAnswers_of answers).trans ((State.releaseSlot_held held).trans (if_pos waits)))
    · exact congrArg _ ((State.ifAnswers_of answers).trans (State.resumeTrap_resumable false held may stands))
    · exact congrArg _ ((State.ifAnswers_of answers).trans (State.resumeTrap_resumable true held may stands))
    · exact congrArg _ ((State.ifAnswers_of answers).trans (State.resumeTrap_other false held not))
    · exact congrArg _ ((State.ifAnswers_of answers).trans (State.resumeTrap_other true held not))
  case refine_2 =>
    obtain ⟨count, launches⟩ := State.killContext_launches (space := space) (status := status) (cause := cause) lnums
    obtain ⟨batts, felts, -⟩ := s.killContext_parts space status cause
    exact ⟨batts.trans (State.endSpace_batts keys), felts.trans State.endSpace_felts, count, launches, State.killContext_core keys lnums,
      State.killContext_cluster lnums, State.killContext_ctx lnums ctxs, State.killContext_handles,
      Window.killRecords_flushed (State.killContext_window lnums windows)⟩
  case refine_3 => exact congrArg _ (State.ifAnswers_of answers)
  case refine_4 => exact congrArg _ (State.ifAnswers_of answers)
  case refine_5 => exact congrArg _ (State.ifAnswers_of answers)
  case refine_6 =>
    exact ⟨congrArg _ ((State.ifAnswers_of answers).trans (State.retryFault_held held stands owner faulted)),
      congrArg _ ((State.ifAnswers_of answers).trans (State.trapFault_held held stands owner faulted))⟩
  case refine_7 =>
    obtain ⟨retry, trap⟩ := State.fault_commands_gone gone
    exact ⟨congrArg _ ((State.ifAnswers_of answers).trans retry), congrArg _ ((State.ifAnswers_of answers).trans trap)⟩
  case refine_8 =>
    refine congrArg _ ((State.ifAnswers_of answers).trans ?_)
    rw [State.writeStepmax]
    simp only [Bool.and_eq_true, decide_eq_true_eq]

end Sys2Proof.Machine
end

end

section
/-! Proofs about predicates and lane exchange (R64, R161 to R165): what PLOP leaves of its destination in each lane, and the words that are
one change of their batt. -/

namespace Sys2Proof.Machine

/-! ### A word that completes with one change of its batt, seen in its batt -/

theorem Iss.batt?_set {i : Instr} {s t : State} {x : Iss} {n : Nat} {f : Batt → Batt} (place : InPlace f) (clear : s.clear i = some (x, n, t)) :
    (x.set t f).batt? x.core x.slot = some (f (x.at t)) := by
  obtain ⟨b, c, -, hc, -, -, -, -, at_t⟩ := clear_shape clear
  rw [Iss.set, State.batt?_modBatt_same _ _ _ _ place, hc, at_t, Option.map_some]

/-- The batt of a word whose meaning is one change of it has that change, then what follows every word, and no other batt has changed. -/
theorem doneBatt_completes {i : Instr} {body : Iss → State → Body} {s t : State} {x : Iss} {n : Nat} {f : Batt → Batt} (place : InPlace f)
    (clear : s.clear i = some (x, n, t)) (done : body x t = doneBatt x t f) :
    ∃ u c, runWord i body s = .next u ∧ u.batt? x.core x.slot = some c ∧ OnlyBatt x.core x.slot s u ∧ Finished (f (x.at t)) c := by
  have changed : OnlyBatt x.core x.slot t (x.set t f) := modBatt_onlyBatt t _ _ f fun b _ _ => place b
  obtain ⟨c, stands, finished⟩ := wordDone_batt (n := n) (Iss.batt?_set place clear)
  exact ⟨_, c, runWord_done clear done, stands, ((clear_onlyBatt clear).trans changed).trans (wordDone_onlyBatt x n _), finished⟩

/-! ### Predicates (R64, R161) -/

/-- A predicate that is written has the new bit in the lanes of the mask and its old bit in every other lane. -/
theorem Batt.inMask_setP (b : Batt) {n : Nat} (m y : Mask) (l : Nat) (h : n < b.preds.length) (h7 : n ≠ 7) :
    inMask ((b.setP n m y).p n) l = if inMask m l then inMask y l else inMask (b.p n) l := by
  have bits : inMask ((b.p n &&& ~~~m) ||| (y &&& m)) l = (inMask (b.p n &&& ~~~m) l || inMask (y &&& m) l) := BitVec.getLsbD_or
  rw [Batt.p_setP_same b m y h h7, bits, inMask_andNot, inMask_and]
  cases inMask m l <;> simp

/-- Completion leaves the predicates. -/
theorem Finished.p {b c : Batt} (h : Finished b c) (n : Nat) : c.p n = b.p n := by
  unfold Finished at h
  rw [h]
  rfl

/-- The bit of the truth table that two predicates name in a lane. -/
def plopBit (f : RForm) (b : Batt) (l : Nat) : Bool :=
  Nat.testBit (f.mf 3 0) (2 * (if inMask (b.p f.a.toNat) l then 1 else 0) + (if inMask (b.p f.b.toNat) l then 1 else 0))

theorem plopBody_eq (f : RForm) (x : Iss) (t : State) :
    plopBody f x t = doneBatt x t fun b => b.setP f.d.toNat x.active (maskOf (plopBit f b)) := rfl

/-- pt is no destination (R64). -/
theorem regOk_predDst {f : RForm} {a b c : FieldKind} {uOk bsOk xOk : Bool} (pt : 7 ≤ f.d.toNat) :
    regOk f ⟨.predDst, a, b, c⟩ uOk bsOk xOk = false := by
  have refused : kindOk (underU f.u .predDst) f.d = false := by
    cases f.u <;> exact decide_eq_false (Nat.not_lt.2 pt)
  simp [regOk, refused]

theorem plop_pt_illFormed {f : RForm} (pt : 7 ≤ f.d.toNat) : wellFormed (.plop f) = false := by
  show (regOk f ⟨.predDst, .pred, .pred, .unused⟩ false false && modIn f 0x0F) = false
  rw [regOk_predDst pt, Bool.false_and]

/-- Settles O21: PLOP lane by lane through its one write of a predicate, and PMOV form by form. -/
theorem predicateWords : Obligations.PredicateWords := by
  unfold Obligations.PredicateWords
  refine ⟨fun f dst s x n t clear held => ?plop, fun f => plop_pt_illFormed, fun f => ⟨fun form => ?toScalar, fun form => ?ofScalar,
    fun form => ?toVector, fun form => ?ofVector⟩⟩
  case plop =>
    obtain ⟨u, c, done, stands, only, finished⟩ := doneBatt_completes (f := fun b => b.setP f.d.toNat x.active (maskOf (plopBit f b)))
      (fun _ => ⟨rfl, rfl⟩) clear (plopBody_eq f x t)
    refine ⟨u, c, done, stands, only, fun l hl => ?_⟩
    rw [finished.p, Batt.inMask_setP _ _ _ _ held (Nat.ne_of_lt dst), inMask_maskOf hl]
    rfl
  all_goals exact wordDoes_of_doneBatt _ (fun _ => rfl) fun x t => by simp only [pmovBody, form]

/-! ### Lane exchange (R162 to R165) -/

/-- Settles O22: each of these words computes its lanes from its batt as it stands, and puts them into it in one change. -/
theorem laneExchangeWords : Obligations.LaneExchangeWords := by
  unfold Obligations.LaneExchangeWords
  refine ⟨fun f => ?lxch, fun f => ?pfold, fun f => ?peer, fun f => ?lget, fun f => ?lset⟩
  case lxch => exact wordDoes_of_doneBatt (body := lxchBody f) _ (fun _ => rfl) fun _ _ => rfl
  case pfold => exact wordDoes_of_doneBatt (body := pfoldBody f) _ (fun _ => rfl) fun _ _ => rfl
  case peer => exact wordDoes_of_doneBatt (body := peerBody f) _ (fun _ => rfl) fun _ _ => rfl
  case lget => exact wordDoes_of_doneBatt (body := lgetBody f) _ (fun _ => rfl) fun _ _ => rfl
  case lset => exact wordDoes_of_doneBatt (body := lsetBody f) _ (fun _ => rfl) fun _ _ => rfl

end Sys2Proof.Machine
end

section
/-! Proofs about the returns of operations that were sent (R147, R282, R287, R288, R293, R403, R404). -/

namespace Sys2Proof.Machine

/-! ### The operation that an event names -/

/-- The operation found under a number carries that number. -/
theorem State.opAt_id {s : State} {core slot id : Nat} {o : Op} (found : s.opAt core slot id = some o) : o.id = id := by
  unfold State.opAt at found
  obtain ⟨b, -, among⟩ := Option.bind_eq_some_iff.1 found
  exact beq_iff_eq.1 (List.find?_some (p := fun o : Op => o.id == id) among)

/-- The PUTS of a batt that is to be delivered next. -/
def Batt.firstPuts (b : Batt) : Option Op := b.ops.find? fun x => match x.instr with | .puts _ => true | _ => false

section
variable {s : State} {core slot id : Nat} {o : Op} (found : s.opAt core slot id = some o)
include found

/-! ### Loads and texture reads (R403) -/

theorem execLoadReturn_load {f : MForm} (word : o.instr = .ld f ∨ o.instr = .ldc f) :
    exec (.loadReturn core slot id) s = .next (s.loadReturnOf core slot f o) := by
  show execLoadReturn core slot id s = _
  rcases word with word | word <;> simp only [execLoadReturn, found, word]

theorem execLoadReturn_four {f : RForm} (word : o.instr ∈ [Instr.tex f, .tld f, .mlres f, .mlresLayer f, .mlrd f]) :
    exec (.loadReturn core slot id) s = .next (s.fourReturn core slot f.d.toNat o) := by
  show execLoadReturn core slot id s = _
  simp only [List.mem_cons, List.not_mem_nil, or_false] at word
  rcases word with word | word | word | word | word <;> simp only [execLoadReturn, found, word]

/-! ### ATOM and RED (R282, R287, R288) -/

theorem execAtomicAtHome_atom {f : RForm} (sent : o.phase = .sent) (word : o.instr = .atom f) :
    let run := s.performOp core slot f o
    exec (.atomicAtHome core slot id) s = .next (run.2.modOp core slot id fun o =>
      { o with phase := .performed, vals := (laneVals run.1).2, poison := o.poison ||| (laneVals run.1).1 }) := by
  show execAtomicAtHome core slot id s = _
  simp only [execAtomicAtHome, found, sent, word, bne_self_eq_false, Bool.false_eq_true, if_false]

theorem execAtomicAtHome_red {f : RForm} (sent : o.phase = .sent) (word : o.instr = .red f) :
    let run := s.performOp core slot f o
    exec (.atomicAtHome core slot id) s =
      .next (if bit1 f.d 9 then run.2.modOp core slot id fun o => { o with phase := .performed } else run.2.endOp core slot id) := by
  show execAtomicAtHome core slot id s = _
  simp only [execAtomicAtHome, found, sent, word, bne_self_eq_false, Bool.false_eq_true, if_false]
  split <;> rfl

theorem execAtomReturn_performed {f : RForm} (performed : o.phase = .performed) (word : o.instr = .atom f) :
    let t := s.atomReturned core slot f o.active o.poison fun l => o.vals.getD l 0
    exec (.atomReturn core slot id) s =
      .next ((if o.poison = 0 then t else t.noteTrap core slot o.word o.pc o.mask 0 (atomCauses o.poison o.accs) o.id).endOp core slot id) := by
  show execAtomReturn core slot id s = _
  simp only [execAtomReturn, found, performed, word]

theorem execRedArrival_performed {f : RForm} (performed : o.phase = .performed) (word : o.instr = .red f) :
    exec (.redArrival core slot id) s = .next ((s.redArrive core slot f).endOp core slot id) := by
  show execRedArrival core slot id s = _
  simp only [execRedArrival, found, performed, word]

/-! ### PUTS (R293) -/

/-- A PUTS whose turn it is among those of its batt sends its payload, then its flag, or traps at the first poisoned byte. -/
theorem execPutsPayloadRead_first {f : RForm} {src dst : LaneAcc} (word : o.instr = .puts f) (ranges : o.accs = [src, dst])
    (first : (s.battAt core slot).firstPuts = some o) :
    exec (.putsPayloadRead core slot id) s = .next (match o.dvals with
      | bad :: _ => (s.noteTrap core slot o.word o.pc o.mask 0 (causesOf o.active cPOISON bad) o.id).endOp core slot id
      | [] => (s.putsDeliver (putsLen f) dst.locs (o.vals.map fun v => v.setWidth 8) (o.bvals.getD 0 0)).endOp core slot id) := by
  have turn : ¬ ((s.battAt core slot).firstPuts.map (·.id) != some id) = true := by
    rw [first, Option.map_some, State.opAt_id found, bne_self_eq_false]
    exact Bool.false_ne_true
  show execPutsPayloadRead core slot id s = _
  simp only [execPutsPayloadRead, found, word, ranges]
  refine (if_neg turn).trans ?_
  cases o.dvals <;> rfl

end

/-- Settles O48: each event by what it does with the operation that it names. -/
theorem operationReturns : Obligations.OperationReturns := by
  unfold Obligations.OperationReturns
  intro poisoned trap back
  refine ⟨fun s core slot id o f found word => ?load, fun s core slot id o f found word => ?four,
    fun s core slot id o f found sent => ⟨execAtomicAtHome_atom found sent, execAtomicAtHome_red found sent⟩,
    fun s core slot id o f found performed => ⟨fun word clean => ?clean, fun word bad => ?bad, execRedArrival_performed found performed⟩,
    fun s core slot id o f src dst found word ranges first => ⟨fun clean => ?sends, fun bad rest read => ?traps⟩⟩
  case load =>
    obtain rfl := State.opAt_id found
    rw [execLoadReturn_load found word, State.loadReturnOf]
    simp only [bne_iff_ne, ne_eq, ite_not]
    rfl
  case four =>
    obtain rfl := State.opAt_id found
    rw [execLoadReturn_four found word, State.fourReturn]
    simp only [bne_iff_ne, ne_eq, ite_not]
    rfl
  case clean => rw [execAtomReturn_performed found performed word, if_pos clean, clean]
  case bad => rw [execAtomReturn_performed found performed word, if_neg bad]; rfl
  case sends => rw [execPutsPayloadRead_first found word ranges first, clean]; rfl
  case traps => rw [execPutsPayloadRead_first found word ranges first, read]

end Sys2Proof.Machine
end

section
/-! Proofs about the frame of the words that compute lane by lane (R9, R185, R199) and about the comparisons (R183, R193, R199). -/

namespace Sys2Proof.Machine

/-! ### The destination of a lane word -/

/-- A result written leaves every scalar but the destination. -/
theorem Batt.s_put_other (b : Batt) (d : AluDst) (m : Mask) (r : Nat → Nat) {k : Nat} (h : d.scalar ≠ some k) :
    (b.put d m r).s k = b.s k := by
  cases d with
  | s n => exact Batt.s_setS_other _ _ fun same => h (congrArg some same.symm)
  | v n | w n | p n => rfl

/-- A result written to registers changes nothing but registers and their poison. -/
theorem Batt.put_shape (b : Batt) {d : AluDst} (m : Mask) (r : Nat → Nat) (register : ∀ n, d ≠ .p n) :
    b.put d m r = { b with vregs := (b.put d m r).vregs, scalars := (b.put d m r).scalars, sPoison := (b.put d m r).sPoison } := by
  cases d with
  | v n | w n | s n => rfl
  | p n => exact absurd rfl (register n)

theorem immDst_ne_pred (f : IForm) (n : Nat) : f.dst ≠ .p n := by
  unfold IForm.dst
  cases isSc f.d <;> exact nofun

/-- A lane word writes vector registers or a scalar; the predicates are the comparisons' (R183). -/
theorem laneWord_dst_ne_pred {i : Instr} {fn : LaneFn} {d : AluDst} (word : laneWord i = some (fn, d)) : ∀ n, d ≠ .p n := by
  cases i with
  | iaddi f | logi f | movi f | movhi f =>
    cases word
    exact immDst_ne_pred f
  | dqmx f =>
    cases word
    exact fun _ => nofun
  | iadd f | isub f | imul f | imulhi f | imad f | imadw f | idiv f | irem f | imin f | imax f | iabs f | ineg f | iadd64 f | isub64 f | imul64 f
  | and f | or f | xor f | andn f | shl f | shr f | sar f | rotl f | popc f | clz f | brev f | bfe f | bfi f | lea f | bsel f | sel f | mov f
  | fadd f | fsub f | fmul f | ffma f | fmin f | fmax f | fdiv f | fsqrt f | fclass f | fscale f | hfma2 f | frcpa f | frsqa f | fex2a f | flg2a f
  | dadd f | dsub f | dmul f | dfma f | dmin f | dmax f | ddiv f | dsqrt f | dclass f | dscale f | fsina f | fcosa f | cvt f =>
    cases word
    exact dst_ne_pred f _
  | _ => cases word

/-! ### What completion leaves -/

theorem Finished.v {b c : Batt} (h : Finished b c) (k l : Nat) : c.v k l = b.v k l := by
  unfold Finished at h
  rw [h]
  rfl

theorem Finished.s {b c : Batt} (h : Finished b c) (k : Nat) : c.s k = b.s k := by
  unfold Finished at h
  rw [h]
  rfl

theorem Finished.dstAt {b c : Batt} (h : Finished b c) (d : AluDst) (l : Nat) : c.dstAt d l = b.dstAt d l := by
  unfold Finished at h
  rw [h]
  rfl

theorem Finished.fpsr {b c : Batt} (h : Finished b c) : c.fpsr = b.fpsr := by
  unfold Finished at h
  rw [h]

theorem word_or_and_self {w : Nat} (x y : BitVec w) : (x ||| y) &&& x = x := by
  ext j hj
  rw [BitVec.getElem_and, BitVec.getElem_or]
  cases x[j] <;> simp

/-- Settles O12: the one change that a lane word makes of its batt, and then completion, part of the batt by part. -/
theorem laneWordsFrame : Obligations.LaneWordsFrame := by
  unfold Obligations.LaneWordsFrame
  intro i fn d word s x n t clear scalar clean
  have register := laneWord_dst_ne_pred word
  have once : ∀ k, d = .s k → k < (x.at t).scalars.length ∧ ∃ j, resultLanes d x = lane1 j := by
    rintro k rfl
    exact ⟨scalar k rfl, x.low, rfl⟩
  obtain ⟨u, c, ran, stands, only, finished⟩ := laneBody_completes clear clean
  refine ⟨u, c, (exec_laneWord word s).trans ran, stands, only, fun l hl acts => ?result, fun k l other => ?vectors,
    fun k l hl outside => ?lanes, fun k other => ?scalars, ?flags, ?rest⟩
  case result =>
    calc c.dstAt d l
        = ((x.at t).put d (resultLanes d x) fun l => (resAt (laneList fn (resultLanes d x) (x.at t)) l).bits).dstAt d l := finished.dstAt d l
      _ = _ := by rw [Batt.dstAt_put _ _ _ _ hl acts register once, resAt_laneList fn _ _ hl acts]
  case vectors => exact (finished.v k l).trans (Batt.v_put_other _ _ _ _ other l)
  case lanes => exact (finished.v k l).trans (Batt.v_put_outside _ _ _ _ hl outside k)
  case scalars => exact (finished.s k).trans (Batt.s_put_other _ _ _ _ other)
  case flags =>
    rw [finished.fpsr]
    exact word_or_and_self _ _
  case rest =>
    unfold Finished at finished
    rw [Batt.put_shape _ _ _ register] at finished
    rw [finished]

/-! ### Comparisons (R183, R193, R199) -/

theorem exec_cmpWord {i : Instr} {fn : LaneFn} {u : Bool} {d : Nat} (word : cmpWord i = some (fn, u, d)) (s : State) :
    exec i s = runWord i (cmpBody fn u d) s := by
  cases i with
  | icmp f | fcmp f | dcmp f =>
    cases word
    rfl
  | _ => cases word

/-- The lanes that a comparison computes in: the active ones, or under U the lowest alone (R65). -/
abbrev cmpLanes (u : Bool) (x : Iss) : Mask := if u then lane1 x.low else x.active

section
variable {fn : LaneFn} {u : Bool} (d : Nat) {x : Iss} {t : State}

theorem cmpBody_done (clean : trapLanes (laneList fn (cmpLanes u x) (x.at t)) (cmpLanes u x) (x.at t).fpcr = 0) :
    cmpBody fn u d x t = .done (x.set t fun b =>
      { b.setP d (if u then x.split else x.active)
          (if u then (if (resAt (laneList fn (cmpLanes u x) (x.at t)) x.low).bits = 1 then BitVec.allOnes 32 else 0)
            else maskOf fun l => (resAt (laneList fn (cmpLanes u x) (x.at t)) l).bits == 1) with
        fpsr := b.fpsr ||| flagsOver (laneList fn (cmpLanes u x) (x.at t)) (cmpLanes u x) }) :=
  if_neg fun raised => bne_iff_ne.1 raised clean

theorem cmpBody_trap (raised : trapLanes (laneList fn (cmpLanes u x) (x.at t)) (cmpLanes u x) (x.at t).fpcr ≠ 0) :
    cmpBody fn u d x t = .trap (fpxCauses (laneList fn (cmpLanes u x) (x.at t)) (cmpLanes u x)
      (trapLanes (laneList fn (cmpLanes u x) (x.at t)) (cmpLanes u x) (x.at t).fpcr)) t :=
  if_pos (bne_iff_ne.2 raised)

end

/-- Settles O17: a comparison is its body, which completes or traps. -/
theorem compareWords : Obligations.CompareWords := by
  unfold Obligations.CompareWords
  intro i fn u d word lanes rs
  refine ⟨fun s x n t clear clean => ?completes, fun s x n t clear raised => ?traps⟩
  case completes => exact (exec_cmpWord word s).trans (runWord_done clear (cmpBody_done d clean))
  case traps => exact (exec_cmpWord word s).trans (runWord_traps clear (cmpBody_trap d raised))

end Sys2Proof.Machine
end

section
/-! Proofs about the numbers that the integer lanes compute (R168 to R182): how large they are, and their bits. -/

namespace Sys2Proof.Machine

/-! ### Residues (R168) -/

theorem modPow_lt (y : Int) (n : Nat) : modPow y n < 2 ^ n := by
  have pos : (0 : Int) < (2 ^ n : Nat) := by exact_mod_cast Nat.two_pow_pos n
  exact (Int.toNat_lt (Int.emod_nonneg _ pos.ne')).2 (Int.emod_lt_of_pos y pos)

theorem fitN_lt (sat sgn : Bool) (n : Nat) (y : Int) : fitN sat sgn n y < 2 ^ n := modPow_lt _ n

/-- A residue as an integer. -/
theorem modPow_cast (y : Int) (n : Nat) : (modPow y n : Int) = y % (2 ^ n : Nat) :=
  Int.toNat_of_nonneg (Int.emod_nonneg _ (by exact_mod_cast (Nat.two_pow_pos n).ne'))

theorem modPow_natCast (x n : Nat) : modPow (x : Int) n = x % 2 ^ n := by
  rw [modPow, ← Int.natCast_emod, Int.toNat_natCast]

/-- A negative number no lower than -2^n is 2^n below its residue. -/
theorem modPow_of_neg {y : Int} {n : Nat} (below : y < 0) (above : -(2 ^ n : Nat) ≤ y) : (modPow y n : Int) = y + (2 ^ n : Nat) := by
  rw [modPow_cast, ← Int.add_emod_right]
  exact Int.emod_eq_of_lt (by omega) (by omega)

/-- The halves of a product of 2n bits, put together (R173). -/
theorem mulHi_mul_add_fitN (sgn : Bool) (n a b : Nat) :
    ((mulHi sgn n a b * 2 ^ n + fitN false sgn n (valOf sgn n a * valOf sgn n b) : Nat) : Int) % (2 ^ (2 * n) : Nat)
      = valOf sgn n a * valOf sgn n b % (2 ^ (2 * n) : Nat) := by
  generalize product : valOf sgn n a * valOf sgn n b = p
  have upper : (mulHi sgn n a b : Int) = p / (2 ^ n : Nat) % (2 ^ n : Nat) := by rw [mulHi, product, modPow_cast]
  have lower : (fitN false sgn n p : Int) = p % (2 ^ n : Nat) := modPow_cast p n
  rw [Int.natCast_add, Int.natCast_mul, upper, lower, Nat.two_mul, Nat.pow_add, Int.natCast_mul]
  generalize ((2 ^ n : Nat) : Int) = w
  have high := Int.emod_add_mul_ediv (p / w) w
  have low := Int.emod_add_mul_ediv p w
  calc (p / w % w * w + p % w) % (w * w)
      = (p - w * w * (p / w / w)) % (w * w) := by
        congr 1
        linear_combination w * high + low
    _ = p % (w * w) := Int.sub_mul_emod_self_left _ _ _

/-! ### Single bits -/

/-- The top bit of a field says whether it is negative (R168). -/
theorem testBit_top {x k : Nat} (h : x < 2 ^ (k + 1)) : x.testBit k = decide (2 ^ k ≤ x) := by
  rcases Nat.lt_or_ge x (2 ^ k) with below | above
  · rw [Nat.testBit_lt_two_pow below, decide_eq_false (Nat.not_le.2 below)]
  · rw [Nat.testBit_of_two_pow_le_and_two_pow_add_one_gt above h, decide_eq_true above]

/-- A field cut out of a number. -/
theorem testBit_field (a pos len i : Nat) : (a / 2 ^ pos % 2 ^ len).testBit i = (decide (i < len) && a.testBit (pos + i)) := by
  rw [Nat.testBit_mod_two_pow, Nat.testBit_div_two_pow, Nat.add_comm]

/-- A run of ones. -/
theorem testBit_ones (pos len i : Nat) : ((2 ^ len - 1) * 2 ^ pos).testBit i = decide (pos ≤ i ∧ i < pos + len) := by
  rw [Nat.testBit_mul_two_pow, Nat.testBit_two_pow_sub_one, ← Bool.decide_and]
  exact decide_eq_decide.2 (by omega)

/-- Flipping every bit of an n-bit number takes it from the largest one. -/
theorem xor_ones {n k : Nat} (h : k < 2 ^ n) : (2 ^ n - 1) ^^^ k = 2 ^ n - 1 - k := by
  refine Nat.eq_of_testBit_eq fun i => ?_
  have minus : 2 ^ n - 1 - k = 2 ^ n - (k + 1) := by omega
  rw [minus, Nat.testBit_two_pow_sub_succ h, Nat.testBit_xor, Nat.testBit_two_pow_sub_one]
  rcases Nat.lt_or_ge i n with inside | outside
  · simp [inside]
  · have zero : k.testBit i = false := Nat.testBit_lt_two_pow (h.trans_le (Nat.pow_le_pow_right two_pos outside))
    simp [zero, Nat.not_lt.2 outside]

/-- Taking 2^len from a field of len bits sets every bit above it, to the width of the result. -/
theorem testBit_modPow_sub {n len f i : Nat} (hf : f < 2 ^ len) (hlen : len ≤ n) (hi : i < n) :
    (modPow ((f : Int) - (2 ^ len : Nat)) n).testBit i = if i < len then f.testBit i else true := by
  have split : 2 ^ n = 2 ^ len * 2 ^ (n - len) := by rw [← Nat.pow_add, Nat.add_sub_cancel' hlen]
  have ones : 2 ^ len * (2 ^ (n - len) - 1) = 2 ^ n - 2 ^ len := by rw [Nat.mul_sub, ← split, Nat.mul_one]
  have wide : 2 ^ len ≤ 2 ^ n := Nat.pow_le_pow_right two_pos hlen
  have value : modPow ((f : Int) - (2 ^ len : Nat)) n = 2 ^ len * (2 ^ (n - len) - 1) + f := by
    have residue := modPow_of_neg (y := (f : Int) - (2 ^ len : Nat)) (n := n) (by omega) (by omega)
    omega
  rw [value, Nat.testBit_two_pow_mul_add _ hf]
  refine ite_congr rfl (fun _ => rfl) fun _ => ?_
  rw [Nat.testBit_two_pow_sub_one]
  exact decide_eq_true (by omega)

/-! ### Logic and shifts (R177, R178) -/

/-- The four operations of LOGI (R176). -/
theorem logicOp_eq (which a : Nat) {n k : Nat} (hk : k < 2 ^ n) : logicOp which n a k = match which with
    | 0 => a &&& k
    | 1 => a ||| k
    | 2 => a ^^^ k
    | _ => a &&& (2 ^ n - 1 - k) := by
  rw [← xor_ones hk]
  rfl

/-- An arithmetic shift by n − 1 or more leaves the sign in every bit. -/
theorem shiftOp_sar {n a : Nat} (c : Nat) (hn : 0 < n) (ha : a < 2 ^ n) :
    shiftOp 2 n a c = if n - 1 ≤ c then (if 2 ^ (n - 1) ≤ a then 2 ^ n - 1 else 0) else modPow (valOf true n a / (2 ^ c : Nat)) n := by
  show modPow (valOf true n a / (2 ^ min c (n - 1) : Nat)) n = _
  split
  next all =>
    have double : 2 ^ n = 2 * 2 ^ (n - 1) := by rw [← Nat.pow_succ', Nat.succ_eq_add_one, Nat.sub_add_cancel hn]
    have pos : 0 < 2 ^ (n - 1) := Nat.two_pow_pos _
    rw [Nat.min_eq_right all]
    split
    next negative =>
      have value : valOf true n a / (2 ^ (n - 1) : Nat) = -1 := by
        have whole : (2 : Int) ^ n = 2 * (2 ^ (n - 1) : Nat) := by exact_mod_cast double
        rw [valOf, if_pos ⟨rfl, negative⟩, whole]
        exact (Int.ediv_eq_iff_of_pos (by exact_mod_cast pos)).2 ⟨by omega, by omega⟩
      rw [value]
      have residue := modPow_of_neg (y := -1) (n := n) (by omega) (by omega)
      omega
    next positive =>
      have value : valOf true n a / (2 ^ (n - 1) : Nat) = 0 := by
        rw [valOf, if_neg fun h => positive h.2]
        exact Int.ediv_eq_zero_of_lt (Int.natCast_nonneg _) (by exact_mod_cast Nat.not_le.1 positive)
      rw [value, modPow, Int.zero_emod, Int.toNat_zero]
  next some => rw [Nat.min_eq_left (Nat.le_of_not_ge some)]

theorem shiftOp_lt (which : Nat) {n a : Nat} (c : Nat) (ha : a < 2 ^ n) : shiftOp which n a c < 2 ^ n := by
  unfold shiftOp
  split
  · split
    · exact Nat.two_pow_pos n
    · exact Nat.mod_lt _ (Nat.two_pow_pos n)
  · split
    · exact Nat.two_pow_pos n
    · exact (Nat.div_le_self _ _).trans_lt ha
  · exact modPow_lt _ _
  · exact Nat.or_lt_two_pow (Nat.mod_lt _ (Nat.two_pow_pos n)) ((Nat.div_le_self _ _).trans_lt ha)

theorem logicOp_lt (which : Nat) {n a k : Nat} (ha : a < 2 ^ n) (hk : k < 2 ^ n) : logicOp which n a k < 2 ^ n := by
  unfold logicOp
  split
  · exact Nat.and_le_left.trans_lt ha
  · exact Nat.or_lt_two_pow ha hk
  · exact Nat.xor_lt_two_pow ha hk
  · exact Nat.and_le_left.trans_lt ha

/-! ### Bit counts (R179) -/

theorem popCount_le (n a : Nat) : popCount n a ≤ n := (List.length_filter_le _ _).trans_eq List.length_range

/-- The count of leading zeros places the highest set bit. -/
theorem leadZeros_spec {n a : Nat} (h : a < 2 ^ n) :
    leadZeros n a ≤ n ∧ a < 2 ^ (n - leadZeros n a) ∧ (leadZeros n a < n → 2 ^ (n - 1 - leadZeros n a) ≤ a) := by
  unfold leadZeros
  split
  next zero =>
    subst zero
    exact ⟨le_rfl, Nat.two_pow_pos _, fun below => absurd below (lt_irrefl n)⟩
  next nonzero =>
    have inside : Nat.log2 a < n := (Nat.log2_lt nonzero).2 h
    have length : n - (n - 1 - Nat.log2 a) = Nat.log2 a + 1 := by omega
    have highest : n - 1 - (n - 1 - Nat.log2 a) = Nat.log2 a := by omega
    unfold log2
    rw [length, highest]
    exact ⟨by omega, Nat.lt_log2_self, fun _ => Nat.log2_self_le nonzero⟩

/-- A sum over the numbers below n, taken from the first up. -/
theorem foldl_range_add (g : Nat → Nat) (n : Nat) : (List.range n).foldl (fun acc i => acc + g i) 0 = ∑ i ∈ Finset.range n, g i := by
  induction n with
  | zero => rfl
  | succ n ih => rw [List.range_succ, List.foldl_append, ih, Finset.sum_range_succ]; rfl

/-- The reversed number is the number whose bits are the reversed ones. -/
theorem bitRev_eq (n a : Nat) :
    bitRev n a = (List.range n).foldl (fun acc i => if a.testBit (n - 1 - i) then acc + 2 ^ i else acc) 0 := by
  have added (acc i : Nat) : (if a.testBit (n - 1 - i) then acc + 2 ^ i else acc) = acc + if a.testBit (n - 1 - i) then 2 ^ i else 0 := by
    split <;> rfl
  simp only [added]
  rw [bitRev, foldl_range_add, foldl_range_add, ← Finset.sum_range_reflect]
  refine Finset.sum_congr rfl fun i hi => ?_
  have inside := Finset.mem_range.1 hi
  rw [show n - 1 - (n - 1 - i) = i by omega]

theorem bitRev_lt (n a : Nat) : bitRev n a < 2 ^ n := by
  rw [bitRev_eq]
  exact maskOf_foldl_lt _ n

theorem testBit_bitRev {n i : Nat} (a : Nat) (h : i < n) : (bitRev n a).testBit i = a.testBit (n - 1 - i) := by
  rw [bitRev_eq, testBit_foldl, decide_eq_true h, Bool.true_and]

/-! ### Fields (R180) -/

/-- BFE takes the field, and under SGN repeats its top bit above it. -/
theorem testBit_bitExtract {sgn : Bool} {n a pl i : Nat} (hi : i < n) :
    let pos := pl % 256
    let len := min (pl / 256 % 256) n
    (bitExtract sgn n a pl).testBit i =
      (if i < len then a.testBit (pos + i) else if sgn = true ∧ 0 < len then a.testBit (pos + len - 1) else false) := by
  intro pos len
  have small : a / 2 ^ pos % 2 ^ len < 2 ^ len := Nat.mod_lt _ (Nat.two_pow_pos _)
  have fits : len ≤ n := Nat.min_le_right _ _
  have field (j : Nat) := testBit_field a pos len j
  have inField (inside : i < len) : (a / 2 ^ pos % 2 ^ len).testBit i = a.testBit (pos + i) := by
    rw [field, decide_eq_true inside, Bool.true_and]
  have top (hlen : 0 < len) : a.testBit (pos + len - 1) = decide (2 ^ (len - 1) ≤ a / 2 ^ pos % 2 ^ len) := by
    have bit := field (len - 1)
    rw [decide_eq_true (show len - 1 < len by omega), Bool.true_and] at bit
    rw [Nat.add_sub_assoc hlen, ← bit]
    exact testBit_top (by rwa [Nat.sub_add_cancel hlen])
  show (modPow (if sgn ∧ 1 ≤ len ∧ 2 ^ (len - 1) ≤ a / 2 ^ pos % 2 ^ len then ((a / 2 ^ pos % 2 ^ len : Nat) : Int) - (2 ^ len : Nat)
    else (a / 2 ^ pos % 2 ^ len : Nat)) n).testBit i = _
  split
  next negative =>
    obtain ⟨signed, hlen, high⟩ := negative
    have extended : sgn = true ∧ 0 < len := ⟨signed, hlen⟩
    rw [testBit_modPow_sub small fits hi, if_pos extended, top hlen, decide_eq_true high]
    exact ite_congr rfl inField fun _ => rfl
  next positive =>
    rw [modPow_natCast, Nat.mod_eq_of_lt (small.trans_le (Nat.pow_le_pow_right two_pos fits))]
    split
    next inside => exact inField inside
    next outside =>
      rw [field, decide_eq_false outside, Bool.false_and]
      split
      next extended =>
        rw [top extended.2]
        exact (decide_eq_false fun high => positive ⟨extended.1, extended.2, high⟩).symm
      next => rfl

theorem bitExtract_lt (sgn : Bool) (n a pl : Nat) : bitExtract sgn n a pl < 2 ^ n := modPow_lt _ n

/-- BFI replaces the field and keeps the other bits. -/
theorem testBit_bitInsert {n a pl c i : Nat} (hi : i < n) :
    let pos := pl % 256
    let len := min (pl / 256 % 256) n
    (bitInsert n a pl c).testBit i = if pos ≤ i ∧ i < pos + len then c.testBit (i - pos) else a.testBit i := by
  intro pos len
  have ones := testBit_ones pos len i
  show ((a &&& ((2 ^ n - 1) ^^^ ((2 ^ len - 1) * 2 ^ pos % 2 ^ n))) ||| ((c * 2 ^ pos % 2 ^ n) &&& ((2 ^ len - 1) * 2 ^ pos % 2 ^ n))).testBit i = _
  simp only [Nat.testBit_or, Nat.testBit_and, Nat.testBit_xor, Nat.testBit_mod_two_pow, Nat.testBit_two_pow_sub_one, Nat.testBit_mul_two_pow c,
    ones, decide_eq_true hi, Bool.true_and]
  split
  next inside => simp [inside]
  next outside => simp [outside]

theorem bitInsert_lt {n a : Nat} (pl c : Nat) (ha : a < 2 ^ n) : bitInsert n a pl c < 2 ^ n :=
  Nat.or_lt_two_pow (Nat.and_le_left.trans_lt ha) (Nat.and_le_left.trans_lt (Nat.mod_lt _ (Nat.two_pow_pos n)))

/-! ### Byte selection (R181) -/

/-- The byte of a 64-bit number that a selector byte names: as it is, reversed, its sign or a constant. -/
def selectedByte (x k : Nat) : Nat :=
  let y := x / 2 ^ (8 * (k % 8)) % 256
  match k / 64 with
  | 0 => y
  | 1 => bitRev 8 y
  | 2 => if 128 ≤ y then 255 else 0
  | _ => if k % 2 = 1 then 255 else 0

theorem selectedByte_lt (x k : Nat) : selectedByte x k < 256 := by
  unfold selectedByte
  dsimp only
  split
  · exact Nat.mod_lt _ (by decide)
  · exact bitRev_lt 8 _
  all_goals split <;> decide

/-- The sign of the byte and the constant, as single bits. -/
theorem selectedByte_eq (x k : Nat) :
    let y := x / 2 ^ (8 * (k % 8)) % 256
    selectedByte x k = match k / 64 with
      | 0 => y
      | 1 => bitRev 8 y
      | 2 => if y.testBit 7 then 0xFF else 0
      | _ => if k.testBit 0 then 0xFF else 0 := by
  intro y
  have sign : y.testBit 7 = decide (128 ≤ y) := testBit_top (Nat.mod_lt _ (by decide))
  simp only [sign, Nat.testBit_zero, decide_eq_true_eq]
  rfl

/-- Byte j of what BSEL gives. -/
def bselByte (a b c j : Nat) : Nat := selectedByte (b * 2 ^ 32 + a) (c / 2 ^ (8 * j) % 256)

theorem bselByte_lt (a b c j : Nat) : bselByte a b c j < 256 := selectedByte_lt _ _

/-- BSEL puts the four selected bytes together. -/
theorem byteSelect_eq (a b c : Nat) :
    byteSelect a b c = bselByte a b c 0 + bselByte a b c 1 * 2 ^ 8 + bselByte a b c 2 * 2 ^ 16 + bselByte a b c 3 * 2 ^ 24 := by
  have folded : byteSelect a b c = (List.range 4).foldl (fun acc j => acc + bselByte a b c j * 2 ^ (8 * j)) 0 := rfl
  rw [folded, foldl_range_add]
  simp [Finset.sum_range_succ]

section
variable (a b c : Nat)

theorem byteSelect_lt : byteSelect a b c < 2 ^ 32 := by
  have := bselByte_lt a b c 0
  have := bselByte_lt a b c 1
  have := bselByte_lt a b c 2
  have := bselByte_lt a b c 3
  rw [byteSelect_eq]
  omega

theorem byteSelect_byte {j : Nat} (h : j < 4) : byteSelect a b c / 2 ^ (8 * j) % 256 = bselByte a b c j := by
  have := bselByte_lt a b c 0
  have := bselByte_lt a b c 1
  have := bselByte_lt a b c 2
  have := bselByte_lt a b c 3
  rw [byteSelect_eq]
  interval_cases j <;> omega

end

end Sys2Proof.Machine
end

section
/-! Proofs about the integer, logic, shift, bit-field and move words (R160, R172 to R184): what each puts at its destination. -/

namespace Sys2Proof.Machine

/-! ### A lane word that raises nothing -/

theorem ires_traps (v : Nat) (fpcr : Word) : (ires v).traps fpcr = false := by simp [FRes.traps, FRes.tr, ires]

/-- A lane word whose lane function is `v`, which fits the destination and raises nothing, has the results of `v`. -/
theorem laneResult_of_laneWord {i : Instr} {fn : LaneFn} {d : AluDst} {v : Batt → Nat → Nat} (word : laneWord i = some (fn, d))
    (same : ∀ b l, fn b b.fpcr l = ires (v b l)) (fits : ∀ b l, v b l < 2 ^ d.width) : LaneResult i d v := by
  intro s x n t clear scalar
  obtain ⟨u, c, ran, stands, results, -⟩ := floatResult_of_laneWord word (laneWord_dst_ne_pred word) same s x n t clear scalar
    fun l _ _ => ires_traps _ _
  exact ⟨u, c, ran, stands, fun l hl acts => (results l hl acts).trans (Nat.mod_eq_of_lt (fits _ _))⟩

/-! ### The widths of operands and destinations (R66, R69, R167) -/

/-- The width of a register-layout word's operation, of which its W bit says whether it is 64 (R167). -/
def opBits (w : Bool) : Nat := if w then 64 else 32

theorem opBits_le_width (f : RForm) (w : Bool) : opBits w ≤ (f.dst w).width := by
  unfold RForm.dst
  cases f.u <;> cases w <;> simp [opBits, AluDst.width]

theorem rd_lt (b : Batt) (u w : Bool) (n l : Nat) : b.rd u w n l < 2 ^ opBits w := by
  unfold Batt.rd
  cases u <;> cases w
  · exact (b.v n l).isLt
  · exact (b.w n l).isLt
  · exact Nat.mod_lt _ (Nat.two_pow_pos 32)
  · exact (b.s n).isLt

theorem rdA_lt (b : Batt) (f : RForm) (l : Nat) : b.rdA f (f.mb 0) l < 2 ^ f.n := rd_lt _ _ _ _ _

theorem rdB_lt (b : Batt) (f : RForm) (l : Nat) : b.rdB f (f.mb 0) l < 2 ^ f.n := rd_lt _ _ _ _ _

theorem opWidth_pos (f : RForm) : 0 < f.n := by
  unfold RForm.n
  split <;> decide

theorem opWidth_le (f : RForm) : f.n ≤ 64 := by
  unfold RForm.n
  split <;> decide

section
variable {i : Instr} {fn : LaneFn} {f : RForm} {v : Batt → Nat → Nat}

/-- A register-layout word of the width of `w`. -/
theorem laneResult_dst (w : Bool) (word : laneWord i = some (fn, f.dst w)) (same : ∀ b l, fn b b.fpcr l = ires (v b l))
    (below : ∀ b l, v b l < 2 ^ opBits w) : LaneResult i (f.dst w) v :=
  laneResult_of_laneWord word same fun b l => (below b l).trans_le (Nat.pow_le_pow_right two_pos (opBits_le_width f w))

/-- A register-layout word of the operation width (R167). -/
theorem laneResult_n (word : laneWord i = some (fn, f.dst (f.mb 0))) (same : ∀ b l, fn b b.fpcr l = ires (v b l))
    (below : ∀ b l, v b l < 2 ^ f.n) : LaneResult i (f.dst (f.mb 0)) v := laneResult_dst (f.mb 0) word same below

end

/-! ### Additive words, products, extremes and division (R172 to R175) -/

/-- Settles O13: each word is the exact value, then Fit. -/
theorem additiveWords : Obligations.AdditiveWords := by
  unfold Obligations.AdditiveWords
  intro f
  refine ⟨?iadd, ?isub, ?imul, ?iadd64, ?isub64, ?imul64, ?imad, ?imadw⟩
  case iadd | isub | imul | imad => exact laneResult_dst false rfl (fun _ _ => rfl) fun _ _ => fitN_lt _ _ _ _
  case iadd64 | isub64 | imul64 | imadw => exact laneResult_dst true rfl (fun _ _ => rfl) fun _ _ => fitN_lt _ _ _ _

/-- IABS and INEG are signed words (R170). -/
theorem unsigned_illFormed {f : RForm} (unsigned : f.sgn = false) : wellFormed (.iabs f) = false ∧ wellFormed (.ineg f) = false := by
  have refused : intW f false .one true = false := by
    have sign : f.mb 7 = false := unsigned
    simp [intW, intMod, sign]
  exact ⟨refused, refused⟩

/-- Settles O14: the words by their lane functions, the two halves of a product put together, and the lowest value negated. -/
theorem productHalvesAndExtremes : Obligations.ProductHalvesAndExtremes := by
  unfold Obligations.ProductHalvesAndExtremes
  refine ⟨fun f => ⟨?imulhi, ?imin, ?imax, ?iabs, ?ineg⟩, fun f => unsigned_illFormed,
    fun sgn n a b _ _ _ => mulHi_mul_add_fitN sgn n a b, fun n width => ?lowest⟩
  case imulhi => exact laneResult_n rfl (fun _ _ => rfl) fun _ _ => modPow_lt _ _
  case imin | imax =>
    refine laneResult_n rfl (fun _ _ => rfl) fun b l => ?_
    split
    exacts [rdA_lt b f l, rdB_lt b f l]
  case iabs | ineg => exact laneResult_n rfl (fun _ _ => rfl) fun _ _ => fitN_lt _ _ _ _
  case lowest => rcases width with rfl | rfl <;> decide

theorem divRem_fst (sat sgn : Bool) (n a b : Nat) : (divRem sat sgn n a b).1 =
    if valOf sgn n b = 0 then modPow (if sat && sgn then (if valOf sgn n a ≥ 0 then hiOf true n else loOf true n) else (2 ^ n : Nat) - 1) n
    else fitN sat sgn n (Int.tdiv (valOf sgn n a) (valOf sgn n b)) := by
  unfold divRem
  dsimp only
  split <;> rfl

theorem divRem_snd (sat sgn : Bool) (n a b : Nat) : (divRem sat sgn n a b).2 =
    modPow (if valOf sgn n b = 0 then valOf sgn n a else valOf sgn n a - valOf sgn n b * Int.tdiv (valOf sgn n a) (valOf sgn n b)) n := by
  unfold divRem
  dsimp only
  split <;> rfl

/-- Settles O15: quotient and remainder, corner by corner. -/
theorem divisionWords : Obligations.DivisionWords := by
  unfold Obligations.DivisionWords
  refine fun f => ⟨?idiv, ?irem⟩
  case idiv =>
    refine laneResult_n rfl (fun _ _ => congrArg ires (divRem_fst _ _ _ _ _)) fun b l => ?_
    dsimp only
    split
    exacts [modPow_lt _ _, fitN_lt _ _ _ _]
  case irem => exact laneResult_n rfl (fun _ _ => congrArg ires (divRem_snd _ _ _ _ _)) fun _ _ => modPow_lt _ _

/-! ### Immediate words and moves (R160, R176) -/

/-- The width of an immediate-layout word: 64 for a scalar destination (R69). -/
abbrev immBits (f : IForm) : Nat := if isSc f.d then 64 else 32

/-- Its source operand. -/
abbrev immSrc (f : IForm) (b : Batt) (l : Nat) : Nat := if isSc f.d then b.cw f.a l else b.cv f.a l

theorem immBits_eq_width (f : IForm) : immBits f = f.dst.width := by
  unfold immBits IForm.dst
  split <;> rfl

theorem cv_lt (b : Batt) (v : BitVec 10) (l : Nat) : b.cv v l < 2 ^ 32 := by
  unfold Batt.cv
  split
  exacts [Nat.mod_lt _ (Nat.two_pow_pos 32), (b.v _ l).isLt]

theorem cw_lt (b : Batt) (v : BitVec 10) (l : Nat) : b.cw v l < 2 ^ 64 := by
  unfold Batt.cw
  split
  exacts [(b.s _).isLt, (b.w _ l).isLt]

theorem immSrc_lt (f : IForm) (b : Batt) (l : Nat) : immSrc f b l < 2 ^ immBits f := by
  unfold immSrc immBits
  split
  exacts [cw_lt _ _ _, cv_lt _ _ _]

/-- An immediate-layout word. -/
theorem laneResult_imm {i : Instr} {fn : LaneFn} {f : IForm} {v : Batt → Nat → Nat} (word : laneWord i = some (fn, f.dst))
    (same : ∀ b l, fn b b.fpcr l = ires (v b l)) (below : ∀ b l, v b l < 2 ^ immBits f) : LaneResult i f.dst v :=
  laneResult_of_laneWord word same fun b l => immBits_eq_width f ▸ below b l

theorem laneIaddi_eq (f : IForm) (b : Batt) (fpcr : Word) (l : Nat) :
    laneIaddi f b fpcr l = ires (modPow ((immSrc f b l : Int) + sval 31 f.imm.toNat) (immBits f)) := by
  unfold laneIaddi immSrc immBits
  dsimp only
  split <;> rfl

/-- The immediate operand of LOGI. -/
abbrev logiImm (f : IForm) : Nat := modPow (sval 29 (fld f.imm 28 0)) (immBits f)

theorem laneLogi_eq (f : IForm) (b : Batt) (fpcr : Word) (l : Nat) :
    laneLogi f b fpcr l = ires (logicOp (fld f.imm 30 29) (immBits f) (immSrc f b l) (logiImm f)) := by
  unfold laneLogi logiImm immSrc immBits
  dsimp only
  split <;> rfl

/-- MOVHI replaces one half of the operand (R160), which leaves it as wide as it was. -/
theorem replaceHalf_lt {n h x y : Nat} (width : n = 32 ∨ n = 64) (inside : 16 * h < n) (hx : x < 2 ^ n) (hy : y < 2 ^ 16) :
    x - x / 2 ^ (16 * h) % 2 ^ 16 * 2 ^ (16 * h) + y * 2 ^ (16 * h) < 2 ^ n := by
  rcases width with rfl | rfl
  · have : h < 2 := by omega
    interval_cases h <;> omega
  · have : h < 4 := by omega
    interval_cases h <;> omega

theorem immBits_eq (f : IForm) : immBits f = 32 ∨ immBits f = 64 := by
  unfold immBits
  split
  exacts [.inr rfl, .inl rfl]

/-! ### LEA (R182) -/

theorem valOf_and (w sgn : Bool) (n a : Nat) : valOf (w && sgn) n a = if w && sgn then sval n a else (a : Int) := by
  cases w <;> cases sgn <;> rfl

theorem laneLea_eq (f : RForm) (b : Batt) (fpcr : Word) (l : Nat) : laneLea f b fpcr l =
    ires (modPow ((b.rdB f (f.mb 0) l : Int) +
      (if f.mb 0 && f.sgn then sval 32 (b.rdA f false l) else (b.rdA f false l : Int)) * (2 ^ f.mf 3 1 : Nat)) f.n) := by
  rw [← valOf_and]
  rfl

theorem le_n_lt {f : RForm} {k : Nat} (h : k ≤ f.n) : k < 2 ^ 32 := by
  have := opWidth_le f
  omega

/-- Settles O16: each word by its lane function, then the bits of what the counts, fields and permutes give. -/
theorem logicShiftAndSelectWords : Obligations.LogicShiftAndSelectWords := by
  unfold Obligations.LogicShiftAndSelectWords
  refine ⟨fun f => ⟨?and, ?or, ?xor, ?andn⟩, fun f => ⟨?shl, ?shr, ?sar, ?rotl⟩, fun f => ?sel, fun b => rfl,
    fun f => ⟨?iaddi, ?logi, ?movi, fun inside => ?movhi⟩, fun f => ⟨?mov, ?popc, ?clz, ?brev, ?bfe, ?bfi, ?bsel, ?lea⟩,
    fun n a ha => ⟨leadZeros_spec ha, fun i hi => testBit_bitRev a hi⟩, fun sgn n a pl i _ _ hi => testBit_bitExtract hi,
    fun n a pl c i _ hi => testBit_bitInsert hi, fun a b c j _ _ hj => ?bytes⟩
  case and => exact laneResult_n rfl (fun _ _ => rfl) fun b l => logicOp_lt 0 (rdA_lt b f l) (rdB_lt b f l)
  case or => exact laneResult_n rfl (fun _ _ => rfl) fun b l => logicOp_lt 1 (rdA_lt b f l) (rdB_lt b f l)
  case xor => exact laneResult_n rfl (fun _ _ => rfl) fun b l => logicOp_lt 2 (rdA_lt b f l) (rdB_lt b f l)
  case andn =>
    have flipped (b : Batt) (l : Nat) := logicOp_eq 3 (b.rdA f (f.mb 0) l) (rdB_lt b f l)
    exact laneResult_n rfl (fun b l => congrArg ires (flipped b l)) fun b l => (flipped b l).symm.trans_lt (logicOp_lt 3 (rdA_lt b f l) (rdB_lt b f l))
  case shl => exact laneResult_n rfl (fun _ _ => rfl) fun b l => shiftOp_lt 0 _ (rdA_lt b f l)
  case shr => exact laneResult_n rfl (fun _ _ => rfl) fun b l => shiftOp_lt 1 _ (rdA_lt b f l)
  case sar =>
    have signs (b : Batt) (l : Nat) := shiftOp_sar (shiftCount f b l) (opWidth_pos f) (rdA_lt b f l)
    exact laneResult_n rfl (fun b l => congrArg ires (signs b l)) fun b l => (signs b l).symm.trans_lt (shiftOp_lt 2 _ (rdA_lt b f l))
  case rotl => exact laneResult_n rfl (fun _ _ => rfl) fun b l => shiftOp_lt 3 _ (rdA_lt b f l)
  case sel =>
    refine laneResult_n rfl (fun _ _ => rfl) fun b l => ?_
    split
    exacts [rdA_lt b f l, rdB_lt b f l]
  case iaddi => exact laneResult_imm rfl (fun b l => laneIaddi_eq f b _ l) fun _ _ => modPow_lt _ _
  case logi =>
    have four (b : Batt) (l : Nat) := logicOp_eq (fld f.imm 30 29) (immSrc f b l) (modPow_lt (sval 29 (fld f.imm 28 0)) (immBits f))
    exact laneResult_imm rfl (fun b l => (laneLogi_eq f b _ l).trans (congrArg ires (four b l)))
      fun b l => (four b l).symm.trans_lt (logicOp_lt _ (immSrc_lt f b l) (modPow_lt _ _))
  case movi => exact laneResult_imm rfl (fun _ _ => rfl) fun _ _ => modPow_lt _ _
  case movhi =>
    exact laneResult_imm rfl (fun _ _ => rfl) fun b l => replaceHalf_lt (immBits_eq f) inside (immSrc_lt f b l) (fld_lt f.imm 15 0)
  case mov => exact laneResult_n rfl (fun _ _ => rfl) fun b l => rdB_lt b f l
  case popc => exact laneResult_dst false rfl (fun _ _ => rfl) fun b l => le_n_lt (popCount_le f.n (b.rdA f (f.mb 0) l))
  case clz => exact laneResult_dst false rfl (fun _ _ => rfl) fun b l => le_n_lt (leadZeros_spec (rdA_lt b f l)).1
  case brev => exact laneResult_n rfl (fun _ _ => rfl) fun _ _ => bitRev_lt _ _
  case bfe => exact laneResult_n rfl (fun _ _ => rfl) fun _ _ => bitExtract_lt _ _ _ _
  case bfi => exact laneResult_n rfl (fun _ _ => rfl) fun b l => bitInsert_lt _ _ (rdA_lt b f l)
  case bsel => exact laneResult_dst false rfl (fun _ _ => rfl) fun _ _ => byteSelect_lt _ _ _
  case lea => exact laneResult_n rfl (fun b l => laneLea_eq f b _ l) fun _ _ => modPow_lt _ _
  case bytes => exact (byteSelect_byte a b c hj).trans (selectedByte_eq _ _)

end Sys2Proof.Machine
end

section
/-! Proofs about accumulator objects (R52, R208 to R212), QMX (R206) and LRED (R213): the bytes of banks after a write, and the words that
raise the flags of R199. -/

namespace Sys2Proof.Machine

/-! ### Banks after a write (R311) -/

/-- Two batts that differ at most in their banks. -/
def SameButBanks (b c : Batt) : Prop := c = { b with banks := c.banks }

theorem SameButBanks.refl (b : Batt) : SameButBanks b b := rfl

theorem SameButBanks.trans {a b c : Batt} (h : SameButBanks a b) (k : SameButBanks b c) : SameButBanks a c := by
  unfold SameButBanks at *
  rw [k, h]

theorem SameButBanks.place {b c : Batt} (h : SameButBanks b c) : c.core = b.core ∧ c.slot = b.slot := by
  unfold SameButBanks at h
  rw [h]
  exact ⟨rfl, rfl⟩

theorem SameButBanks.fpsr {b c : Batt} (h : SameButBanks b c) : c.fpsr = b.fpsr := by
  unfold SameButBanks at h
  rw [h]

theorem Batt.bankWrite_keeps (fuel : Nat) (b : Batt) (aa : Nat) (bs : List Byte) (bad : Bool) :
    SameButBanks b (b.bankWrite fuel aa bs bad) := by
  induction fuel generalizing b aa bs with
  | zero => exact .refl b
  | succ fuel ih =>
    cases bs with
    | nil => exact .refl b
    | cons v vs => exact SameButBanks.trans (b := b.bankPut aa _ bad) rfl (ih _ _ _)

/-- The bytes of every bank of a batt are in canonical form. -/
def Batt.BanksOk (b : Batt) : Prop := ∀ k ∈ b.banks, k.data.wf = true

theorem Batt.BanksOk.bankPut {b : Batt} (h : b.BanksOk) (aa : Nat) (bs : List Byte) (bad : Bool) : (b.bankPut aa bs bad).BanksOk := by
  intro k hk
  obtain ⟨y, hy, rfl⟩ := List.mem_map.1 hk
  split
  · exact Memory.write_wf _ _ _ (h y hy)
  · exact h y hy

theorem Batt.BanksOk.bankWrite {b : Batt} (h : b.BanksOk) (fuel aa : Nat) (bs : List Byte) (bad : Bool) :
    (b.bankWrite fuel aa bs bad).BanksOk := by
  induction fuel generalizing b aa bs with
  | zero => exact h
  | succ fuel ih =>
    cases bs with
    | nil => exact h
    | cons v vs => exact ih (h.bankPut _ _ _) _ _

theorem Batt.BanksOk.bankStore {b : Batt} (h : b.BanksOk) (aa : Nat) (bs : List Byte) (bad : Bool) : (b.bankStore aa bs bad).BanksOk :=
  h.bankWrite 17 aa bs bad

/-- A change of one bank that keeps its number, as seen in the bank of any number. -/
theorem Batt.bank?_modBank (b : Batt) (k j : Nat) {f : Bank → Bank} (number : ∀ y, (f y).num = y.num) :
    (b.modBank k f).bank? j = (b.bank? j).map fun y => if j = k then f y else y := by
  have finds : (fun y : Bank => (if y.num == k then f y else y).num == j) = fun y => y.num == j := by
    funext y
    rw [apply_ite Bank.num, number, ite_self]
  unfold Batt.modBank Batt.bank? mapIf
  rw [List.find?_map, Function.comp_def, finds]
  cases found : b.banks.find? fun y => y.num == j with
  | none => rfl
  | some y =>
    have : y.num = j := by simpa using List.find?_some found
    simp [this]

/-- The bank that a write within one bank leaves. -/
def Bank.put (k : Bank) (aa : Nat) (bs : List Byte) (bad : Bool) : Bank :=
  { k with data := k.data.write (aa % bankBytes) bs, poison := wordPoison k.poison (aa % bankBytes) bs.length bad }

theorem Batt.bank?_bankPut (b : Batt) (aa : Nat) (bs : List Byte) (bad : Bool) (j : Nat) :
    (b.bankPut aa bs bad).bank? j = (b.bank? j).map fun k => if j = aa / bankBytes then k.put aa bs bad else k :=
  Batt.bank?_modBank b _ j (f := fun k => k.put aa bs bad) fun _ => rfl

theorem Batt.bankPut_holds (b : Batt) (aa : Nat) (bs : List Byte) (bad : Bool) (j : Nat) :
    ((b.bankPut aa bs bad).bank? j).isSome = (b.bank? j).isSome := by
  rw [Batt.bank?_bankPut, Option.isSome_map]

/-- A byte of a bank that is not held reads 0. -/
theorem Batt.bankByte_unheld {b : Batt} {y : Nat} (unheld : ¬ (b.bank? (y / bankBytes)).isSome = true) : b.bankByte y = 0 := by
  unfold Batt.bankByte
  rw [Option.not_isSome_iff_eq_none.1 unheld]

/-- Bytes written within one bank read back where it is held, and every other byte reads as before. -/
theorem Batt.bankByte_bankPut {b : Batt} (ok : b.BanksOk) {aa : Nat} {bs : List Byte} (room : aa % bankBytes + bs.length ≤ bankBytes)
    (bad : Bool) (y : Nat) : (b.bankPut aa bs bad).bankByte y =
      if aa ≤ y ∧ y < aa + bs.length ∧ (b.bank? (y / bankBytes)).isSome then bs.getD (y - aa) 0 else b.bankByte y := by
  unfold bankBytes at room
  unfold Batt.bankByte
  rw [Batt.bank?_bankPut]
  cases held : b.bank? (y / bankBytes) with
  | none => simp
  | some k =>
    have canonical : k.data.wf = true := ok k (List.mem_of_find?_eq_some held)
    simp only [Option.map_some, Option.isSome_some, and_true]
    unfold bankBytes
    by_cases here : y / 16384 = aa / 16384
    · have inside : (aa % 16384 ≤ y % 16384 ∧ y % 16384 < aa % 16384 + bs.length) ↔ (aa ≤ y ∧ y < aa + bs.length) := by omega
      have offset : y % 16384 - aa % 16384 = y - aa := by omega
      simp only [if_pos here, Bank.put, bankBytes, Memory.get_write _ _ _ _ canonical, inside, offset]
    · have outside : ¬ (aa ≤ y ∧ y < aa + bs.length) := by omega
      simp only [if_neg here, if_neg outside]

theorem Batt.bankWrite_of_ne_nil (fuel : Nat) (b : Batt) (aa : Nat) {bs : List Byte} (some_byte : bs ≠ []) (bad : Bool) :
    b.bankWrite (fuel + 1) aa bs bad = (b.bankPut aa (bs.take (bankBytes - aa % bankBytes)) bad).bankWrite fuel
      (aa + (bankBytes - aa % bankBytes)) (bs.drop (bankBytes - aa % bankBytes)) bad := by
  cases bs with
  | nil => exact absurd rfl some_byte
  | cons v vs => rfl

/-- A list of bytes laid from an address is its first ones laid from there, then the others laid after them. -/
theorem getD_take_drop (bs : List Byte) (room aa y : Nat) (old : Byte) :
    (if aa + room ≤ y ∧ y < aa + room + (bs.length - room) then (bs.drop room).getD (y - (aa + room)) 0
      else if aa ≤ y ∧ y < aa + min room bs.length then (bs.take room).getD (y - aa) 0 else old) =
      if aa ≤ y ∧ y < aa + bs.length then bs.getD (y - aa) 0 else old := by
  simp only [List.getD_eq_getElem?_getD, List.getElem?_drop, List.getElem?_take]
  by_cases later : aa + room ≤ y ∧ y < aa + room + (bs.length - room)
  · have inside : aa ≤ y ∧ y < aa + bs.length := by omega
    have offset : room + (y - (aa + room)) = y - aa := by omega
    rw [if_pos later, if_pos inside, offset]
  · rw [if_neg later]
    have same : (aa ≤ y ∧ y < aa + min room bs.length) ↔ (aa ≤ y ∧ y < aa + bs.length) := by omega
    refine if_ctx_congr same (fun inside => ?_) fun _ => rfl
    rw [if_pos (by omega)]

/-- Bytes written from an accumulator address read back in the banks that are held, and every other byte reads as before. -/
theorem Batt.bankByte_bankWrite (fuel : Nat) {b : Batt} (ok : b.BanksOk) {aa : Nat} {bs : List Byte}
    (room : aa % bankBytes + bs.length ≤ fuel * bankBytes) (bad : Bool) (y : Nat) : (b.bankWrite fuel aa bs bad).bankByte y =
      if aa ≤ y ∧ y < aa + bs.length ∧ (b.bank? (y / bankBytes)).isSome then bs.getD (y - aa) 0 else b.bankByte y := by
  induction fuel generalizing b aa bs with
  | zero =>
    rw [if_neg (by omega)]
    rfl
  | succ fuel ih =>
    by_cases empty : bs = []
    case pos =>
      subst empty
      rw [List.length_nil, if_neg (by omega)]
      rfl
    case neg =>
      have first : aa % bankBytes + (bs.take (bankBytes - aa % bankBytes)).length ≤ bankBytes := by
        rw [List.length_take]; unfold bankBytes; omega
      have rest : (aa + (bankBytes - aa % bankBytes)) % bankBytes + (bs.drop (bankBytes - aa % bankBytes)).length ≤ fuel * bankBytes := by
        rw [List.length_drop]; unfold bankBytes at *; omega
      rw [Batt.bankWrite_of_ne_nil _ _ _ empty, ih (ok.bankPut _ _ _) rest, Batt.bankByte_bankPut ok first, Batt.bankPut_holds,
        List.length_drop, List.length_take]
      by_cases held : (b.bank? (y / bankBytes)).isSome = true
      · simp only [held, and_true]
        exact getD_take_drop bs _ aa y _
      · simp [held]

/-- A range written with zeros reads 0, whether or not its banks are held, and every other byte reads as before. -/
theorem Batt.bankByte_bankStore_zeros {b : Batt} (ok : b.BanksOk) (aa : Nat) {n : Nat} (small : n ≤ 16 * bankBytes) (y : Nat) :
    (b.bankStore aa (List.replicate n 0) false).bankByte y = if aa ≤ y ∧ y < aa + n then 0 else b.bankByte y := by
  have room : aa % bankBytes + (List.replicate n (0 : Byte)).length ≤ 17 * bankBytes := by
    rw [List.length_replicate]; unfold bankBytes at *; omega
  rw [Batt.bankStore, Batt.bankByte_bankWrite 17 ok room, List.length_replicate]
  by_cases held : (b.bank? (y / bankBytes)).isSome = true
  · simp only [held, and_true]
    refine if_ctx_congr .rfl (fun inside => ?_) fun _ => rfl
    rw [List.getD_eq_getElem?_getD, List.getElem?_replicate, if_pos (by omega), Option.getD_some]
  · simp [held, Batt.bankByte_unheld held]

/-! ### Checks before an effect -/

/-- The outcome of checks that come before an effect: a trap with the causes that they name, else the effect. -/
def checked (causes : List LaneCause) (s : State) (effect : Body) : Body :=
  match causes with
  | c :: cs => .trap (c :: cs) s
  | [] => effect

theorem checked_passed {causes : List LaneCause} {s : State} {effect : Body} (passed : causes = []) : checked causes s effect = effect := by
  rw [passed]
  rfl

/-- A clear word whose checks fail traps with the causes that they name. -/
theorem runWord_checksFail {i : Instr} {body : Iss → State → Body} {s t : State} {x : Iss} {n : Nat} {causes named : List LaneCause}
    {effect : Body} (clear : s.clear i = some (x, n, t)) (checks : body x t = checked causes t effect) (failed : causes = named)
    (some_lane : named ≠ []) : runWord i body s = .next (wordTraps x n named t) := by
  refine runWord_traps clear (checks.trans ?_)
  rw [failed]
  cases named with
  | nil => exact absurd rfl some_lane
  | cons c cs => rfl

/-! ### XCLR (R208, R212) -/

/-- A batt after the objects of these lanes are cleared, one after the other. -/
def Batt.clearObjects (b : Batt) (f : RForm) (ls : List Nat) : Batt :=
  ls.foldl (fun b l => b.bankStore (accAddr f l) (List.replicate 288 0) false) b

theorem Batt.clearObjects_keeps (b : Batt) (f : RForm) (ls : List Nat) : SameButBanks b (b.clearObjects f ls) :=
  List.foldlRecOn (motive := SameButBanks b) ls _ (.refl b) fun _ kept _ _ => kept.trans (Batt.bankWrite_keeps _ _ _ _ _)

/-- A byte of one of the objects reads 0, and every other byte as before. -/
theorem Batt.bankByte_clearObjects {b : Batt} (ok : b.BanksOk) (f : RForm) (ls : List Nat) (y : Nat) :
    (b.clearObjects f ls).bankByte y = if ∃ l ∈ ls, accAddr f l ≤ y ∧ y < accAddr f l + 288 then 0 else b.bankByte y := by
  induction ls generalizing b with
  | nil => exact (if_neg (by simp)).symm
  | cons l ls ih =>
    change ((b.bankStore (accAddr f l) (List.replicate 288 0) false).clearObjects f ls).bankByte y = _
    rw [ih (ok.bankStore _ _ _), Batt.bankByte_bankStore_zeros ok _ (by decide)]
    by_cases others : ∃ l ∈ ls, accAddr f l ≤ y ∧ y < accAddr f l + 288
    · simp [others]
    · simp [others]

theorem xclrBody_eq (f : RForm) (x : Iss) (t : State) : xclrBody f x t =
    checked (accRange (x.at t) f x.active) t (doneBatt x t fun b => b.clearObjects f (lanesOf x.active)) := rfl

theorem Finished.bankByte {b c : Batt} (h : Finished b c) (y : Nat) : c.bankByte y = b.bankByte y := by
  unfold Finished at h
  rw [h]
  rfl

/-- Settles O19: XCLR is one change of its batt, the clearing of the objects of its lanes. -/
theorem clearedObjectsReadZero : Obligations.ClearedObjectsReadZero := by
  unfold Obligations.ClearedObjectsReadZero
  intro f s x n t clear held _ ok
  obtain ⟨u, c, done, stands, only, finished⟩ := doneBatt_completes (f := fun b => b.clearObjects f (lanesOf x.active))
    (fun b => (b.clearObjects_keeps f _).place) clear ((xclrBody_eq f x t).trans (checked_passed held))
  have reads (y : Nat) : c.bankByte y = _ := (finished.bankByte y).trans (Batt.bankByte_clearObjects ok f _ y)
  refine ⟨u, c, done, stands, finished.fpsr.trans (Batt.clearObjects_keeps _ f _).fpsr, only, fun l i hl acts hi => ?inside,
    fun aa outside => ?outside⟩
  case inside => exact (reads _).trans (if_pos ⟨l, (mem_lanesOf hl).2 acts, Nat.le_add_right _ _, Nat.add_lt_add_left hi _⟩)
  case outside =>
    refine (reads aa).trans (if_neg ?_)
    rintro ⟨l, member, low, high⟩
    have lane : l < 32 := List.mem_range.1 (List.mem_filter.1 member).1
    have apart := outside l lane ((mem_lanesOf lane).1 member)
    omega

/-! ### The flags of R199 -/

section
variable {x : Iss} {t : State} {once : Bool} {r : Nat → FRes} {g : Batt → Batt}

theorem flagBody_done (clean : trapLanes (laneIds.map r) x.active (x.at t).fpcr = 0) :
    flagBody x t once r g = .done (x.set t fun b => { g b with fpsr := b.fpsr ||| flagsOver (laneIds.map r) x.active }) :=
  if_neg fun raised => bne_iff_ne.1 raised clean

theorem flagBody_trap (raised : trapLanes (laneIds.map r) x.active (x.at t).fpcr ≠ 0) :
    flagBody x t once r g = .trap (fpxCauses (laneIds.map r) x.active
      (if once then x.active else trapLanes (laneIds.map r) x.active (x.at t).fpcr)) t :=
  if_pos (bne_iff_ne.2 raised)

end

theorem resAt_map (r : Nat → FRes) {l : Nat} (hl : l < 32) : resAt (laneIds.map r) l = r l := by
  simp [resAt, laneIds, List.getD_eq_getElem?_getD, hl]

/-- Where every lane has the same result, an exception is one of every active lane. -/
theorem trapLanes_const {y : FRes} {active : Mask} {fpcr : Word} (raised : trapLanes (laneIds.map fun _ => y) active fpcr ≠ 0) :
    trapLanes (laneIds.map fun _ => y) active fpcr = active := by
  cases traps : y.traps fpcr with
  | false =>
    refine absurd (maskOf_eq_zero fun l hl => ?_) raised
    rw [resAt_map _ hl, traps, Bool.and_false]
  | true =>
    refine BitVec.eq_of_getLsbD_eq fun l hl => (inMask_maskOf hl).trans ?_
    rw [resAt_map _ hl, traps, Bool.and_true]
    rfl

/-- So it is the same whether the word writes once for the split or in each lane. -/
theorem flagBody_trap_const {x : Iss} {t : State} {once : Bool} {y : FRes} {g : Batt → Batt}
    (raised : trapLanes (laneIds.map fun _ => y) x.active (x.at t).fpcr ≠ 0) :
    flagBody x t once (fun _ => y) g = .trap (fpxCauses (laneIds.map fun _ => y) x.active
      (trapLanes (laneIds.map fun _ => y) x.active (x.at t).fpcr)) t := by
  rw [flagBody_trap raised, trapLanes_const raised, ite_self]

/-! ### The checks of R209 -/

section
variable {b : Batt} {f : RForm} {active : Mask}

theorem accRange_unheld (unheld : b.bank? (fld f.b 9 6) = none) :
    accRange b f active = causesOf active cRANGE (BitVec.ofNat 64 (fld f.b 9 6)) := by
  simp [accRange, unheld]

theorem accChecks_unheld (unheld : b.bank? (fld f.b 9 6) = none) (acts : active ≠ 0) :
    accChecks b f active = causesOf active cRANGE (BitVec.ofNat 64 (fld f.b 9 6)) := by
  unfold accChecks
  rw [accRange_unheld unheld]
  split
  next none_named => exact absurd none_named (causesOf_ne_nil acts _ _)
  next => rfl

/-- Where the bank is held, each lane whose object holds a poisoned word is named, with the lowest such word's address. -/
theorem accChecks_held (held : b.bank? (fld f.b 9 6) ≠ none) : accChecks b f active = (lanesOf active).filterMap fun l =>
    (b.bankBad (bankBytes * fld f.b 9 6 + 288 * (fld f.b 5 0 + if f.mb 1 then 0 else l)) 288).map fun a =>
      { lane := l, cause := cPOISON, faddr := BitVec.ofNat 64 a } := by
  have in_range : accRange b f active = [] := by simp [accRange, Option.isSome_iff_ne_none.2 held]
  simp only [accChecks, in_range, accPoison, accAddr, Nat.mul_comm bankBytes]

end

/-! ### What the words come to -/

/-- The value that XACC adds for a lane (R210). -/
def xaccValue (f : RForm) (b : Batt) (l : Nat) : FVal :=
  if f.mb 0 then decodeF f64 (b.w f.a.toNat l).toNat else decodeF f32 (b.v f.a.toNat l).toNat

/-- A lane of XACC, which writes no register and whose signaling NaN raises NV. -/
def xaccLane (f : RForm) (b : Batt) (l : Nat) : FRes := { bits := 0, flags := if (xaccValue f b l).isSig then NV else 0 }

theorem xaccBody_eq (f : RForm) (x : Iss) (t : State) : xaccBody f x t = checked (accChecks (x.at t) f x.active) t
    (flagBody x t false (xaccLane f (x.at t)) fun b =>
      (lanesOf x.active).foldl (fun c l => c.accAddAt (accAddr f l) (xaccValue f (x.at t) l)) b) := rfl

/-- A lane's object, rounded (R211). -/
def xrndLane (f : RForm) (b : Batt) (l : Nat) : FRes := accRound (rndMode (f.mf 7 5) b.fpcr) (accOf (b.bankRead (accAddr f l) 288))

theorem xrndBody_eq (f : RForm) (x : Iss) (t : State) : xrndBody f x t = checked (accChecks (x.at t) f x.active) t
    (flagBody x t false (xrndLane f (x.at t)) fun b => b.setW f.d.toNat x.active fun l => BitVec.ofNat 64 (xrndLane f (x.at t) l).bits) := rfl

/-- Settles O18: each word is its checks, where it has any, and then an outcome of R199. -/
theorem reductionWords : Obligations.ReductionWords := by
  unfold Obligations.ReductionWords
  refine ⟨fun f => ⟨?xaccDoes, ?xaccTraps⟩, fun f => ⟨?xrndDoes, ?xrndTraps⟩, fun f => ⟨?lredDoes, ?lredTraps⟩, fun f => ⟨?qmxDoes, ?qmxTraps⟩,
    fun f i word => ⟨?range, fun reads => ?poison⟩⟩
  case xaccDoes =>
    exact fun s x n t clear ⟨passed, clean⟩ =>
      runWord_done clear ((xaccBody_eq f x t).trans ((checked_passed passed).trans (flagBody_done clean)))
  case xaccTraps =>
    exact fun s x n t clear ⟨passed, raised⟩ =>
      runWord_traps clear ((xaccBody_eq f x t).trans ((checked_passed passed).trans (flagBody_trap raised)))
  case xrndDoes =>
    exact fun s x n t clear ⟨passed, clean⟩ =>
      runWord_done clear ((xrndBody_eq f x t).trans ((checked_passed passed).trans (flagBody_done clean)))
  case xrndTraps =>
    exact fun s x n t clear ⟨passed, raised⟩ =>
      runWord_traps clear ((xrndBody_eq f x t).trans ((checked_passed passed).trans (flagBody_trap raised)))
  case lredDoes => exact fun s x n t clear clean => runWord_done (body := lredBody f) clear (flagBody_done clean)
  case lredTraps => exact fun s x n t clear raised => runWord_traps (body := lredBody f) clear (flagBody_trap_const raised)
  case qmxDoes => exact fun s x n t clear clean => runWord_done (body := qmxBody f) clear (flagBody_done clean)
  case qmxTraps => exact fun s x n t clear raised => runWord_traps (body := qmxBody f) clear (flagBody_trap raised)
  case range =>
    intro s x n t clear unheld
    have acts : isPaired i = false → x.active ≠ 0 := clear_acts clear
    simp only [List.mem_cons, List.not_mem_nil, or_false] at word
    rcases word with rfl | rfl | rfl
    · exact runWord_checksFail clear (xaccBody_eq f x t) (accChecks_unheld unheld (acts rfl)) (causesOf_ne_nil (acts rfl) _ _)
    · exact runWord_checksFail clear (xrndBody_eq f x t) (accChecks_unheld unheld (acts rfl)) (causesOf_ne_nil (acts rfl) _ _)
    · exact runWord_checksFail clear (xclrBody_eq f x t) (accRange_unheld unheld) (causesOf_ne_nil (acts rfl) _ _)
  case poison =>
    intro s x n t clear ⟨held, poisoned⟩
    simp only [List.mem_cons, List.not_mem_nil, or_false] at word
    rcases word with rfl | rfl | rfl
    · exact runWord_checksFail clear (xaccBody_eq f x t) (accChecks_held held) poisoned
    · exact runWord_checksFail clear (xrndBody_eq f x t) (accChecks_held held) poisoned
    · exact absurd rfl reads

end Sys2Proof.Machine
end

section
/-! Proofs about transfers (R217 to R221): the cause that refuses a target, and where the lanes stand if none is refused. -/

namespace Sys2Proof.Machine

/-! ### The outcome of a transfer (R217) -/

theorem targetCause_eq (t : DWord) : targetCause t = if fld t 2 0 ≠ 0 then cALIGN else if fld t 63 49 ≠ 0 then cXLAT else 0 := by
  simp only [targetCause, bne_iff_ne]

/-- Checks that fail trap with the causes that they name. -/
theorem checked_failed {causes : List LaneCause} {s : State} {effect : Body} (failed : causes ≠ []) :
    checked causes s effect = .trap causes s := by
  cases causes with
  | nil => exact absurd rfl failed
  | cons c cs => rfl

section
variable (x : Iss) (target : Nat → DWord) (extra : DWord → Nat)

/-- The cause that refuses the target of a lane, 0 for a good one: alignment and range first, the further cause after them. -/
def transferCause (l : Nat) : Nat := if targetCause (target l) ≠ 0 then targetCause (target l) else extra (target l)

/-- Lane `l` after a transfer: at its target, at the next word of the split, or as it was. -/
def transferLane (l : Nat) (y : Lane) : Lane :=
  if inMask x.active l then { pc := target l, st := .ready } else if inMask x.split l then { pc := y.pc + 8, st := .ready } else y

/-- The batt with its links written and its lanes transferred. -/
def transferred (link : Batt → Batt) (b : Batt) : Batt := { link b with lanes := (link b).lanes.mapIdx (transferLane x target) }

/-- The active lanes whose targets are refused, each with its cause and its target. -/
def refusedLanes : List LaneCause :=
  ((lanesOf x.active).filter fun l => transferCause target extra l != 0).map fun l =>
    { lane := l, cause := transferCause target extra l, faddr := target l }

theorem transfer_eq (t : State) (link : Batt → Batt) :
    transfer x t target extra link = checked (refusedLanes x target extra) t (.moved (x.set t (transferred x target link))) := by
  have cause : (fun l => if targetCause (target l) = 0 then extra (target l) else targetCause (target l)) = transferCause target extra :=
    funext fun _ => (ite_not ..).symm
  unfold transfer refusedLanes
  simp only [← cause]
  cases (lanesOf x.active).filter _ <;> rfl

end

section
variable {x : Iss} {t : State} {target : Nat → DWord} {extra : DWord → Nat} {link : Batt → Batt}

/-- Where every target is good, the active lanes go there. -/
theorem transfer_moves (good : ∀ l ∈ lanesOf x.active, transferCause target extra l = 0) :
    transfer x t target extra link = .moved (x.set t (transferred x target link)) := by
  have none_refused : refusedLanes x target extra = [] :=
    List.map_eq_nil_iff.2 (List.filter_eq_nil_iff.2 fun l hl => by simpa using good l hl)
  rw [transfer_eq, checked_passed none_refused]

/-- Where some target is refused, the word traps and names the lanes that are refused. -/
theorem transfer_traps (bad : ∃ l ∈ lanesOf x.active, transferCause target extra l ≠ 0) :
    transfer x t target extra link = .trap (refusedLanes x target extra) t := by
  obtain ⟨l, active, refused⟩ := bad
  have named : refusedLanes x target extra ≠ [] :=
    List.ne_nil_of_mem (List.mem_map_of_mem (List.mem_filter.2 ⟨active, bne_iff_ne.2 refused⟩))
  rw [transfer_eq]
  exact checked_failed named

end

theorem transferCause_plain (target : Nat → DWord) (l : Nat) : transferCause target (fun _ => 0) l = targetCause (target l) := by
  unfold transferCause
  split
  · rfl
  next good => exact (not_not.1 good).symm

/-- A word that is nothing but a transfer moves its lanes where every target passes R217, and traps where one does not. -/
theorem transferWord_outcomes {i : Instr} (target : Batt → Iss → Nat → DWord) (link : Iss → Batt → Batt)
    (runs : ∀ s, exec i s = runWord i (fun x t => transfer x t (target (x.at t) x) (fun _ => 0) (link x)) s) :
    WordMoves i (fun x t => ∀ l ∈ lanesOf x.active, targetCause (target (x.at t) x l) = 0)
      (fun x t => x.set t (transferred x (target (x.at t) x) (link x))) ∧
    WordTraps i (fun x t => ∃ l ∈ lanesOf x.active, targetCause (target (x.at t) x l) ≠ 0)
      (fun x t => ((lanesOf x.active).filter fun l => targetCause (target (x.at t) x l) != 0).map fun l =>
        { lane := l, cause := targetCause (target (x.at t) x l), faddr := target (x.at t) x l }) := by
  simp only [← transferCause_plain]
  exact ⟨fun s x n t clear good => (runs s).trans (runWord_moved clear (transfer_moves good)),
    fun s x n t clear bad => (runs s).trans (runWord_traps clear (transfer_traps bad))⟩

/-! ### CALLX (R219, R220, R461) -/

section
variable {f : RForm} {x : Iss} {t : State}

/-- The targets that a CALLX looks up, each once. -/
def callTargets (f : RForm) (x : Iss) (t : State) : List DWord := ((lanesOf x.active).map fun l => (x.at t).w f.a.toNat l).eraseDups

/-- The state in which the lookups of a CALLX have read their budget entries. -/
def budgetsRead (f : RForm) (x : Iss) (t : State) : State := t.fetchRuns (x.at t).space (t.budgetRuns (x.at t) (callTargets f x t))

/-- The cause that the budget table adds, given the targets that it refuses. -/
def budgetCause (bad : List DWord) (target : DWord) : Nat := if bad.contains target then cBUDGET else 0

theorem callxBody_readable {bad : List DWord} (readable : t.budgetFails (x.at t) (callTargets f x t) = .ok bad) :
    callxBody f x t = transfer x (budgetsRead f x t) (fun l => (x.at t).w f.a.toNat l) (budgetCause bad)
      fun b => b.setW f.d.toNat x.active fun _ => x.pc + 8 := by
  unfold callTargets Iss.at at readable
  unfold callxBody
  simp only [readable]
  rfl

theorem callxBody_unreadable {c : Nat} {a : DWord} (unreadable : t.budgetFails (x.at t) (callTargets f x t) = .bad c a) :
    callxBody f x t = .yielded (t.killUnreadable (x.at t).space c a) := by
  unfold callTargets Iss.at at unreadable
  unfold callxBody
  simp only [unreadable]
  rfl

end

/-- Settles O25: each word is a transfer with its own targets and link, CALLX once its budget entries are read. -/
theorem transferWords : Obligations.TransferWords := by
  unfold Obligations.TransferWords
  simp only [← targetCause_eq]
  refine ⟨fun f => ?bra, fun f => ?brx, fun f => ?call, fun f => ?ret, fun f bad => ⟨?callxMoves, ?callxTraps⟩, ?callxKills⟩
  case bra => exact transferWord_outcomes (fun _ x _ => wordTarget x.pc (sval 31 f.imm.toNat)) (fun _ => id) fun _ => rfl
  case brx =>
    exact transferWord_outcomes (fun b x l => wordTarget x.pc (sval 31 f.imm.toNat + sval 32 (b.cv f.a l))) (fun _ => id) fun _ => rfl
  case call =>
    exact transferWord_outcomes (fun _ x _ => wordTarget x.pc (sval 31 f.imm.toNat))
      (fun x b => b.setW f.d.toNat x.active fun _ => x.pc + 8) fun _ => rfl
  case ret => exact transferWord_outcomes (fun b _ l => b.w f.a.toNat l) (fun _ => id) fun _ => rfl
  case callxMoves =>
    intro s x n t clear ⟨readable, good⟩
    exact runWord_moved (body := callxBody f) clear ((callxBody_readable readable).trans (transfer_moves good))
  case callxTraps =>
    intro s x n t clear ⟨readable, failing⟩
    exact runWord_traps (body := callxBody f) clear ((callxBody_readable readable).trans (transfer_traps failing))
  case callxKills =>
    intro f s x n t c a clear unreadable
    rw [show exec (.callx f) s = runWord (.callx f) (callxBody f) s from rfl, runWord_clear clear, callxBody_unreadable unreadable]
    rfl

end Sys2Proof.Machine
end

section
/-! Every step keeps the canonical form of device memory and of the sluice (R231, R232; log 5). -/

namespace Sys2Proof.Machine

/-- Settles O45: what a step keeps of the names, shown operation by operation for O46, it keeps of the memories' form as well. -/
theorem stepKeepsMemory : Obligations.StepKeepsMemory := by
  unfold Obligations.StepKeepsMemory
  intro s t ok next
  have kept := (Kept.refl s).step
  rw [next] at kept
  cases kept with
  | next h => exact h.memOk ok

end Sys2Proof.Machine
end

section
/-! Proofs about the words of traps and containment (R424 to R426) and of memory (R239 to R277): what each does where nothing hinders it. -/

namespace Sys2Proof.Machine

/-! ### What a word's body says of the word -/

section
variable {i : Instr} {body : Iss → State → Body} {c : Iss → State → Prop} {e : Iss → State → State} {l : Iss → State → List LaneCause}

theorem wordDoes_of_body (runs : ∀ s, exec i s = runWord i body s) (done : ∀ x t, c x t → body x t = .done (e x t)) : WordDoes i c e :=
  fun s x _ t clear ok => (runs s).trans (runWord_done clear (done x t ok))

theorem wordTrapsIn_of_body (runs : ∀ s, exec i s = runWord i body s) (traps : ∀ x t, c x t → body x t = .trap (l x t) (e x t)) :
    WordTrapsIn i c e l :=
  fun s x _ t clear ok => (runs s).trans (runWord_traps clear (traps x t ok))

theorem wordTraps_of_body (runs : ∀ s, exec i s = runWord i body s) (traps : ∀ x t, c x t → body x t = .trap (l x t) t) :
    WordTraps i c l :=
  wordTrapsIn_of_body (e := fun _ t => t) runs traps

theorem wordStalls_of_body {long : Bool} (runs : ∀ s, exec i s = runWord i body s) (stalls : ∀ x t, c x t → body x t = .stall long) :
    WordStalls i long c := by
  intro s x n t clear ok
  rw [runs, runWord_clear clear, stalls x t ok]
  rfl

end

/-! ### Ordering and draining (R246 to R251, R256, R273 to R275) -/

theorem acq_does (f : RForm) :
    WordDoes (.acq f) (fun _ t => t.choice.late = false) fun x t => t.acquireTo x.core (f.mf 1 0) t.dev.granted :=
  wordDoes_of_body (body := acqBody f) (fun _ => rfl) fun _ _ now => if_neg (by simp [now])

theorem acq_late (f : RForm) :
    WordDoes (.acq f) (fun _ t => t.choice.late = true) fun x t => t.addOp x.core x.slot fun id => { x.op id with num := t.dev.granted } :=
  wordDoes_of_body (body := acqBody f) (fun _ => rfl) fun _ _ late => if_pos late

theorem rel_does (f : RForm) : WordDoes (.rel f) (fun _ t => t.choice.late = false ∨ f.mf 1 0 = 0)
    fun x t => x.set (t.relAt x.core x.slot (x.at t).space (f.mf 1 0)).2 fun b =>
      b.putRel f (t.relAt x.core x.slot (x.at t).space (f.mf 1 0)).1 :=
  wordDoes_of_body (body := relBody f) (fun _ => rfl) fun _ _ now => if_neg (by rcases now with now | core <;> simp [*])

theorem rel_late (f : RForm) : WordDoes (.rel f) (fun _ t => t.choice.late = true ∧ f.mf 1 0 ≠ 0)
    fun x t => ((t.hardenOpen x.core x.slot).addOp x.core x.slot fun id => x.op id).modCore x.core fun c =>
      { c with pubQueue := c.pubQueue ++ [some (x.slot, (x.at t).nextOp)] } :=
  wordDoes_of_body (body := relBody f) (fun _ => rfl) fun _ _ ⟨late, wider⟩ => if_pos (by simp [late, wider])

theorem acqr_does (f : RForm) : WordDoes (.acqr f) (fun _ t => t.choice.late = false)
    fun x t => ((List.range 128).foldl (fun s c =>
      if namesCore ((x.at t).s f.a.toNat) ((x.at t).s f.b.toNat) c then s.promote c (x.at t).space else s) t).acquireAt x.core 2 :=
  wordDoes_of_body (body := acqrBody f) (fun _ => rfl) fun _ _ now => if_neg (by simp [now])

theorem acqr_late (f : RForm) : WordDoes (.acqr f) (fun _ t => t.choice.late = true)
    fun x t => t.addOp x.core x.slot fun id => { x.op id with vals := [(x.at t).s f.a.toNat, (x.at t).s f.b.toNat] } :=
  wordDoes_of_body (body := acqrBody f) (fun _ => rfl) fun _ _ late => if_pos late

/-! ### Residency (R277) -/

/-- The number of the handle that an HBIND binds. -/
def bindNum (f : RForm) (x : Iss) (t : State) : Nat := ((x.at t).s f.a.toNat).toNat

/-- The base of the range that an HBIND names. -/
def bindBase (f : RForm) (x : Iss) (t : State) : Nat := ((x.at t).s f.b.toNat).toNat

/-- The length of the range that an HBIND names. -/
def bindLen (f : RForm) (x : Iss) (t : State) : Nat := ((x.at t).s f.c.toNat).toNat

/-- The handle that an HBIND makes. -/
def newHandle (f : RForm) (x : Iss) (t : State) : Handle :=
  { num := bindNum f x t, base := bindBase f x t, len := bindLen f x t, prio := f.mf 2 0 }

/-- The range that an HBIND names is one of whole 64 KiB pages below 2^49. -/
def BindGood (f : RForm) (x : Iss) (t : State) : Prop :=
  bindBase f x t % 65536 = 0 ∧ bindLen f x t % 65536 = 0 ∧ bindLen f x t ≠ 0 ∧ bindBase f x t + bindLen f x t ≤ 2 ^ 49

theorem hbindBody_large {f : RForm} {x : Iss} {t : State} (large : 64 ≤ bindNum f x t) : hbindBody f x t = .done t := if_pos large

theorem hbindBody_checked {f : RForm} {x : Iss} {t : State} (small : bindNum f x t < 64) :
    hbindBody f x t = if bindBase f x t % 65536 != 0 || bindLen f x t % 65536 != 0 || bindLen f x t = 0 ||
        2 ^ 49 < bindBase f x t + bindLen f x t then .trap (causesOf x.active cRANGE (BitVec.ofNat 64 (bindBase f x t))) t
      else .done ((t.unmark (x.at t).space (bindNum f x t)).modCtx (x.at t).space fun c =>
        { c with handles := insertBy (fun a b => a.num < b.num) (c.handles.filter fun y => y.num != bindNum f x t) (newHandle f x t) }) :=
  if_neg (Nat.not_le.2 small)

theorem bindGood_iff {f : RForm} {x : Iss} {t : State} : BindGood f x t ↔
    (bindBase f x t % 65536 != 0 || bindLen f x t % 65536 != 0 || decide (bindLen f x t = 0) ||
      decide (2 ^ 49 < bindBase f x t + bindLen f x t)) = false := by
  simp [BindGood, and_assoc]

/-- A line that has lost the mark of a handle carries other handles only. -/
theorem State.mem_handles_unmark {t : State} {space h : Nat} {y : L2Sector} {k : Nat × Nat} (mem : y ∈ (t.unmark space h).l2)
    (carries : k ∈ y.handles) : k ≠ (space, h) := by
  obtain ⟨z, -, rfl⟩ := List.mem_map.1 mem
  have kept := (List.mem_filter.1 carries).2
  rintro rfl
  simp at kept

theorem hbind_does (f : RForm) : WordDoes (.hbind f) (fun x t => bindNum f x t < 64 ∧ BindGood f x t)
    fun x t => (t.unmark (x.at t).space (bindNum f x t)).modCtx (x.at t).space fun c =>
      { c with handles := insertBy (fun a b => a.num < b.num) (c.handles.filter fun y => y.num != bindNum f x t) (newHandle f x t) } :=
  wordDoes_of_body (body := hbindBody f) (fun _ => rfl) fun _ _ ⟨small, good⟩ =>
    (hbindBody_checked small).trans (if_neg (Bool.not_eq_true _ ▸ bindGood_iff.1 good))

theorem hbind_large (f : RForm) : WordDoes (.hbind f) (fun x t => 64 ≤ bindNum f x t) fun _ t => t :=
  wordDoes_of_body (body := hbindBody f) (fun _ => rfl) fun _ _ large => hbindBody_large large

theorem hbind_traps (f : RForm) : WordTraps (.hbind f) (fun x t => bindNum f x t < 64 ∧ ¬ BindGood f x t)
    fun x t => causesOf x.active cRANGE (BitVec.ofNat 64 (bindBase f x t)) :=
  wordTraps_of_body (body := hbindBody f) (fun _ => rfl) fun _ _ ⟨small, bad⟩ =>
    (hbindBody_checked small).trans (if_pos (by rwa [bindGood_iff, Bool.not_eq_false] at bad))

/-- Settles O33: each word by its body, ACQ, REL and ACQR by whether they are late, HBIND by its checks. -/
theorem orderingAndResidencyWords : Obligations.OrderingAndResidencyWords := by
  unfold Obligations.OrderingAndResidencyWords
  refine ⟨⟨fun f => ?fence, fun f => ⟨acq_does f, acq_late f⟩, fun f => ⟨rel_does f, rel_late f⟩, fun f => ⟨acqr_does f, acqr_late f⟩,
    fun f => ?fenceo, fun f => ?full, fun f => ?flushh⟩, fun f => ⟨hbind_does f, hbind_large f, hbind_traps f⟩,
    fun _ _ _ _ _ mem carries => State.mem_handles_unmark mem carries, fun f => ?hprio, fun f => ?hdrop⟩
  case fence => exact wordDoes_of_body (fun _ => rfl) fun _ _ _ => rfl
  case fenceo => exact wordDoes_of_body (fun _ => rfl) fun _ _ _ => rfl
  case full => exact wordDoes_of_body (fun _ => rfl) fun _ _ _ => rfl
  case flushh => exact wordDoes_of_body (fun _ => rfl) fun _ _ _ => rfl
  case hprio => exact wordDoes_of_body (fun _ => rfl) fun _ _ _ => rfl
  case hdrop => exact wordDoes_of_body (body := hdropBody f) (fun _ => rfl) fun _ _ _ => rfl

end Sys2Proof.Machine
end

section
/-! Proofs about loads, stores and prefetch whose lanes pass their checks (R239 to R243, R257, R265 to R270, R324, R417). -/

namespace Sys2Proof.Machine

/-! ### What a load takes -/

section
variable (accs : List LaneAcc) (rd : LaneAcc → List (Byte × Bool))

/-- The bytes that a load takes in a lane. -/
def takenBytes : Nat → List Byte := laneBytes (accs.map fun a => (a.lane, (rd a).map (·.1)))

/-- The lanes of a load. -/
def accLanes : Mask := maskOf fun l => accs.any fun a => a.lane == l

/-- No byte of a load is poisoned. -/
def CleanLoad : Prop := ∀ a ∈ accs, ∀ p ∈ rd a, p.2 = false

/-- The causes of the lanes that take poison (R417). -/
def poisonedLanes : List LaneCause := (accs.filter fun a => (rd a).any (·.2)).map fun a => { lane := a.lane, cause := cPOISON, faddr := a.ea }

/-- A load whose data returns by an event of its own, with what it has taken (log 106). -/
def State.lateLoad (s : State) (x : Iss) : State := s.addOp x.core x.slot fun id =>
  { x.op id with
      accs := accs, vals := laneIds.map fun l => BitVec.ofNat 64 (numOf ((takenBytes accs rd l).take 8))
      bvals := laneIds.map fun l => BitVec.ofNat 64 (numOf ((takenBytes accs rd l).drop 8))
      poison := maskOf fun l => accs.any fun a => a.lane == l && (rd a).any (·.2) }

theorem filterMap_poisonedByte : ((accs.map fun a => (a, rd a)).filterMap fun r => poisonedByte r.1 r.2) = poisonedLanes accs rd := by
  unfold poisonedLanes
  induction accs with
  | nil => rfl
  | cons a rest ih =>
    rw [List.map_cons, List.filterMap_cons, ih, List.filter_cons]
    cases poison : (rd a).any (·.2) <;> simp [poisonedByte, poison]

variable {accs rd}

theorem poisonedLanes_eq_nil_iff : poisonedLanes accs rd = [] ↔ CleanLoad accs rd := by
  simp only [poisonedLanes, CleanLoad, List.map_eq_nil_iff, List.filter_eq_nil_iff, List.any_eq_true, not_exists, not_and, Bool.not_eq_true]

section
variable {x : Iss} {f : MForm} {s : State} {fin : State → State}

theorem map_takenBytes : laneBytes ((accs.map fun a => (a, rd a)).map fun r => (r.1.lane, r.2.map (·.1))) = takenBytes accs rd := by
  rw [List.map_map]
  rfl

theorem loadResult_late (late : s.choice.late = true) : loadResult x f accs rd s fin = .done (fin (s.lateLoad accs rd x)) := by
  simp only [loadResult, late, if_true, map_takenBytes, List.any_map]
  rfl

theorem loadResult_now (now : s.choice.late = false) : loadResult x f accs rd s fin =
    match poisonedLanes accs rd with
    | c :: cs => .trap (c :: cs) (fin s)
    | [] => .done (fin (x.set s fun b => b.putLoad f (accLanes accs) (takenBytes accs rd))) := by
  simp only [loadResult, now, Bool.false_eq_true, if_false, filterMap_poisonedByte, map_takenBytes]
  rfl

theorem loadResult_clean (now : s.choice.late = false) (clean : CleanLoad accs rd) :
    loadResult x f accs rd s fin = .done (fin (x.set s fun b => b.putLoad f (accLanes accs) (takenBytes accs rd))) := by
  rw [loadResult_now now, poisonedLanes_eq_nil_iff.2 clean]

theorem loadResult_poisoned (now : s.choice.late = false) (bad : ¬ CleanLoad accs rd) :
    loadResult x f accs rd s fin = .trap (poisonedLanes accs rd) (fin s) := by
  rw [loadResult_now now]
  split
  next named => rw [named]
  next none => exact absurd (poisonedLanes_eq_nil_iff.1 none) bad

end

/-! ### LD, LDC and LDS (R265, R268, R269) -/

section
variable {f : MForm} {x : Iss} {t : State}

theorem ldBody_passed (passed : Passed ((lanesOf (loadLanes f x)).map (t.ldLane x f (t.isChecked (x.at t) x.instr x.pc))) accs) :
    ldBody f x t = loadResult x f accs ((t.loadSettle x.core accs).loadBytes x.core x.slot f.cp.toNat) (t.loadSettle x.core accs)
      fun u => (u.loadFills x.core (x.at t).space f.cp.toNat accs).drewHost accs := by
  unfold ldBody
  exact reportOr_passed passed

theorem ldcBody_passed (passed : Passed ((lanesOf (loadLanes f x)).map (t.ldcLane x f (t.isChecked (x.at t) x.instr x.pc))) accs) :
    ldcBody f x t = loadResult x f accs (fun a => a.locs.map (t.constByte x.core (x.at t).space)) t
      fun u => u.constFill x.core (x.at t).space accs := by
  unfold ldcBody
  exact reportOr_passed passed

/-- What an LDS reads in a lane. -/
def ldsBytes (f : MForm) (x : Iss) (t : State) (a : LaneAcc) : List (Byte × Bool) :=
  t.scratchBytes (x.at t).id.lnum (x.at t).id.felt a.ea.toNat (widthOf f.wd)

/-- A range of an LDS is locked by an engine's operation (R324). -/
def ldsLocked (f : MForm) (accs : List LaneAcc) (x : Iss) (t : State) : Bool :=
  (t.core x.core).loadLocked x.slot (x.at t).id.lnum (x.at t).id.felt (accRanges accs (widthOf f.wd))

variable (passed : Passed ((lanesOf (loadLanes f x)).map (t.scratchLane x f (t.isChecked (x.at t) x.instr x.pc))) accs)
include passed

theorem ldsBody_locked (locked : ldsLocked f accs x t = true) : ldsBody f x t = .stall false := by
  unfold ldsBody
  exact (reportOr_passed passed).trans (if_pos locked)

theorem ldsBody_free (free : ldsLocked f accs x t = false) : ldsBody f x t =
    match poisonedLanes accs (ldsBytes f x t) with
    | c :: cs => .trap (c :: cs) t
    | [] => .done (x.set t fun b => b.putLoad f (loadLanes f x) (takenBytes accs (ldsBytes f x t))) := by
  unfold ldsBody
  refine (reportOr_passed passed).trans ((if_neg (Bool.eq_false_iff.1 free)).trans ?_)
  rw [← filterMap_poisonedByte, ← map_takenBytes]
  rfl

theorem ldsBody_clean (free : ldsLocked f accs x t = false) (clean : CleanLoad accs (ldsBytes f x t)) :
    ldsBody f x t = .done (x.set t fun b => b.putLoad f (loadLanes f x) (takenBytes accs (ldsBytes f x t))) := by
  rw [ldsBody_free passed free, poisonedLanes_eq_nil_iff.2 clean]

theorem ldsBody_poisoned (free : ldsLocked f accs x t = false) (bad : ¬ CleanLoad accs (ldsBytes f x t)) :
    ldsBody f x t = .trap (poisonedLanes accs (ldsBytes f x t)) t := by
  rw [ldsBody_free passed free]
  split
  next named => rw [named]
  next none => exact absurd (poisonedLanes_eq_nil_iff.1 none) bad

end

/-! ### ST and STS (R243, R257, R265, R268) -/

section
variable {f : MForm} {x : Iss} {t : State}

theorem stBody_passed (passed : Passed ((lanesOf x.active).map (t.stLane x f)) accs) :
    stBody f x t = if t.logWait x (storedBytes accs ((x.at t).storeBytes f)) then .stall true
      else .done (t.storeDone x accs (storedBytes accs ((x.at t).storeBytes f))) := by
  unfold stBody
  exact reportOr_passed passed

theorem stsBody_passed (passed : Passed ((lanesOf x.active).map (t.scratchLane x f false)) accs) :
    stsBody f x t = if (t.core x.core).storeLocked (x.at t).id.lnum (x.at t).id.felt (accRanges accs (widthOf f.wd)) then .stall false
      else .done ((accs.foldl (fun s a =>
        s.scratchWrite (x.at t).id.lnum (x.at t).id.felt a.ea.toNat ((x.at t).storeBytes f a.lane) false) t).scratchWhole
          (x.at t).id.lnum (x.at t).id.felt (accRanges accs (widthOf f.wd))) := by
  unfold stsBody
  exact reportOr_passed passed

end

end

/-- Settles O28: each word by its body once its lanes have passed: loads now, late or poisoned; stores with or without a wait. -/
theorem loadAndStoreWords : Obligations.LoadAndStoreWords := by
  unfold Obligations.LoadAndStoreWords
  refine ⟨⟨fun f accs => ?ld, fun f accs => ?ldc, fun f accs => ?lds⟩, fun f accs => ?st, fun f accs => ?sts, fun f => ?pref⟩
  case ld =>
    exact ⟨wordDoes_of_body (body := ldBody f) (fun _ => rfl) fun _ _ ⟨ok, now, clean⟩ => (ldBody_passed ok).trans (loadResult_clean now clean),
      wordDoes_of_body (body := ldBody f) (fun _ => rfl) fun _ _ ⟨ok, late⟩ => (ldBody_passed ok).trans (loadResult_late late),
      wordTrapsIn_of_body (body := ldBody f) (fun _ => rfl) fun _ _ ⟨ok, now, bad⟩ => (ldBody_passed ok).trans (loadResult_poisoned now bad)⟩
  case ldc =>
    exact ⟨wordDoes_of_body (body := ldcBody f) (fun _ => rfl) fun _ _ ⟨ok, now, clean⟩ =>
        (ldcBody_passed ok).trans (loadResult_clean now clean),
      wordDoes_of_body (body := ldcBody f) (fun _ => rfl) fun _ _ ⟨ok, late⟩ => (ldcBody_passed ok).trans (loadResult_late late),
      wordTrapsIn_of_body (body := ldcBody f) (fun _ => rfl) fun _ _ ⟨ok, now, bad⟩ => (ldcBody_passed ok).trans (loadResult_poisoned now bad)⟩
  case lds =>
    exact ⟨wordDoes_of_body (body := ldsBody f) (fun _ => rfl) fun _ _ ⟨ok, free, clean⟩ => ldsBody_clean ok free clean,
      wordStalls_of_body (body := ldsBody f) (fun _ => rfl) fun _ _ ⟨ok, locked⟩ => ldsBody_locked ok locked,
      wordTraps_of_body (body := ldsBody f) (fun _ => rfl) fun _ _ ⟨ok, free, bad⟩ => ldsBody_poisoned ok free bad⟩
  case st =>
    exact ⟨wordDoes_of_body (body := stBody f) (fun _ => rfl) fun _ _ ⟨ok, room⟩ =>
        (stBody_passed ok).trans (if_neg (Bool.eq_false_iff.1 room)),
      wordStalls_of_body (body := stBody f) (fun _ => rfl) fun _ _ ⟨ok, waits⟩ => (stBody_passed ok).trans (if_pos waits)⟩
  case sts =>
    exact ⟨wordDoes_of_body (body := stsBody f) (fun _ => rfl) fun _ _ ⟨ok, free⟩ =>
        (stsBody_passed ok).trans (if_neg (Bool.eq_false_iff.1 free)),
      wordStalls_of_body (body := stsBody f) (fun _ => rfl) fun _ _ ⟨ok, locked⟩ => (stsBody_passed ok).trans (if_pos locked)⟩
  case pref => exact wordDoes_of_body (body := prefBody f) (fun _ => rfl) fun _ _ _ => rfl

end Sys2Proof.Machine
end

section
/-! Proofs about TRAP, BRK, the containment words (R424, R425) and the unwind of a region (R426). -/

namespace Sys2Proof.Machine

/-! ### Lists with changed elements -/

theorem find?_mapIf {α : Type} {p q : α → Bool} {f : α → α} (same : ∀ x, q (f x) = q x) (l : List α) :
    (mapIf p f l).find? q = (l.find? q).map fun x => if p x then f x else x := by
  rw [mapIf, List.find?_map]
  refine congrArg _ (List.find?_congr fun x _ => ?_)
  rw [Function.comp_apply]
  split
  · exact same x
  · rfl

theorem mem_mapIf_of_not {α : Type} {p : α → Bool} {f : α → α} {l : List α} {x : α} (mem : x ∈ l) (out : p x = false) :
    x ∈ mapIf p f l :=
  List.mem_map.2 ⟨x, mem, if_neg (by simp [out])⟩

/-- An entry of a list under a change that keeps the default. -/
theorem getD_modAt_fixed {α : Type} {f : α → α} {d : α} (fixed : f d = d) (l : List α) (n : Nat) :
    (modAt l n f).getD n d = f (l.getD n d) := by
  rw [List.getD_eq_getElem?_getD, List.getD_eq_getElem?_getD, getElem_modAt, if_pos rfl]
  cases l[n]? with
  | none => exact fixed.symm
  | some x => rfl

/-! ### CONTO (R425) -/

section
variable {f : RForm} {x : Iss} {t : State}

theorem contoBody_full (full : 4 ≤ (x.at t).regions.length) : contoBody f x t = .trap (causesOf x.active cRANGE 4) t := if_pos full

theorem contoBody_misaligned (room : (x.at t).regions.length < 4) (odd : fld ((x.at t).s f.a.toNat) 2 0 ≠ 0) :
    contoBody f x t = .trap (causesOf x.active cALIGN ((x.at t).s f.a.toNat)) t :=
  (if_neg (Nat.not_le.2 room)).trans (if_pos (bne_iff_ne.2 odd))

theorem contoBody_aligned (room : (x.at t).regions.length < 4) (aligned : fld ((x.at t).s f.a.toNat) 2 0 = 0) :
    contoBody f x t = if fld ((x.at t).s f.a.toNat) 63 49 != 0 then .trap (causesOf x.active cXLAT ((x.at t).s f.a.toNat)) t
      else .done (x.set t fun b => { b with regions := b.regions ++ [{ handler := (x.at t).s f.a.toNat }] }) :=
  (if_neg (Nat.not_le.2 room)).trans (if_neg (by simpa [Iss.at] using aligned))

end

/-! ### What the replay before the write of s63 leaves of a batt (R147, R153, R426) -/

/-- No untagged register of the batt has this number. -/
def Batt.Bare (b : Batt) (n : Nat) : Prop := ∀ k o, o.bind (·.tag) = none → b.Holds k o → n ≠ k

/-- A batt that differs from another in its vector registers alone, and has its untagged ones as that has them. -/
def Batt.Beside (b₀ b : Batt) : Prop := SameButV b₀ b ∧ ∀ k o, o.bind (·.tag) = none → b₀.Holds k o → b.Holds k o

/-- What stands of a preparation, be it whole or not, is beside a batt. -/
def PrepRes.Beside (b₀ : Batt) : PrepRes → Prop
  | .ok p => b₀.Beside p.b
  | .fault _ p => b₀.Beside p.b

section
variable {b₀ b : Batt}

theorem Batt.Beside.refl (b : Batt) : b.Beside b := ⟨.refl b, fun _ _ _ h => h⟩

theorem Batt.Beside.bare (h : b₀.Beside b) {y : Nat} {r : VReg} (found : b.vreg? y = some r) (tagged : r.tag.isSome = true) : b₀.Bare y :=
  fun k o untagged holds => (h.2 k o untagged holds).ne_of_tagged untagged found tagged

theorem Batt.Beside.put (h : b₀.Beside b) {r : VReg} (bare : b₀.Bare r.num) : b₀.Beside (b.putRecord r) :=
  ⟨h.1.trans (.of b _), fun k o untagged holds => (h.2 k o untagged holds).put (bare k o untagged holds)⟩

theorem Batt.Beside.back (h : b₀.Beside b) {c : Batt} {avoid : List Nat} {n : Nat} (bare : b₀.Bare n) (backs : b.back avoid n = some c) :
    b₀.Beside c :=
  ⟨h.1.trans (Batt.back_keeps backs), fun k o untagged holds => (h.2 k o untagged holds).back untagged (.inl (bare k o untagged holds)) backs⟩

theorem Batt.Beside.untag (h : b₀.Beside b) (y : Nat) : b₀.Beside (b.untag y) :=
  ⟨h.1.trans (b.untag_keeps y), fun k o untagged holds => (h.2 k o untagged holds).untag untagged y⟩

/-- A change of a register's record that leaves its number. -/
theorem Batt.Beside.mapRecord (h : b₀.Beside b) {y : Nat} {f : VReg → VReg} (same : ∀ r, (f r).num = r.num) (bare : b₀.Bare y) :
    b₀.Beside { b with vregs := mapIf (fun r => r.num == y) f b.vregs } := by
  refine ⟨h.1.trans (.of b _), fun k o untagged holds => ?_⟩
  obtain ⟨ordered, stands⟩ := h.2 k o untagged holds
  have other : y ≠ k := bare k o untagged holds
  have nums : (mapIf (fun r => r.num == y) f b.vregs).map (·.num) = b.vregs.map (·.num) := by
    rw [mapIf, List.map_map]
    refine List.map_congr_left fun r _ => ?_
    rw [Function.comp_apply]
    split
    · exact same r
    · rfl
  refine ⟨by rw [Batt.Ordered, nums]; exact ordered, ?_⟩
  rw [← stands]
  refine (find?_mapIf (q := fun r => r.num == k) (fun r => by rw [same]) b.vregs).trans ?_
  show _ = b.vregs.find? fun r => r.num == k
  cases found : b.vregs.find? fun r => r.num == k with
  | none => rfl
  | some r =>
    have number : r.num = k := by simpa using List.find?_some found
    rw [Option.map_some, if_neg (by simp [number, Ne.symm other])]

theorem PrepRes.Beside.bind {r : PrepRes} {f : Prep → PrepRes} (h : r.Beside b₀) (step : ∀ p, b₀.Beside p.b → (f p).Beside b₀) :
    (r.bind f).Beside b₀ := by
  cases r with
  | ok p => exact step p h
  | fault f p => exact h

theorem PrepRes.Beside.each {α : Type} {f : α → Prep → PrepRes} {l : List α} {r : PrepRes} (h : r.Beside b₀)
    (step : ∀ x p, b₀.Beside p.b → (f x p).Beside b₀) : (prepEach f l r).Beside b₀ := by
  induction l generalizing r with
  | nil => exact h
  | cons x t ih => exact ih (h.bind (step x))

theorem PrepRes.Beside.settlePrep {run : List Nat → PrepRes} {fuel : Nat} {avoid : List Nat} (each : ∀ avoid, (run avoid).Beside b₀) :
    (settlePrep run fuel avoid).Beside b₀ := by
  induction fuel generalizing avoid with
  | zero => exact each avoid
  | succ fuel ih =>
    unfold Machine.settlePrep
    split
    · exact each avoid
    · exact ih

section
variable {s : State} {avoid : List Nat} {p : Prep}

theorem Batt.Beside.prepBack {n : Nat} (h : b₀.Beside p.b) (bare : b₀.Bare n) : (p.back avoid n).Beside b₀ := by
  unfold Prep.back
  split
  next backs => exact h.back bare backs
  · exact h

theorem Batt.Beside.replay {fuel y : Nat} (h : b₀.Beside p.b) : (s.replay avoid fuel y p).Beside b₀ := by
  induction fuel generalizing y p with
  | zero => exact h
  | succ fuel ih =>
    unfold State.replay
    refine ite_of h ?_
    split
    next r rn depth found tagged =>
      have tag : r.tag = some (rn, depth) := by simpa [found] using tagged
      have bare : b₀.Bare y := h.bare found (by rw [tag]; rfl)
      split
      · exact h
      · refine PrepRes.Beside.bind (.bind (.each h fun _ _ => ih) fun _ hq => hq.prepBack bare) fun q hq => ?_
        split
        · exact hq.put (r := r) (by rwa [Batt.vreg?_num found])
        · exact hq.put bare
    · exact h

theorem Batt.Beside.rematerialise {y : Nat} (h : b₀.Beside p.b) : (s.rematerialise avoid y p).Beside b₀ :=
  h.replay.bind fun _ h => h.untag y

theorem Batt.Beside.detach {y : Nat} (h : b₀.Beside b) (bare : b₀.Bare y) : b₀.Beside (s.detach y b) := by
  have prepared : (Machine.settlePrep (fun avoid => s.rematerialise avoid y { b := b }) (b.vregs.length + 1) []).Beside b₀ :=
    .settlePrep fun _ => rematerialise h
  unfold State.detach
  split
  next eq => rw [eq] at prepared; exact prepared
  next eq => rw [eq] at prepared; exact prepared.mapRecord (fun _ => rfl) bare

end

/-- A register whose recipe reads another one is tagged. -/
theorem State.bare_of_mem_dependents {s : State} {x : RegRef} {y : Nat} (mem : y ∈ s.dependents b x) : b.Bare y := by
  obtain ⟨r, hr, rfl⟩ := List.mem_map.1 mem
  obtain ⟨stands, reads⟩ := List.mem_filter.1 hr
  have tagged : r.tag.isSome = true := by
    cases tag : r.tag with
    | none => simp [tag] at reads
    | some _ => rfl
  exact fun k o untagged holds => holds.ne_of_tagged untagged (holds.1.vreg?_of_mem stands) tagged

end

/-- The batt whose registers have lost the recipes that read s63. -/
def State.detached (s : State) (b : Batt) : Batt := (s.dependents b (.s 63)).foldl (fun b y => s.detach y b) b

theorem State.detached_beside (s : State) (b : Batt) : b.Beside (s.detached b) :=
  List.foldlRecOn _ _ (Batt.Beside.refl b) fun _ h _ mem => h.detach (State.bare_of_mem_dependents mem)

/-! ### The unwind of a batt (R426) -/

/-- The batt as the unwind of its innermost region leaves it, but for s63. -/
def Batt.unwound (b : Batt) (handler : DWord) : Batt :=
  let c := { b with trapped := [], halted := false, faulted := false, wait := .none, audits := [], ops := [], regions := b.regions.dropLast
                    rejoinA := List.replicate 8 0, cursor := 0, quant := 0, syncm := 0 }
  c.modLanes (~~~c.exited) fun _ => { pc := handler, st := .ready }

theorem Batt.unwound_shape (b : Batt) (handler : DWord) : b.unwound handler =
    { b with trapped := [], halted := false, faulted := false, wait := .none, audits := [], ops := [], regions := b.regions.dropLast
             rejoinA := List.replicate 8 0, cursor := 0, quant := 0, syncm := 0, lanes := (b.unwound handler).lanes } := rfl

/-- Where the innermost region of a batt unwinds to. -/
def Batt.handler (b : Batt) : DWord := ((b.regions.getLast?).map (·.handler)).getD 0

theorem inMask_not (m : Mask) {l : Nat} (h : l < 32) : inMask (~~~m) l = !inMask m l := by
  simp [inMask, h]

/-- Every lane that has not exited stands ready at the handler. -/
theorem Batt.lane_unwound (b : Batt) (handler : DWord) {l : Nat} (stands : l < b.lanes.length) (h : l < 32) :
    (b.unwound handler).lane l = if (b.lane l).st = .exited then b.lane l else { pc := handler, st := .ready } := by
  show (b.modLanes (~~~b.exited) fun _ => { pc := handler, st := .ready }).lane l = _
  rw [Batt.lane_modLanes _ _ _ stands, inMask_not _ h, Batt.exited, Batt.inMask_lanesWhere _ _ h]
  by_cases exited : (b.lane l).st = .exited <;> simp [exited]

/-- What the batt's registers lose, s63 takes. -/
theorem State.writeS63_eq (s : State) (core slot : Nat) (v : DWord) :
    s.writeS63 core slot v = s.modBatt core slot fun b => (s.detached b).setS 63 v := rfl

theorem State.detached_place (s : State) (b : Batt) : (s.detached b).core = b.core ∧ (s.detached b).slot = b.slot := by
  rw [(s.detached_beside b).1]
  exact ⟨rfl, rfl⟩

/-! ### A barrier after a change (R298) -/

section
variable (s : State) (r₀ r : BarRef) (g : Barrier → Barrier)

theorem State.felt?_modFelt (n m k j : Nat) {f : Felt → Felt} (lnum : ∀ x, (f x).lnum = x.lnum) (felt : ∀ x, (f x).felt = x.felt) :
    (s.modFelt n m f).felt? k j = (s.felt? k j).map fun x => if k = n ∧ j = m then f x else x := by
  refine (find?_mapIf (fun x => by rw [lnum, felt]) s.felts).trans ?_
  show (s.felt? k j).map _ = _
  cases found : s.felt? k j with
  | none => rfl
  | some x =>
    have place : x.lnum = k ∧ x.felt = j := by simpa using List.find?_some found
    simp [place]

theorem State.launch?_modLaunch (n k : Nat) {f : Launch → Launch} (lnum : ∀ x, (f x).lnum = x.lnum) :
    (s.modLaunch n f).launch? k = (s.launch? k).map fun x => if k = n then f x else x := by
  refine (find?_mapIf (fun x => by rw [lnum]) s.launches).trans ?_
  show (s.launch? k).map _ = _
  cases found : s.launch? k with
  | none => rfl
  | some x =>
    have place : x.lnum = k := by simpa using List.find?_some found
    simp [place]

/-- A change of the barriers of a launch, as the change of one of them makes it. -/
def Launch.modBar (l : Launch) : Launch :=
  if r₀.kind = 1 then { l with cbars := mapIf (fun x => x.1 == r₀.cluster) (fun x => (x.1, modAt x.2 r₀.num g)) l.cbars }
  else { l with lbars := modAt l.lbars r₀.num g }

theorem Launch.modBar_lnum (l : Launch) : (l.modBar r₀ g).lnum = l.lnum := by
  unfold Launch.modBar
  split <;> rfl

/-- The barriers of the group of a reference in a launch. -/
def Launch.group (l : Launch) : List Barrier :=
  if r.kind = 1 then ((l.cbars.find? fun x => x.1 == r.cluster).map (·.2)).getD [] else l.lbars

theorem Launch.group_modBar (l : Launch) :
    (l.modBar r₀ g).group r =
      if (r.kind = 1 ↔ r₀.kind = 1) ∧ (r.kind = 1 → r.cluster = r₀.cluster) then modAt (l.group r) r₀.num g else l.group r := by
  unfold Launch.modBar Launch.group
  by_cases kind₀ : r₀.kind = 1 <;> by_cases kind : r.kind = 1
  case pos =>
    simp only [kind₀, kind, if_true, iff_self, true_and, forall_const]
    rw [find?_mapIf fun x => by rfl]
    cases found : l.cbars.find? fun x => x.1 == r.cluster with
    | none => split <;> rfl
    | some x =>
      have cluster : x.1 = r.cluster := by simpa using List.find?_some found
      simp only [Option.map_some, Option.getD_some, cluster, beq_iff_eq]
      split <;> rfl
  all_goals simp [kind₀, kind]

theorem State.bars_launch (launch : r.kind ≠ 0) : s.bars r = ((s.launch? r.lnum).map fun l => l.group r).getD [] := by
  rw [State.bars, if_neg launch]
  cases s.launch? r.lnum <;> rfl

theorem State.bars_felt (felt : r.kind = 0) : s.bars r = ((s.felt? r.lnum r.felt).map (·.bars)).getD [] := if_pos felt

/-- A change of the barriers of a felt, as the change of one of them makes it. -/
def Felt.modBar (x : Felt) : Felt := { x with bars := modAt x.bars r₀.num g }

theorem State.modBar_felt (felt : r₀.kind = 0) : s.modBar r₀ g = s.modFelt r₀.lnum r₀.felt (Felt.modBar r₀ g) := if_pos felt

theorem State.modBar_launch (launch : r₀.kind ≠ 0) : s.modBar r₀ g = s.modLaunch r₀.lnum (Launch.modBar r₀ g) := if_neg launch

/-- A change of one barrier changes that one in its group, and no other group. -/
theorem State.bars_modBar : (s.modBar r₀ g).bars r = s.bars r ∨ (s.modBar r₀ g).bars r = modAt (s.bars r) r₀.num g := by
  by_cases kind₀ : r₀.kind = 0 <;> by_cases kind : r.kind = 0
  · rw [s.modBar_felt _ _ kind₀, State.bars_felt _ _ kind, State.bars_felt _ _ kind,
      State.felt?_modFelt (f := Felt.modBar r₀ g) _ _ _ _ _ (fun _ => rfl) fun _ => rfl]
    cases s.felt? r.lnum r.felt with
    | none => exact .inl rfl
    | some x =>
      simp only [Option.map_some, Option.getD_some]
      split
      · exact .inr rfl
      · exact .inl rfl
  · rw [s.modBar_felt _ _ kind₀, State.bars_launch _ _ kind, State.bars_launch _ _ kind]
    exact .inl rfl
  · rw [s.modBar_launch _ _ kind₀, State.bars_felt _ _ kind, State.bars_felt _ _ kind]
    exact .inl rfl
  · rw [s.modBar_launch _ _ kind₀, State.bars_launch _ _ kind, State.bars_launch _ _ kind,
      State.launch?_modLaunch _ _ _ (Launch.modBar_lnum r₀ g)]
    cases s.launch? r.lnum with
    | none => exact .inl rfl
    | some l =>
      simp only [Option.map_some, Option.getD_some]
      split
      · rw [Launch.group_modBar]
        split
        · exact .inr rfl
        · exact .inl rfl
      · exact .inl rfl

theorem State.bars_modBar_own : (s.modBar r g).bars r = modAt (s.bars r) r.num g := by
  by_cases kind : r.kind = 0
  · rw [s.modBar_felt _ _ kind, State.bars_felt _ _ kind, State.bars_felt _ _ kind,
      State.felt?_modFelt (f := Felt.modBar r g) _ _ _ _ _ (fun _ => rfl) fun _ => rfl]
    cases s.felt? r.lnum r.felt with
    | none => rfl
    | some x => simp [Felt.modBar]
  · rw [s.modBar_launch _ _ kind, State.bars_launch _ _ kind, State.bars_launch _ _ kind,
      State.launch?_modLaunch _ _ _ (Launch.modBar_lnum r g)]
    cases s.launch? r.lnum with
    | none => rfl
    | some l => simp [Launch.group_modBar]

variable {g}

theorem State.bar_modBar (fixed : g {} = {}) : (s.modBar r₀ g).bar r = s.bar r ∨ (s.modBar r₀ g).bar r = g (s.bar r) := by
  unfold State.bar
  rcases s.bars_modBar r₀ r g with same | changed
  · exact .inl (by rw [same])
  · rw [changed]
    by_cases own : r.num = r₀.num
    · rw [own]
      exact .inr (getD_modAt_fixed fixed _ _)
    · exact .inl (getD_modAt_ne _ own)

theorem State.bar_modBar_own (fixed : g {} = {}) : (s.modBar r g).bar r = g (s.bar r) := by
  rw [State.bar, State.bars_modBar_own]
  exact getD_modAt_fixed fixed _ _

end

/-! ### What an unwind leaves (R426) -/

/-- The barrier without the held arrival of a batt. -/
def Barrier.withdraw (x : Barrier) (id : BattId) : Barrier :=
  { x with held := x.held.filter fun h => match h with | .batt i _ => i != id | .red => true }

/-- The state without the held arrival of a batt. -/
def State.withdrawHeld (s : State) (b : Batt) : State :=
  match b.wait with
  | .held k n _ _ => s.modBar (b.barRef k n) fun x => x.withdraw b.id
  | _ => s

theorem State.withdrawHeld_shape (s : State) (b : Batt) :
    s.withdrawHeld b = { s with felts := (s.withdrawHeld b).felts, launches := (s.withdrawHeld b).launches } := by
  unfold State.withdrawHeld
  split
  · unfold State.modBar
    split <;> rfl
  · rfl

/-- Arrivals may leave a barrier, and nothing else of it changes. -/
theorem State.bar_withdrawHeld (s : State) (b : Batt) (r : BarRef) :
    (∀ h ∈ ((s.withdrawHeld b).bar r).held, h ∈ (s.bar r).held) ∧
      (s.withdrawHeld b).bar r = { s.bar r with held := ((s.withdrawHeld b).bar r).held } := by
  unfold State.withdrawHeld
  split
  next k n _ _ _ =>
    rcases s.bar_modBar (b.barRef k n) r (g := fun x => x.withdraw b.id) rfl with same | left
    · rw [same]
      exact ⟨fun _ h => h, rfl⟩
    · rw [left]
      exact ⟨fun _ h => List.mem_of_mem_filter h, rfl⟩
  · exact ⟨fun _ h => h, rfl⟩

theorem State.not_held_withdrawHeld {s : State} {b : Batt} {k n : Nat} {bytes : Int} {i : Instr} (waits : b.wait = .held k n bytes i) :
    ∀ h ∈ ((s.withdrawHeld b).bar (b.barRef k n)).held, ∀ x, h ≠ .batt b.id x := by
  unfold State.withdrawHeld
  rw [waits]
  dsimp only
  rw [State.bar_modBar_own _ _ rfl]
  rintro h mem x rfl
  have kept := (List.mem_filter.1 mem).2
  simp at kept

theorem State.withdraw_eq (s : State) (b : Batt) : s.withdraw b =
    ((s.withdrawHeld b).modCore b.core fun c => { c with bankQueue := c.bankQueue.filter (· != b.slot) }).modCluster (clusterOf b.core) fun k =>
      { k with monitors := k.monitors.filter fun m => !(m.core == b.core && m.slot == b.slot) } := by
  rfl

/-- The state that an unwind leaves, but for the batt and its window. -/
def State.unwoundAround (u : State) (b : Batt) : State :=
  ((u.withdraw b).discardLog b.core b.slot b.regions.length).modCluster (clusterOf b.core) fun k =>
    { k with peat := k.peat.filter fun e => !(e.owner == b.id && b.regions.length ≤ e.depth) }

theorem State.batt?_writeS63 (s : State) (core slot : Nat) (v : DWord) :
    (s.writeS63 core slot v).batt? core slot = (s.batt? core slot).map fun b => (s.detached b).setS 63 v := by
  rw [State.writeS63_eq]
  exact State.batt?_modBatt_same s core slot (fun b => (s.detached b).setS 63 v) s.detached_place

/-- What s63 holds after an unwind. -/
def Batt.unwindCode (b : Batt) (cause : Nat) (pc : DWord) : DWord := BitVec.ofNat 64 (cause + b.regions.length * 2 ^ 8 + fld pc 48 3 * 2 ^ 16)

section
variable {s : State} {core slot cause : Nat} {pc : DWord} {b : Batt}

theorem State.unwind_eq (found : (s.completeEngines core slot).batt? core slot = some b) : s.unwind core slot cause pc =
    ((((s.completeEngines core slot).unwoundAround b).modBatt core slot fun c => c.unwound b.handler).writeS63 core slot
      (b.unwindCode cause pc)).modWindow b.space fun w => { w with unwinds := w.unwinds + 1 } := by
  obtain ⟨hc, hs⟩ := State.batt?_place found
  have own : (s.completeEngines core slot).battAt core slot = b := by rw [State.battAt, found]; rfl
  unfold State.unwoundAround
  rw [hc, hs]
  unfold State.unwind
  dsimp only
  rw [own]
  rfl

theorem State.completeEngines_idle (idle : ∀ o ∈ (s.core core).engineOps, o.slot ≠ slot) : s.completeEngines core slot = s := by
  unfold State.completeEngines
  cases (s.core core).engineOps.length with
  | zero => rfl
  | succ n =>
    have none : ((s.core core).engineOps.any fun o => o.slot == slot) = false := by simpa using idle
    rw [completeFrom, none]
    rfl

theorem State.unwoundAround_eq (u : State) (b : Batt) : u.unwoundAround b =
    { u with felts := (u.withdrawHeld b).felts, launches := (u.withdrawHeld b).launches
             cores := modAt (modAt u.cores b.core fun c => { c with bankQueue := c.bankQueue.filter (· != b.slot) }) b.core fun c =>
               { c with log := c.log.filter fun e => !(e.owner == b.slot && b.regions.length ≤ e.depth) }
             clusters := modAt (modAt u.clusters (b.core / 8) fun k =>
               { k with monitors := k.monitors.filter fun m => !(m.core == b.core && m.slot == b.slot) }) (b.core / 8) fun k =>
                 { k with peat := k.peat.filter fun e => !(e.owner == b.id && b.regions.length ≤ e.depth) } } := by
  unfold State.unwoundAround
  rw [State.withdraw_eq]
  have shape := u.withdrawHeld_shape b
  generalize u.withdrawHeld b = w at shape ⊢
  generalize w.felts = felts, w.launches = launches at shape ⊢
  subst shape
  rfl

theorem State.unwoundAround_batts (u : State) (b : Batt) : (u.unwoundAround b).batts = u.batts := by rw [State.unwoundAround_eq]

/-- Only the core of the batt changes: the entries of the region and deeper leave its log, the batt its bank queue. -/
theorem State.unwoundAround_core (u : State) (b : Batt) :
    (∀ k, k ≠ b.core → (u.unwoundAround b).core k = u.core k) ∧ (u.unwoundAround b).core b.core = { u.core b.core with
      log := (u.core b.core).log.filter fun e => !(e.owner == b.slot && b.regions.length ≤ e.depth)
      bankQueue := (u.core b.core).bankQueue.filter fun j => j != b.slot } := by
  constructor
  · intro k other
    rw [State.core, State.unwoundAround_eq, getD_modAt_ne _ other, getD_modAt_ne _ other]
    rfl
  · rw [State.core, State.unwoundAround_eq, getD_modAt_fixed rfl, getD_modAt_fixed rfl]
    rfl

theorem State.unwoundAround_cluster (u : State) (b : Batt) :
    (∀ k, k ≠ b.core / 8 → (u.unwoundAround b).cluster k = u.cluster k) ∧
      (u.unwoundAround b).cluster (b.core / 8) = { u.cluster (b.core / 8) with
      peat := (u.cluster (b.core / 8)).peat.filter fun e => !(e.owner == b.id && b.regions.length ≤ e.depth)
      monitors := (u.cluster (b.core / 8)).monitors.filter fun m => !(m.core == b.core && m.slot == b.slot) } := by
  constructor
  · intro k other
    rw [State.cluster, State.unwoundAround_eq, getD_modAt_ne _ other, getD_modAt_ne _ other]
    rfl
  · rw [State.cluster, State.unwoundAround_eq, getD_modAt_fixed rfl, getD_modAt_fixed rfl]
    rfl

/-- The batt that an unwind leaves: `w` is the state in which the recipes that read s63 are replayed. -/
def State.unwoundBatt (w : State) (b : Batt) (code : DWord) : Batt := (w.detached (b.unwound b.handler)).setS 63 code

theorem State.unwoundBatt_shape (w : State) (b : Batt) (code : DWord) : w.unwoundBatt b code =
    { b.unwound b.handler with vregs := (w.unwoundBatt b code).vregs, scalars := setAt b.scalars 63 code
                               sPoison := b.sPoison &&& ~~~(BitVec.ofNat 64 (2 ^ 63)) } := by
  have beside := (w.detached_beside (b.unwound b.handler)).1
  unfold State.unwoundBatt
  generalize w.detached (b.unwound b.handler) = c at beside ⊢
  rw [SameButV] at beside
  generalize c.vregs = l at beside
  subst beside
  rfl

theorem State.unwind_batt (found : (s.completeEngines core slot).batt? core slot = some b) :
    ∃ w : State, (s.unwind core slot cause pc).batt? core slot = some (w.unwoundBatt b (b.unwindCode cause pc)) := by
  refine ⟨((s.completeEngines core slot).unwoundAround b).modBatt core slot fun c => c.unwound b.handler, ?_⟩
  have stands : ((s.completeEngines core slot).unwoundAround b).batt? core slot = some b := by
    rw [State.batt?, State.unwoundAround_batts]
    exact found
  rw [State.unwind_eq found]
  refine (State.batt?_writeS63 _ core slot _).trans ?_
  rw [State.batt?_modBatt_same _ core slot (fun c => c.unwound b.handler) fun _ => ⟨rfl, rfl⟩, stands]
  rfl

/-- An unwind changes batts, barriers, the core and the cluster of its batt, and its window. -/
theorem State.unwind_shape (found : (s.completeEngines core slot).batt? core slot = some b) : s.unwind core slot cause pc =
    { s.completeEngines core slot with
        batts := (s.unwind core slot cause pc).batts, felts := (s.unwind core slot cause pc).felts
        launches := (s.unwind core slot cause pc).launches, cores := (s.unwind core slot cause pc).cores
        clusters := (s.unwind core slot cause pc).clusters, windows := (s.unwind core slot cause pc).windows } := by
  rw [State.unwind_eq found, State.unwoundAround_eq]
  rfl

/-- Every batt but the one that unwinds stays as it is. -/
theorem State.unwind_others (found : (s.completeEngines core slot).batt? core slot = some b) {x : Batt}
    (mem : x ∈ (s.completeEngines core slot).batts) (other : ¬(x.core = core ∧ x.slot = slot)) : x ∈ (s.unwind core slot cause pc).batts := by
  have out : (x.core == core && x.slot == slot) = false := by simpa using other
  rw [State.unwind_eq found]
  refine mem_mapIf_of_not (mem_mapIf_of_not ?_ out) out
  rw [State.unwoundAround_batts]
  exact mem

theorem State.unwind_bar (found : (s.completeEngines core slot).batt? core slot = some b) (r : BarRef) :
    (s.unwind core slot cause pc).bar r = ((s.completeEngines core slot).withdrawHeld b).bar r := by
  rw [State.unwind_eq found, State.unwoundAround_eq]
  rfl

theorem State.unwind_core (found : (s.completeEngines core slot).batt? core slot = some b) (k : Nat) :
    (s.unwind core slot cause pc).core k = ((s.completeEngines core slot).unwoundAround b).core k := by
  rw [State.unwind_eq found]
  rfl

theorem State.unwind_cluster (found : (s.completeEngines core slot).batt? core slot = some b) (k : Nat) :
    (s.unwind core slot cause pc).cluster k = ((s.completeEngines core slot).unwoundAround b).cluster k := by
  rw [State.unwind_eq found]
  rfl

theorem State.unwind_window (found : (s.completeEngines core slot).batt? core slot = some b)
    (fixed : b.space < (s.completeEngines core slot).windows.length) (w : Nat) : (s.unwind core slot cause pc).window w =
      if w = b.space then { (s.completeEngines core slot).window w with unwinds := ((s.completeEngines core slot).window w).unwinds + 1 }
      else (s.completeEngines core slot).window w := by
  have windows : (s.unwind core slot cause pc).windows = modAt (s.completeEngines core slot).windows b.space fun w =>
      { w with unwinds := w.unwinds + 1 } := by
    rw [State.unwind_eq found, State.unwoundAround_eq]
    rfl
  rw [State.window, windows]
  split
  next own => rw [own]; exact getD_modAt_self _ _ fixed
  next other => exact getD_modAt_ne _ other

end

/-! ### The statement -/

/-- Settles O27: the words by their bodies, an unwind by what it leaves of each part of the state. -/
theorem trapAndContainmentWords : Obligations.TrapAndContainmentWords := by
  unfold Obligations.TrapAndContainmentWords
  refine ⟨⟨fun f => ?trap, fun f => ?brk⟩, ⟨fun f => ?conto, fun f => ?contc, fun f => ?conts⟩,
    fun s core slot cause pc b found => ?unwind⟩
  case trap => exact wordTraps_of_body (fun _ => rfl) fun _ _ _ => rfl
  case brk => exact wordTraps_of_body (fun _ => rfl) fun _ _ _ => rfl
  case conto =>
    exact ⟨wordDoes_of_body (body := contoBody f) (fun _ => rfl) fun _ _ ⟨room, aligned, low⟩ =>
        (contoBody_aligned room aligned).trans (if_neg (by simpa using low)),
      wordTraps_of_body (body := contoBody f) (fun _ => rfl) fun _ _ full => contoBody_full full,
      wordTraps_of_body (body := contoBody f) (fun _ => rfl) fun _ _ ⟨room, odd⟩ => contoBody_misaligned room odd,
      wordTraps_of_body (body := contoBody f) (fun _ => rfl) fun _ _ ⟨room, aligned, high⟩ =>
        (contoBody_aligned room aligned).trans (if_pos (bne_iff_ne.2 high))⟩
  case contc =>
    exact ⟨wordDoes_of_body (body := contcBody) (fun _ => rfl) fun _ _ opened => if_neg (by simpa [Iss.at] using opened),
      wordTraps_of_body (body := contcBody) (fun _ => rfl) fun _ _ none => if_pos (by simpa [Iss.at] using none)⟩
  case conts => exact wordDoes_of_body (body := contsBody f) (fun _ => rfl) fun _ _ _ => rfl
  case unwind =>
    intro u t d
    obtain ⟨rfl, rfl⟩ := State.batt?_place found
    obtain ⟨w, stands⟩ := State.unwind_batt (cause := cause) (pc := pc) found
    refine ⟨State.completeEngines_idle, State.unwind_shape found, fun x mem other => State.unwind_others found mem other,
      ⟨_, stands, ?batt, fun l short low => ?lanes, fun ordered k r has untagged backed old => ?registers⟩, ?otherCores, ?core, ?otherClusters,
      ?cluster, fun r => ?bar, fun k n bytes i waits => ?held, fun fixed x => State.unwind_window found fixed x⟩
    case batt =>
      rw [State.unwoundBatt_shape]
      rfl
    case lanes =>
      have lanes : (w.unwoundBatt b (b.unwindCode cause pc)).lanes = (b.unwound b.handler).lanes := by rw [State.unwoundBatt_shape]
      rw [Batt.lane, lanes]
      exact b.lane_unwound b.handler short low
    case registers => exact ((w.detached_beside (b.unwound b.handler)).2 k (some r) untagged ⟨ordered, has⟩).2
    case otherCores => exact fun k other => (State.unwind_core found k).trans ((u.unwoundAround_core b).1 k other)
    case core => exact (State.unwind_core found _).trans (u.unwoundAround_core b).2
    case otherClusters => exact fun k other => (State.unwind_cluster found k).trans ((u.unwoundAround_cluster b).1 k other)
    case cluster => exact (State.unwind_cluster found _).trans (u.unwoundAround_cluster b).2
    case bar => exact State.unwind_bar found r ▸ u.bar_withdrawHeld b r
    case held => exact State.unwind_bar found _ ▸ State.not_held_withdrawHeld waits

end Sys2Proof.Machine
end

section
/-! Proofs about publication, promotion, acquires, the relief of a log, fulling and the application of entries
(R238, R245, R247, R249, R253, R254, R257). -/

namespace Sys2Proof.Machine

/-! ### Publication, promotion and acquires (R245, R247, R249, R253) -/

section
variable {s : State} {core : Nat}

theorem publicationGrant_rel {slot id : Nat} {rest : List (Option (Nat × Nat))} {o : Op} {f : RForm}
    (queue : (s.core core).pubQueue = some (slot, id) :: rest)
    (op : (s.modCore core fun c => { c with pubQueue := rest }).opAt core slot id = some o) (rel : o.instr = .rel f) :
    let t := s.modCore core fun c => { c with pubQueue := rest }
    let r := t.releaseAt core (t.battAt core slot).space (f.mf 1 0)
    exec (.publicationGrant core) s = .next ((r.2.modBatt core slot fun b => b.putRel f r.1).endOp core slot id) := by
  intro t r
  show execPublicationGrant core s = _
  unfold execPublicationGrant
  rw [queue]
  dsimp only
  rw [op]
  dsimp only
  rw [rel]

theorem publicationGrant_withdrawn {rest : List (Option (Nat × Nat))} (queue : (s.core core).pubQueue = none :: rest) :
    exec (.publicationGrant core) s = .next (s.modCore core fun c => { c with pubQueue := rest }) := by
  show execPublicationGrant core s = _
  unfold execPublicationGrant
  rw [queue]

theorem earlyPublication_of_mem {entry : Nat} (mem : ∃ e ∈ (s.core core).log, e.pos = entry ∧ e.depth = 0 ∧ e.scope ≤ 1) :
    exec (.earlyPublication core entry) s = .next (s.publish core (entry + 1) 2).2 := by
  refine if_pos (List.any_eq_true.2 ?_)
  obtain ⟨e, he, pos, depth, scope⟩ := mem
  exact ⟨e, he, by simp [pos, depth, scope]⟩

/-- Core masks of an ACQR that has yet to hear from its cores, without the one that answers. -/
def answered (vals : List DWord) (target : Nat) : List DWord :=
  if target < 64 then [vals.getD 0 0 &&& ~~~(BitVec.ofNat 64 (2 ^ target)), vals.getD 1 0]
  else [vals.getD 0 0, vals.getD 1 0 &&& ~~~(BitVec.ofNat 64 (2 ^ (target - 64)))]

theorem getLsbD_clear (w : DWord) {k i : Nat} (h : i < 64) : (w &&& ~~~(BitVec.ofNat 64 (2 ^ k))).getLsbD i = (w.getLsbD i && i != k) := by
  rw [BitVec.getLsbD_and, BitVec.getLsbD_not, BitVec.getLsbD_ofNat, Nat.testBit_two_pow]
  by_cases same : k = i
  · simp [h, same]
  · have other : ¬ i = k := fun e => same e.symm
    simp [h, same, other]

theorem namesCore_answered (vals : List DWord) (target : Nat) {k : Nat} (h : k < 128) :
    namesCore ((answered vals target).getD 0 0) ((answered vals target).getD 1 0) k =
      (namesCore (vals.getD 0 0) (vals.getD 1 0) k && k != target) := by
  have apart : (k - 64 != target - 64) = (k != target) ∨ ¬(64 ≤ k ∧ 64 ≤ target) := by
    by_cases both : 64 ≤ k ∧ 64 ≤ target
    · exact .inl (by rw [bne, bne, Bool.beq_eq_decide_eq, Bool.beq_eq_decide_eq]; congr 2; exact propext (by omega))
    · exact .inr both
  unfold answered namesCore
  by_cases low : target < 64 <;> by_cases klow : k < 64
  · rw [if_pos low, if_pos klow, if_pos klow]
    exact getLsbD_clear _ klow
  · have other : (k != target) = true := by simp; omega
    simp [low, klow, other]
  · have other : (k != target) = true := by simp; omega
    simp [low, klow, other]
  · have inRange : k - 64 < 64 := by omega
    rw [if_neg low, if_neg klow, if_neg klow]
    rw [show ([vals.getD 0 0, vals.getD 1 0 &&& ~~~(BitVec.ofNat 64 (2 ^ (target - 64)))] : List DWord).getD 1 0 =
      vals.getD 1 0 &&& ~~~(BitVec.ofNat 64 (2 ^ (target - 64))) from rfl, getLsbD_clear _ inRange,
      apart.resolve_right (by omega)]

theorem promotionRequest_answers {slot target : Nat} {b : Batt} {o : Op} {f : RForm} (stands : s.batt? core slot = some b) (ops : b.ops = [o])
    (acqr : o.instr = .acqr f) (named : namesCore (o.vals.getD 0 0) (o.vals.getD 1 0) target = true) :
    exec (.promotionRequest core slot target) s =
      .next ((s.promote target b.space).modOp core slot o.id fun p => { p with vals := answered o.vals target }) := by
  show execPromotionRequest core slot target s = _
  unfold execPromotionRequest
  rw [stands]
  dsimp only
  rw [ops, List.find?_cons, acqr, named]
  rfl

theorem acquireWaitEnd_acq {slot : Nat} {b : Batt} {o : Op} {f : RForm} (stands : s.batt? core slot = some b) (ops : b.ops = [o])
    (acq : o.instr = .acq f) :
    exec (.acquireWaitEnd core slot) s = .next ((s.acquireTo core (f.mf 1 0) o.num).endOp core slot o.id) := by
  show execAcquireWaitEnd core slot s = _
  unfold execAcquireWaitEnd
  rw [stands]
  dsimp only
  rw [ops, List.find?_cons, acq]
  dsimp only
  rw [acq]

theorem acquireWaitEnd_acqr {slot : Nat} {b : Batt} {o : Op} {f : RForm} (stands : s.batt? core slot = some b) (ops : b.ops = [o])
    (acqr : o.instr = .acqr f) (all : ∀ v ∈ o.vals, v = 0) :
    exec (.acquireWaitEnd core slot) s = .next ((s.acquireAt core 2).endOp core slot o.id) := by
  have heard : (o.vals.all fun v => v == 0) = true := by simpa using all
  show execAcquireWaitEnd core slot s = _
  unfold execAcquireWaitEnd
  rw [stands]
  dsimp only
  rw [ops, List.find?_cons, acqr]
  dsimp only
  rw [heard]
  dsimp only
  rw [acqr]

/-! ### The relief of a log (R257) -/

theorem State.logStalls_of (h : 768 ≤ (s.core core).log.length ∨ ∃ b ∈ s.batts, b.core = core ∧ s.storeStalls b = true) :
    s.logStalls core = true := by
  simpa [State.logStalls] using h

theorem logFullRelease_stalled (slot : Nat) (stalls : s.logStalls core = true) :
    exec (.logFullRelease core slot) s = .next (((s.relievePinned core).fullEntries core fun _ => true).resolve core slot) :=
  congrArg (fun t : State => Host.Outcome.next (t.resolve core slot)) (if_pos stalls)

theorem logFullRelease_room (slot : Nat) (room : s.logStalls core = false) :
    exec (.logFullRelease core slot) s = .next ((s.fullEntries core fun _ => true).resolve core slot) :=
  congrArg (fun t : State => Host.Outcome.next (t.resolve core slot)) (if_neg (by simp [room]))

theorem logPinnedRelief_stalled (stalls : s.logStalls core = true) : exec (.logPinnedRelief core) s = .next (s.relievePinned core) :=
  congrArg Host.Outcome.next (if_pos stalls)

theorem State.relievePinned_pinned {e : LogEntry} {rest : List LogEntry} (log : (s.core core).log = e :: rest)
    (pinned : ∀ x ∈ (s.core core).log, x.depth ≠ 0) : s.relievePinned core = s.harden core e.owner := by
  have all : ((s.core core).log.all fun e => e.depth != 0) = true := by simpa using pinned
  rw [State.relievePinned, if_pos all, log]
  rfl

theorem State.relievePinned_free (free : ∃ x ∈ (s.core core).log, x.depth = 0) : s.relievePinned core = s :=
  if_neg (by simpa using free)

end

/-! ### The order of numbers (R245) -/

/-- Of two outstanding numbers, the one granted longer ago precedes the other. -/
theorem numberAge_lt_iff_serialLt {a b g : Nat} (ha : a < 2 ^ 48) (hb : b < 2 ^ 48) (ageA : numberAge g a < 2 ^ 47) (ageB : numberAge g b < 2 ^ 47) :
    numberAge g b < numberAge g a ↔ serialLt a b = true := by
  unfold numberAge at *
  simp only [serialLt, Bool.and_eq_true, decide_eq_true_eq]
  omega

/-! ### Fulling (R238, R253) -/

/-- The first of some entries that no other one of them comes before. -/
def firstEntry (granted : Nat) (acc : Option LogEntry) (l : List LogEntry) : Option LogEntry :=
  l.foldl (fun acc e => match acc with | none => some e | some x => if e.before granted x then some e else some x) acc

/-- Entries that a core has yet to take. -/
def CoreSt.untaken (c : CoreSt) : List LogEntry := c.log.filter fun e => e.published && e.depth == 0 && !e.taken

theorem CoreSt.mem_untaken {c : CoreSt} {e : LogEntry} :
    e ∈ c.untaken ↔ e ∈ c.log ∧ e.published = true ∧ e.depth = 0 ∧ e.taken = false := by
  simp [CoreSt.untaken, and_assoc]

theorem CoreSt.nextTaken_eq (c : CoreSt) (granted : Nat) : c.nextTaken granted = firstEntry granted none c.untaken := rfl

theorem LogEntry.before_eq_false_iff {granted : Nat} {a b : LogEntry} : a.before granted b = false ↔
    ¬ numberAge granted b.num < numberAge granted a.num ∧ (numberAge granted a.num = numberAge granted b.num → b.pos ≤ a.pos) := by
  rw [Bool.eq_false_iff, ne_eq, LogEntry.before_iff]
  omega

theorem LogEntry.not_before_trans {granted : Nat} {a b c : LogEntry} (ab : a.before granted b = false) (bc : b.before granted c = false) :
    a.before granted c = false := by
  rw [LogEntry.before_eq_false_iff] at *
  omega

theorem LogEntry.not_before_of_before {granted : Nat} {a b : LogEntry} (h : a.before granted b = true) : b.before granted a = false := by
  rw [LogEntry.before_eq_false_iff]
  rw [LogEntry.before_iff] at h
  omega

theorem LogEntry.not_before_self (granted : Nat) (a : LogEntry) : a.before granted a = false := by
  rw [LogEntry.before_eq_false_iff]
  omega

/-- It is one of the entries, or the one to begin with, and nothing comes before it. -/
theorem firstEntry_spec {granted : Nat} (l : List LogEntry) (x : LogEntry) : ∃ e, firstEntry granted (some x) l = some e ∧ (e = x ∨ e ∈ l) ∧
    x.before granted e = false ∧ ∀ y ∈ l, y.before granted e = false := by
  induction l generalizing x with
  | nil => exact ⟨x, rfl, .inl rfl, LogEntry.not_before_self _ _, fun _ h => absurd h List.not_mem_nil⟩
  | cons z t ih =>
    unfold firstEntry at ih ⊢
    rw [List.foldl_cons]
    dsimp only
    split
    next earlier =>
      obtain ⟨e, found, mem, first, rest⟩ := ih z
      have passed : x.before granted e = false := LogEntry.not_before_trans (LogEntry.not_before_of_before earlier) first
      refine ⟨e, found, .inr ?_, passed, List.forall_mem_cons.2 ⟨first, rest⟩⟩
      rcases mem with rfl | mem
      · exact List.mem_cons_self
      · exact List.mem_cons_of_mem _ mem
    next later =>
      obtain ⟨e, found, mem, first, rest⟩ := ih x
      refine ⟨e, found, mem.imp_right (List.mem_cons_of_mem _), first, List.forall_mem_cons.2 ⟨?_, rest⟩⟩
      exact LogEntry.not_before_trans (Bool.eq_false_iff.2 later) first

theorem firstEntry_cons (granted : Nat) (x : LogEntry) (l : List LogEntry) : firstEntry granted none (x :: l) = firstEntry granted (some x) l := rfl

theorem CoreSt.nextTaken_eq_none_iff {c : CoreSt} {granted : Nat} : c.nextTaken granted = none ↔ c.untaken = [] := by
  rw [CoreSt.nextTaken_eq]
  cases c.untaken with
  | nil => exact iff_of_true rfl rfl
  | cons x l =>
    obtain ⟨e, found, -⟩ := firstEntry_spec (granted := granted) l x
    rw [firstEntry_cons, found]
    exact iff_of_false nofun nofun

theorem CoreSt.nextTaken_spec {c : CoreSt} {granted : Nat} {e : LogEntry} (next : c.nextTaken granted = some e) :
    e ∈ c.untaken ∧ ∀ x ∈ c.untaken, x.before granted e = false := by
  rw [CoreSt.nextTaken_eq] at next
  cases untaken : c.untaken with
  | nil => rw [untaken] at next; cases next
  | cons x l =>
    obtain ⟨e', found, mem, first, rest⟩ := firstEntry_spec (granted := granted) l x
    rw [untaken, firstEntry_cons, found] at next
    cases next
    exact ⟨List.mem_cons.2 mem, List.forall_mem_cons.2 ⟨first, rest⟩⟩

/-- A core after it has taken an entry. -/
def CoreSt.take (c : CoreSt) (e : LogEntry) : CoreSt :=
  { c with l1 := mapIf (fun x => x.sector == e.sector && !x.gone) (fun x => x.own e) c.l1
           log := mapIf (fun x => x.pos == e.pos) (fun x => { x with taken := true }) c.log }

theorem CoreSt.take_log (c : CoreSt) (e : LogEntry) :
    (c.take e).log = c.log.map fun x => if x.pos = e.pos then { x with taken := true } else x :=
  List.map_congr_left fun _ _ => if_congr beq_iff_eq rfl rfl

theorem CoreSt.take_l1 (c : CoreSt) (e : LogEntry) : (c.take e).l1 = c.l1.map fun x => if x.sector = e.sector ∧ x.gone = false
    then { x.merge e.mask e.data e.pois with replays := x.replays.map fun r => (r.1, r.2.1 &&& ~~~e.mask, r.2.2) } else x :=
  List.map_congr_left fun x _ => if_congr (by simp) rfl rfl

theorem fulling_takes {s : State} {core : Nat} {e : LogEntry} (next : (s.core core).nextTaken s.dev.granted = some e) :
    exec (.fulling core) s = .next (s.modCore core fun c => c.take e) := by
  show execFulling core s = _
  unfold execFulling
  rw [next]
  rfl

/-! ### Application (R238, R253, R254) -/

theorem State.publishedOrder_before (s : State) : s.publishedOrder.Pairwise fun x y => y.2.before s.dev.granted x.2 = false := by
  refine (pairwise_sortBy (lt := fun x y : Nat × LogEntry => x.2.before s.dev.granted y.2) (fun a b less => LogEntry.not_before_of_before less)
    (fun a b c ab bc => ?_) _)
  rw [LogEntry.before_iff] at ab bc ⊢
  omega

section
variable {s : State} {core entry : Nat} {e : LogEntry}
  (found : ((s.core core).log.find? fun x => x.pos == entry && x.taken && x.depth == 0) = some e)
include found

theorem entryApply_first (first : (s.publishedOrder.find? fun x => x.2.sector == e.sector) = some (core, e)) :
    exec (.entryApply core entry) s = .next (s.applyEntry core e) := by
  have pos : e.pos = entry := by
    have matched := List.find?_some found
    simp only [Bool.and_eq_true, beq_iff_eq] at matched
    exact matched.1.1
  show execEntryApply core entry s = _
  unfold execEntryApply
  rw [found]
  dsimp only
  rw [first]
  exact if_pos (by simp [pos])

theorem entryApply_later {x : Nat × LogEntry} (first : (s.publishedOrder.find? fun x => x.2.sector == e.sector) = some x)
    (other : x.1 ≠ core ∨ x.2.pos ≠ entry) : exec (.entryApply core entry) s = .next s := by
  show execEntryApply core entry s = _
  unfold execEntryApply
  rw [found]
  dsimp only
  rw [first]
  exact if_neg (by simpa [or_iff_not_imp_left] using other)

end

theorem State.applyEntry_log (s : State) (core : Nat) (e : LogEntry) (c : Nat) :
    ((s.applyEntry core e).core c).log = (s.core c).log.filter fun x => !(core == c && e.pos == x.pos) := by
  refine ((State.Applied.refl s).applyEntry.logs c).trans (List.filter_congr fun x _ => ?_)
  simp

theorem State.applyEntry_log_own (s : State) (core : Nat) (e : LogEntry) :
    ((s.applyEntry core e).core core).log = (s.core core).log.filter fun x => x.pos != e.pos :=
  (s.applyEntry_log core e core).trans (List.filter_congr fun x _ => by simp [bne, Bool.beq_comm])

theorem State.applyEntry_log_other (s : State) {core c : Nat} (e : LogEntry) (other : c ≠ core) :
    ((s.applyEntry core e).core c).log = (s.core c).log :=
  (s.applyEntry_log core e c).trans (List.filter_eq_self.2 fun x _ => by simp [Ne.symm other])

/-- Settles O49: each event by its own lemma, the order of application from that of the numbers. -/
theorem publicationAndFullingSteps : Obligations.PublicationAndFullingSteps := by
  unfold Obligations.PublicationAndFullingSteps
  intro waits lower
  refine ⟨⟨fun s core slot id rest o f queue => publicationGrant_rel queue, fun s core rest => publicationGrant_withdrawn,
      fun s core entry => earlyPublication_of_mem, fun s core slot target b o f stands ops acqr named => ?promotion,
      fun s core slot b o f stands ops => ⟨acquireWaitEnd_acq stands ops, acquireWaitEnd_acqr stands ops⟩, fun s core => State.logStalls_of,
      fun s core slot => logFullRelease_stalled slot, fun s core slot => logFullRelease_room slot, fun s core e rest log stalls => ?relief⟩,
    fun a b ha hb g => numberAge_lt_iff_serialLt ha hb, fun s core => ?none, fun s core e fixed next => ?fulling,
    fun s core entry e => entryApply_first, fun s core e => ⟨fun c => s.applyEntry_log_other e, s.applyEntry_log_own core e⟩,
    fun s => ⟨fun c e => State.mem_publishedOrder, s.publishedOrder_before.imp fun {x y} h =>
      ⟨(LogEntry.before_eq_false_iff.1 h).1, fun same => (LogEntry.before_eq_false_iff.1 h).2 same.symm⟩⟩,
    fun s core entry e x found first other => entryApply_later found first other⟩
  case promotion =>
    exact ⟨answered o.vals target, promotionRequest_answers stands ops acqr named, fun k hk => namesCore_answered o.vals target hk⟩
  case relief =>
    rw [logPinnedRelief_stalled stalls]
    exact ⟨fun pinned => by rw [State.relievePinned_pinned log pinned], fun free => by rw [State.relievePinned_free free]⟩
  case none =>
    simp only [CoreSt.nextTaken_eq_none_iff, List.eq_nil_iff_forall_not_mem, CoreSt.mem_untaken, waits]
    grind
  case fulling =>
    obtain ⟨mem, first⟩ := CoreSt.nextTaken_spec next
    obtain ⟨logged, published, depth, untaken⟩ := CoreSt.mem_untaken.1 mem
    refine ⟨_, fulling_takes next, logged, ⟨published, depth⟩, untaken, fun x hx ⟨pub, dep⟩ still => ?_, rfl, fun k other => ?_, ?_, ?_⟩
    · exact LogEntry.before_eq_false_iff.1 (first x (CoreSt.mem_untaken.2 ⟨hx, pub, dep, still⟩))
    · exact getD_modAt_ne _ other
    · rw [State.core_modCore _ fixed, CoreSt.take_log]
    · rw [State.core_modCore _ fixed, CoreSt.take_l1]

end Sys2Proof.Machine
end

section
/-! Proofs about the append of a store to its core's log (R238, R239, R243, R244). -/

namespace Sys2Proof.Machine

/-! ### The entry that supplies a byte (R239) -/

/-- An entry that supplies a byte to the loads of the batt in a slot. -/
def LogEntry.supplies (e : LogEntry) (slot : Nat) (x : Loc) : Bool :=
  e.sector == x.sector && e.mask.getLsbD (x.pa % 64) && (e.depth == 0 || e.owner == slot)

/-- The byte that a log supplies to the loads of the batt in a slot. -/
def suppliedByte (log : List LogEntry) (slot : Nat) (x : Loc) : Option Byte := (logSupply log slot x).map fun e => e.data.getD (x.pa % 64) 0

theorem LogEntry.supplies_own {e : LogEntry} {slot : Nat} {x : Loc} (own : e.owner = slot) :
    e.supplies slot x = true ↔ x.sector = e.sector ∧ e.mask.getLsbD (x.pa % 64) = true := by
  simp [LogEntry.supplies, own, @eq_comm _ x.sector]

/-- Behind the last entry of a sector nothing supplies a byte of the sector. -/
theorem suppliedByte_last {older younger : List LogEntry} {e : LogEntry} {slot : Nat} {x : Loc}
    (apart : ∀ z ∈ younger, z.supplies slot x = false) : suppliedByte (older ++ e :: younger) slot x =
      if e.supplies slot x then some (e.data.getD (x.pa % 64) 0) else suppliedByte older slot x := by
  have none : younger.filter (fun z => z.supplies slot x) = [] := List.filter_eq_nil_iff.2 fun z hz => by simp [apart z hz]
  show (((older ++ e :: younger).filter fun z => z.supplies slot x).getLast?).map _ = _
  rw [List.filter_append, List.filter_cons, none]
  split
  · rw [List.getLast?_append_of_ne_nil _ (List.cons_ne_nil _ _)]
    rfl
  · rw [List.append_nil]
    rfl

/-- Elsewhere in the log, an entry that supplies no byte at a place does not matter there. -/
theorem suppliedByte_skip {older younger : List LogEntry} {e : LogEntry} {slot : Nat} {x : Loc} (out : e.supplies slot x = false) :
    suppliedByte (older ++ e :: younger) slot x = suppliedByte (older ++ younger) slot x := by
  show (((older ++ e :: younger).filter fun z => z.supplies slot x).getLast?).map _ =
    (((older ++ younger).filter fun z => z.supplies slot x).getLast?).map _
  rw [List.filter_append, List.filter_append, List.filter_cons_of_neg (by simp [out])]

/-! ### One part of a store (R243, R244) -/

/-- The bytes of an entry with those of a part that joins it. -/
def LogEntry.join (w : SectorWrite) (e : LogEntry) : LogEntry :=
  { e with mask := e.mask ||| w.mask
           data := (List.range 64).map fun i => if w.mask.getLsbD i then w.data.getD i 0 else e.data.getD i 0 }

theorem LogEntry.join_data (w : SectorWrite) (e : LogEntry) (a : Nat) : (e.join w).data.getD (a % 64) 0 =
    if w.mask.getLsbD (a % 64) then w.data.getD (a % 64) 0 else e.data.getD (a % 64) 0 := by
  have small : a % 64 < 64 := Nat.mod_lt _ (by decide)
  simp [LogEntry.join, List.getD_eq_getElem?_getD, small]

theorem LogEntry.join_mask (w : SectorWrite) (e : LogEntry) (k : Nat) : (e.join w).mask.getLsbD k = (e.mask.getLsbD k || w.mask.getLsbD k) :=
  BitVec.getLsbD_or

/-- What a part coalesces into is its owner's, and the last entry of its sector. -/
theorem coalesceTarget_spec {log : List LogEntry} {w : SectorWrite} {owner space depth : Nat} {pois : Bool} {e : LogEntry}
    (target : coalesceTarget log w owner space depth pois = some e) : e.owner = owner ∧ e.sector = w.loc.sector ∧
      ∃ older younger, log = older ++ e :: younger ∧ ∀ z ∈ younger, z.sector ≠ w.loc.sector := by
  unfold coalesceTarget at target
  split at target
  next z last =>
    rw [Option.ite_none_right_eq_some] at target
    obtain ⟨fits, found⟩ := target
    cases found
    simp only [Bool.and_eq_true, beq_iff_eq] at fits
    obtain ⟨older, split⟩ := List.getLast?_eq_some_iff.1 last
    obtain ⟨front, back, rfl, -, ends⟩ := List.filter_eq_append_iff.1 split
    obtain ⟨mid, younger, rfl, -, same, rest⟩ := List.filter_eq_cons_iff.1 ends
    refine ⟨by simp [fits], by simpa using same, front ++ mid, younger, by simp, fun x hx => ?_⟩
    simpa using List.filter_eq_nil_iff.1 rest x hx
  next => cases target

/-- Positions of the entries tell them apart. -/
theorem mapIf_pos {older younger : List LogEntry} {e : LogEntry} {f : LogEntry → LogEntry} (keys : ((older ++ e :: younger).map (·.pos)).Nodup) :
    mapIf (fun x => x.pos == e.pos) f (older ++ e :: younger) = older ++ f e :: younger := by
  rw [List.map_append, List.map_cons, List.nodup_middle, List.nodup_cons, List.mem_append, not_or] at keys
  obtain ⟨⟨before, after⟩, -⟩ := keys
  have stays {l : List LogEntry} (out : e.pos ∉ l.map (·.pos)) : mapIf (fun x => x.pos == e.pos) f l = l := by
    refine (List.map_congr_left fun x hx => ?_).trans l.map_id
    exact if_neg fun same => out (List.mem_map.2 ⟨x, hx, beq_iff_eq.1 same⟩)
  show List.map _ _ = _
  rw [List.map_append, List.map_cons, if_pos (beq_self_eq_true _)]
  exact congrArg₂ _ (stays before) (congrArg _ (stays after))

/-- A part holds a byte of a location. -/
def SectorWrite.holds (w : SectorWrite) (x : Loc) : Bool := x.sector == w.loc.sector && w.mask.getLsbD (x.pa % 64)

theorem suppliedByte_appendOne {c : CoreSt} (w : SectorWrite) (owner space depth : Nat) (pois decline : Bool) (x : Loc)
    (keys : (c.log.map (·.pos)).Nodup) : suppliedByte (appendOne owner space depth pois decline c w).log owner x =
      if w.holds x then some (w.data.getD (x.pa % 64) 0) else suppliedByte c.log owner x := by
  unfold appendOne
  split
  next e target =>
    have target : coalesceTarget c.log w owner space depth pois = some e := by
      split at target
      · cases target
      · exact target
    obtain ⟨own, sector, older, younger, log, last⟩ := coalesceTarget_spec target
    rw [log] at keys ⊢
    refine (congrArg (suppliedByte · owner x) (mapIf_pos (f := LogEntry.join w) keys)).trans ?_
    by_cases here : x.sector = w.loc.sector
    · have apart : ∀ z ∈ younger, z.supplies owner x = false := fun z hz => by simp [LogEntry.supplies, here, last z hz]
      rw [suppliedByte_last apart, suppliedByte_last apart, LogEntry.join_data]
      simp only [LogEntry.supplies_own own, LogEntry.supplies_own (e := e.join w) own, LogEntry.join_mask, SectorWrite.holds, here, sector,
        show (e.join w).sector = e.sector from rfl, beq_self_eq_true, Bool.true_and, true_and]
      cases w.mask.getLsbD (x.pa % 64) <;> simp
    · have out (z : LogEntry) (same : z.sector = w.loc.sector) : z.supplies owner x = false := by
        simp [LogEntry.supplies, same, Ne.symm here]
      rw [suppliedByte_skip (out (e.join w) sector), suppliedByte_skip (out e sector), if_neg (by simp [SectorWrite.holds, here])]
  next =>
    refine (suppliedByte_last fun _ none => absurd none List.not_mem_nil).trans ?_
    simp [LogEntry.supplies, SectorWrite.holds, Bool.beq_comm]

/-- Settles O32: the part is, or has joined, the last entry of its sector. -/
theorem appendedBytesAreSupplied : Obligations.AppendedBytesAreSupplied := by
  unfold Obligations.AppendedBytesAreSupplied
  intro c w owner space depth pois decline x keys
  refine (suppliedByte_appendOne w owner space depth pois decline x keys).trans (if_congr ?_ rfl rfl)
  simp [SectorWrite.holds]

/-! ### The parts of a store (R243) -/

/-- The byte that the parts of a store hold of a location. -/
def partsByte (ws : List SectorWrite) (x : Loc) : Option Byte := (ws.find? fun w => w.holds x).map fun w => w.data.getD (x.pa % 64) 0

theorem partsByte_cons (w : SectorWrite) (ws : List SectorWrite) (x : Loc) :
    partsByte (w :: ws) x = if w.holds x then some (w.data.getD (x.pa % 64) 0) else partsByte ws x := by
  unfold partsByte
  rw [List.find?_cons]
  cases w.holds x <;> rfl

/-- Parts in ascending sector order, with room for each byte of their sectors. -/
def PartsOk (ws : List SectorWrite) : Prop := (ws.Pairwise fun w v => w.loc.sector < v.loc.sector) ∧ ∀ w ∈ ws, w.data.length = 64

theorem PartsOk.cons {w : SectorWrite} {ws : List SectorWrite} :
    PartsOk (w :: ws) ↔ ((∀ v ∈ ws, w.loc.sector < v.loc.sector) ∧ w.data.length = 64) ∧ PartsOk ws := by
  unfold PartsOk
  rw [List.pairwise_cons, List.forall_mem_cons]
  tauto

theorem partsByte_beyond {ws : List SectorWrite} {x : Loc} (beyond : ∀ w ∈ ws, x.sector < w.loc.sector) : partsByte ws x = none := by
  have none : (ws.find? fun w => w.holds x) = none :=
    List.find?_eq_none.2 fun w hw => by simp [SectorWrite.holds, (beyond w hw).ne]
  rw [partsByte, none]
  rfl

theorem suppliedByte_foldl_appendOne {ws : List SectorWrite} (owner space depth : Nat) (pois decline : Bool) (x : Loc) (parts : PartsOk ws)
    {c : CoreSt} (ok : c.LogOk) :
    suppliedByte (ws.foldl (appendOne owner space depth pois decline) c).log owner x = (partsByte ws x).or (suppliedByte c.log owner x) := by
  induction ws generalizing c with
  | nil => rfl
  | cons w ws ih =>
    obtain ⟨⟨beyond, -⟩, rest⟩ := PartsOk.cons.1 parts
    have keys : (c.log.map (·.pos)).Nodup := ok.1.imp Nat.ne_of_lt
    rw [List.foldl_cons, ih rest ok.appendOne, suppliedByte_appendOne w _ _ _ _ _ _ keys, partsByte_cons]
    split
    next held =>
      have sector : x.sector = w.loc.sector := by simp only [SectorWrite.holds, Bool.and_eq_true, beq_iff_eq] at held; exact held.1
      rw [partsByte_beyond fun v hv => by rw [sector]; exact beyond v hv]
      rfl
    next => rfl

/-- The bit of a byte in the mask of its sector. -/
theorem getLsbD_byteBit (a b : Nat) : (BitVec.ofNat 64 (2 ^ (a % 64))).getLsbD (b % 64) = (a % 64 == b % 64) := by
  have small : b % 64 < 64 := Nat.mod_lt _ (by decide)
  rw [BitVec.getLsbD_ofNat, Nat.testBit_two_pow]
  simp [small, Bool.beq_eq_decide_eq]

/-- A part of one byte. -/
def bytePart (x : Loc) (b : Byte) : SectorWrite :=
  { loc := x, mask := BitVec.ofNat 64 (2 ^ (x.pa % 64)), data := (List.replicate 64 (0 : Byte)).set (x.pa % 64) b }

/-- A part with one more byte. -/
def SectorWrite.put (w : SectorWrite) (x : Loc) (b : Byte) : SectorWrite :=
  { w with mask := w.mask ||| BitVec.ofNat 64 (2 ^ (x.pa % 64)), data := w.data.set (x.pa % 64) b }

theorem addByte_cons (w : SectorWrite) (ws : List SectorWrite) (x : Loc) (b : Byte) : addByte (w :: ws) x b =
    if w.loc.sector = x.sector then w.put x b :: ws
    else if x.sector < w.loc.sector then bytePart x b :: w :: ws else w :: addByte ws x b := rfl

theorem mem_addByte_sector {ws : List SectorWrite} {x : Loc} {b : Byte} {v : SectorWrite} (mem : v ∈ addByte ws x b) :
    v.loc.sector = x.sector ∨ ∃ w ∈ ws, w.loc.sector = v.loc.sector := by
  induction ws with
  | nil => exact .inl (by rw [List.mem_singleton.1 mem])
  | cons w ws ih =>
    rw [addByte_cons] at mem
    split at mem
    · rcases List.mem_cons.1 mem with rfl | mem
      · exact .inr ⟨w, List.mem_cons_self, rfl⟩
      · exact .inr ⟨v, List.mem_cons_of_mem _ mem, rfl⟩
    · split at mem
      · rcases List.mem_cons.1 mem with rfl | mem
        · exact .inl rfl
        · exact .inr ⟨v, mem, rfl⟩
      · rcases List.mem_cons.1 mem with rfl | mem
        · exact .inr ⟨v, List.mem_cons_self, rfl⟩
        · exact (ih mem).imp_right fun ⟨w, hw, same⟩ => ⟨w, List.mem_cons_of_mem _ hw, same⟩

theorem PartsOk.addByte {ws : List SectorWrite} (ok : PartsOk ws) (x : Loc) (b : Byte) : PartsOk (addByte ws x b) := by
  induction ws with
  | nil => exact PartsOk.cons.2 ⟨⟨nofun, by simp⟩, ok⟩
  | cons w ws ih =>
    obtain ⟨⟨beyond, long⟩, rest⟩ := PartsOk.cons.1 ok
    rw [addByte_cons]
    split
    next => exact PartsOk.cons.2 ⟨⟨beyond, by simpa [SectorWrite.put] using long⟩, rest⟩
    next =>
      split
      next less =>
        refine PartsOk.cons.2 ⟨⟨List.forall_mem_cons.2 ⟨less, fun v hv => less.trans (beyond v hv)⟩, by simp [bytePart]⟩, ok⟩
      next =>
        refine PartsOk.cons.2 ⟨⟨fun v hv => ?_, long⟩, ih rest⟩
        rcases mem_addByte_sector hv with same | ⟨u, hu, same⟩
        · omega
        · rw [← same]
          exact beyond u hu

/-- A byte stands at a location. -/
def Loc.same (x y : Loc) : Bool := x.sector == y.sector && x.pa % 64 == y.pa % 64

theorem bytePart_holds (x y : Loc) (b : Byte) : (bytePart x b).holds y = x.same y := by
  rw [SectorWrite.holds, bytePart, getLsbD_byteBit, Loc.same, Bool.beq_comm]

theorem bytePart_byte {x y : Loc} {b : Byte} (here : x.same y = true) : (bytePart x b).data.getD (y.pa % 64) 0 = b := by
  have place : x.pa % 64 = y.pa % 64 := by simp [Loc.same] at here; exact here.2
  have small : y.pa % 64 < 64 := Nat.mod_lt _ (by decide)
  simp [bytePart, place, List.getD_eq_getElem?_getD, small]

theorem SectorWrite.put_holds {w : SectorWrite} {x : Loc} (y : Loc) (b : Byte) (sector : w.loc.sector = x.sector) :
    (w.put x b).holds y = (x.same y || w.holds y) := by
  simp only [SectorWrite.holds, SectorWrite.put, Loc.same, BitVec.getLsbD_or, getLsbD_byteBit, sector, @Bool.beq_comm _ _ _ _ y.sector]
  grind

theorem SectorWrite.put_byte {w : SectorWrite} {x y : Loc} {b : Byte} (long : w.data.length = 64) (sector : x.sector = y.sector) :
    (w.put x b).data.getD (y.pa % 64) 0 = if x.same y then b else w.data.getD (y.pa % 64) 0 := by
  have small : y.pa % 64 < 64 := Nat.mod_lt _ (by decide)
  by_cases place : x.pa % 64 = y.pa % 64 <;>
    simp [SectorWrite.put, Loc.same, sector, place, List.getD_eq_getElem?_getD, long, small]

theorem partsByte_addByte {ws : List SectorWrite} (ok : PartsOk ws) (x : Loc) (b : Byte) (y : Loc) :
    partsByte (addByte ws x b) y = if x.same y then some b else partsByte ws y := by
  induction ws with
  | nil =>
    refine (partsByte_cons (bytePart x b) [] y).trans ?_
    rw [bytePart_holds]
    exact ite_congr rfl (fun here => by rw [bytePart_byte here]) fun _ => rfl
  | cons w ws ih =>
    obtain ⟨⟨beyond, long⟩, rest⟩ := PartsOk.cons.1 ok
    rw [addByte_cons]
    split
    next sector =>
      rw [partsByte_cons, partsByte_cons, SectorWrite.put_holds _ _ sector]
      cases here : x.same y
      · cases held : w.holds y
        · rfl
        · have same : x.sector = y.sector := by simp [SectorWrite.holds] at held; omega
          rw [SectorWrite.put_byte long same, here]
          rfl
      · have same : x.sector = y.sector := by simp [Loc.same] at here; exact here.1
        rw [SectorWrite.put_byte long same, here]
        rfl
    next =>
      split
      next =>
        rw [partsByte_cons, bytePart_holds]
        exact ite_congr rfl (fun here => by rw [bytePart_byte here]) fun _ => rfl
      next sector _ =>
        rw [partsByte_cons, partsByte_cons, ih rest]
        cases here : x.same y
        · rfl
        · have out : w.holds y = false := by simp [Loc.same] at here; simp [SectorWrite.holds]; omega
          simp [out]

theorem sectorWrites_concat (bytes : List (Loc × Byte)) (p : Loc × Byte) :
    sectorWrites (bytes ++ [p]) = addByte (sectorWrites bytes) p.1 p.2 := List.foldl_concat ..

theorem sectorWrites_partsOk (bytes : List (Loc × Byte)) : PartsOk (sectorWrites bytes) :=
  List.foldlRecOn bytes _ ⟨.nil, nofun⟩ fun _ ok p _ => ok.addByte p.1 p.2

/-- The last byte written to a location stands. -/
theorem partsByte_sectorWrites (bytes : List (Loc × Byte)) (y : Loc) :
    partsByte (sectorWrites bytes) y = (bytes.reverse.find? fun p => p.1.same y).map (·.2) := by
  induction bytes using List.reverseRecOn with
  | nil => rfl
  | append_singleton bytes p ih =>
    rw [sectorWrites_concat, partsByte_addByte (sectorWrites_partsOk bytes), ih, List.reverse_concat, List.find?_cons]
    cases p.1.same y <;> rfl

/-! ### The append of a store (R243, R257) -/

theorem State.makeRoom_room {s : State} {core slot space : Nat} {ws : List SectorWrite} {pois : Bool} {op : Option Nat}
    (room : logRoom (s.core core) ws slot space (s.depthFor core slot op) pois s.choice.noCoalesce = true) (fuel : Nat) :
    State.makeRoom core slot space op ws pois fuel s = s := by
  cases fuel with
  | zero => rfl
  | succ fuel => rw [State.makeRoom, if_pos room]

/-- The bytes of a store that change something (R421), as its parts. -/
def partsOf (bytes : List (Loc × Byte × Bool)) : List SectorWrite :=
  sectorWrites ((bytes.filter fun p => !p.1.quar).map fun p => (p.1, p.2.1))

theorem State.appendBytes_room {s : State} {core slot space : Nat} {bytes : List (Loc × Byte × Bool)}
    (room : logRoom (s.core core) (partsOf bytes) slot space (s.battAt core slot).pinDepth false s.choice.noCoalesce = true) :
    s.appendBytes core slot space none bytes = s.append core slot space (s.battAt core slot).pinDepth false (partsOf bytes) :=
  congrArg (fun t : State => t.append core slot space (t.depthFor core slot none) false (partsOf bytes))
    (State.makeRoom_room (op := none) room 200)

theorem partsByte_partsOf (bytes : List (Loc × Byte × Bool)) (y : Loc) : partsByte (partsOf bytes) y =
    (bytes.reverse.find? fun p => !p.1.quar && p.1.sector == y.sector && p.1.pa % 64 == y.pa % 64).map (·.2.1) := by
  rw [partsOf, partsByte_sectorWrites, ← List.map_reverse, List.find?_map, ← List.filter_reverse, List.find?_filter, Option.map_map]
  refine congrArg (Option.map _) (List.find?_congr fun p _ => ?_)
  simp [Loc.same, Bool.and_assoc, Bool.beq_eq_decide_eq]

/-! ### What a store leaves of the logs after its append -/

/-- Every core's log is as it was. -/
def SameLogs (s t : State) : Prop := ∀ c, (t.core c).log = (s.core c).log

theorem SameLogs.refl (s : State) : SameLogs s s := fun _ => rfl

theorem SameLogs.trans {s t u : State} (h : SameLogs s t) (k : SameLogs t u) : SameLogs s u := fun c => (k c).trans (h c)

theorem SameLogs.foldl {α : Type} {f : State → α → State} (h : ∀ s x, SameLogs s (f s x)) (l : List α) (s : State) :
    SameLogs s (l.foldl f s) := by
  induction l generalizing s with
  | nil => exact .refl s
  | cons x t ih => exact (h s x).trans (ih _)

theorem SameLogs.of_cores {s t : State} (h : t.cores = s.cores) : SameLogs s t := fun c => by rw [State.core, h, State.core]

theorem CachesOnly.sameLogs {s t : State} (h : CachesOnly s t) : SameLogs s t := fun c => by rw [h.2 c]

theorem OnlyBatt.sameLogs {core slot : Nat} {s t : State} (h : OnlyBatt core slot s t) : SameLogs s t :=
  .of_cores (by rw [h.1])

theorem State.modCore_sameLogs (s : State) (core : Nat) {f : CoreSt → CoreSt} (same : ∀ c, (f c).log = c.log) :
    SameLogs s (s.modCore core f) := by
  intro c
  show ((modAt s.cores core f).getD c {}).log = (s.cores.getD c {}).log
  rw [List.getD_eq_getElem?_getD, List.getD_eq_getElem?_getD, getElem_modAt]
  split
  · cases s.cores[c]? with
    | none => rfl
    | some k => exact same k
  · rfl

theorem State.l2HitAll_cachesOnly (s : State) (space va : Nat) (locs : List Loc) : CachesOnly s (s.l2HitAll space va locs) :=
  .foldl (fun s _ => s.l2Hit_cachesOnly _ _) _ s

theorem State.storeHits_cachesOnly (s : State) (space : Nat) (accs : List LaneAcc) : CachesOnly s (s.storeHits space accs) :=
  ite_of (.refl s) (.foldl (fun s _ => s.l2HitAll_cachesOnly _ _ _) accs s)

theorem State.tlbFill_sameLogs (s : State) (core space : Nat) (va : DWord) : SameLogs s (s.tlbFill core space va) := by
  have walked := (s.walkFills_cachesOnly space va).sameLogs
  unfold State.tlbFill
  dsimp only
  split
  · exact walked.trans (State.modCore_sameLogs _ core fun _ => rfl)
  · exact walked

theorem State.tlbFillAll_sameLogs (s : State) (core space : Nat) (vas : List DWord) : SameLogs s (s.tlbFillAll core space vas) :=
  .foldl (fun s _ => s.tlbFill_sameLogs _ _ _) _ s

/-- The line handles, the translations and the turn that follow an append change no log. -/
theorem State.afterAppend_sameLogs (s : State) (space : Nat) (accs : List LaneAcc) (core : Nat) (vas : List DWord) (x : Iss) (n : Nat) :
    SameLogs s (wordDone x n ((s.storeHits space accs).tlbFillAll core space vas)) :=
  ((s.storeHits_cachesOnly space accs).sameLogs.trans (State.tlbFillAll_sameLogs _ core space vas)).trans (wordDone_onlyBatt x n _).sameLogs

/-- A change of a core of a state that differs in batts alone. -/
theorem State.modCore_of_batts {s t : State} (alone : t = { s with batts := t.batts }) (core : Nat) (f : CoreSt → CoreSt) :
    t.modCore core f = { s with batts := (t.modCore core f).batts, cores := (t.modCore core f).cores } := by
  generalize t.batts = batts at alone
  subst alone
  rfl

/-- Settles O31: with room for its parts the append makes none; then it changes one core's log alone, part by part (O32). -/
theorem storesStayInTheLog : Obligations.StoresStayInTheLog := by
  unfold Obligations.StoresStayInTheLog
  intro f accs s x n t keys cleared placed bytes supply passed room
  obtain ⟨alone, -⟩ := clear_onlyBatt cleared
  have cores : t.cores = s.cores := by rw [alone]
  have core (c : Nat) : t.core c = s.core c := by rw [State.core, cores, State.core]
  have nowait : ¬ t.logWait x bytes = true := fun waits => by
    have full := (Bool.and_eq_true_iff.1 waits).2
    rw [Bool.not_eq_true'] at full
    exact absurd (room.symm.trans full) nofun
  have appended : t.appendBytes x.core x.slot (x.at t).space none bytes =
      t.append x.core x.slot (x.at t).space (x.at t).pinDepth false (partsOf bytes) := State.appendBytes_room room
  have shape := State.modCore_of_batts alone x.core
    fun c => (partsOf bytes).foldl (appendOne x.slot (x.at t).space (x.at t).pinDepth false t.choice.noCoalesce) c
  refine ⟨_, _, runWord_done cleared ((stBody_passed passed).trans (if_neg nowait)), rfl, ?_⟩
  rw [appended]
  refine ⟨shape, fun loc => (congrArg (State.homeByte · loc) shape).trans rfl, fun c other => ?others, fun y => ?supplied, ?next, fun c => ?logs⟩
  case others => exact (getD_modAt_ne _ other).trans (core c)
  case supplied =>
    have ok : (t.core x.core).LogOk := by
      rw [core, State.core, List.getD_eq_getElem _ _ placed]
      exact keys.1 _ (List.getElem_mem placed)
    show suppliedByte ((t.modCore x.core _).core x.core).log x.slot y = _
    rw [State.core_modCore _ (by rw [cores]; exact placed),
      suppliedByte_foldl_appendOne (ws := partsOf bytes) _ _ _ _ _ _ (sectorWrites_partsOk _) ok, partsByte_partsOf, core]
    cases bytes.reverse.find? fun p => !p.1.quar && p.1.sector == y.sector && p.1.pa % 64 == y.pa % 64 <;> rfl
  case next => rw [State.storeDone]; exact congrArg _ (by rw [← appended]; rfl)
  case logs =>
    rw [State.storeDone]
    refine (State.afterAppend_sameLogs _ _ accs _ _ x n c).trans ?_
    rw [← appended]
    rfl

end Sys2Proof.Machine
end

section
/-! Proofs about a store to the scratchpad (R231, R265, R416). -/

namespace Sys2Proof.Machine

/-! ### A felt's scratchpad -/

/-- A felt after a clean write of its scratchpad. -/
def Felt.store (x : Felt) (a : Nat) (bs : List Byte) : Felt :=
  { x with scratch := x.scratch.write a bs, scratchPoison := wordPoison x.scratchPoison a bs.length false }

/-- A felt after the lanes of a store, in ascending order. -/
def Felt.stores (data : Nat → List Byte) (accs : List LaneAcc) (x : Felt) : Felt := accs.foldl (fun x p => x.store p.ea.toNat (data p.lane)) x

/-- Ranges write every byte of a word. -/
def wholeWord (ranges : List (Nat × Nat)) (w : Nat) : Bool :=
  [0, 1, 2, 3].all fun i => ranges.any fun r => r.1 ≤ 4 * w + i && 4 * w + i < r.1 + r.2

/-- A felt after ranges that one instruction writes clean have taken the poison of the words that they cover. -/
def Felt.cleanse (ranges : List (Nat × Nat)) (x : Felt) : Felt := { x with scratchPoison := x.scratchPoison.filter fun w => !wholeWord ranges w }

section
variable {data : Nat → List Byte}

theorem Felt.stores_concat (accs : List LaneAcc) (p : LaneAcc) (x : Felt) :
    Felt.stores data (accs ++ [p]) x = (Felt.stores data accs x).store p.ea.toNat (data p.lane) := List.foldl_concat ..

theorem Felt.stores_place (accs : List LaneAcc) (x : Felt) : (Felt.stores data accs x).lnum = x.lnum ∧ (Felt.stores data accs x).felt = x.felt :=
  List.foldlRecOn (motive := fun y : Felt => y.lnum = x.lnum ∧ y.felt = x.felt) accs _ ⟨rfl, rfl⟩ fun _ place _ _ => place

theorem Felt.stores_wf (accs : List LaneAcc) {x : Felt} (wf : x.scratch.wf = true) : (Felt.stores data accs x).scratch.wf = true :=
  List.foldlRecOn (motive := fun y : Felt => y.scratch.wf = true) accs _ wf fun _ wf _ _ => Memory.write_wf _ _ _ wf

/-- Each byte is that of the highest lane that stores it. -/
theorem Felt.stores_byte {n : Nat} (long : ∀ l, (data l).length = n) (accs : List LaneAcc) {x : Felt} (wf : x.scratch.wf = true) (a : Nat) :
    (Felt.stores data accs x).scratch.get a =
      match accs.reverse.find? fun p => decide (p.ea.toNat ≤ a) && decide (a < p.ea.toNat + n) with
      | some p => (data p.lane).getD (a - p.ea.toNat) 0
      | none => x.scratch.get a := by
  induction accs using List.reverseRecOn with
  | nil => rfl
  | append_singleton accs p ih =>
    rw [Felt.stores_concat, Felt.store, Memory.get_write _ _ _ _ (Felt.stores_wf accs wf), ih, long, List.reverse_concat, List.find?_cons]
    by_cases stored : p.ea.toNat ≤ a ∧ a < p.ea.toNat + n
    · rw [if_pos stored]
      simp only [stored, decide_true, Bool.and_self]
    · rw [if_neg stored, ← Bool.decide_and, decide_eq_false stored]

theorem wordPoison_contains {old : List Nat} {a n k : Nat} (apart : 4 * k + 4 ≤ a ∨ a + n ≤ 4 * k) :
    (wordPoison old a n false).contains k = old.contains k := by
  refine List.foldlRecOn (motive := fun l : List Nat => l.contains k = old.contains k) _ _ rfl fun l same w _ => ?_
  rw [if_neg Bool.false_ne_true]
  split
  next whole =>
    have other : k ≠ w := by rintro rfl; simp at whole; omega
    rw [← same, Bool.eq_iff_iff]
    simp [other]
  next => exact same

theorem Felt.stores_poison {n k : Nat} (long : ∀ l, (data l).length = n) {accs : List LaneAcc}
    (apart : ∀ p ∈ accs, 4 * k + 4 ≤ p.ea.toNat ∨ p.ea.toNat + n ≤ 4 * k) (x : Felt) :
    (Felt.stores data accs x).scratchPoison.contains k = x.scratchPoison.contains k :=
  List.foldlRecOn (motive := fun y : Felt => y.scratchPoison.contains k = x.scratchPoison.contains k) accs _ rfl fun _ same p hp =>
    (wordPoison_contains (by rw [long]; exact apart p hp)).trans same

theorem Felt.cleanse_poison {n k : Nat} {accs : List LaneAcc}
    (apart : ∀ p ∈ accs, 4 * k + 4 ≤ p.ea.toNat ∨ p.ea.toNat + n ≤ 4 * k) (x : Felt) :
    (x.cleanse (accRanges accs n)).scratchPoison.contains k = x.scratchPoison.contains k := by
  have out : wholeWord (accRanges accs n) k = false := by
    have first : ((accRanges accs n).any fun r => r.1 ≤ 4 * k + 0 && 4 * k + 0 < r.1 + r.2) = false := by
      simp only [accRanges, List.any_map, List.any_eq_false, Function.comp_apply, Bool.and_eq_true, decide_eq_true_eq]
      intro p hp
      have := apart p hp
      omega
    rw [wholeWord, List.all_cons, first, Bool.false_and]
  rw [Felt.cleanse, Bool.eq_iff_iff]
  simp [out]

end

/-! ### The scratchpad in the state -/

theorem State.modFelt_then (s : State) (ln fe : Nat) {f g : Felt → Felt} (place : ∀ x, (f x).lnum = x.lnum ∧ (f x).felt = x.felt) :
    (s.modFelt ln fe f).modFelt ln fe g = s.modFelt ln fe fun x => g (f x) := by
  unfold State.modFelt mapIf
  rw [List.map_map]
  congr 1
  refine List.map_congr_left fun x _ => ?_
  obtain ⟨lnum, felt⟩ := place x
  by_cases here : (x.lnum == ln && x.felt == fe) = true <;> simp only [Function.comp_apply, here, if_true, Bool.false_eq_true, if_false, lnum, felt]

theorem State.foldl_scratchWrite (s : State) (ln fe : Nat) (data : Nat → List Byte) (accs : List LaneAcc) :
    accs.foldl (fun s p => s.scratchWrite ln fe p.ea.toNat (data p.lane) false) s = s.modFelt ln fe (Felt.stores data accs) := by
  induction accs using List.reverseRecOn with
  | nil =>
    have same : mapIf (fun x : Felt => x.lnum == ln && x.felt == fe) (Felt.stores data []) s.felts = s.felts :=
      (List.map_congr_left fun x _ => ite_self x).trans s.felts.map_id
    exact (congrArg (fun l : List Felt => { s with felts := l }) same).symm
  | append_singleton accs p ih =>
    rw [List.foldl_concat, ih]
    refine (State.modFelt_then s ln fe (Felt.stores_place accs)).trans (congrArg (s.modFelt ln fe) (funext fun x => ?_))
    rw [Felt.stores_concat]
    rfl

theorem bytesOf_length (n x : Nat) : (bytesOf n x).length = n := by
  induction n generalizing x with
  | zero => rfl
  | succ n ih => rw [bytesOf, List.length_cons, ih]

theorem Batt.storeBytes_length (b : Batt) (f : MForm) (l : Nat) : (b.storeBytes f l).length = widthOf f.wd := by
  unfold Batt.storeBytes
  split
  next quad => simp [bytesOf_length, quad, widthOf]
  next => exact bytesOf_length _ _

theorem wordsOf_word (k : Nat) : wordsOf (4 * k) 4 = [k] := by
  have last : (4 * k + 3) / 4 = k := by omega
  have first : 4 * k / 4 = k := by omega
  simp [wordsOf, last, first]

/-- Settles O30: the store changes its felt alone, in the order of its lanes; the word's end changes its batt alone. -/
theorem scratchStoreFrame : Obligations.ScratchStoreFrame := by
  unfold Obligations.ScratchStoreFrame
  intro f accs s x n t cleared b w passed free wf stands
  obtain ⟨y, felt⟩ := Option.isSome_iff_exists.1 stands
  obtain ⟨alone, others⟩ := clear_onlyBatt cleared
  obtain ⟨-, c, -, place, -, -, -, -, own⟩ := clear_shape cleared
  have long (l : Nat) : (b.storeBytes f l).length = w := b.storeBytes_length f l
  let effect : Felt → Felt := fun y => (Felt.stores (b.storeBytes f) accs y).cleanse (accRanges accs w)
  let v := t.modFelt b.id.lnum b.id.felt effect
  have done : stsBody f x t = .done v := by
    rw [stsBody_passed passed, if_neg (Bool.eq_false_iff.1 free)]
    refine congrArg Body.done ((congrArg (fun u : State => u.scratchWhole b.id.lnum b.id.felt (accRanges accs w))
      (t.foldl_scratchWrite b.id.lnum b.id.felt (b.storeBytes f) accs)).trans ?_)
    exact State.modFelt_then t _ _ (Felt.stores_place accs)
  obtain ⟨ends, apart⟩ := wordDone_onlyBatt x n v
  have felts : (wordDone x n v).felts = v.felts := by rw [ends]
  have feltAt (ln fe : Nat) : (wordDone x n v).felt? ln fe =
      (t.felt? ln fe).map fun y => if ln = b.id.lnum ∧ fe = b.id.felt then effect y else y := by
    rw [State.felt?, felts]
    exact State.felt?_modFelt t _ _ _ _ (fun y => (Felt.stores_place accs y).1) fun y => (Felt.stores_place accs y).2
  have ownFelt : (wordDone x n v).felt? b.id.lnum b.id.felt = some (effect y) := by
    rw [feltAt, felt, Option.map_some, if_pos ⟨rfl, rfl⟩]
  have standing : v.batt? x.core x.slot = some b := place.trans (congrArg some own.symm)
  obtain ⟨d, stands, turned⟩ := wordDone_batt (x := x) (n := n) standing
  refine ⟨_, d, runWord_done cleared done, stands, fun a => ?bytes, fun k out => ?poison, fun ln fe other => ?felts, ?shape,
    fun k m other => (apart k m other).trans (others k m other), turned⟩
  case bytes =>
    rw [State.scratchRead, State.scratchRead, ownFelt, felt]
    have byte : (effect y).scratch.get a = _ := Felt.stores_byte long accs (wf y felt) a
    show [(effect y).scratch.get a] = _
    rw [byte]
    cases accs.reverse.find? fun p => decide (p.ea.toNat ≤ a) && decide (a < p.ea.toNat + w) <;> rfl
  case poison =>
    have same : (effect y).scratchPoison.contains k = y.scratchPoison.contains k :=
      (Felt.cleanse_poison out _).trans (Felt.stores_poison long out y)
    rw [State.scratchBad, State.scratchBad, ownFelt, felt, wordsOf_word]
    simp only [List.any_cons, List.any_nil, same]
  case felts =>
    rw [feltAt]
    have same : t.felt? ln fe = s.felt? ln fe := by rw [State.felt?, alone, State.felt?]
    rw [same]
    refine (congrFun (congrArg Option.map (funext fun y => if_neg fun here => other ?_)) _).trans Option.map_id'
    rw [here.1, here.2]
  case shape =>
    rw [ends]
    show { t with felts := v.felts, batts := _ } = _
    rw [alone]

end Sys2Proof.Machine
end

section
/-! Proofs about the display heads (R446). -/

namespace Sys2Proof.Machine

/-- Of a head that streams a known format, what a latch point does. -/
theorem Head.latch_enabled {h : Head} {top : Nat} (on : h.en = true) (format : h.fmt < 2) : h.latch top =
    if h.timingBad = true then { h with stream := false, err := 2, used := (h.fmt, h.base, h.pitch, h.hact, h.vact) }
    else { h with stream := true, err := if h.surfaceBad top then 1 else 0, used := (h.fmt, h.base, h.pitch, h.hact, h.vact) } := by
  unfold Head.latch
  rw [if_neg (by simp [on, format])]
  refine ite_congr rfl (fun _ => rfl) fun _ => ?_
  cases h.surfaceBad top <;> rfl

theorem scanoutFrameStart_streaming {s : State} {i : Nat} {g : Head} (head : s.dev.heads[i]? = some g) (streams : g.stream = true) :
    exec (.scanoutFrameStart i) s = .next (((s.scanReads g).modDev fun d => { d with heads := modAt d.heads i fun h =>
      { h with vblank := false, frame := (h.frame + 1) % 2 ^ 31, poisonPix := (h.poisonPix + (s.scanFrame g).2) % 2 ^ 32 } }).emit
        (.frame i (s.scanFrame g).1)) := by
  show execScanoutFrameStart i s = _
  unfold execScanoutFrameStart
  rw [head]
  exact if_neg (by simp [streams])

theorem scanoutFrameStart_stopped {s : State} {i : Nat} {g : Head} (head : s.dev.heads[i]? = some g) (stopped : g.stream = false) :
    exec (.scanoutFrameStart i) s = .next s := by
  show execScanoutFrameStart i s = _
  unfold execScanoutFrameStart
  rw [head]
  exact if_pos (by simp [stopped])

theorem displayHotplug_named {s : State} {i vec rate : Nat} (answers : s.answers = true) (head : i < 4) (vector : vec < 2048) :
    exec (.displayHotplug i vec rate) s =
      .next ((s.modDev fun d => { d with heads := modAt d.heads i fun h => { h with linkRate := rate } }).emit (.msix vec)) :=
  congrArg Host.Outcome.next (if_neg (by simp [answers, head, vector]))

/-- Settles O56: the latch by its refusals, each event by its guard. -/
theorem displaySteps : Obligations.DisplaySteps := by
  unfold Obligations.DisplaySteps
  exact ⟨fun h top => Head.latch_enabled, fun s i => rfl, fun s i g => scanoutFrameStart_streaming, fun s i g => scanoutFrameStart_stopped,
    fun s i vec rate => displayHotplug_named⟩

end Sys2Proof.Machine
end

section
/-! Proofs about the host's accesses (R17, R236, R251, R252, R278, R294, R418, R438, R439, R444). -/

namespace Sys2Proof.Machine

/-! ### What reads of level two leave -/

/-- Beside what accesses of level two change, the L1s only lose copies (R17). -/
def L1sShrink (s t : State) : Prop := CachesOnly s t ∧ ∀ c, (t.core c).l1.Sublist (s.core c).l1

theorem L1sShrink.refl (s : State) : L1sShrink s s := ⟨.refl s, fun _ => .refl _⟩

theorem L1sShrink.trans {s t u : State} (h : L1sShrink s t) (k : L1sShrink t u) : L1sShrink s u :=
  ⟨h.1.trans k.1, fun c => (k.2 c).trans (h.2 c)⟩

theorem L1sShrink.foldl {α : Type} {f : State → α → State} (h : ∀ s x, L1sShrink s (f s x)) (l : List α) (s : State) :
    L1sShrink s (l.foldl f s) :=
  List.foldlRecOn l _ (.refl s) fun _ before _ _ => before.trans (h _ _)

theorem L1sShrink.of_cores {s t : State} (only : CachesOnly s t) (cores : t.cores = s.cores) : L1sShrink s t :=
  ⟨only, fun c => by rw [State.core, cores]; exact .refl _⟩

theorem State.evictLine_l1sShrink (s : State) (slice line : Nat) : L1sShrink s (s.evictLine slice line) :=
  ⟨s.evictLine_cachesOnly slice line, fun c => by rw [State.evictLine_core]; exact List.filter_sublist⟩

theorem State.evictVictim_l1sShrink (s : State) (slice line : Nat) : L1sShrink s (s.evictVictim slice line) :=
  ⟨s.evictVictim_cachesOnly slice line, fun c => by rw [State.evictVictim_core]; exact List.filter_sublist⟩

theorem State.l2Fit_l1sShrink (s : State) (slice sector : Nat) : L1sShrink s (s.l2Fit slice sector) :=
  State.l2Fit_induction (P := L1sShrink s) (fun t line h => h.trans (t.evictVictim_l1sShrink slice line))
    (fun t line h => h.trans (t.evictLine_l1sShrink slice line)) sector (.refl s)

/-- Nothing but level two has changed. -/
def OnlyL2 (s t : State) : Prop := t = { s with l2 := t.l2, l2Clock := t.l2Clock }

theorem OnlyL2.refl (s : State) : OnlyL2 s s := rfl

theorem OnlyL2.trans {s t u : State} (h : OnlyL2 s t) (k : OnlyL2 t u) : OnlyL2 s u := by
  unfold OnlyL2 at *
  rw [k, h]

theorem OnlyL2.l1sShrink {s t : State} (h : OnlyL2 s t) : L1sShrink s t := by
  rw [h]
  exact .of_cores (.of_l2 s _ _) rfl

theorem State.putL2_onlyL2 (s : State) (x : L2Sector) : OnlyL2 s (s.putL2 x) := by
  unfold State.putL2
  split <;> rfl

theorem State.putL2_length_le (s : State) (x : L2Sector) : (s.putL2 x).l2.length ≤ s.l2.length + 1 := by
  unfold State.putL2
  split
  · exact (List.length_map ..).trans_le (Nat.le_succ _)
  · exact (List.length_append ..).le

theorem State.putL2_length_of_mem {s : State} {x y : L2Sector} (held : y ∈ s.l2) (slice : y.slice = x.slice) (sector : y.sector = x.sector) :
    (s.putL2 x).l2.length = s.l2.length := by
  rw [State.putL2, if_pos (List.any_eq_true.2 ⟨y, held, by simp [slice, sector]⟩)]
  exact List.length_map ..

theorem State.mem_of_l2At {s : State} {slice sector : Nat} {y : L2Sector} (found : s.l2At slice sector = some y) : y ∈ s.l2 :=
  List.mem_of_find?_eq_some found

theorem State.mem_of_lineAt {s : State} {x : Loc} {y : L2Sector} (line : s.lineAt x = some y) : y ∈ s.l2 := by
  unfold State.lineAt at line
  cases found : s.l2At x.home x.sector with
  | some z =>
    rw [found] at line
    cases line
    exact State.mem_of_l2At found
  | none =>
    rw [found] at line
    exact List.mem_of_mem_filter (List.mem_of_mem_head? line)

theorem State.l2Hit_onlyL2 (s : State) (x : Loc) (hs : List (Nat × Nat)) : OnlyL2 s (s.l2Hit x hs) := by
  unfold State.l2Hit
  split
  · exact (s.putL2_onlyL2 _).trans rfl
  · exact .refl s

theorem State.l2Hit_length (s : State) (x : Loc) (hs : List (Nat × Nat)) : (s.l2Hit x hs).l2.length = s.l2.length := by
  unfold State.l2Hit
  split
  next y _ found => exact State.putL2_length_of_mem (State.mem_of_lineAt found) rfl rfl
  · rfl

/-- A read of level two that may have allocated a sector, before its slice keeps to its frames. -/
def Reads (s t : State) : Prop := OnlyL2 s t ∧ t.l2.length ≤ s.l2.length + 1

theorem State.l2Read_cases (s : State) (x : Loc) (need : DWord) (hs : List (Nat × Nat)) :
    ∃ t, Reads s t ∧ (s.l2Read x need hs = t ∨ s.l2Read x need hs = t.l2Fit x.home x.sector) := by
  unfold State.l2Read
  split
  · exact ⟨s, ⟨.refl s, Nat.le_succ _⟩, .inl rfl⟩
  · split
    next y found =>
      refine ⟨_, ⟨?_, ?_⟩, .inl rfl⟩
      · refine OnlyL2.trans ?_ (State.l2Hit_onlyL2 _ x hs)
        split
        · exact .refl s
        · exact s.putL2_onlyL2 _
      · rw [State.l2Hit_length]
        split
        · exact Nat.le_succ _
        · exact s.putL2_length_le _
    next =>
      exact ⟨_, ⟨(s.putL2_onlyL2 _).trans (State.l2Hit_onlyL2 _ x hs), (State.l2Hit_length _ x hs).trans_le (s.putL2_length_le _)⟩, .inr rfl⟩

theorem State.l2Read_l1sShrink (s : State) (x : Loc) (need : DWord) (hs : List (Nat × Nat)) : L1sShrink s (s.l2Read x need hs) := by
  obtain ⟨t, ⟨only, -⟩, read | read⟩ := s.l2Read_cases x need hs <;> rw [read]
  · exact only.l1sShrink
  · exact only.l1sShrink.trans (t.l2Fit_l1sShrink _ _)

/-- While no more sectors than frames are held, a read evicts nothing. -/
theorem State.l2Read_room {s : State} (room : s.l2.length + 1 ≤ sliceFrames) (x : Loc) (need : DWord) (hs : List (Nat × Nat)) :
    Reads s (s.l2Read x need hs) := by
  obtain ⟨t, reads, read | read⟩ := s.l2Read_cases x need hs
  · rwa [read]
  · rwa [read, State.l2Fit, if_pos (reads.2.trans room)]

/-! ### Reads of BAR 2 and BAR 4 (R236, R418, R438) -/

/-- The fills of a host read. -/
def State.hostFills (p : Loc → Bool) (locs : List Loc) (s : State) : State := locs.foldl (fun s x => if p x then s.l2Fill x 16 0 else s) s

section
variable (p : Loc → Bool) (locs : List Loc) (s : State)

theorem State.hostFills_l1sShrink : L1sShrink s (s.hostFills p locs) :=
  .foldl (fun s x => ite_of (State.l2Read_l1sShrink s x _ _) (.refl s)) locs s

variable {locs s}

theorem State.hostFills_room (room : s.l2.length + locs.length ≤ sliceFrames) : OnlyL2 s (s.hostFills p locs) := by
  induction locs generalizing s with
  | nil => exact .refl s
  | cons x locs ih =>
    rw [List.length_cons] at room
    obtain ⟨only, long⟩ : Reads s (if p x then s.l2Fill x 16 0 else s) := by
      split
      · exact State.l2Read_room (by omega) x _ _
      · exact ⟨.refl s, Nat.le_succ _⟩
    exact only.trans (ih (by omega))

theorem State.hostFills_sluice (sluice : ∀ x ∈ locs, x.target ≠ .dev) : s.hostFills p locs = s := by
  refine List.foldlRecOn (motive := fun t => t = s) locs _ rfl fun t same x hx => ?_
  rw [same]
  split
  · exact if_pos (by simp [sluice x hx])
  · rfl

end

/-- The bytes of a host read, with their poison. -/
def State.windowBytes (s : State) (bar off len : Nat) : List (Byte × Bool) :=
  (List.range len).map fun k => match s.barLoc bar (off + k) with | some x => s.homeByte x | none => (0xFF, false)

/-- The locations of a host read. -/
def State.windowLocs (s : State) (bar off len : Nat) : List Loc := (List.range len).filterMap fun k => s.barLoc bar (off + k)

section
variable {s : State} {bar off len : Nat}

theorem State.answers_iff : s.answers = true ↔ s.dev.ready = true ∧ s.dev.tripped = false := by simp [State.answers]

theorem State.hostRead_inside (answers : s.answers = true) (inside : s.inBar bar off len = true) : ∃ p,
    s.hostRead bar off len = (s.hostFills p (s.windowLocs bar off len)).emit
      (.completion ((s.windowBytes bar off len).map (·.1)) ((s.windowBytes bar off len).any (·.2))) := by
  obtain ⟨ready, running⟩ := State.answers_iff.1 answers
  refine ⟨fun x => decide (x.pa % 64 = 0) || some x == ((List.range len).map fun i => s.barLoc bar (off + i)).head?.bind id, ?_⟩
  unfold State.hostRead
  rw [if_neg (by simp [running, inside]), if_neg (by simp [ready])]
  simp only [List.filterMap_map, List.map_map, State.windowBytes]
  rfl

theorem State.barLoc_sluice {k : Nat} {x : Loc} (small : k < 2 ^ 18) (loc : s.barLoc 4 k = some x) : x.target ≠ .dev := by
  have target : targetOf (sluiceBase + k) = some .sluice := by
    rw [targetOf, if_neg (by omega), if_pos (by omega)]
  cases loc
  rw [locOf, target]
  nofun

theorem State.windowLocs_sluice (inside : s.inBar 4 off len = true) : ∀ x ∈ s.windowLocs 4 off len, x.target ≠ .dev := by
  intro x hx
  obtain ⟨k, hk, loc⟩ := List.mem_filterMap.1 hx
  have fits : off + len ≤ 2 ^ 18 := by simpa [State.inBar] using inside
  have := List.mem_range.1 hk
  exact State.barLoc_sluice (by omega) loc

/-- What a read of BAR 2 or BAR 4 leaves: its answer, and level two with the caches above it. -/
theorem State.hostRead_frame (answers : s.answers = true) (inside : s.inBar bar off len = true) :
    let t := s.hostRead bar off len
    t.batts = s.batts ∧ t.launches = s.launches ∧ t.sluice = s.sluice ∧
      (∀ c, t.core c = { s.core c with l1 := (t.core c).l1 } ∧ (t.core c).l1.Sublist (s.core c).l1) ∧
      t.memPoison = s.memPoison ∧ (s.l2.length + len ≤ sliceFrames → t.mem = s.mem ∧ t.cores = s.cores) ∧
      (bar = 4 → t.mem = s.mem ∧ t.l2 = s.l2 ∧ t.cores = s.cores) ∧
      t.dev = { s.dev with outbox := s.dev.outbox ++
        [.completion ((s.windowBytes bar off len).map (·.1)) ((s.windowBytes bar off len).any (·.2))] } := by
  obtain ⟨p, read⟩ := State.hostRead_inside answers inside
  obtain ⟨⟨shape, cores⟩, shrink⟩ := State.hostFills_l1sShrink p (s.windowLocs bar off len) s
  intro t
  have read : t = _ := read
  rw [read]
  have room (fits : s.l2.length + len ≤ sliceFrames) : OnlyL2 s (s.hostFills p (s.windowLocs bar off len)) :=
    State.hostFills_room p ((Nat.add_le_add_left ((List.length_filterMap_le _ _).trans_eq List.length_range) _).trans fits)
  have sluice (window : bar = 4) : s.hostFills p (s.windowLocs bar off len) = s := by
    subst window
    exact State.hostFills_sluice p (State.windowLocs_sluice inside)
  generalize s.hostFills p (s.windowLocs bar off len) = u at *
  refine ⟨?_, ?_, ?_, fun c => ⟨cores c, shrink c⟩, ?_, fun fits => ?_, fun window => ?_, ?_⟩
  · exact (by rw [shape] : u.batts = s.batts)
  · exact (by rw [shape] : u.launches = s.launches)
  · exact (by rw [shape] : u.sluice = s.sluice)
  · exact (by rw [shape] : u.memPoison = s.memPoison)
  · have only := room fits
    exact (by rw [only]; exact ⟨rfl, rfl⟩ : u.mem = s.mem ∧ u.cores = s.cores)
  · rw [sluice window]
    exact ⟨rfl, rfl, rfl⟩
  · have dev : u.dev = s.dev := by rw [shape]
    simp only [State.emit, State.modDev, dev]

end

/-! ### Writes, AtomicOps and failed requests (R251, R252, R278, R438, R444) -/

section
variable {s : State}

theorem registerWrite_running {off size : Nat} {v : DWord} (running : s.dev.tripped = false) : exec (.registerWrite off size v) s =
    .next (if bar0Ok off size = false then s.emit .abort else if s.answers then s.writeReg off size v else s) := by
  have abort : s.badAccess = s.emit .abort := if_neg (by simp [running])
  refine congrArg Host.Outcome.next ?_
  rw [abort]
  exact if_congr (by simp) rfl rfl

theorem State.hostWriteAt_clean {bar off : Nat} {bytes : List Byte} (answers : s.answers = true) (inside : s.inBar bar off bytes.length = true) :
    s.hostWriteAt bar off bytes false =
      (sectorWrites ((bytes.mapIdx fun k b => (s.barLoc bar (off + k)).map fun x => (x, b)).filterMap id)).foldl
        (fun s w => s.applyAt w.loc w.mask w.data false true) s :=
  if_neg (by simp [answers, inside])

/-- Bytes of an AtomicOp. -/
def hostAtomSize (wide : Bool) : Nat := if wide then 8 else 4

section
variable {bar off : Nat} {op : HostAtom} {wide : Bool} {v c : DWord} {x : Loc} (answers : s.answers = true)
  (inside : s.inBar bar off (hostAtomSize wide) = true) (aligned : off % hostAtomSize wide = 0) (loc : s.barLoc bar off = some x)
include answers inside aligned loc

theorem hostAtomicop_eq : exec (.hostAtomicop bar off op wide v c) s =
    let bs := (x.run (hostAtomSize wide)).map s.homeByte
    let t := s.l2ReadAll 16 0 (x.run (hostAtomSize wide))
    let old := bs.map (·.1)
    .next (if bs.any (·.2) then t.emit (.atomicAnswer (BitVec.ofNat 64 (numOf old)) true) else
      ((sectorWrites ((x.run (hostAtomSize wide)).zip
          (atomBytes (hostAtomOp op) wide old (v.toNat % 2 ^ (8 * hostAtomSize wide)) (c.toNat % 2 ^ (8 * hostAtomSize wide))))).foldl
        (fun s w => s.applyAt w.loc w.mask w.data false true) t).emit (.atomicAnswer (BitVec.ofNat 64 (numOf old)) false)) := by
  obtain ⟨ready, running⟩ := State.answers_iff.1 answers
  refine congrArg Host.Outcome.next ((if_neg ?_).trans ((if_neg ?_).trans ((if_neg ?_).trans ?_)))
  · simpa [running, hostAtomSize] using inside
  · simpa [hostAtomSize] using aligned
  · simp [ready]
  · rw [loc]
    rfl

end

theorem readError_load {core slot id lane : Nat} {o : Op} {f : MForm} (op : s.opAt core slot id = some o) (ld : o.instr = .ld f)
    (host : inMask o.hostLanes lane = true) : exec (.hostRequestError (.read core slot id lane)) s =
      .next (s.modOp core slot id fun o => { o with poison := o.poison ||| maskOf fun l => l == lane }) := by
  refine congrArg Host.Outcome.next ?_
  show s.readFailed core slot id lane = _
  unfold State.readFailed
  rw [op]
  dsimp only
  rw [ld]
  exact if_pos host

theorem atomError_lane {core slot id lane : Nat} {o : Op} {f : RForm} (op : s.opAt core slot id = some o) (atom : o.instr = .atom f)
    (host : inMask o.hostLanes lane = true) : exec (.hostRequestError (.atomLane core slot id lane)) s =
      .next (s.modOp core slot id fun o => { o with poison := o.poison ||| lane1 lane }).hostErrInc := by
  refine congrArg Host.Outcome.next ?_
  show s.atomLaneFailed core slot id lane = _
  unfold State.atomLaneFailed
  rw [op]
  dsimp only
  rw [atom]
  exact if_pos host

end

/-- Settles O55: reads by what fills of level two leave, the other accesses by their guards. -/
theorem hostAccesses : Obligations.HostAccesses := by
  unfold Obligations.HostAccesses
  refine ⟨fun s off size v => registerWrite_running, fun s running => congrArg Host.Outcome.next (if_neg (by simp [running])),
    fun s i bar off len window answers inside => ⟨s.hostRead bar off len, ?read, State.hostRead_frame answers inside⟩,
    fun s i bar off bytes ep window => ?write, fun s bar off bytes => State.hostWriteAt_clean,
    fun s bar off op wide v c x answers inside aligned loc => ?atom, fun s bar off payload flag => rfl, fun s => rfl,
    fun s core slot id lane o f => readError_load, fun s core slot id lane o f => atomError_lane⟩
  case read =>
    simp only [List.mem_cons, Prod.mk.injEq, List.not_mem_nil, or_false] at window
    obtain ⟨rfl, rfl⟩ | ⟨rfl, rfl⟩ := window <;> rfl
  case write =>
    simp only [List.mem_cons, Prod.mk.injEq, List.not_mem_nil, or_false] at window
    obtain ⟨rfl, rfl⟩ | ⟨rfl, rfl⟩ := window <;> rfl
  case atom =>
    have performed := hostAtomicop_eq (op := op) (v := v) (c := c) answers inside aligned loc
    refine ⟨fun ⟨b, hb, bad⟩ => performed.trans (congrArg Host.Outcome.next (if_pos (List.any_eq_true.2 ⟨b, hb, bad⟩))),
      fun clean => performed.trans (congrArg Host.Outcome.next (if_neg ?_))⟩
    rw [List.any_eq_true]
    rintro ⟨b, hb, bad⟩
    exact absurd (bad.symm.trans (clean b hb)) nofun

end Sys2Proof.Machine
end

section
/-! Proofs about uncorrectable errors, the two resets and bring-up (R237, R416, R419, R420, R422, R447 to R449). -/

namespace Sys2Proof.Machine

/-! ### Errors in level two and in the L1s (R237, R416) -/

section
variable {s : State} {slice sector : Nat} {x : L2Sector} (found : s.l2At slice sector = some x)
include found

theorem l2Error_clean (clean : x.dirty = 0) : exec (.uncorrectableError (.l2 slice sector)) s =
    .next (({ s with l2 := s.l2.filter fun y => !(y.slice == slice && y.sector == sector) } : State).forgetL1 fun k => k == sector) := by
  refine congrArg Host.Outcome.next ?_
  show s.l2Error slice sector = _
  unfold State.l2Error
  rw [found]
  exact if_pos clean

theorem l2Error_dirty (dirty : x.dirty ≠ 0) : exec (.uncorrectableError (.l2 slice sector)) s =
    .next (s.poisonSector (64 * sector) 0 (compHome slice sector)) := by
  refine congrArg Host.Outcome.next ?_
  show s.l2Error slice sector = _
  unfold State.l2Error
  rw [found]
  exact if_neg dirty

end

/-- L1 copies after an error in one: a held one waits to be filled again, another one goes. -/
def l1Error (sector : Nat) (l : List L1Sector) : List L1Sector :=
  (l.filter fun x => x.sector ≠ sector ∨ x.held ≠ []).map fun x => if x.sector = sector then { x with gone := true } else x

theorem l1Error_eq (s : State) (core sector : Nat) : exec (.uncorrectableError (.l1 core sector)) s =
    .next (s.modCore core fun c => { c with l1 := l1Error sector c.l1 }) := by
  refine congrArg (fun f : CoreSt → CoreSt => Host.Outcome.next (s.modCore core f)) (funext fun c => ?_)
  refine congrArg (fun l : List L1Sector => { c with l1 := l }) ((List.map_congr_left fun (x : L1Sector) _ =>
    if_congr (beq_iff_eq (a := x.sector) (b := sector)) rfl rfl).trans ?_)
  refine congrArg (List.map _) (List.filter_congr fun x _ => ?_)
  rw [Bool.eq_iff_iff]
  simp [or_iff_not_imp_left]

/-! ### Errors in control state (R416, R422) -/

theorem nodup_eraseDups (l : List Nat) : l.eraseDups.Nodup := by
  match l with
  | [] => exact List.nodup_nil
  | a :: l =>
    rw [List.eraseDups_cons]
    exact List.nodup_cons.2 ⟨by simp [List.mem_eraseDups], nodup_eraseDups _⟩
termination_by l.length
decreasing_by exact Nat.lt_succ_of_le (List.length_filter_le _ _)

/-- The contexts that an error in control state kills. -/
def State.killedBy (s : State) (on : Nat → Bool) : List Nat := ((s.batts.filter fun b => on b.core && b.id != .ctl).map (·.space)).eraseDups

theorem State.mem_killedBy {s : State} {on : Nat → Bool} {x : Nat} :
    x ∈ s.killedBy on ↔ ∃ b ∈ s.batts, on b.core = true ∧ b.id ≠ .ctl ∧ b.space = x := by
  simp only [State.killedBy, List.mem_eraseDups, List.mem_map, List.mem_filter, Bool.and_eq_true, bne_iff_ne, and_assoc]

/-- A site of control state and the cores of its unit. -/
def ControlsCores (site : ErrSite) (on : Nat → Bool) : Prop :=
  (∃ core, site = .control core ∧ ∀ c, on c = true ↔ c = core) ∨ (∃ k, site = .controlCluster k ∧ ∀ c, on c = true ↔ c / 8 = k) ∨
    (site = .controlDevice ∧ ∀ c, on c = true)

theorem controlError_eq (s : State) {site : ErrSite} {on : Nat → Bool} (controls : ControlsCores site on) :
    exec (.uncorrectableError site) s = .next (s.killControl on) := by
  obtain ⟨core, rfl, cores⟩ | ⟨k, rfl, cores⟩ | ⟨rfl, cores⟩ := controls
  · have same : (· == core) = on := funext fun c => Bool.eq_iff_iff.2 (beq_iff_eq.trans (cores c).symm)
    rw [← same]
    rfl
  · have same : (fun c => clusterOf c == k) = on := funext fun c => Bool.eq_iff_iff.2 (beq_iff_eq.trans (cores c).symm)
    rw [← same]
    rfl
  · have same : (fun _ => true) = on := funext fun c => (cores c).symm
    rw [← same]
    rfl

/-! ### Poisoned sectors (R419, R420) -/

theorem State.announcePoison_eq (s : State) : ∃ out, s.announcePoison = { s with dev := { s.dev with outbox := out } } := by
  unfold State.announcePoison
  split
  · exact ⟨_, rfl⟩
  · exact ⟨_, rfl⟩

/-- A controller's record after a sector was poisoned (R420). -/
def Controller.note (c : Controller) (pa origin : Nat) : Controller :=
  if c.poison.any fun e => e.sector == pa / 64 then c
  else if c.poison.length < 512 then { c with poison := c.poison ++ [{ sector := pa / 64, origin := origin }] }
  else if c.quarantine.length < 64 then { c with quarantine := c.quarantine ++ [pa / 65536] }
  else { c with ovf := true }

/-- The controllers after a sector was poisoned. -/
def State.notedIn (s : State) (pa origin : Nat) (comp : Bool) : List Controller :=
  if s.pageQuarantined pa then s.controllers
  else setAt s.controllers (homeSlice pa comp / 2) ((s.controllers.getD (homeSlice pa comp / 2) {}).note pa origin)

theorem setAt_getD_self {α : Type} (l : List α) (k : Nat) (d : α) : setAt l k (l.getD k d) = l := by
  by_cases h : k < l.length
  · rw [List.getD_eq_getElem _ _ h]
    exact List.set_getElem_self h
  · exact List.set_eq_of_length_le (Nat.le_of_not_lt h)

section
variable (s : State) (pa origin : Nat) (comp : Bool)

theorem State.recordPoison_eq : ∃ out, s.recordPoison pa origin comp =
    { s with controllers := s.notedIn pa origin comp, dev := { s.dev with outbox := out } } := by
  unfold State.recordPoison State.notedIn Controller.note
  by_cases quar : s.pageQuarantined pa = true
  · exact ⟨s.dev.outbox, by simp only [quar, Bool.true_or, if_true]⟩
  · simp only [Bool.eq_false_iff.2 quar, Bool.false_or, Bool.false_eq_true, if_false]
    split
    · exact ⟨s.dev.outbox, by rw [setAt_getD_self]⟩
    · split
      · exact State.announcePoison_eq _
      · split
        · exact State.announcePoison_eq _
        · exact ⟨_, rfl⟩

/-- The poisoned sectors of memory after one more. -/
def State.poisonedAt (s : State) (pa : Nat) : List Nat := if s.memPoison.contains (pa / 64) then s.memPoison else s.memPoison ++ [pa / 64]

theorem State.mem_poisonedAt (k : Nat) : k ∈ s.poisonedAt pa ↔ k ∈ s.memPoison ∨ k = pa / 64 := by
  unfold State.poisonedAt
  split
  next held =>
    have held : pa / 64 ∈ s.memPoison := by simpa using held
    exact ⟨.inl, fun h => h.elim id fun same => same ▸ held⟩
  next => rw [List.mem_append, List.mem_singleton]

theorem State.poisonSector_eq : ∃ out, s.poisonSector pa origin comp =
    { s with memPoison := s.poisonedAt pa, controllers := s.notedIn pa origin comp, dev := { s.dev with outbox := out } } := by
  have base : (if s.memPoison.contains (pa / 64) then s else { s with memPoison := s.memPoison ++ [pa / 64] }) =
      { s with memPoison := s.poisonedAt pa } := by
    unfold State.poisonedAt
    split <;> rfl
  unfold State.poisonSector
  rw [base]
  exact State.recordPoison_eq _ pa origin comp

theorem State.poisonSector_memPoison : (s.poisonSector pa origin comp).memPoison = s.poisonedAt pa := by
  obtain ⟨out, eq⟩ := s.poisonSector_eq pa origin comp
  rw [eq]

theorem State.poisonSector_controllers : (s.poisonSector pa origin comp).controllers = s.notedIn pa origin comp := by
  obtain ⟨out, eq⟩ := s.poisonSector_eq pa origin comp
  rw [eq]

theorem State.poisonSector_shape : let t := s.poisonSector pa origin comp
    t = { s with memPoison := t.memPoison, controllers := t.controllers, dev := { s.dev with outbox := t.dev.outbox } } := by
  obtain ⟨out, eq⟩ := s.poisonSector_eq pa origin comp
  rw [eq]

theorem State.notedIn_other {j : Nat} (other : j ≠ homeSlice pa comp / 2) :
    (s.notedIn pa origin comp).getD j {} = s.controllers.getD j {} := by
  unfold State.notedIn
  split
  · rfl
  · rw [List.getD_eq_getElem?_getD, setAt, List.getElem?_set_ne other.symm, List.getD_eq_getElem?_getD]

variable {s pa comp}

theorem State.notedIn_own (fixed : homeSlice pa comp / 2 < s.controllers.length) (free : s.pageQuarantined pa = false) :
    (s.notedIn pa origin comp).getD (homeSlice pa comp / 2) {} = (s.controllers.getD (homeSlice pa comp / 2) {}).note pa origin := by
  unfold State.notedIn
  rw [if_neg (Bool.eq_false_iff.1 free), List.getD_eq_getElem?_getD, setAt, List.getElem?_set_self fixed]
  rfl

end

section
variable {c : Controller} {pa : Nat} (origin : Nat)

theorem Controller.note_held (held : ∃ e ∈ c.poison, e.sector = pa / 64) : c.note pa origin = c :=
  if_pos (by simpa using held)

variable (fresh : ∀ e ∈ c.poison, e.sector ≠ pa / 64)
include fresh

theorem Controller.note_fresh : c.note pa origin =
    if c.poison.length < 512 then { c with poison := c.poison ++ [{ sector := pa / 64, origin := origin }] }
    else if c.quarantine.length < 64 then { c with quarantine := c.quarantine ++ [pa / 65536] } else { c with ovf := true } :=
  if_neg (by simpa using fresh)

theorem Controller.note_entry (room : c.poison.length < 512) :
    c.note pa origin = { c with poison := c.poison ++ [{ sector := pa / 64, origin := origin }] } :=
  (Controller.note_fresh origin fresh).trans (if_pos room)

theorem Controller.note_quarantine (full : 512 ≤ c.poison.length) (room : c.quarantine.length < 64) :
    c.note pa origin = { c with quarantine := c.quarantine ++ [pa / 65536] } :=
  (Controller.note_fresh origin fresh).trans ((if_neg full.not_gt).trans (if_pos room))

theorem Controller.note_overflow (full : 512 ≤ c.poison.length) (listed : 64 ≤ c.quarantine.length) :
    c.note pa origin = { c with ovf := true } :=
  (Controller.note_fresh origin fresh).trans ((if_neg full.not_gt).trans (if_neg listed.not_gt))

end

/-- The sectors of a compressed superblock that a frame holds (R237). -/
def State.frameSectors (s : State) (slice block held : Nat) : List Nat :=
  (s.l2.filter fun x => x.slice == slice && x.sector / 16 == block && x.frames != 0 && Nat.testBit held (x.sector % 16)).map (·.sector)

theorem State.mem_frameSectors {s : State} {slice block held k : Nat} : k ∈ s.frameSectors slice block held ↔ ∃ x ∈ s.l2,
    x.slice = slice ∧ x.sector / 16 = block ∧ x.frames ≠ 0 ∧ Nat.testBit held (x.sector % 16) = true ∧ x.sector = k := by
  simp only [State.frameSectors, List.mem_map, List.mem_filter, Bool.and_eq_true, beq_iff_eq, bne_iff_ne, and_assoc]

theorem State.frameError_eq (s : State) (slice block held : Nat) :
    s.frameError slice block held = (s.frameSectors slice block held).foldl (fun u k => u.poisonSector (64 * k) 0 true) s := by
  rw [State.frameSectors, List.foldl_map]
  rfl

theorem State.mem_memPoison_foldl (hit : List Nat) (s : State) (k : Nat) :
    k ∈ (hit.foldl (fun u k => u.poisonSector (64 * k) 0 true) s).memPoison ↔ k ∈ s.memPoison ∨ k ∈ hit := by
  induction hit generalizing s with
  | nil => simp
  | cons j hit ih =>
    rw [List.foldl_cons, ih, State.poisonSector_memPoison, State.mem_poisonedAt, Nat.mul_div_cancel_left _ (by decide), List.mem_cons, or_assoc]

/-! ### Poison in scratchpads, banks and registers (R416) -/

/-- Poisoned words after one more. -/
def poisonWord (l : List Nat) (word : Nat) : List Nat := if l.contains word then l else sortBy (· < ·) (word :: l)

theorem mem_poisonWord {l : List Nat} {word k : Nat} : k ∈ poisonWord l word ↔ k ∈ l ∨ k = word := by
  unfold poisonWord
  split
  next held =>
    have held : word ∈ l := by simpa using held
    exact ⟨.inl, fun h => h.elim id fun same => same ▸ held⟩
  next => rw [mem_sortBy, List.mem_cons, or_comm]

theorem poisonWord_contains (l : List Nat) (word k : Nat) : (poisonWord l word).contains k = (l.contains k || k == word) := by
  rw [Bool.eq_iff_iff, Bool.or_eq_true, List.contains_iff_mem, List.contains_iff_mem, beq_iff_eq, mem_poisonWord]

/-- A felt with one more poisoned word in its scratchpad. -/
def Felt.poisonScratch (word : Nat) (f : Felt) : Felt := { f with scratchPoison := poisonWord f.scratchPoison word }

theorem scratchError_eq {s : State} {lnum felt word : Nat} (inside : 4 * word < s.scratchSize lnum) :
    exec (.uncorrectableError (.scratch lnum felt word)) s = .next (s.modFelt lnum felt (Felt.poisonScratch word)) := by
  refine (congrArg Host.Outcome.next (if_pos inside)).trans
    (congrArg (fun g : Felt → Felt => Host.Outcome.next (s.modFelt lnum felt g)) (funext fun f => ?_))
  unfold Felt.poisonScratch poisonWord
  split <;> rfl

section
variable (s : State) (lnum felt word : Nat)

theorem State.felt?_poisonScratch (ln fe : Nat) : (s.modFelt lnum felt (Felt.poisonScratch word)).felt? ln fe =
    (s.felt? ln fe).map fun y => if ln = lnum ∧ fe = felt then y.poisonScratch word else y :=
  State.felt?_modFelt s _ _ _ _ (fun _ => rfl) fun _ => rfl

theorem State.scratchRead_poisonScratch (ln fe a n : Nat) :
    (s.modFelt lnum felt (Felt.poisonScratch word)).scratchRead ln fe a n = s.scratchRead ln fe a n := by
  rw [State.scratchRead, State.felt?_poisonScratch, State.scratchRead]
  cases s.felt? ln fe with
  | none => rfl
  | some y => exact congrArg (fun m : Memory => m.read a n) (apply_ite Felt.scratch _ _ _ |>.trans (ite_self _))

variable {s lnum felt}

theorem State.scratchBad_poisonScratch (stands : (s.felt? lnum felt).isSome = true) (ln fe k : Nat) :
    (s.modFelt lnum felt (Felt.poisonScratch word)).scratchBad ln fe (4 * k) 4 =
      (s.scratchBad ln fe (4 * k) 4 || (ln == lnum && fe == felt && k == word)) := by
  rw [State.scratchBad, State.felt?_poisonScratch, State.scratchBad, wordsOf_word]
  by_cases here : ln = lnum ∧ fe = felt
  · obtain ⟨rfl, rfl⟩ := here
    obtain ⟨y, felt⟩ := Option.isSome_iff_exists.1 stands
    rw [felt, Option.map_some, if_pos ⟨rfl, rfl⟩, beq_self_eq_true, beq_self_eq_true, Bool.true_and, Bool.true_and]
    simp only [Felt.poisonScratch, poisonWord_contains, List.any_cons, List.any_nil, Bool.or_false]
  · have out : (ln == lnum && fe == felt) = false := by simpa using here
    rw [out]
    cases s.felt? ln fe <;> simp [here]

end

/-- A bank with one more poisoned word. -/
def Bank.poisonAt (word : Nat) (k : Bank) : Bank := { k with poison := poisonWord k.poison word }

theorem bankError_eq (s : State) (core slot bank : Nat) {word : Nat} (inside : 4 * word < bankBytes) :
    exec (.uncorrectableError (.accumulator core slot bank word)) s = .next (s.modBatt core slot fun b => b.modBank bank (Bank.poisonAt word)) := by
  refine congrArg (fun g : Batt → Batt => Host.Outcome.next (s.modBatt core slot g))
    (funext fun b => congrArg (b.modBank bank) (funext fun k => ?_))
  unfold Bank.poisonAt poisonWord
  have outside : decide (bankBytes ≤ 4 * word) = false := decide_eq_false inside.not_ge
  rw [outside, Bool.or_false]
  split <;> rfl

section
variable (b : Batt)

/-- An aligned word of an accumulator address is poisoned where its bank holds it so. -/
theorem Batt.bankBad_word (k : Nat) {j : Nat} (inside : 4 * j < bankBytes) :
    (b.bankBad (bankBytes * k + 4 * j) 4).isSome = (b.bank? k).any fun y => y.poison.contains j := by
  unfold bankBytes at inside
  have word : wordsOf (bankBytes * k + 4 * j) 4 = [4096 * k + j] := by
    rw [show bankBytes * k + 4 * j = 4 * (4096 * k + j) by unfold bankBytes; omega]
    exact wordsOf_word _
  have bank : 4 * (4096 * k + j) / bankBytes = k := by unfold bankBytes; omega
  have place : (4096 * k + j) % (bankBytes / 4) = j := by unfold bankBytes; omega
  rw [Batt.bankBad, word, Option.isSome_map, List.find?_cons, bank, place]
  cases b.bank? k with
  | none => rfl
  | some y =>
    rw [Option.any_some]
    dsimp only
    cases y.poison.contains j <;> rfl

variable (bank word : Nat)

theorem Batt.bankByte_poisonAt (aa : Nat) : (b.modBank bank (Bank.poisonAt word)).bankByte aa = b.bankByte aa := by
  rw [Batt.bankByte, Batt.bank?_modBank (f := Bank.poisonAt word) _ _ _ fun _ => rfl, Batt.bankByte]
  cases b.bank? (aa / bankBytes) with
  | none => rfl
  | some y => exact congrArg (fun m : Memory => m.get (aa % bankBytes)) (apply_ite Bank.data _ _ _ |>.trans (ite_self _))

variable {b bank}

theorem Batt.bankBad_poisonAt (held : (b.bank? bank).isSome = true) (k : Nat) {j : Nat} (inside : 4 * j < bankBytes) :
    ((b.modBank bank (Bank.poisonAt word)).bankBad (bankBytes * k + 4 * j) 4).isSome =
      ((b.bankBad (bankBytes * k + 4 * j) 4).isSome || (k == bank && j == word)) := by
  rw [Batt.bankBad_word _ _ inside, Batt.bankBad_word _ _ inside, Batt.bank?_modBank (f := Bank.poisonAt word) _ _ _ fun _ => rfl]
  by_cases here : k = bank
  · obtain ⟨y, found⟩ := Option.isSome_iff_exists.1 held
    subst here
    rw [found, Option.map_some, if_pos rfl, Option.any_some, Option.any_some, Bank.poisonAt, poisonWord_contains, beq_self_eq_true, Bool.true_and]
  · cases b.bank? k <;> simp [here]

end

theorem inMask_lane1_iff {l k : Nat} (fixed : l < 32) : inMask (lane1 k) l = (l == k) := by
  unfold inMask lane1
  rw [BitVec.getLsbD_ofNat, Nat.testBit_two_pow]
  simp [fixed, Bool.beq_eq_decide_eq, eq_comm]

section
variable {b : Batt} {reg lane : Nat} {r : VReg} (backing : b.vreg? reg = some r) (fixed : lane < 32)
include backing fixed

theorem Batt.poisonV_lane : b.poisonV reg (lane1 lane) = { b with vregs := putVReg b.vregs { r with poison := r.poison ||| lane1 lane } } := by
  have named : lane1 lane ≠ 0 := by
    intro none
    have bit : inMask (lane1 lane) lane = true := by rw [inMask_lane1_iff fixed, beq_self_eq_true]
    rw [none] at bit
    exact absurd bit (by simp [inMask])
  unfold Batt.poisonV
  rw [if_neg named, backing]
  rfl

theorem Batt.vreg?_poisonV (k : Nat) : (b.poisonV reg (lane1 lane)).vreg? k =
    if k = reg then some { r with poison := r.poison ||| lane1 lane } else b.vreg? k := by
  rw [Batt.poisonV_lane backing fixed, Batt.vreg?_put, ← Batt.vreg?_num backing]

theorem Batt.vlanes_poisonV (k : Nat) : (b.poisonV reg (lane1 lane)).vlanes k = b.vlanes k := by
  unfold Batt.vlanes
  rw [Batt.vreg?_poisonV backing fixed]
  by_cases own : k = reg
  · rw [if_pos own, own, backing]
  · rw [if_neg own]

theorem Batt.vpoison_poisonV (k : Nat) {l : Nat} (hl : l < 32) :
    inMask ((b.poisonV reg (lane1 lane)).vpoison k) l = (inMask (b.vpoison k) l || (k == reg && l == lane)) := by
  unfold Batt.vpoison
  rw [Batt.vreg?_poisonV backing fixed]
  by_cases own : k = reg
  · rw [if_pos own, own, backing]
    dsimp only
    rw [beq_self_eq_true, Bool.true_and, ← inMask_lane1_iff hl]
    exact BitVec.getLsbD_or
  · simp [own]

end

theorem vectorError_batt {s : State} {core slot reg lane : Nat} {b : Batt} (stands : s.batt? core slot = some b) (backed : b.isBacked reg = true) :
    (s.modBatt core slot fun b => if b.isBacked reg then b.poisonV reg (lane1 lane) else b).batt? core slot = some (b.poisonV reg (lane1 lane)) := by
  rw [State.batt?_modBatt_same, stands, Option.map_some, if_pos backed]
  intro c
  split
  · exact (Batt.AtPlace.poisonV ⟨rfl, rfl⟩ : c.AtPlace _)
  · exact ⟨rfl, rfl⟩

/-! ### Poison in atomic units, the sluice and peat stores (R355, R416) -/

theorem poisonLoc_getElem (l : List AtomLoc) (i j : Nat) :
    (poisonLoc l i)[j]? = (l[j]?).map fun x => if j = i then { x with poison := true } else x := by
  rw [poisonLoc, getElem_modAt]
  by_cases own : j = i
  · rw [if_pos own]
    simp only [own, if_true]
  · rw [if_neg own]
    simp only [own, if_false, Option.map_id_fun', id]

/-- A core with a poisoned location of its atomic unit. -/
def CoreSt.poisonUnit (i : Nat) (c : CoreSt) : CoreSt := { c with atomUnit := poisonLoc c.atomUnit i }

/-- A cluster with a poisoned location of its atomic unit. -/
def Cluster.poisonUnit (i : Nat) (c : Cluster) : Cluster := { c with atomStore := poisonLoc c.atomStore i }

/-- A cluster with an entry of its peat store in error. -/
def Cluster.failPeat (entry : Nat) (c : Cluster) : Cluster := { c with peat := modAt c.peat entry fun e => { e with err := true } }

/-- Poisoned sectors of the sluice after one more. -/
def State.sluicePoisonedAt (s : State) (sector : Nat) : List Nat :=
  if s.sluicePoison.contains (sluiceBase / 64 + sector) then s.sluicePoison else s.sluicePoison ++ [sluiceBase / 64 + sector]

theorem sluiceError_eq (s : State) {sector : Nat} (inside : sector < 4096) :
    exec (.uncorrectableError (.sluice sector)) s = .next { s with sluicePoison := s.sluicePoisonedAt sector } := by
  refine congrArg Host.Outcome.next ?_
  show (if sector < 4096 && !s.sluicePoison.contains (sluiceBase / 64 + sector) then _ else s) = _
  unfold State.sluicePoisonedAt
  rw [decide_eq_true inside, Bool.true_and]
  cases s.sluicePoison.contains (sluiceBase / 64 + sector) <;> rfl

theorem State.mem_sluicePoisonedAt (s : State) (sector k : Nat) :
    k ∈ s.sluicePoisonedAt sector ↔ k ∈ s.sluicePoison ∨ k = sluiceBase / 64 + sector := by
  unfold State.sluicePoisonedAt
  split
  next held =>
    have held : sluiceBase / 64 + sector ∈ s.sluicePoison := by simpa using held
    exact ⟨.inl, fun h => h.elim id fun same => same ▸ held⟩
  next => rw [List.mem_append, List.mem_singleton]

theorem modAt_eq_setAt {α : Type} {l : List α} {n : Nat} {x : α} (found : l[n]? = some x) (f : α → α) : modAt l n f = setAt l n (f x) := by
  refine List.ext_getElem? fun k => ?_
  rw [getElem_modAt, setAt, List.getElem?_set]
  obtain ⟨fixed, -⟩ := List.getElem?_eq_some_iff.1 found
  by_cases own : k = n
  · subst own
    rw [if_pos rfl, if_pos rfl, if_pos fixed, found, Option.map_some]
  · rw [if_neg own, if_neg (Ne.symm own)]

theorem Cluster.peatLook_error {c : Cluster} {key : PeatKey} {e : PeatEntry} (found : c.peatFind key = some e) (bad : e.err = true) (a : Nat) :
    c.peatLook key a = (.miss, c.peatDrop key) := by
  unfold Cluster.peatLook
  rw [found]
  exact if_pos bad

theorem Cluster.peatDrop_gone (c : Cluster) (key : PeatKey) : ∀ x ∈ (c.peatDrop key).peat, x.key ≠ key := by
  intro x hx
  simpa using (List.mem_filter.1 hx).2

/-! ### The warm reset (R447) -/

/-- Bytes on their way to memory: where there are none, a warm reset flushes nothing. -/
theorem State.flushAtReset_none {s : State} (published : s.publishedOrder = []) (clean : ∀ x ∈ s.l2, x.dirty = 0) : s.flushAtReset = s := by
  have none : s.l2.filter (fun x => x.dirty != 0) = [] := List.filter_eq_nil_iff.2 fun x hx => by simp [clean x hx]
  simp only [State.flushAtReset, published, List.foldl_nil, none]

/-- The state after a warm reset, its flushes done. -/
def State.warmed (s : State) : State :=
  { State.reset with
    dev := { State.reset.dev with form := s.dev.form, memGib := s.dev.memGib, lastWarm := true, outbox := s.dev.outbox }
    mem := s.mem, memPoison := s.memPoison, sluice := s.sluice, sluicePoison := s.sluicePoison, controllers := s.controllers
    cores := s.cores.map CoreSt.warm, inputs := s.inputs, free := s.free }

theorem warmReset_eq {s : State} (running : s.dev.tripped = false) : exec .warmReset s = .next s.flushAtReset.warmed := if_neg (by simp [running])

theorem State.warmed_core (s : State) (c : Nat) : s.warmed.core c = (s.core c).warm := State.core_of_map (t := s.warmed) (f := CoreSt.warm) rfl rfl c

/-! ### Bring-up (R448, R449) -/

/-- The device's registers are as they were, but for what has left the device and what was counted. -/
def DevKept (s t : State) : Prop := t.dev = { s.dev with outbox := t.dev.outbox, hostErr := t.dev.hostErr }

theorem DevKept.of_dev {s t : State} (same : t.dev = s.dev) : DevKept s t := by
  unfold DevKept
  rw [same]

theorem DevKept.trans {s t u : State} (h : DevKept s t) (k : DevKept t u) : DevKept s u := by
  unfold DevKept at *
  rw [k, h]

theorem State.poisonSector_devKept (s : State) (pa origin : Nat) (comp : Bool) : DevKept s (s.poisonSector pa origin comp) := by
  obtain ⟨out, eq⟩ := s.poisonSector_eq pa origin comp
  rw [eq]
  rfl

theorem State.l2Apply_dev (s : State) (x : Loc) (mask : DWord) (bytes : List Byte) (ext : Bool) : (s.l2Apply x mask bytes ext).dev = s.dev := by
  have fits (u : State) : (u.l2Fit x.home x.sector).dev = u.dev := by
    obtain ⟨shape, -⟩ := u.l2Fit_cachesOnly x.home x.sector
    rw [shape]
  have puts (u : State) (y : L2Sector) : (u.putL2 y).dev = u.dev := by
    rw [u.putL2_onlyL2 y]
  unfold State.l2Apply
  split
  · rfl
  · refine (fits _).trans ((puts _ _).trans ?_)
    rw [State.expand_eq]

theorem State.applyAt_devKept (s : State) (x : Loc) (mask : DWord) (bytes : List Byte) (pois ext : Bool) :
    DevKept s (s.applyAt x mask bytes pois ext) := by
  unfold State.applyAt
  split
  · exact .of_dev rfl
  · split
    · have applied : DevKept s (s.l2Apply x mask bytes ext) := .of_dev (s.l2Apply_dev x mask bytes ext)
      dsimp only
      split
      · exact applied.trans (State.poisonSector_devKept _ _ _ _)
      · exact applied
    · dsimp only
      split <;> exact .of_dev rfl
    · unfold State.hostWrite
      split <;> rfl

/-- The state with an image's bytes in memory. -/
def State.imageWritten (s : State) (image : CtlImage) : State :=
  (sectorWrites ((image.bytes.filter fun x => x.1 < s.memTop).map fun x => (locOf x.1 false, x.2))).foldl
    (fun s w => s.applyAt w.loc w.mask w.data false true) s

theorem State.imageWritten_devKept (s : State) (image : CtlImage) : DevKept s (s.imageWritten image) :=
  List.foldlRecOn (motive := fun t => DevKept s t) _ _ (.of_dev rfl) fun t kept w _ => kept.trans (t.applyAt_devKept w.loc w.mask w.data false true)

theorem State.imageWritten_batts (s : State) (image : CtlImage) : (s.imageWritten image).batts = s.batts :=
  List.foldlRecOn (motive := fun t => t.batts = s.batts) _ _ rfl fun t same w _ =>
    ((State.Applied.refl t).applyAt (x := w.loc) (mask := w.mask) (bytes := w.data) (pois := false) (ext := true)).batts.trans same

/-- The state in which a started control program takes its seat. -/
def State.beforeControl (s : State) (image : CtlImage) (regs : Nat) : State :=
  (((s.imageWritten image).discardCode 16).dropTlbs 16 (0, 2 ^ 64)).modDev
    fun d => { d with ctlRoot := image.root, ctlSlot := (s.imageWritten image).ctlPlace, ctlRegs := regs }

theorem State.startControl_eq (s : State) (image : CtlImage) (regs : Nat) : s.startControl image regs =
    (s.beforeControl image regs).seat (controlBatt (s.beforeControl image regs).dev.ctlSlot image regs) := rfl

theorem State.seat_dev (s : State) (b : Batt) : (s.seat b).dev = s.dev := by
  unfold State.seat
  split
  · rfl
  · dsimp only
    split <;> rfl

theorem State.seat_first {s : State} (none : s.batts = []) (b : Batt) : (s.seat b).batts = [b] := by
  have free : ¬ (s.batt? b.core b.slot).isSome = true := by rw [State.batt?, none]; simp
  unfold State.seat
  rw [if_neg free, none]
  dsimp only
  split <;> rfl

theorem State.startControl_dev (s : State) (image : CtlImage) (regs : Nat) : (s.startControl image regs).dev.lastWarm = s.dev.lastWarm ∧
    (s.startControl image regs).dev.railMv = s.dev.railMv ∧ (s.startControl image regs).dev.inReset = s.dev.inReset := by
  have kept := s.imageWritten_devKept image
  unfold DevKept at kept
  rw [State.startControl_eq, State.seat_dev]
  show (s.imageWritten image).dev.lastWarm = _ ∧ (s.imageWritten image).dev.railMv = _ ∧ (s.imageWritten image).dev.inReset = _
  rw [kept]
  exact ⟨rfl, rfl, rfl⟩

theorem State.startControl_first {s : State} (none : s.batts = []) (image : CtlImage) (regs : Nat) :
    ∃ slot, (s.startControl image regs).batts = [controlBatt slot image regs] :=
  ⟨_, State.seat_first (s := s.beforeControl image regs) ((s.imageWritten_batts image).trans none) _⟩

/-- The state in which bring-up starts the control program. -/
def State.trained (s : State) : State :=
  let s := s.modDev fun d => { d with inReset := false, railMv := 500 }
  let s : State := if s.dev.lastWarm then s
    else { s with mem := [], memPoison := [], sluice := [], sluicePoison := [], controllers := List.replicate 32 {} }
  { s with clusters := s.clusters.mapIdx fun k c => c.sinceReset (s.ticksSinceReset k) (Config.freeValue (s.free + 16 + k)).toNat
           free := s.free + 32 }

theorem State.trained_dev (s : State) : s.trained.dev = { s.dev with inReset := false, railMv := 500 } := by
  unfold State.trained
  dsimp only
  split <;> rfl

theorem State.trained_batts (s : State) : s.trained.batts = s.batts := by
  unfold State.trained
  dsimp only
  split <;> rfl

section
variable {s : State} (held : s.dev.inReset = true) (running : s.dev.tripped = false)
include held running

theorem bringUp_guard : ¬ (!s.dev.inReset || s.dev.tripped) = true := by simp [held, running]

theorem bringUp_noImage (failed : Word) (image : CtlImage) :
    exec (.bringUp false failed image) s = .next (s.modDev fun d => { d with inReset := false, bootFail := true }) :=
  (if_neg (bringUp_guard held running)).trans (if_pos rfl)

theorem bringUp_untrained {failed : Word} (bad : failed ≠ 0) (image : CtlImage) : exec (.bringUp true failed image) s =
    .next (s.modDev fun d => { d with inReset := false, railMv := 500, bootFail := true, failch := failed }) :=
  (if_neg (bringUp_guard held running)).trans ((if_neg (by decide)).trans (if_pos (by simpa using bad)))

theorem bringUp_trained (image : CtlImage) : exec (.bringUp true 0 image) s =
    .next ((s.trained.startControl image image.regs).modDev fun d => { d with ready := true, warm := d.lastWarm }) :=
  (if_neg (bringUp_guard held running)).trans ((if_neg (by decide)).trans (if_neg (by decide)))

end

/-- Settles O59: each fate by its own lemma, then the two resets and bring-up. -/
theorem errorsAndResets : Obligations.ErrorsAndResets := by
  unfold Obligations.ErrorsAndResets
  refine ⟨fun s slice sector x found => ⟨l2Error_clean found, l2Error_dirty found⟩, fun s core => ⟨rfl, rfl, rfl, rfl⟩,
    fun s site on controls => ⟨s.killedBy on, nodup_eraseDups _, fun _ => State.mem_killedBy, controlError_eq s controls⟩,
    fun s slice block frame => ⟨_, s.frameSectors slice block frame, rfl, fun k => State.mem_frameSectors,
      s.frameError_eq slice block frame, fun k => ?frame⟩,
    fun s sector => ⟨fun outside => congrArg Host.Outcome.next (if_neg outside.not_gt), fun inside => congrArg Host.Outcome.next (if_pos inside)⟩,
    fun s pa origin comp => ?poison, fun s core entry => rfl, fun s core slot reg => rfl, fun s core sector fixed => ?l1,
    fun s lnum felt word inside stands => ?scratch, fun s core slot bank word b stands held inside => ?bank, fun s core i fixed => ?coreUnit,
    fun s k i fixed => ?clusterUnit, fun s core slot reg lane b stands backed fixed ordered => ?vector, fun s sector inside => ?sluice,
    fun s k entry e fixed found => ?peat, fun c key a e found bad => ?look, fun s => rfl, fun s running => ?warm, fun s => rfl,
    fun s failed image held running => ⟨bringUp_noImage held running failed image, fun bad => bringUp_untrained held running bad image,
      _, bringUp_trained held running image, rfl, ?lastWarm, ?rail, ?reset, fun none => ?control⟩⟩
  case frame =>
    show k ∈ (s.frameError slice block frame).memPoison ↔ _
    rw [State.frameError_eq]
    exact State.mem_memPoison_foldl _ s k
  case poison =>
    refine ⟨s.poisonSector_shape pa origin comp, fun k => ?_, fun j other => ?_, fun fixed free => ?_⟩
    · rw [State.poisonSector_memPoison, State.mem_poisonedAt]
    · rw [State.poisonSector_controllers]
      exact s.notedIn_other pa origin comp other
    · rw [State.poisonSector_controllers, State.notedIn_own origin fixed free]
      exact ⟨Controller.note_held origin, fun fresh => ⟨Controller.note_entry origin fresh, Controller.note_quarantine origin fresh,
        Controller.note_overflow origin fresh⟩⟩
  case l1 =>
    have own := State.core_modCore (fun c => { c with l1 := l1Error sector c.l1 }) fixed
    exact ⟨_, l1Error_eq s core sector, rfl, fun c other => getD_modAt_ne _ other, by rw [own], by rw [own]; rfl⟩
  case scratch =>
    exact ⟨_, scratchError_eq inside, rfl, s.scratchRead_poisonScratch lnum felt word, State.scratchBad_poisonScratch word stands⟩
  case bank =>
    have place (b : Batt) : b.AtPlace (b.modBank bank (Bank.poisonAt word)) := ⟨rfl, rfl⟩
    refine ⟨_, b.modBank bank (Bank.poisonAt word), bankError_eq s core slot bank inside, modBatt_onlyBatt _ _ _ _ fun b _ _ => place b, ?_, rfl,
      b.bankByte_poisonAt bank word, fun k j => Batt.bankBad_poisonAt word held k⟩
    rw [State.batt?_modBatt_same _ _ _ _ place, stands]
    rfl
  case coreUnit =>
    have own := State.core_modCore (CoreSt.poisonUnit i) fixed
    refine ⟨s.modCore core (CoreSt.poisonUnit i), rfl, rfl, fun c other => getD_modAt_ne _ other, ?_, fun j => ?_⟩ <;> rw [own]
    · rfl
    · exact poisonLoc_getElem _ i j
  case clusterUnit =>
    have own : (s.modCluster k (Cluster.poisonUnit i)).cluster k = (s.cluster k).poisonUnit i := getD_modAt_self _ _ fixed
    refine ⟨s.modCluster k (Cluster.poisonUnit i), rfl, rfl, fun c other => getD_modAt_ne _ other, ?_, fun j => ?_⟩ <;> rw [own]
    · rfl
    · exact poisonLoc_getElem _ i j
  case vector =>
    obtain ⟨r, backing⟩ : ∃ r, b.vreg? reg = some r := by
      cases found : b.vreg? reg with
      | some r => exact ⟨r, rfl⟩
      | none => exact absurd backed (by simp [Batt.isBacked, found])
    refine ⟨_, b.poisonV reg (lane1 lane), rfl, modBatt_onlyBatt _ _ _ _ fun c _ _ => ?_, vectorError_batt stands backed, ?_,
      Batt.vlanes_poisonV backing fixed, fun k l => Batt.vpoison_poisonV backing fixed k⟩
    · exact ite_of (P := c.AtPlace) (.poisonV ⟨rfl, rfl⟩) ⟨rfl, rfl⟩
    · rw [Batt.poisonV_lane backing fixed]
  case sluice => exact ⟨_, sluiceError_eq s inside, rfl, fun k => s.mem_sluicePoisonedAt sector k⟩
  case peat =>
    have own : (s.modCluster k (Cluster.failPeat entry)).cluster k = (s.cluster k).failPeat entry := getD_modAt_self _ _ fixed
    refine ⟨s.modCluster k (Cluster.failPeat entry), rfl, rfl, fun c other => getD_modAt_ne _ other, ?_⟩
    rw [own, Cluster.failPeat, modAt_eq_setAt found]
  case look =>
    rw [Cluster.peatLook_error found bad]
    exact ⟨rfl, c.peatDrop_gone key⟩
  case warm =>
    refine ⟨_, warmReset_eq running, rfl, rfl, rfl, rfl, rfl, rfl, rfl, rfl, fun c => ?_, fun published clean => ?_⟩
    · rw [State.warmed_core]
      exact ⟨rfl, rfl⟩
    · rw [State.flushAtReset_none published clean]
      refine ⟨rfl, rfl, rfl, rfl, rfl, rfl, rfl, fun c => ?_⟩
      rw [State.warmed_core]
      exact ⟨rfl, rfl, rfl, rfl, rfl⟩
  case lastWarm => exact (State.startControl_dev _ _ _).1.trans (by rw [State.trained_dev])
  case rail => exact (State.startControl_dev _ _ _).2.1.trans (by rw [State.trained_dev])
  case reset => exact (State.startControl_dev _ _ _).2.2.trans (by rw [State.trained_dev])
  case control =>
    obtain ⟨slot, batts⟩ := State.startControl_first (s.trained_batts.trans none) image image.regs
    refine ⟨controlBatt slot image image.regs, ?_, rfl, rfl, rfl, fun l hl => List.eq_of_mem_replicate hl⟩
    show _ ∈ (s.trained.startControl image image.regs).batts
    rw [batts]
    exact List.mem_singleton_self _

end Sys2Proof.Machine
end

section
/-! Proofs about the arrivals at a barrier, its completions and the admissions they bring (R298, R306, R310). -/

namespace Sys2Proof.Machine

/-! ### Completions and admissions, one after the other -/

/-- What two events did to arrivals, the one after the other. -/
def BarNews.andThen (n m : BarNews) : BarNews := { counted := n.counted ++ m.counted, refused := n.refused ++ m.refused }

theorem BarNews.empty_andThen (n : BarNews) : BarNews.andThen {} n = n := rfl

theorem BarNews.andThen_empty (n : BarNews) : n.andThen {} = n := by simp [BarNews.andThen]

theorem BarNews.andThen_assoc (n m k : BarNews) : (n.andThen m).andThen k = n.andThen (m.andThen k) := by simp [BarNews.andThen]

/-- The barrier has room for an arrival (R298). -/
def Barrier.HasRoom (x : Barrier) : Prop := (x.arrived : Int) < x.count

theorem Barrier.ripe_iff {x : Barrier} : x.ripe = true ↔ x.touched = true ∧ (x.arrived : Int) = x.count ∧ x.pend = 0 := by
  simp [Barrier.ripe, and_assoc]

theorem Barrier.ripe_count1 {x : Barrier} {v : Int} : (x.count1 v).ripe = true ↔ (x.arrived : Int) + 1 = x.count ∧ x.pend + v = 0 := by
  simp [Barrier.ripe, Barrier.count1]

/-- The bytes that come with an arrival: those of a BART. -/
def Held.bytes : Held → Int
  | .batt _ v => v
  | .red => 0

/-- The batt that waits with an arrival: none waits with that of a RED (R306). -/
def Held.waiting : Held → List BattId
  | .batt id _ => [id]
  | .red => []

/-- What an arrival's own batt learns when it is counted. -/
def Barrier.countNews (x : Barrier) (who : Held) : BarNews :=
  match who with
  | .batt id _ => { counted := [(id, x.gen, x.phase)] }
  | .red => {}

/-- The head of the held queue is admitted, with the queue that is left: it counts, or it is refused (R298). -/
def Barrier.admitHead (x : Barrier) (who : Held) (rest : List Held) : Barrier × BarNews :=
  match who with
  | .red => ({ x with held := rest }.count1 0, {})
  | .batt id v =>
    if pendOk (x.pend + v) then ({ x with held := rest }.count1 v, { counted := [(id, x.gen, x.phase)] })
    else ({ x with held := rest }, { refused := [id] })

theorem Barrier.admitHead_held (x : Barrier) (who : Held) (rest : List Held) : (x.admitHead who rest).1.held = rest := by
  cases who with
  | red => rfl
  | batt id v =>
    unfold Barrier.admitHead
    dsimp only
    split <;> rfl

theorem Barrier.admitHead_refused {x : Barrier} {id : BattId} {v : Int} (rest : List Held) (large : pendOk (x.pend + v) = false) :
    x.admitHead (.batt id v) rest = ({ x with held := rest }, { refused := [id] }) := if_neg (by simp [large])

theorem Barrier.admitHead_counted {x : Barrier} {who : Held} (rest : List Held) (fits : pendOk (x.pend + who.bytes) = true ∨ who = .red) :
    x.admitHead who rest = ({ x with held := rest }.count1 who.bytes, x.countNews who) := by
  cases who with
  | red => rfl
  | batt id v => exact if_pos (fits.resolve_right nofun)

section
variable {x : Barrier} {due : Bool} (fuel : Nat) (n : BarNews)

theorem settleBar_ripe (ripe : x.ripe = true) : settleBar (fuel + 1) due x n = settleBar fuel true x.complete n := if_pos ripe

theorem settleBar_rests (unripe : ¬ x.ripe = true) (none : due = false ∨ x.held = [] ∨ ¬ x.HasRoom) : settleBar fuel due x n = (x, n) := by
  cases fuel with
  | zero => rfl
  | succ fuel =>
    refine (if_neg unripe).trans ?_
    split
    next admits =>
      simp only [Bool.and_eq_true, decide_eq_true_eq] at admits
      rw [(none.resolve_left (by simp [admits.1])).resolve_right (not_not_intro admits.2)]
    next => rfl

theorem settleBar_admits {who : Held} {rest : List Held} (unripe : ¬ x.ripe = true) (room : x.HasRoom) (held : x.held = who :: rest) :
    settleBar (fuel + 1) true x n = settleBar fuel true (x.admitHead who rest).1 (n.andThen (x.admitHead who rest).2) := by
  refine (if_neg unripe).trans ((if_pos (by simpa [Barrier.HasRoom] using room)).trans ?_)
  rw [held]
  cases who with
  | red => exact congrArg _ n.andThen_empty.symm
  | batt id v =>
    dsimp only
    split
    next fits => simp [Barrier.admitHead_counted (who := .batt id v) rest (.inl fits), Barrier.countNews, Held.bytes, BarNews.andThen]
    next large => simp [Barrier.admitHead_refused rest (Bool.not_eq_true _ ▸ large), BarNews.andThen]

end

/-- What a barrier does next: it completes, it rests, or it admits the head of its queue. -/
theorem Barrier.next_cases (x : Barrier) (due : Bool) : x.ripe = true ∨
    (¬ x.ripe = true ∧ (due = false ∨ x.held = [] ∨ ¬ x.HasRoom)) ∨
    (¬ x.ripe = true ∧ due = true ∧ x.HasRoom ∧ ∃ who rest, x.held = who :: rest) := by
  by_cases ripe : x.ripe = true
  · exact .inl ripe
  by_cases none : due = false ∨ x.held = [] ∨ ¬ x.HasRoom
  · exact .inr (.inl ⟨ripe, none⟩)
  · obtain ⟨isDue, waits, room⟩ : due = true ∧ x.held ≠ [] ∧ x.HasRoom := by simpa using none
    exact .inr (.inr ⟨ripe, isDue, room, List.exists_cons_of_ne_nil waits⟩)

/-- What was done before is kept, and nothing of it is looked at. -/
theorem settleBar_news (fuel : Nat) (due : Bool) (x : Barrier) (n : BarNews) :
    settleBar fuel due x n = ((settleBar fuel due x {}).1, n.andThen (settleBar fuel due x {}).2) := by
  induction fuel generalizing due x n with
  | zero => exact congrArg _ n.andThen_empty.symm
  | succ fuel ih =>
    obtain ripe | ⟨unripe, rests⟩ | ⟨unripe, rfl, room, who, rest, held⟩ := x.next_cases due
    · rw [settleBar_ripe fuel n ripe, settleBar_ripe fuel {} ripe]
      exact ih ..
    · rw [settleBar_rests _ n unripe rests, settleBar_rests _ {} unripe rests, BarNews.andThen_empty]
    · rw [settleBar_admits fuel n unripe room held, settleBar_admits fuel {} unripe room held, ih, ih (n := BarNews.andThen {} _),
        BarNews.andThen_assoc, BarNews.empty_andThen]

/-- A bound of the completions and admissions that a barrier has before it: each admission may bring one completion. -/
def Barrier.stepsLeft (x : Barrier) : Nat := 2 * x.held.length + if x.ripe then 1 else 0

theorem Barrier.stepsLeft_complete (x : Barrier) : x.complete.stepsLeft = 2 * x.held.length := rfl

theorem Barrier.stepsLeft_le (x : Barrier) : x.stepsLeft ≤ 2 * x.held.length + 1 := by
  unfold Barrier.stepsLeft
  split <;> omega

/-- More fuel than there are steps left changes nothing. -/
theorem settleBar_fuel {fuel : Nat} {due : Bool} {x : Barrier} (n : BarNews) (enough : x.stepsLeft ≤ fuel) :
    settleBar (fuel + 1) due x n = settleBar fuel due x n := by
  induction fuel generalizing due x n with
  | zero =>
    have unripe : ¬ x.ripe = true := fun ripe => by simp [Barrier.stepsLeft, ripe] at enough
    have none : x.held = [] := List.eq_nil_of_length_eq_zero (by unfold Barrier.stepsLeft at enough; omega)
    exact settleBar_rests 1 n unripe (.inr (.inl none))
  | succ fuel ih =>
    obtain ripe | ⟨unripe, rests⟩ | ⟨unripe, rfl, room, who, rest, held⟩ := x.next_cases due
    · rw [settleBar_ripe _ n ripe, settleBar_ripe fuel n ripe]
      refine ih n ?_
      rw [Barrier.stepsLeft_complete]
      simpa [Barrier.stepsLeft, ripe] using enough
    · rw [settleBar_rests _ n unripe rests, settleBar_rests _ n unripe rests]
    · rw [settleBar_admits _ n unripe room held, settleBar_admits fuel n unripe room held]
      refine ih _ ((Barrier.stepsLeft_le _).trans ?_)
      rw [Barrier.admitHead_held]
      simp only [Barrier.stepsLeft, held, List.length_cons] at enough
      omega

/-! ### The admissions that a completion brings -/

/-- The barrier once it has admitted what it can of its held queue. -/
def Barrier.admitted (x : Barrier) : Barrier × BarNews := settleBar (2 * x.held.length + 3) true x {}

theorem Barrier.admitted_ripe {x : Barrier} (ripe : x.ripe = true) : x.admitted = x.complete.admitted := by
  have enough : x.complete.stepsLeft ≤ 2 * x.held.length + 2 := by rw [Barrier.stepsLeft_complete]; omega
  exact (settleBar_ripe _ {} ripe).trans (settleBar_fuel {} enough).symm

theorem Barrier.admitted_rests {x : Barrier} (unripe : ¬ x.ripe = true) (none : x.held = [] ∨ ¬ x.HasRoom) : x.admitted = (x, {}) :=
  settleBar_rests _ {} unripe (.inr none)

theorem Barrier.admitted_head {x : Barrier} {who : Held} {rest : List Held} (unripe : ¬ x.ripe = true) (room : x.HasRoom)
    (held : x.held = who :: rest) :
    x.admitted = ((x.admitHead who rest).1.admitted.1, (x.admitHead who rest).2.andThen (x.admitHead who rest).1.admitted.2) := by
  have enough : (x.admitHead who rest).1.stepsLeft ≤ 2 * rest.length + 3 :=
    (Barrier.stepsLeft_le _).trans (by rw [Barrier.admitHead_held]; omega)
  rw [Barrier.admitted, held, Barrier.admitted, Barrier.admitHead_held, settleBar_admits _ {} unripe room held, settleBar_news,
    BarNews.empty_andThen]
  exact congrArg (fun r => (r.1, BarNews.andThen _ r.2)) (settleBar_fuel {} enough)

section
variable {x : Barrier} {who : Held} {rest : List Held} (unripe : ¬ x.ripe = true) (room : x.HasRoom) (held : x.held = who :: rest)
  (fits : pendOk (x.pend + who.bytes) = true ∨ who = .red)
include unripe room held fits

theorem Barrier.admitted_counts : x.admitted = (({ x with held := rest }.count1 who.bytes).admitted.1,
    (x.countNews who).andThen ({ x with held := rest }.count1 who.bytes).admitted.2) := by
  rw [Barrier.admitted_head unripe room held, Barrier.admitHead_counted rest fits]

theorem Barrier.admitted_last (last : (x.arrived : Int) + 1 = x.count ∧ x.pend + who.bytes = 0) :
    x.admitted = (({ x with held := rest }.count1 who.bytes).complete.admitted.1,
      (x.countNews who).andThen ({ x with held := rest }.count1 who.bytes).complete.admitted.2) := by
  have ripe : ({ x with held := rest }.count1 who.bytes).ripe = true := Barrier.ripe_count1.2 last
  rw [Barrier.admitted_counts unripe room held fits, Barrier.admitted_ripe ripe]

end

theorem Barrier.admitted_refuses {x : Barrier} {id : BattId} {v : Int} {rest : List Held} (unripe : ¬ x.ripe = true) (room : x.HasRoom)
    (held : x.held = .batt id v :: rest) (large : pendOk (x.pend + v) = false) : x.admitted =
      ({ x with held := rest }.admitted.1, BarNews.andThen { refused := [id] } { x with held := rest }.admitted.2) := by
  rw [Barrier.admitted_head unripe room held, Barrier.admitHead_refused rest large]

/-! ### The check after an event, and an arrival -/

theorem checkBar_completes {x : Barrier} (ripe : x.ripe = true) : checkBar false x = x.complete.admitted := settleBar_ripe _ {} ripe

theorem checkBar_unripe {x : Barrier} (unripe : ¬ x.ripe = true) : checkBar false x = (x, {}) := settleBar_rests _ {} unripe (.inl rfl)

/-- An arrival that finds room and whose bytes fit counts; what the check of it brings comes after. -/
theorem arriveBar_counts {x : Barrier} {v : Int} (who : Held) (room : x.HasRoom) (fits : pendOk (x.pend + v) = true) :
    arriveBar false x who v = ((checkBar false (x.count1 v)).1, (x.countNews who).andThen (checkBar false (x.count1 v)).2) := by
  refine (if_pos room).trans ((if_pos fits).trans ?_)
  cases who <;> rfl

theorem arriveBar_last {x : Barrier} {v : Int} (who : Held) (room : x.HasRoom) (fits : pendOk (x.pend + v) = true)
    (last : (x.arrived : Int) + 1 = x.count ∧ x.pend + v = 0) : arriveBar false x who v =
      ((x.count1 v).complete.admitted.1, (x.countNews who).andThen (x.count1 v).complete.admitted.2) := by
  rw [arriveBar_counts who room fits, checkBar_completes (Barrier.ripe_count1.2 last)]

theorem arriveBar_early {x : Barrier} {v : Int} (who : Held) (room : x.HasRoom) (fits : pendOk (x.pend + v) = true)
    (early : ¬ ((x.arrived : Int) + 1 = x.count ∧ x.pend + v = 0)) : arriveBar false x who v = (x.count1 v, x.countNews who) := by
  rw [arriveBar_counts who room fits, checkBar_unripe (mt Barrier.ripe_count1.1 early), BarNews.andThen_empty]

theorem arriveBar_refused {x : Barrier} {v : Int} (who : Held) (room : x.HasRoom) (large : pendOk (x.pend + v) = false) :
    arriveBar false x who v = (x, { refused := who.waiting }) :=
  (if_pos room).trans (if_neg (by simp [large]))

/-- Settles O36: an arrival is counted and checked, and what a barrier admits it admits one held arrival after the other. -/
theorem barrierArrivals : Obligations.BarrierArrivals := by
  unfold Obligations.BarrierArrivals
  refine ⟨fun x who => ⟨fun room fits => ⟨fun last => ?last, fun early => ?early⟩, fun full => if_neg (Int.not_lt.2 full),
      fun room large => arriveBar_refused who room large⟩,
    fun x unripe => ?admissions,
    fun x => ⟨fun ripe => checkBar_completes (Barrier.ripe_iff.2 ripe), fun unripe => checkBar_unripe (mt Barrier.ripe_iff.1 unripe)⟩,
    fun x => rfl⟩
  case last => cases who with | batt | red => exact arriveBar_last _ room fits last
  case early => cases who with | batt | red => exact arriveBar_early _ room fits early
  case admissions =>
    rw [← Barrier.ripe_iff] at unripe
    refine ⟨fun none => Barrier.admitted_rests unripe (none.imp_right Int.not_lt.2),
      fun who rest held room => ⟨fun fits => ?counts, fun id v eq large => ?refuses⟩⟩
    case counts => cases who with
      | batt | red => exact ⟨Barrier.admitted_last unripe room held fits, fun _ => Barrier.admitted_counts unripe room held fits⟩
    case refuses =>
      subst eq
      exact Barrier.admitted_refuses unripe room held large

end Sys2Proof.Machine
end

section
/-! Proofs about the barrier words (R300 to R305). -/

namespace Sys2Proof.Machine

theorem wordWaits_of_body {i : Instr} {body : Iss → State → Body} {c : Iss → State → Prop} {e : Iss → State → State}
    (runs : ∀ s, exec i s = runWord i body s) (waits : ∀ x t, c x t → body x t = .wait (e x t)) : WordWaits i c e :=
  fun s x _ t clear ok => (runs s).trans (runWord_waits clear (waits x t ok))

/-! ### The words that arrive at a barrier: BARV, BARS and BART with ARR (R301, R302) -/

/-- What a word does with its arrival: `counted` where it counts, a trap where its bytes do not fit, a wait where it is held. -/
def arrivalBody (v : BitVec 10) (bytes : Int) (counted : Nat → Bool → State → Body) : Iss → State → Body := fun x t =>
  match t.arriveAt x v bytes with
  | (.counted g ph, u) => counted g ph u
  | (.refused, u) => .trap (causesOf x.active cBARTX 0) u
  | (.held, u) => u.waitAtBar x (.held (barKind v) (barNum v) bytes x.instr)

section
variable {v : BitVec 10} {bytes : Int} {counted : Nat → Bool → State → Body} {x : Iss} {t u : State}

theorem arrivalBody_counted {g : Nat} {ph : Bool} (arrived : t.arriveAt x v bytes = (.counted g ph, u)) :
    arrivalBody v bytes counted x t = counted g ph u := by rw [arrivalBody, arrived]

theorem arrivalBody_refused (arrived : t.arriveAt x v bytes = (.refused, u)) :
    arrivalBody v bytes counted x t = .trap (causesOf x.active cBARTX 0) u := by rw [arrivalBody, arrived]

theorem arrivalBody_held (arrived : t.arriveAt x v bytes = (.held, u)) :
    arrivalBody v bytes counted x t = u.waitAtBar x (.held (barKind v) (barNum v) bytes x.instr) := by rw [arrivalBody, arrived]

end

section
variable {f : RForm} {x : Iss} {t : State}

theorem barvBody_denied (denied : barDenied t (x.at t) f.a = true) : barvBody f x t = .trap (causesOf x.active cBARMEM 0) t := if_pos denied

theorem barvBody_member (member : barDenied t (x.at t) f.a = false) : barvBody f x t = arrivalBody f.a 0
    (fun _ ph u => .done (if f.mb 0 then x.set u fun b => b.setS f.d.toNat (if ph then 1 else 0) else u)) x t :=
  if_neg (Bool.eq_false_iff.1 member)

theorem barsBody_denied (denied : barDenied t (x.at t) f.a = true) : barsBody f x t = .trap (causesOf x.active cBARMEM 0) t := if_pos denied

/-- The wait of a BARS for the generation that counted its arrival, unless that has completed (R302). -/
def barsCounted (f : RForm) (x : Iss) (r : BarRef) (g : Nat) (u : State) : Body :=
  if g < (u.bar r).gen then .done (u.acquireAt x.core (barScope (barKind f.a)))
  else u.waitAtBar x (.counted (barKind f.a) (barNum f.a) g)

theorem barsBody_member (member : barDenied t (x.at t) f.a = false) :
    barsBody f x t = arrivalBody f.a 0 (fun g _ u => barsCounted f x ((x.at t).namedBar f.a) g u) x t :=
  if_neg (Bool.eq_false_iff.1 member)

/-- The bytes that a BART announces (R303). -/
def bartBytes (f : RForm) (x : Iss) (t : State) : Int := sval 64 ((x.at t).s f.b.toNat).toNat

theorem bartBody_denied (denied : barDenied t (x.at t) f.a = true) : bartBody f x t = .trap (causesOf x.active cBARMEM 0) t := if_pos denied

theorem bartBody_arrives (arr : f.mb 0 = true) (member : barDenied t (x.at t) f.a = false) :
    bartBody f x t = arrivalBody f.a (bartBytes f x t) (fun _ _ u => .done u) x t :=
  (if_neg (Bool.eq_false_iff.1 member)).trans (if_pos arr)

section
variable (plain : f.mb 0 = false) (member : barDenied t (x.at t) f.a = false)
include plain member

/-- A BART without ARR adds its bytes, or traps where they do not fit (R303). -/
theorem bartBody_adds : bartBody f x t = match t.barBytes ((x.at t).namedBar f.a) (bartBytes f x t) with
    | some (n, u) => .done ((u.noteRefusals [n]).settleHalted)
    | none => .trap (causesOf x.active cBARTX 0) t :=
  (if_neg (Bool.eq_false_iff.1 member)).trans (if_neg (Bool.eq_false_iff.1 plain))

theorem bartBody_fits {n : BarNews} {u : State} (fits : t.barBytes ((x.at t).namedBar f.a) (bartBytes f x t) = some (n, u)) :
    bartBody f x t = .done ((u.noteRefusals [n]).settleHalted) := by
  rw [bartBody_adds plain member, fits]

theorem bartBody_large (large : t.barBytes ((x.at t).namedBar f.a) (bartBytes f x t) = none) :
    bartBody f x t = .trap (causesOf x.active cBARTX 0) t := by
  rw [bartBody_adds plain member, large]

end

/-! ### BARW and BARQ (R304, R305) -/

/-- The phase that a BARW waits to see the end of (R304). -/
def barwPhase (f : RForm) (x : Iss) (t : State) : Bool := ((x.at t).s f.b.toNat).getLsbD 0

theorem barwBody_missing (missing : barMissing t (x.at t) f.a = true) : barwBody f x t = .trap (causesOf x.active cBARMEM 0) t := if_pos missing

theorem barwBody_declared (declared : barMissing t (x.at t) f.a = false) : barwBody f x t =
    if (t.bar ((x.at t).namedBar f.a)).phase != barwPhase f x t then .done (t.acquireAt x.core (barScope (barKind f.a)))
    else t.waitAtBar x (.phase (barKind f.a) (barNum f.a) (barwPhase f x t)) := if_neg (Bool.eq_false_iff.1 declared)

theorem barqBody_missing (missing : barMissing t (x.at t) f.a = true) : barqBody f x t = .trap (causesOf x.active cBARMEM 0) t := if_pos missing

theorem barqBody_declared (declared : barMissing t (x.at t) f.a = false) :
    barqBody f x t = .done (x.set t fun b => b.setS f.d.toNat (t.bar (b.namedBar f.a)).word) := if_neg (Bool.eq_false_iff.1 declared)

end

theorem barq_does (f : RForm) : WordDoes (.barq f) (fun x t => barMissing t (x.at t) f.a = false)
    fun x t => x.set t fun b => b.setS f.d.toNat (t.bar ((x.at t).namedBar f.a)).word := by
  intro s x n t clear declared
  have effect := runWord_done (body := barqBody f) clear (barqBody_declared declared)
  exact effect.trans (congrArg (fun u => Host.Outcome.next (wordDone x n u)) (clear_set_congr clear rfl))

end Sys2Proof.Machine
end

section
/-! Proofs about the accumulator-bank words (R311 to R316, R324). -/

namespace Sys2Proof.Machine

/-! ### ABALLOC (R312) -/

section
variable {f : RForm} {x : Iss} {t : State}

/-- The banks that an ABALLOC asks for are free, and no other batt of its core waits for banks (R312). -/
def BanksFree (f : RForm) (x : Iss) (t : State) : Prop := (t.core x.core).bankQueue = [] ∧ f.mf 3 0 + 1 ≤ t.freeBanks x.core

theorem aballocBody_nested (holds : (x.at t).banks ≠ []) : aballocBody f x t = .trap (causesOf x.active cNESTALLOC 0) t :=
  if_pos (by simpa [Iss.at] using holds)

theorem banksFree_iff : BanksFree f x t ↔
    ((t.core x.core).bankQueue.isEmpty && decide (f.mf 3 0 + 1 ≤ t.freeBanks x.core)) = true := by simp [BanksFree]

section
variable (holdsNone : (x.at t).banks = [])
include holdsNone

theorem aballocBody_checked : aballocBody f x t =
    if (t.core x.core).bankQueue.isEmpty && decide (f.mf 3 0 + 1 ≤ t.freeBanks x.core)
    then .done (x.set t fun b => { b with banks := newBanks (f.mf 3 0 + 1) })
    else .wait (x.set (t.modCore x.core fun c => { c with bankQueue := c.bankQueue ++ [x.slot] }) fun b =>
      { b with wait := .banks (f.mf 3 0 + 1) }) := if_neg (by simpa [Iss.at] using holdsNone)

theorem aballocBody_granted (free : BanksFree f x t) :
    aballocBody f x t = .done (x.set t fun b => { b with banks := newBanks (f.mf 3 0 + 1) }) :=
  (aballocBody_checked holdsNone).trans (if_pos (banksFree_iff.1 free))

theorem aballocBody_queued (short : ¬ BanksFree f x t) : aballocBody f x t =
    .wait (x.set (t.modCore x.core fun c => { c with bankQueue := c.bankQueue ++ [x.slot] }) fun b =>
      { b with wait := .banks (f.mf 3 0 + 1) }) :=
  (aballocBody_checked holdsNone).trans (if_neg (mt banksFree_iff.2 short))

end

end

/-! ### ALD and AST (R315) -/

/-- The check of a lane of ALD or AST. -/
def aldCause (f : RForm) (b : Batt) (l : Nat) : Option LaneCause :=
  let aa := aldAddr f b l
  if aa % aldSize f != 0 then some { lane := l, cause := cALIGN, faddr := BitVec.ofNat 64 aa }
  else if 262144 < aa + aldSize f || (b.bankMiss aa (aldSize f)).isSome then some { lane := l, cause := cRANGE, faddr := BitVec.ofNat 64 aa }
  else none

theorem aldCauses_eq (f : RForm) (b : Batt) (m : Mask) : aldCauses f b m = (lanesOf m).filterMap (aldCause f b) := rfl

section
variable {f : RForm} {b : Batt} {l : Nat}

theorem aldCause_align (bad : aldAddr f b l % aldSize f ≠ 0) :
    aldCause f b l = some { lane := l, cause := cALIGN, faddr := BitVec.ofNat 64 (aldAddr f b l) } := if_pos (by simpa using bad)

/-- The range of a lane leaves the accumulator memory or the banks that the batt holds. -/
def AldOutside (f : RForm) (b : Batt) (l : Nat) : Prop :=
  262144 < aldAddr f b l + aldSize f ∨ (b.bankMiss (aldAddr f b l) (aldSize f)).isSome = true

theorem aldCause_range (aligned : aldAddr f b l % aldSize f = 0) (out : AldOutside f b l) :
    aldCause f b l = some { lane := l, cause := cRANGE, faddr := BitVec.ofNat 64 (aldAddr f b l) } :=
  (if_neg (by simpa using aligned)).trans (if_pos (by simpa [AldOutside] using out))

theorem aldCause_none (aligned : aldAddr f b l % aldSize f = 0) (inside : ¬ AldOutside f b l) : aldCause f b l = none :=
  (if_neg (by simpa using aligned)).trans (if_neg (by simpa [AldOutside] using inside))

theorem aldCause_lane {c : LaneCause} (found : aldCause f b l = some c) : c.lane = l := by
  unfold aldCause at found
  dsimp only at found
  split at found
  · cases found; rfl
  · split at found <;> cases found
    rfl

/-- A lane is named with a cause exactly where its own check finds it. -/
theorem exists_aldCauses {m : Mask} (lane : l < 32) (acts : inMask m l = true) (k : Nat) :
    (∃ c ∈ aldCauses f b m, c.lane = l ∧ c.cause = k) ↔ ∃ c, aldCause f b l = some c ∧ c.cause = k := by
  simp only [aldCauses_eq, List.mem_filterMap]
  constructor
  · rintro ⟨c, ⟨j, -, found⟩, own, cause⟩
    rw [aldCause_lane found] at own
    exact ⟨c, own ▸ found, cause⟩
  · rintro ⟨c, found, cause⟩
    exact ⟨c, ⟨l, (mem_lanesOf lane).2 acts, found⟩, aldCause_lane found, cause⟩

theorem exists_aldCause_align : (∃ c, aldCause f b l = some c ∧ c.cause = cALIGN) ↔ aldAddr f b l % aldSize f ≠ 0 := by
  by_cases aligned : aldAddr f b l % aldSize f = 0
  · by_cases out : AldOutside f b l
    · simp [aldCause_range aligned out, aligned, cRANGE, cALIGN]
    · simp [aldCause_none aligned out, aligned]
  · simp [aldCause_align aligned, aligned]

theorem exists_aldCause_range :
    (∃ c, aldCause f b l = some c ∧ c.cause = cRANGE) ↔ aldAddr f b l % aldSize f = 0 ∧ AldOutside f b l := by
  by_cases aligned : aldAddr f b l % aldSize f = 0
  · by_cases out : AldOutside f b l
    · simp [aldCause_range aligned out, aligned, out]
    · simp [aldCause_none aligned out, out]
  · simp [aldCause_align aligned, aligned, cRANGE, cALIGN]

end

section
variable {f : RForm} {x : Iss} {t : State}

theorem checked_fails {causes : List LaneCause} {effect : Body} (failed : causes ≠ []) : checked causes t effect = .trap causes t := by
  obtain ⟨c, cs, rfl⟩ := List.exists_cons_of_ne_nil failed
  rfl

/-- The lanes of an ALD that read a poisoned word (R315). -/
def aldPoisoned (f : RForm) (x : Iss) (t : State) : List Nat :=
  (lanesOf x.active).filter fun l => ((x.at t).bankBad (aldAddr f (x.at t) l) (aldSize f)).isSome

/-- The causes of the lanes of an ALD that read a poisoned word. -/
def aldPoisonCauses (f : RForm) (x : Iss) (t : State) : List LaneCause :=
  (aldPoisoned f x t).map fun l => { lane := l, cause := cPOISON, faddr := BitVec.ofNat 64 (aldAddr f (x.at t) l) }

/-- What an ALD that passes its checks leaves in its lanes. -/
def Batt.aldPut (f : RForm) (active : Mask) (old b : Batt) : Batt :=
  let val (l : Nat) : Nat := numOf (old.bankRead (aldAddr f old l) (aldSize f))
  if f.mb 0 then b.setW f.d.toNat active fun l => BitVec.ofNat 64 (val l) else b.setV f.d.toNat active fun l => BitVec.ofNat 32 (val l)

theorem aldBody_eq : aldBody f x t = checked (aldCauses f (x.at t) x.active) t
    (checked (aldPoisonCauses f x t) t (.done (x.set t (Batt.aldPut f x.active (x.at t))))) := by
  have poisoned : checked (aldPoisonCauses f x t) t (.done (x.set t (Batt.aldPut f x.active (x.at t)))) = match aldPoisoned f x t with
      | l :: ls => .trap ((l :: ls).map fun l => { lane := l, cause := cPOISON, faddr := BitVec.ofNat 64 (aldAddr f (x.at t) l) }) t
      | [] => .done (x.set t (Batt.aldPut f x.active (x.at t))) := by
    unfold aldPoisonCauses
    cases aldPoisoned f x t <;> rfl
  rw [poisoned]
  rfl

theorem aldPoisonCauses_clean (clean : aldPoisoned f x t = []) : aldPoisonCauses f x t = [] := List.map_eq_nil_iff.2 clean

theorem aldBody_passed (passed : aldCauses f (x.at t) x.active = []) :
    aldBody f x t = checked (aldPoisonCauses f x t) t (.done (x.set t (Batt.aldPut f x.active (x.at t)))) :=
  aldBody_eq.trans (checked_passed passed)

theorem astBody_eq : astBody f x t = checked (aldCauses f (x.at t) x.active) t
    (.done (x.set t fun b => (lanesOf x.active).foldl (fun c l =>
      c.bankStore (aldAddr f b l) (bytesOf (aldSize f) (b.rdD f (f.mb 0) l)) false) b)) := rfl

end

/-! ### The .SP forms and AZERO (R316, R324) -/

/-- What the checks of R316 can find, and the address that they name. -/
theorem spCheck_cause {b : Batt} {scratch aa n : Nat} {off : Option Nat} {c a : Nat} (found : spCheck b scratch aa n off = some (c, a)) :
    (c = cALIGN ∧ a % 4 ≠ 0) ∨
    (c = cRANGE ∧ (262144 < n ∨ b.bankMiss aa n = some a ∨ ∃ o, off = some o ∧ scratch < o + n)) := by
  unfold spCheck at found
  dsimp only at found
  split at found
  next v odd =>
    cases found
    exact .inl ⟨rfl, by simpa using List.find?_some odd⟩
  next =>
    refine .inr ?_
    split at found
    next long => cases found; exact ⟨rfl, .inl long⟩
    next =>
      split at found
      next miss => cases found; exact ⟨rfl, .inr (.inl miss)⟩
      next =>
        cases off with
        | none => cases found
        | some o =>
          dsimp only at found
          split at found
          next past =>
            cases found
            simp only [Bool.and_eq_true, decide_eq_true_eq] at past
            exact ⟨rfl, .inr (.inr ⟨o, rfl, past.2⟩)⟩
          next => cases found

/-- The accumulator address that a word of R316 names. -/
def spAcc (f : RForm) (b : Batt) : Nat := (b.s f.a.toNat).toNat

/-- The scratchpad offset that it names. -/
def spOff (f : RForm) (b : Batt) : Nat := (b.s f.b.toNat).toNat

/-- The length that it names. -/
def spLen (f : RForm) (b : Batt) : Nat := (b.s f.c.toNat).toNat

section
variable (x : Iss) (t : State)

/-- What the checks of R316 find: the trap, or what follows where they pass. -/
def spChecked (check : Option (Nat × Nat)) (effect : Body) : Body :=
  match check with
  | some (c, a) => .trap (causesOf x.active c (BitVec.ofNat 64 a)) t
  | none => effect

variable {x t} {check : Option (Nat × Nat)} {effect : Body}

theorem spChecked_passed (passed : check = none) : spChecked x t check effect = effect := by rw [passed, spChecked]

theorem spChecked_fails {c a : Nat} (failed : check = some (c, a)) :
    spChecked x t check effect = .trap (causesOf x.active c (BitVec.ofNat 64 a)) t := by rw [failed, spChecked]

end

section
variable (f : RForm) (x : Iss) (t : State)

/-- The checks of ALD.SP and AST.SP. -/
def spFails : Option (Nat × Nat) :=
  spCheck (x.at t) (t.battScratch (x.at t)) (spAcc f (x.at t)) (spLen f (x.at t)) (some (spOff f (x.at t)))

/-- The checks of AZERO. -/
def azeroFails : Option (Nat × Nat) := spCheck (x.at t) 0 (spAcc f (x.at t)) (spLen f (x.at t)) none

/-- An engine's operation has locked the range that ALD.SP writes (R324). -/
def aldSpLocked : Bool :=
  (t.core x.core).storeLocked (x.at t).id.lnum (x.at t).id.felt [(spOff f (x.at t), spLen f (x.at t))]

/-- An engine's operation has locked the range that AST.SP reads (R324). -/
def astSpLocked : Bool :=
  (t.core x.core).loadLocked x.slot (x.at t).id.lnum (x.at t).id.felt [(spOff f (x.at t), spLen f (x.at t))]

theorem aldSpBody_eq : aldSpBody f x t = spChecked x t (spFails f x t) (if aldSpLocked f x t then .stall false else
    .done (t.scratchPut (x.at t).id.lnum (x.at t).id.felt (spOff f (x.at t))
      (((x.at t).bankWords (spAcc f (x.at t)) (spLen f (x.at t))).map fun w => taint w.2 w.1).flatten)) := rfl

theorem astSpBody_eq : astSpBody f x t = spChecked x t (spFails f x t) (if astSpLocked f x t then .stall false else
    .done (x.set t fun b => ((chunksOf 4 (spLen f (x.at t))
        (t.scratchBytes (x.at t).id.lnum (x.at t).id.felt (spOff f (x.at t)) (spLen f (x.at t)))).foldl
      (fun (acc : Batt × Nat) w => (acc.1.bankStore acc.2 (w.map (·.1)) (w.any (·.2)), acc.2 + 4)) (b, spAcc f (x.at t))).1)) := rfl

theorem azeroBody_eq : azeroBody f x t = spChecked x t (azeroFails f x t)
    (.done (x.set t fun b => b.bankStore (spAcc f (x.at t)) (List.replicate (spLen f (x.at t)) 0) false)) := rfl

end

/-! ### The barrier words and the bank words -/

/-- Settles O37: each word by its body, an arrival by what became of it, the bank words by the outcome of their checks. -/
theorem barrierAndBankWords : Obligations.BarrierAndBankWords := by
  unfold Obligations.BarrierAndBankWords
  refine ⟨⟨fun f g ph u => ?barv, fun f g ph u => ?bars, fun f g ph u => ?bart, fun f => ?phases⟩, fun f => ?aballoc, fun f => ?abfree,
    fun f => ?abfreeAll, fun f => ?lanes, fun f => ?ranges, fun _ _ _ _ _ _ _ found => spCheck_cause found, fun f => ?azeroAll⟩
  case barv =>
    have runs (s) : exec (.barv f) s = runWord (.barv f) (barvBody f) s := rfl
    exact ⟨wordDoes_of_body runs fun _ _ ⟨member, arrived⟩ => (barvBody_member member).trans (arrivalBody_counted arrived),
      wordWaits_of_body runs fun _ _ ⟨member, arrived⟩ => (barvBody_member member).trans (arrivalBody_held arrived),
      wordTrapsIn_of_body runs fun _ _ ⟨member, arrived⟩ => (barvBody_member member).trans (arrivalBody_refused arrived),
      wordTraps_of_body runs fun _ _ denied => barvBody_denied denied⟩
  case bars =>
    have runs (s) : exec (.bars f) s = runWord (.bars f) (barsBody f) s := rfl
    exact ⟨wordDoes_of_body runs fun _ _ ⟨⟨member, arrived⟩, complete⟩ =>
        ((barsBody_member member).trans (arrivalBody_counted arrived)).trans (if_pos complete),
      wordWaits_of_body runs fun _ _ ⟨⟨member, arrived⟩, incomplete⟩ =>
        ((barsBody_member member).trans (arrivalBody_counted arrived)).trans (if_neg (Nat.not_lt.2 incomplete)),
      wordWaits_of_body runs fun _ _ ⟨member, arrived⟩ => (barsBody_member member).trans (arrivalBody_held arrived),
      wordTrapsIn_of_body runs fun _ _ ⟨member, arrived⟩ => (barsBody_member member).trans (arrivalBody_refused arrived),
      wordTraps_of_body runs fun _ _ denied => barsBody_denied denied⟩
  case bart =>
    have runs (s) : exec (.bart f) s = runWord (.bart f) (bartBody f) s := rfl
    exact ⟨wordDoes_of_body runs fun _ _ ⟨arr, member, arrived⟩ => (bartBody_arrives arr member).trans (arrivalBody_counted arrived),
      wordWaits_of_body runs fun _ _ ⟨arr, member, arrived⟩ => (bartBody_arrives arr member).trans (arrivalBody_held arrived),
      wordTrapsIn_of_body runs fun _ _ ⟨arr, member, arrived⟩ => (bartBody_arrives arr member).trans (arrivalBody_refused arrived),
      fun n => wordDoes_of_body runs fun _ _ ⟨plain, member, fits⟩ => bartBody_fits plain member fits,
      wordTraps_of_body runs fun _ _ ⟨plain, member, large⟩ => bartBody_large plain member large,
      wordTraps_of_body runs fun _ _ denied => bartBody_denied denied⟩
  case phases =>
    have waits (s) : exec (.barw f) s = runWord (.barw f) (barwBody f) s := rfl
    have reads (s) : exec (.barq f) s = runWord (.barq f) (barqBody f) s := rfl
    exact ⟨wordDoes_of_body waits fun _ _ ⟨declared, turned⟩ => (barwBody_declared declared).trans (if_pos (bne_iff_ne.2 turned)),
      wordWaits_of_body waits fun _ _ ⟨declared, same⟩ => (barwBody_declared declared).trans (if_neg (mt bne_iff_ne.1 (not_not_intro same))),
      wordTraps_of_body waits fun _ _ missing => barwBody_missing missing, barq_does f,
      wordTraps_of_body reads fun _ _ missing => barqBody_missing missing⟩
  case aballoc =>
    have runs (s) : exec (.aballoc f) s = runWord (.aballoc f) (aballocBody f) s := rfl
    exact ⟨wordDoes_of_body runs fun _ _ ⟨holdsNone, free⟩ => aballocBody_granted holdsNone free,
      wordWaits_of_body runs fun _ _ ⟨holdsNone, short⟩ => aballocBody_queued holdsNone short,
      wordTraps_of_body runs fun _ _ holds => aballocBody_nested holds⟩
  case abfree => exact wordDoes_of_body (fun _ => rfl) fun _ _ _ => rfl
  case abfreeAll => exact wordDoes_of_body (fun _ => rfl) fun _ _ _ => rfl
  case lanes =>
    have loads (s) : exec (.ald f) s = runWord (.ald f) (aldBody f) s := rfl
    have stores (s) : exec (.ast f) s = runWord (.ast f) (astBody f) s := rfl
    exact ⟨wordDoes_of_body loads fun _ _ ⟨passed, clean⟩ => (aldBody_passed passed).trans (checked_passed (aldPoisonCauses_clean clean)),
      wordTraps_of_body loads fun _ _ ⟨passed, poisoned⟩ => (aldBody_passed passed).trans (checked_fails (mt List.map_eq_nil_iff.1 poisoned)),
      wordTraps_of_body loads fun _ _ failed => aldBody_eq.trans (checked_fails failed),
      wordDoes_of_body stores fun _ _ passed => astBody_eq.trans (checked_passed passed),
      wordTraps_of_body stores fun _ _ failed => astBody_eq.trans (checked_fails failed),
      fun b m l lane acts => ⟨(exists_aldCauses lane acts _).trans exists_aldCause_align,
        (exists_aldCauses lane acts _).trans exists_aldCause_range⟩⟩
  case ranges =>
    have loads (s) : exec (.aldSp f) s = runWord (.aldSp f) (aldSpBody f) s := rfl
    have stores (s) : exec (.astSp f) s = runWord (.astSp f) (astSpBody f) s := rfl
    have zeroes (s) : exec (.azero f) s = runWord (.azero f) (azeroBody f) s := rfl
    exact ⟨wordDoes_of_body loads fun x t ⟨passed, free⟩ =>
        ((aldSpBody_eq f x t).trans (spChecked_passed passed)).trans (if_neg (Bool.eq_false_iff.1 free)),
      wordStalls_of_body loads fun x t ⟨passed, locked⟩ => ((aldSpBody_eq f x t).trans (spChecked_passed passed)).trans (if_pos locked),
      wordDoes_of_body stores fun x t ⟨passed, free⟩ =>
        ((astSpBody_eq f x t).trans (spChecked_passed passed)).trans (if_neg (Bool.eq_false_iff.1 free)),
      wordStalls_of_body stores fun x t ⟨passed, locked⟩ => ((astSpBody_eq f x t).trans (spChecked_passed passed)).trans (if_pos locked),
      wordDoes_of_body zeroes fun x t passed => (azeroBody_eq f x t).trans (spChecked_passed passed),
      fun c a => ⟨wordTraps_of_body loads fun x t failed => (aldSpBody_eq f x t).trans (spChecked_fails failed),
        wordTraps_of_body stores fun x t failed => (astSpBody_eq f x t).trans (spChecked_fails failed),
        wordTraps_of_body zeroes fun x t failed => (azeroBody_eq f x t).trans (spChecked_fails failed)⟩⟩
  case azeroAll => exact wordDoes_of_body (fun _ => rfl) fun _ _ _ => rfl

end Sys2Proof.Machine
end
